-- ==== Sys2Proof/Word.lean ====
section
/-! DEFINITION. The word types of the device and their plainest arithmetic. -/

namespace Sys2Proof

/-- One byte. -/
abbrev Byte := BitVec 8

/-- A 16-bit halfword. -/
abbrev Half := BitVec 16

/-- A register: 32 bits (R4). -/
abbrev Word := BitVec 32

/-- A 64-bit doorbell, address or count field. -/
abbrev Dword := BitVec 64

/-- One logical block of 4,096 bytes (R139), byte 0 in the lowest bits. -/
abbrev Blk := BitVec 32768

/-- A 64-byte submission or context entry (R112, R120), byte 0 in the lowest bits. -/
abbrev Entry := BitVec 512

end Sys2Proof
end

