-- ==== Sys2Proof/Syntax.lean ====
section
/-! DEFINITION. The commands of the device (rows of the opcode table) and the types of their operands.
What the device finds outside itself (a host-memory read, a decoded frame, a converter's input) is an operand. -/

namespace Sys2Proof

/-- The masters that reach the registers (R10). -/
inductive Master where
  | host | newt (n : Fin 16) | smbus | svc
  deriving DecidableEq, Repr

/-- The two die-link channels whose flits carry a CRC (R12). -/
inductive LinkChan where
  | reg | smp
  deriving DecidableEq, Repr

/-- Where an SRAM error was found (R26). -/
inductive SramSite where
  | imem (n : Fin 16) | dmem (n : Fin 16) | gather (bank : Fin 32) | nodeCache (index : Fin 4096)
  | mapClean | mapDirty (first : Nat) | staging (first lost : Nat)
  deriving DecidableEq, Repr

/-- What the SRAM reads of one command find: single-bit errors, corrected and counted (R25), and one word that cannot be
corrected (R26). -/
structure SramRead where
  corrected : Nat := 0
  lost : Option SramSite := none
  deriving DecidableEq, Repr

/-- Where a register lies: in BAR0, or a newt's window on it (R3); in the MSI-X table or the Pending Bit Array (R100); in
the function's PCI configuration: its header, the registers that R99 to R102 and R127 name fields of, and the capabilities
of R99 for ASPM, the L1 substates, latency tolerance (the two latencies, snoop below) and error reporting (by offset in its
capability). DESIGN CHOICE (log 138): the table has no row for a plain read by the host, so `readOf` makes the access a read. -/
inductive Space where
  | bar0 | bar4 | msixControl | deviceControl | deviceControl2
  | config | linkControl | l1pm | ltr | aer
  | readOf (sp : Space)
  deriving DecidableEq, Repr

/-- The rails whose fall is a brown-out (R54). -/
inductive Rail where
  | vddCore | vddField | vddDdr | vddDdrq | vccNand | vccqNand | vddio18
  deriving DecidableEq, Repr

/-- The rails whose fall stops only the radio (R55). -/
inductive RadioRail where
  | pa | rf
  deriving DecidableEq, Repr

/-- The phase-locked loops (R61): those of D1, those of D0 outside the islands, and one for each island. -/
inductive Pll where
  | d1 | d0 | island (i : Fin 4)
  deriving DecidableEq, Repr

/-- The wake causes of R85. -/
inductive WakeSrc where
  | smb | cmp (n : Fin 4) | alarm | periodic | clkreq | perst | gpio | rxframe | jnlCommit | mbx | req
  deriving DecidableEq, Repr

/-- The PCIe link states the power conditions name (R78, R79). -/
inductive LinkState where
  | up | l12 | l2l3 | down
  deriving DecidableEq, Repr

/-- One entry of a scatter-list segment (R118). -/
structure SgEntry where
  addr : Nat
  len : Nat
  rsv : Nat
  typ : Nat
  deriving DecidableEq, Repr

/-- A scatter list as read, segment by segment; `none` is a host-memory error. -/
abbrev Segs := Option (List (List SgEntry))

/-- How the read of one 4 KiB unit ends (R173): the tier that serves it, at tier 1 with more than 64 corrected bits (R179),
from its stripe after a timeout of its die (R189), or by none; or an uncorrectable SRAM error in transit (R26). -/
inductive UnitOut where
  | tier1 | tier1High | tier2 | tier3 | tier4 | timedOut | failed | sramUe
  deriving DecidableEq, Repr

/-- How the store can place a write: staged; in the gather only, so far; staged after a map-log wait of so many µs; a fault
from unit `k` on; or an SRAM error in the gather (R185, R144, R26). -/
inductive Placement where
  | placed | gathered | stalled (us : Word) | fault (k : Nat) | sramUe
  deriving DecidableEq, Repr

/-- The two radio chains. -/
inductive Chain where
  | subGhz | ghz24
  deriving DecidableEq, Repr

/-- A receiver: a tympanum group named by its lead, or the 2.4 GHz decoder. -/
inductive RxChan where
  | lead (i : Fin 16) | ghz24
  deriving DecidableEq, Repr

/-- The frame types the MAC tells apart (R252). -/
inductive FrameType where
  | beacon | data | ack | command | multipurpose | fragment | other
  deriving DecidableEq, Repr

/-- An address field of a MAC header. -/
inductive Addr where
  | absent | short (pan : Half) (a : Half) | ext (pan : Half) (a : Dword)
  deriving DecidableEq, Repr

/-- The content of a chorus IE (R257). -/
structure ChorusIE where
  cseq : Half
  period : Half
  time : Dword
  flags : Byte
  depth : Byte
  ncell : Half
  receipt : List Byte
  deriving DecidableEq, Repr

/-- A MAC frame, its header parsed; `body` is MHR and payload without MIC or FCS. -/
structure MacFrame where
  version : BitVec 2
  kind : FrameType
  dst : Addr
  src : Addr
  seq : Byte
  ar : Bool
  secured : Bool
  secLevel : BitVec 3
  fc : Word
  body : List Byte
  mic : List Byte
  chorus : Option ChorusIE
  deriving DecidableEq, Repr

/-- A received frame with its report (R216); `shr` is the SHR duration of its option in µs (R260). -/
structure RxFrame where
  ch : RxChan
  rssi : BitVec 16
  evmq : Byte
  mode : Byte
  cfo : BitVec 16
  tstamp : Word
  shr : Nat
  frame : MacFrame
  deriving DecidableEq, Repr

/-- How a frame's decode ends (R203, R215). -/
inductive Decode where
  | headerError | fcsFail | ok (f : RxFrame)
  deriving DecidableEq, Repr

/-- What a transmission carries. -/
inductive TxWho where
  | chorus | ack | croak (tag : Half) | send (tag : Half)
  deriving DecidableEq, Repr

/-- What the MAC hands the transmitter with a start strobe (R220): `opt` as RFS_TYMCFGn.OPT codes it;
`locked` is whether the transmit synthesiser is locked at the frequency. -/
structure TxReq where
  chain : Chain
  who : TxWho
  khz : Nat
  opt : BitVec 2
  mcs : BitVec 3
  power : Option (BitVec 6)
  locked : Bool
  deriving DecidableEq, Repr

/-- What the steps of a calibration found (R227, R231): bit k of `fails` for step k + 1, the highest PA code
that met its target, and for each of options 4 to 1 the highest code that meets the mask. -/
structure CalResult where
  fails : BitVec 6
  paCode : BitVec 6
  mask4 : Option (BitVec 6)
  mask3 : Option (BitVec 6)
  mask2 : Option (BitVec 6)
  mask1 : Option (BitVec 6)
  /-- What steps 1 to 5 measured, by step; a step that passes sets its values. -/
  values : List Word := []
  deriving DecidableEq, Repr

/-- What triggers a conversion sequence (R430). -/
inductive AdcSrc where
  | go (m : Master) (w : Word) | task (hop : Nat) | pwm0
  deriving DecidableEq, Repr

/-- The four time words (R473). -/
inductive TimeWord where
  | cnt0 | cnt1 | cal0 | cal1
  deriving DecidableEq, Repr

/-- The registers of the code-flash command sequence after the unlock (R505). -/
inductive CflReg where
  | cmd | addr | data (i : Fin 4)
  deriving DecidableEq, Repr

/-- The SECDED outcome of a code-flash line (R503). -/
inductive Ecc where
  | clean | corrected | uncorrectable
  deriving DecidableEq, Repr

/-- The commands the device takes, one constructor for each row of the opcode table, in its order. -/
inductive Instr where
  /-- R7. A master writes a register that has no row of its own; fields update by access type, and locked or reserved writes set BADVAL. -/
  | registerStore (m : Master) (space : Space) (addr : Nat) (size : Nat) (data : Dword)
  /-- R12. A REG or SMP flit fails its CRC and the sender repeats it, counting DLRETRY. -/
  | dieLinkFlitRepeat (ch : LinkChan) (src : Master) (fails : Bool)
  /-- R16. Die-link training completes and GLB_STAT.DLUP is set, releasing held D1 accesses. -/
  | dieLinkTrained
  /-- R16. A D1 access held while DLUP is 0 is not served within 100 µs and completes with an error response. -/
  | dieLinkHoldTimeout
  /-- R25. The background scrubber reads SRAM words and corrects single-bit errors within each 60 s pass. -/
  | sramScrub (site : SramSite) (uncorrectable : Bool)
  /-- R33. A write of CLK_CDCLOST.CLR = 1 zeroes COUNT and sets LASTDOM to 0xF. -/
  | cdclostClear (m : Master) (w : Word)
  /-- R41. On the eighth CK_AO cycle after PORn rises, or after a device reset ends, the straps are sampled and latched. -/
  | strapSample (straps : BitVec 6)
  /-- R45. PORn falls, and PWM and GPIO outputs go to high impedance within 1 µs. -/
  | pornAssert
  /-- R75. PORn rises and the lehr leaves reset, starting bring-up. -/
  | pornRelease
  /-- R63. SYSRSTn is held low for at least 1 µs, causing a device reset. -/
  | sysrstnAssert
  /-- R52. The lehr detects rails ramped against R51, holds the device in reset and flags SEQERR. -/
  | sequenceError (rails : List Rail) (radio : List RadioRail)
  /-- R481. VDDIO_33 falls through its monitor threshold; outputs go to high impedance and the lehr switches to VBAK (backup only). -/
  | vddio33Fall
  /-- R481. VDDIO_33 rises through its threshold plus hysteresis and the 50 µs qualification starts. -/
  | vddio33Rise
  /-- R481. VDDIO_33 has stayed up for 50 µs; its path closes, VBAK opens, CK_AO runs and BAKUSED is set. -/
  | vddio33PathClose
  /-- R481. 10 ms after the VBAK path opens, the trickle charger resumes if enabled. -/
  | chargerResume
  /-- R54. A monitored rail stays below its threshold for 1 µs and the device performs a brown-out reset. -/
  | brownout (rail : Rail)
  /-- R225. VDD_PA or VDD_RF falls below its threshold; transmissions are abandoned and RAILFAIL is set. -/
  | radioRailFall (rail : RadioRail)
  /-- R55. 100 µs after the radio rail recovers, the stopped chains resume. -/
  | radioRailRecover (rail : RadioRail)
  /-- R57. CK_REF shows 32 µs of good edges and is qualified. -/
  | ckrefQualified
  /-- R57. CK_REF stops for 10 µs or departs by more than 1 % and the device performs a clock-fail reset. -/
  | clockFail
  /-- R61. A PLL achieves lock after CK_REF qualifies or its island's RGRDY. -/
  | pllLock (p : Pll)
  /-- R61. A PLL loses lock in service and causes a clock-fail reset. -/
  | pllLockLoss (p : Pll)
  /-- R59. CK_RTC shows no edge for 125 µs; the prescaler switches to CK_AO and XTALFAIL is set. -/
  | xtalFail
  /-- R59. The crystal runs again for 1 s; the lehr returns to it and clears XTALFAIL. -/
  | xtalRecover
  /-- R68. The first watchdog period expires; WDTWARN is set, an event is posted and a second period starts. -/
  | watchdogWarn
  /-- R68. The second watchdog period expires without a kick and the device performs a watchdog reset. -/
  | watchdogReset
  /-- R69. A write of RST_WDT_KICK.KEY restarts the period if it holds the expected alternating value, else counts as an expiry. -/
  | watchdogKick (m : Master) (w : Word)
  /-- R73. A write of RST_CTL.SWRST = 1 with KEY 0x5253 causes a device reset. -/
  | softwareReset (m : Master) (w : Word)
  /-- R62. PERSTn falls, causing a device reset or a host-link reset according to PERSTMODE. -/
  | perstnAssert
  /-- R85. PERSTn is released by the host, waking the device from HUSH when enabled. -/
  | perstnRelease
  /-- R67. The core-die SRAM wipe ends and RST_STAT.SRAMZ is set. -/
  | sramWipeDone
  /-- R75. DRAM training ends and the DRAM wipe starts. -/
  | dramTrainingDone
  /-- R67. The DRAM wipe ends and RST_STAT.DRAMZ is set. -/
  | dramWipeDone
  /-- R88. Memory periphery is up, MEMRDY is set, and wipe or image reload starts. -/
  | memrdySet
  /-- R88. Logic reset is released (LOGRDY), letting traffic through and starting die-link training or resumption. -/
  | logrdyRelease
  /-- R403. Image checks end, roles are assigned and RST_STAT.BOOTDONE is set. -/
  | bootComplete
  /-- R77. Every data-class unit has been idle for IDLET and the device enters IDLE. -/
  | idleEntry
  /-- R81. The DOZE conditions hold for DOZET and the device halts newts A to C, saves images and gates islands A to C. -/
  | dozeEntry
  /-- R79. The HUSH conditions hold for HUSHT in DOZE and the device retains island D, latches pads and removes D0 clocks and DRAM power. -/
  | hushEntry
  /-- R93. A write of PWR_CTL.REQ = 0b01 brings the device to RUN and restarts all timers. -/
  | pwrReqRun (m : Master) (w : Word)
  /-- R93. A write of PWR_CTL.REQ = 0b10 enters DOZE now if R78 holds, otherwise sets REFUSED. -/
  | pwrReqDoze (m : Master) (w : Word)
  /-- R93. A write of PWR_CTL.REQ = 0b11 enters HUSH now from DOZE if R79 holds, otherwise sets REFUSED. -/
  | pwrReqHush (m : Master) (w : Word)
  /-- R87. A wake cause is latched in PWR_WAKEST and the device wakes to the highest state any latched cause needs. -/
  | wakeArrives (c : WakeSrc) (entering : Bool)
  /-- R90. The fixed 2.0 ms settling wait of a HUSH wake ends and CK_REF qualification starts. -/
  | tcxoSettleExpiry
  /-- R83. Newt instruction memories are reloaded from image banks, falling back to code flash on an uncorrectable word. -/
  | imageReloadDone (bad : List (Fin 12))
  /-- R86. In HUSH the clockless matcher sees its address, ACKs, stretches SMB_SCL and wakes the device. -/
  | smbusHushMatch (addr : BitVec 7)
  /-- R101. An FLR has the effect of a host-link reset and completes within 100 ms. -/
  | functionLevelReset
  /-- R101. The function enters or leaves D3hot, stopping or resuming ring fetches and writes. -/
  | pciPowerStateChange (d3hot : Bool)
  /-- R104. The host writes a submission-ring tail to its BAR2 doorbell. -/
  | submissionBell (off : Nat) (size : Nat) (data : Option Dword)
  /-- R111. The host writes a device-written ring's head, returning consumed entries. -/
  | completionBell (off : Nat) (size : Nat) (data : Option Dword)
  /-- R123. A write to the context-invalidate doorbell refetches the named context entries and applies checked tuning fields. -/
  | contextBell (off : Nat) (size : Nat) (data : Option Dword) (reads : List (Option Entry))
  /-- R107. The device fetches a submission entry once a completion slot can be reserved, under the arbitration of R125. -/
  | entryFetch (q : Fin 37) (entry : Option Entry)
  /-- R126. A ring's coalescing timer reaches CTIME and the ring signals its vector. -/
  | coalesceTimerExpiry (q : Fin 37)
  /-- R127. A masked vector with its Pending Bit set is unmasked and signals. -/
  | msixUnmask (v : Fin 64)
  /-- R128. Space returns in the event ring and held events are written in order followed by an EVLOST entry. -/
  | eventRingDrain
  /-- R122. Admin CREATE-QUEUE reads and checks a context entry and creates the queue. -/
  | createQueue (ctx : Option Entry)
  /-- R124. Admin DELETE-QUEUE stops the queue, drains in-flight commands and deletes it. -/
  | deleteQueue
  /-- R160. Admin QUEUE-RESET abandons a queue's commands, settles abandoned writes and returns the queue to its just-created state. -/
  | queueReset
  /-- R165. Admin GET-LOG-PAGE snapshots the named page into the host buffer. -/
  | getLogPage (segs : Segs) (xferOk : Bool)
  /-- R131. A write of HRI_CTL.EN = 1 fetches context entry 0 and creates the admin queue or sets ADMFAIL. -/
  | hriEnable (m : Master) (ctx0 : Option Entry)
  /-- R132. A write of HRI_CTL.EN = 0 stops fetching, resets storage queues and deletes every queue. -/
  | hriDisable (m : Master)
  /-- R147. A storage READ returns NBLK blocks of plaintext, or journal bytes for NS2, into the host buffer. -/
  | readBlocks (q : Fin 37) (tag : Half) (segs : Segs) (outs : List UnitOut) (xferOk : Bool) (fixed : Nat)
  /-- R149. A storage WRITE encrypts and stages NBLK blocks and completes once accepted. -/
  | writeBlocks (q : Fin 37) (tag : Half) (segs : Segs) (data : Option (List Blk)) (place : Placement) (fixed : Nat)
  /-- R141. A storage TRIM makes a block range unwritten. -/
  | trim (q : Fin 37) (tag : Half)
  /-- R150. A storage FLUSH fixes its covered set and waits for those writes to become durable. -/
  | flush (q : Fin 37) (tag : Half)
  /-- R151. Every covered successful write is durable and the FLUSH completion is written. -/
  | flushComplete (q : Fin 37) (tag : Half)
  /-- R184. Every codeword of an atomic unit has been programmed and its COMMIT record is logged. -/
  | unitCommit (unit : Nat) (locs : List Nat)
  /-- R176. The cache passes 50 % full or storage is idle for 2 s and folding starts. -/
  | foldBegin (moves : List (Nat × Nat))
  /-- R177. A fold's target verifies and its MOVE is durable, so the pSLC source is released. -/
  | releaseFold (lba : Nat) (target : Nat) (verified : Bool) (next : Bool)
  /-- R178. Fewer than 8 free TLC panes remain and garbage collection or wear levelling moves a pane. -/
  | gcStart (moves : List (Nat × Nat))
  /-- R179. The background scan reads a page needing tier 2 or high tier-1 correction and queues its block for refresh. -/
  | scanRefresh (die : Fin 5) (block : Nat)
  /-- R180. A block fails a program or erase, is retired, its data reprogrammed elsewhere, and BLKRETIRE is posted. -/
  | blockRetire (die : Fin 5) (block : Nat) (repl : Option Nat)
  /-- R175. An uncorrectable error in the map or a dirty map-cache line causes those entries to be rebuilt from checkpoint and log. -/
  | mapRebuild (first : Nat) (cacheLine : Bool)
  /-- R185. The log since the newer checkpoint reaches 16 MiB and a checkpoint starts in the older slot. -/
  | checkpointStart
  /-- R185. A checkpoint completes and the log before it is released. -/
  | checkpointDone
  /-- R188. Checkpoint load and log replay end and STO_STAT.READY is set. -/
  | storeReady (aOk : Bool) (bOk : Bool) (extra : Nat)
  /-- R188. The full-scan map rebuild ends and NS1 leaves NOT READY. -/
  | mapScanned (unreadable : List Nat)
  /-- R189. A NAND operation does not report ready within 10 ms and its read is served from the pane. -/
  | nandTimeout (die : Fin 5)
  /-- R196. A write of STO_CTL.RETIRE with KEY 0x5254 retires the named die. -/
  | stoRetire (m : Master) (w : Word)
  /-- R190. STO_RGLEFT reaches 0, the die becomes RETIRED and REGROWDONE is posted. -/
  | regrowthDone (secs : Word)
  /-- R186. PFAILn stays low for 200 ns and no new program or erase is issued. -/
  | pfailnFall
  /-- R186. PFAILn rises with power held; programs resume and PFAIL is posted. -/
  | pfailnRise (us : Word)
  /-- R208. A write of RFS_APPLY.GO checks the staged radio configuration and applies it or rejects it with CFGERR. -/
  | rfsApply (m : Master) (w : Word)
  /-- R209. A WAIT = 1 change applies to a group when its current frame ends. -/
  | applyTakesEffect (lead : Fin 16)
  /-- R209. 60 µs after a window change the receive synthesiser has relocked and tympana search again. -/
  | rxRelockDone
  /-- R210. A searching group's power crosses RSSITH and the qualifier starts. -/
  | detectionStart (ch : RxChan)
  /-- R211. STF correlation exceeds QTH/16, fixing symbol timing and starting demodulation. -/
  | qualifierPass (ch : RxChan)
  /-- R211. No qualifier pass within 240 µs of the crossing; FALSEDET increments and the group returns to search. -/
  | falseDetection (ch : RxChan)
  /-- R215. A frame's decode ends, its FCS is checked and the PSDU and report go to the MAC hardware. -/
  | frameDecoded (ch : RxChan) (r : Decode)
  /-- R206. The gain control steps 6 dB to hold the converter level, or down on overload during decode. -/
  | agcStep (up : Bool)
  /-- R219. The MAC requests an in-channel energy measurement of a configured channel. -/
  | energyDetect (ch : RxChan)
  /-- R219. The 128 µs energy measurement ends and its result is reported. -/
  | energyDetectDone (ch : RxChan) (rssi : BitVec 16)
  /-- R223. A start strobe begins a transmission, or is refused with its reason code. -/
  | startStrobe (who : TxWho) (chain : Chain) (locked : Bool)
  /-- R223. The PA ramp down ends, front-end enables return to receive and MAC_TXDONE is raised. -/
  | txRampDownEnd (chain : Chain)
  /-- R223. 20 µs after RXEN rises, blanking ends and enabled groups restart search. -/
  | blankingEnd (chain : Chain)
  /-- R222. A write of RFS_TXCFG.MODE = 1 enters FIR mode only if the table CRC matches, else sets TXTBLBAD. -/
  | txcfgModeWrite (m : Master) (w : Word)
  /-- R222. A write to an FIR or MASK register sets MODE to 0 and returns the transmitter to ramp mode. -/
  | firTableWrite (m : Master) (k : Fin 48) (w : Word)
  /-- R233. RFS_CTL.EN rising turns the sub-GHz chain on and requests both calibrations. -/
  | rfsCtlEn (m : Master) (w : Word)
  /-- R247. RF2_CTL.EN rising turns the 2.4 GHz chain on and requests both calibrations. -/
  | rf2CtlEn (m : Master) (w : Word)
  /-- R226. A change of RF2_CTL.CH takes effect at the end of a frame in progress, otherwise at once. -/
  | rf2ChChange (m : Master) (w : Word)
  /-- R238. A write of RFS_CAL.REQRX = 1 requests a receive calibration of both chains. -/
  | calReqrx (m : Master) (w : Word)
  /-- R238. A write of RFS_CAL.REQTX = 1 requests a transmit calibration of both chains. -/
  | calReqtx (m : Master) (w : Word)
  /-- R228. Once per second the die temperature is sampled, possibly requesting a calibration. -/
  | tempSample (code : Byte)
  /-- R228. Role 6 has not restored calibration within 1 ms of LOGRDY after HUSH, so both calibrations are requested. -/
  | calWakeTimeout
  /-- R229. With no schedule, a calibration pending for 100 ms is forced. -/
  | calNoschedTimeout (chain : Chain)
  /-- R231. A calibration finishes its steps, posting CALDONE or CALFAIL and updating PCLAMP. -/
  | calComplete (chain : Chain) (r : CalResult)
  /-- R253. The MAC looks up, verifies and classifies a received PSDU and accepts or drops it. -/
  | handleFrame (late : Bool) (sram : SramRead)
  /-- R256. The MAC timer reaches a slot start and the slot's scheduled actions begin. -/
  | slotStart
  /-- R261. A slot ends and the croaks and parent chorus expected in it are judged. -/
  | slotEnd
  /-- R272. PERIOD slots pass in ADRIFT without a parent chorus and the device enters SCANNING. -/
  | parentAdriftExpiry
  /-- R275. No acknowledgement arrives in its window, so the send is repeated or completes NO ACK. -/
  | ackWaitTimeout (tag : Half)
  /-- R274. A listen-before-talk backoff reaches 0 and energy is measured before sending. -/
  | lbtBackoffExpiry (tag : Half) (fits : Bool)
  /-- R282. Queue 33 SEND transmits a MAC frame, securing and acknowledging it as requested. -/
  | sendFrame (tag : Half) (segs : Segs) (frame : Option MacFrame) (sram : SramRead)
  /-- R266. Admin NODE-WRITE writes a node entry's host fields after checking uniqueness and cell. -/
  | nodeWrite (buf : Option (BitVec 1024))
  /-- R266. Admin NODE-INVALIDATE writes back and drops cached node entries. -/
  | nodeInvalidate
  /-- R266. Admin NODE-READ returns a node entry with current device fields. -/
  | nodeRead (xferOk : Bool)
  /-- R267. Admin SLOTMAP-WRITE checks and loads a slot plan for the next boundary. -/
  | planWrite (segs : Segs) (plan : Option (List Word)) (late : Bool)
  /-- R286. An accepted frame is written to the RX delivery ring when room exists. -/
  | deliverRx (sram : SramRead)
  /-- R288. A write of MAC_CTL.EN starts the schedule at slot 0 or in SCANNING, or stops it. -/
  | macEnable (m : Master) (w : Word)
  /-- R307. JNL_CTL.COMMIT elapses since a group's first record and the group is committed. -/
  | commitTimer (sram : SramRead)
  /-- R308. A group's codewords are programmed and JNL_CSEQ advances to it. -/
  | groupDurable
  /-- R300. A write of JNL_CTL.EN = 0 stops appending and seals the open clutch with STOP. -/
  | journalStop (m : Master) (w : Word)
  /-- R313. Role 3 finishes rebuilding the index and JNL_STAT.READY is set. -/
  | journalIndexReady (ms : Word)
  /-- R315. JOURNAL-READ returns matching durable records with a cursor and header. -/
  | readJournal (q : Fin 37) (tag : Half) (segs : Segs) (nodeset : Option (BitVec 4096)) (reads : List (Nat × UnitOut)) (badTag : List Word) (xferOk : Bool) (sram : SramRead)
  /-- R320. Admin JNL-PIN pins a range of clutches against overwrite. -/
  | jnlPin
  /-- R320. Admin JNL-UNPIN unpins a range of clutches. -/
  | jnlUnpin
  /-- R320. Admin JNL-SEAL commits and seals the open clutch with reason HOST. -/
  | jnlSeal
  /-- R346. Admin KEY-LOAD loads a plain or wrapped key into a slot. -/
  | keyLoad (buf : Option (BitVec 512))
  /-- R345. Admin KEY-CLEAR empties a range of slots. -/
  | keyClear
  /-- R345. Admin KEY-STAT returns a snapshot of every slot. -/
  | keyStat (xferOk : Bool)
  /-- R345. Admin KEY-ENROLL fuses a customer image key. -/
  | keyEnroll (pub : Option (BitVec 512)) (fuseOk : Bool)
  /-- R353. Admin KEY-REVOKE fuses the revoke bit of a customer key, with a token in FIELD. -/
  | keyRevoke (token : Option (BitVec 512)) (fuseOk : Bool)
  /-- R347. Admin SESSION-OPEN runs ECDH and derives a session key into a free session slot. -/
  | sessionOpen (toolpub : Option (BitVec 512))
  /-- R345. Admin SESSION-CLOSE empties a session slot. -/
  | sessionClose
  /-- R343. Admin ID-CERT returns the device certificate. -/
  | idCert (xferOk : Bool)
  /-- R344. Admin ID-ATTEST returns a report signed with IDKEY. -/
  | idAttest (nonce : Option (BitVec 256))
  /-- R353. Admin LC-CHALLENGE issues a fresh random challenge and withdraws the previous one. -/
  | lcChallenge (xferOk : Bool)
  /-- R352. Admin LC-ADVANCE moves the life cycle, wiping or scrapping where the transition requires. -/
  | lifeCycleAdvance (token : Option (BitVec 512)) (fuseOk : Bool) (midway : Bool)
  /-- R338. A GCM counter reaching a multiple of 2^16 is recorded in the ledger before further use. -/
  | ledgerRecord (journal : Bool) (ok : Bool)
  /-- R339. The entropy source fails a health test and RNGFAIL is set. -/
  | rngHealthFail
  /-- R366. A newt executes one instruction word in three phases: read sources, write destinations, fire triggers. -/
  | newtWordExecute (n : Fin 16) (stall : Nat) (sram : SramRead)
  /-- R383. A newt register request completes, placing a load value in lsu.rr. -/
  | registerLoadComplete (n : Fin 16) (err : Bool)
  /-- R405. A mailbox send or receive completes with its code in mbx.r. -/
  | mailboxOpComplete (n : Fin 16)
  /-- R389. A selected wait condition holds and the paused newt resumes. -/
  | waitEnd (n : Fin 16) (cycles : Nat)
  /-- R395. The newt timer reaches 0, sets EXP and reloads from cnt.per. -/
  | newtTimerExpiry (n : Fin 16)
  /-- R406. A mailbox message arrives and is delivered, forwarded or bounced by its epoch. -/
  | messageArrive
  /-- R409. A mailbox entry frees and the router places a held device or moved message. -/
  | heldMessagePlace (n : Fin 16)
  /-- R410. NWT_MOVE OP = MOVE checks and starts moving a role to a target newt. -/
  | roleMove (m : Master) (w : Word)
  /-- R410. The holder's image is loaded into the target, which starts at its hand-over entry with mirrored inputs. -/
  | moveImageLoaded
  /-- R411. NWT_MOVE OP = COMMIT from the holder commits the move in one cycle. -/
  | roleCommit (m : Master) (w : Word)
  /-- R410. HOTMO passes without a commit and the device commits with FORCED. -/
  | handoverTimeout
  /-- R410. After a PERSIST move the image copy into the target's code-flash slot finishes. -/
  | persistCopyDone
  /-- R414. NWT_MOVE OP = TAKE gives the holder the role's output token. -/
  | tokenTake (m : Master) (w : Word)
  /-- R414. NWT_MOVE OP = RELEASE gives up the role's output token. -/
  | tokenRelease (m : Master) (w : Word)
  /-- R422. NWT_MOVE OP = UNASSIGN makes the role UNASSIGNED and releases its token. -/
  | roleUnassign (m : Master) (w : Word)
  /-- R417. NWT_MOVE OP = BOOT checks a newt's code-flash slot and loads it. -/
  | newtBoot (m : Master) (w : Word)
  /-- R418. A BOOT check ends, posting SHEDOK or UPDREJ. -/
  | newtBootDone
  /-- R420. NWT_MOVE OP = TEST runs logic and memory self-tests on a newt holding no role. -/
  | newtTest (m : Master) (w : Word)
  /-- R420. A self-test ends; the newt is loaded and basks, parks, or is retired with TESTFAIL. -/
  | newtTestDone (failed : Option (Fin 3))
  /-- R414. FHOLD passes after a forced commit without a write and driven outputs go safe with OUTSAFE. -/
  | fholdExpiry (role : Fin 64)
  /-- R430. A sequencer trigger starts a conversion sequence or is ignored as ADCTOVR. -/
  | adcTrigger (src : AdcSrc)
  /-- R430. The ADC timer reaches TMR µs and triggers a sequence. -/
  | adcTimerExpiry
  /-- R430. A conversion ends, its result is written and ADC_EOC (and ADC_SEQDONE for the last) is raised. `vin` is what
  stands at the channel in µV, an input's voltage or an amplifier's VP − VN (R428, R429), `vref` the reference in µV. -/
  | adcConversionDone (vin : Int) (vref : Nat) (settled : Bool)
  /-- R431. A read of PIO_ADCRESm returns the result and clears NEW and OVR. -/
  | readAdcResult (m : Master) (slot : Fin 16) (byte : Fin 4) (size : Nat)
  /-- R432. A comparator decides a trip, sets TRIPPED and raises CMPn_TRIP. -/
  | comparatorTrip (n : Fin 4)
  /-- R432. A comparator releases, raising CMPn_CLEAR and clearing an unlatched inhibit. -/
  | comparatorRelease (n : Fin 4)
  /-- R432. A write of EN = 0 stops a comparator without a release and clears an unlatched inhibit. -/
  | comparatorDisable (m : Master) (n : Fin 4) (w : Word)
  /-- R432. 5 µs after EN rises the comparator may decide trips. -/
  | comparatorArmExpiry (n : Fin 4)
  /-- R435. A write of PIO_CMPn.CLR while OUT reads 0 releases a latched inhibit. -/
  | flickClear (m : Master) (n : Fin 4) (w : Word)
  /-- R438. A PWM period starts, applying pending settings, moving NOW under its rate limit and raising PWMn_PERIOD. -/
  | pwmPeriodStart (k : Fin 12)
  /-- R438. A write making EN = 1 with PERIOD at least 2 starts the PWM's first period. -/
  | pwmEnable (m : Master) (k : Fin 12) (w : Word)
  /-- R441. A GPIO input changes, is synchronised and may raise GPIOn_EDGE or wake the device. -/
  | gpioInputEdge (k : Fin 24) (level : Bool)
  /-- R441. A write of PIO_GPIOOUT changes only the levels the writer may drive. -/
  | gpioOutWrite (m : Master) (w : Word)
  /-- R45. The first write of PIO_GPIOCFGn after reset releases the GPIO from its safe value to follow DIR. -/
  | gpioCfgWrite (m : Master) (k : Fin 24) (w : Word)
  /-- R444. A filtered A or B change counts POS, or flags ENCERR when both change. -/
  | encoderEdge (e : Fin 4) (a : Bool) (b : Bool) (cycles : Word)
  /-- R444. A rising Z edge captures POS into CAP and raises ENCn_INDEX. -/
  | encoderIndex (e : Fin 4)
  /-- R446. Queue 36 SETPOINT is fetched, checked and held until its instant. -/
  | setpoint (tag : Half)
  /-- R447. The RTC count reaches AT and the setpoint is applied and completed. -/
  | setpointApply (tag : Half)
  /-- R458. A producer raises an event and each enabled channel delivers it to its task inputs. -/
  | eventRaise (p : Fin 128) (hop : Nat)
  /-- R466. A write of EVM_SWEV raises the named SW producers. -/
  | swEvent (m : Master) (w : Word)
  /-- R471. The RTC fraction wraps and the seconds count advances, raising RTC_SECOND. -/
  | rtcSecond
  /-- R472. A 64 s trim interval ends and a pending TRIM value takes effect. -/
  | trimIntervalEnd
  /-- R473. A read of a time word freezes or serves the master's shadow set and releases it on the high word. -/
  | readTimeWord (m : Master) (which : TimeWord) (byte : Fin 4) (size : Nat)
  /-- R473. A shadow set left frozen for 10 ms is released and the next snapshot carries SHTMO. -/
  | shadowTimeout (m : Master)
  /-- R474. A write of LEHR_CNT0 stages seconds bits for that master. -/
  | countStage (m : Master) (w : Word)
  /-- R474. A write of LEHR_CNT1 commits the count, restarts the prescaler, clears TIMELOST and posts TIMESET. -/
  | countCommit (m : Master) (w : Word)
  /-- R477. A write of LEHR_CAL0 stages a date and time for that master. -/
  | calendarStage (m : Master) (w : Word)
  /-- R477. A write of LEHR_CAL1 checks the date and commits the count or sets CALERR. -/
  | calendarCommit (m : Master) (w : Word)
  /-- R478. LEHR_CTL.DSTP adds 3,600 s to OFFSET and sets DST, or sets DSTREP if repeated. -/
  | dstBegin (m : Master) (w : Word)
  /-- R478. LEHR_CTL.DSTM subtracts 3,600 s and clears DST, or sets DSTREP if repeated. -/
  | dstEnd (m : Master) (w : Word)
  /-- R479. A write of LEHR_ALM1 commits the alarm with its ALMEN bit. -/
  | alarmCommit (m : Master) (w : Word)
  /-- R479. The count reaches the armed alarm; ALMEN clears, ALMF sets and RTC_ALARM is raised. -/
  | alarmFire
  /-- R480. A write of LEHR_PER restarts the periodic interval. -/
  | periodicRestart (m : Master) (w : Word)
  /-- R480. The periodic divider reaches N units, sets PERF and raises RTC_PERIODIC. -/
  | periodicFire
  /-- R482. VAO falls below 1.36 V for 1 µs and the lehr loses its state. -/
  | vaoLoss
  /-- R482. VAO rises to 1.40 V after a loss and every lehr register takes its reset value with TIMELOST set. -/
  | lehrRestart
  /-- R484. LEHR_CTL.PRILOCK with KEY 0x4C4B blows the primary-cell lock. -/
  | prilockBlow (m : Master) (w : Word)
  /-- R485. Once per second VBAK is compared with 2.30 V and BAKLOW follows. -/
  | vbakCheck (mv : Nat)
  /-- R505. A write of CFL_UNLOCK claims the flash controller and advances the unlock sequence. -/
  | cflUnlock (m : Master) (w : Word)
  /-- R505. A CMD, ADDR or DATA write advances the program or erase sequence. -/
  | cflSequenceWrite (m : Master) (reg : CflReg) (w : Word)
  /-- R505. A gap longer than 1 ms abandons the sequence with SEQERR. -/
  | cflSequenceTimeout
  /-- R506. PROGRAM LINE starts programming a 16-byte line after the checks of R506. -/
  | programLine
  /-- R508. ERASE SECTOR records its marker and starts erasing a sector. -/
  | eraseSector
  /-- R505. A program or erase finishes, DONE is set and the claim is released. -/
  | flashOpDone
  /-- R507. A program not finished within 40 µs ends with RES 9. -/
  | programTimeout
  /-- R508. An erase not finished within its maximum ends with RES 8 and the sector becomes EXHAUSTED. -/
  | eraseTimeout
  /-- R509. CFL_CTL.SUSP suspends the active erase. -/
  | eraseSuspend (m : Master) (w : Word)
  /-- R509. CFL_CTL.RESUME continues the suspended erase. -/
  | eraseResume (m : Master) (w : Word)
  /-- R503. A read of the CFL window returns flash data with SECDED, or an error for a busy or uncorrectable line. -/
  | readFlashWindow (m : Master) (off : Nat) (size : Nat) (ecc : Ecc)
  /-- R523. A service-port WRITE transaction delivers a frame for checking. -/
  | spiWriteTransaction (bytes : List Byte)
  /-- R521. A service-port READ transaction clocks out the stored response, lowering SVC_ATTN. -/
  | spiReadTransaction (clocked : Nat)
  /-- R529. HELLO returns identity and resets the sequence. -/
  | svcHello
  /-- R529. INFO returns status and newt registers. -/
  | svcInfo
  /-- R529. REGRD reads up to 64 register words. -/
  | svcRegrd
  /-- R529. REGWR writes up to 64 register words. -/
  | svcRegwr
  /-- R529. FLRD reads code-flash bytes. -/
  | svcFlrd (ecc : Ecc)
  /-- R531. FLPROG programs code-flash lines, refusing a slot in use. -/
  | svcFlprog (okLines : Nat)
  /-- R531. FLERASE erases a code-flash sector, refusing a slot in use. -/
  | svcFlerase (ok : Bool)
  /-- R531. A loader command waiting 1,000 ms for the flash controller completes with FLBUSY. -/
  | svcFlashWaitTimeout
  /-- R529. NEWTOP writes NWT_MOVE on the tool's behalf. -/
  | svcNewtop
  /-- R529. KEYCMD executes a key or life-cycle admin command from the frame. -/
  | svcKeycmd (fuseOk : Bool)
  /-- R528. RELEASE resumes a boot held by STRAP_SVCBOOT. -/
  | svcRelease
  /-- R544. A read of PMC_CYCLn latches the high cycle bits for the reading master. -/
  | readPmcCycl (m : Master) (n : Fin 16) (byte : Fin 4) (size : Nat)
  /-- R547. PMC_SCTLn.CLR empties the sampling buffer. -/
  | pmcSampleClear (m : Master) (n : Fin 16) (w : Word)
  /-- R550. A cause source changes and its HLT_CAUSE bit, REPLACEn, event and log entry follow. -/
  | healthEvaluate (bit : Fin 7)
  /-- R553. 10 ms after the last cause source is known, HLT_STAT.READY is set and REPLACEn follows HLT_CAUSE. -/
  | hltReady
  /-- R554. Every STPER hours role 7 tests the oldest-tested newt of each enabled class. -/
  | selftestPeriod (process : Bool)
  /-- R554. A faulted newt is tested within 1 s of its NEWTFAULT. -/
  | faultedNewtTest (n : Fin 16)
  /-- R555. A health log entry is programmed within 1 s of its event, setting LOGERR on failure. -/
  | healthLogProgram (ok : Bool)
  /-- R564. A write of SMB_STAT.ALERT = 1 releases SMBALERTn. -/
  | smbAlertClear (m : Master) (w : Word)
  /-- R565. A read of the Alert Response Address while ALERT is 1 returns the address and clears ALERT. -/
  | alertResponse
  /-- R573. An SMBus REGWR block write writes one register at the stop. -/
  | smbRegwr (count : Byte) (bytes : List Byte) (pec : Option Byte)
  /-- R573. An SMBus REGRD process call reads one register with status and PEC. -/
  | smbRegrd (count : Byte) (bytes : List Byte)
  /-- R572. SMB_SCL held low for 25 to 35 ms makes the target release and reset its state. -/
  | smbBusTimeout
  /-- R63. SYSRSTn rises and ends the device reset, after which STRAP_SVCBOOT is sampled and bring-up proceeds from the end of the reset. -/
  | sysrstnRelease
  /-- R54. The rail whose fall caused a brown-out reset rises back above its monitor threshold and the brown-out reset ends. -/
  | brownoutRailRecover (rail : Rail)
  /-- R225. The transmit synthesiser loses lock during a frame, the frame is abandoned and TXABANDON is posted with DETAIL 2. -/
  | txSynthLockLoss
  /-- R78. The PCIe link comes up, enters or leaves L1.2, or enters L2/L3 Ready as the host and link partner negotiate, changing the DOZE and HUSH conditions. -/
  | pcieLinkChange (l : LinkState) (faults : List Nat)
  deriving DecidableEq, Repr

end Sys2Proof
end

