-- ==== Sys2Proof/Config.lean ====
section
/-! DEFINITION. What the spec leaves open or names without stating: constants with no body. -/

namespace Sys2Proof

/-- Free values: the number that an undefined or unstated value takes at the n-th use (State.free counts uses). -/
opaque Config.freeNat : Nat → Nat

/-- A free choice, as where the spec allows two outcomes. -/
opaque Config.freeBool : Nat → Bool

/-- What the host's memory holds at the context entries that a doorbell write of the wrong row lets the device read
(R104, R123), and the address ranges that the scatter list of an abandoned READ names (R163), at the n-th use: the host's. -/
opaque Config.ctxReads : Nat → List (Option (BitVec 512))
opaque Config.listRanges : Nat → List (Nat × Nat)

/-- Which edge of A an encoder in MODE x1 counts: the rising one or the falling one (R444 leaves it open). -/
opaque Config.x1Rising : Bool

/-- Whether POS rises while A leads B, with INV = 0 (R444 leaves it open). -/
opaque Config.aLeadsUp : Bool

/-- The device's own short address (R252), which no register of the spec holds. -/
opaque Config.ownShort : Half

/-! Cryptography the spec takes from standards it names (chapter 11); byte strings are lists. -/

/-- SHA-256 (R341). -/
opaque Config.sha256 : List Byte → BitVec 256

/-- XTS-AES-256 of one 4 KiB block (R182): what it makes of a block, and its inverse. The defaults only show that such a
pair exists. -/
structure BlockCipher where
  enc : Blk → Blk := id
  dec : Blk → Blk := id
  inv : ∀ b, dec (enc b) = b := by intro b; rfl
  deriving Inhabited

/-- By data key, tweak key and block number (R182). -/
opaque Config.xts : BitVec 256 → BitVec 256 → Nat → BlockCipher

/-- The parity of the inner code over bytes 0 to 4,111 of a codeword (R170). -/
opaque Config.ldpc : List Byte → BitVec 2048

/-- What a checkpoint's header holds beside the log position (R185), by checkpoint number and that position; the words of its
last map unit past the map's end; and the bytes of a log codeword past its records (R183). -/
opaque Config.ckptHeader : Nat → Nat → Blk
opaque Config.ckptRest : Nat → Word
opaque Config.logRest : Nat → Byte

/-- The factory trims in OTP, by chain (0 sub-GHz, 1 2.4 GHz) and calibration step (R231). -/
opaque Config.trim : Nat → Nat → Word

/-- ECDSA over P-256 (FIPS 186-4): whether a signature, r then s, matches, by public key and digest; the checks that R341 states
come before it. -/
opaque Config.ecdsaMatch : BitVec 512 → BitVec 256 → BitVec 512 → Bool

/-- ECDSA signing: private key, digest, the random number it takes. -/
opaque Config.ecdsaSign : BitVec 256 → BitVec 256 → Nat → BitVec 512

/-- P-256: the public key of a private one, and the ECDH secret of a private key with another's public key (R341). -/
opaque Config.p256Pub : BitVec 256 → BitVec 512
opaque Config.ecdh : BitVec 256 → BitVec 512 → BitVec 256

/-- AES-CMAC (R326): key and message. -/
opaque Config.cmac : BitVec 256 → List Byte → BitVec 128

/-- AES-GCM of 128-bit tags (R326): what it makes of a plaintext, ciphertext and tag, and its inverse where the tag checks. The
defaults only show that such a pair exists. -/
structure Gcm where
  enc : List Byte → List Byte × BitVec 128 := fun p => (p, 0)
  dec : List Byte → BitVec 128 → Option (List Byte) := fun c _ => some c
  inv : ∀ p, dec (enc p).1 (enc p).2 = some p := by intro p; rfl
  deriving Inhabited

/-- By key, 96-bit nonce and additional data. -/
opaque Config.gcm : BitVec 256 → BitVec 96 → List Byte → Gcm

def Config.gcmSeal (key : BitVec 256) (nonce : BitVec 96) (aad plain : List Byte) : List Byte × BitVec 128 :=
  (Config.gcm key nonce aad).enc plain

def Config.gcmOpen (key : BitVec 256) (nonce : BitVec 96) (aad cipher : List Byte) (tag : BitVec 128) : Option (List Byte) :=
  (Config.gcm key nonce aad).dec cipher tag

/-- CCM* verification (R335): key, source address, frame counter, level, bytes as received, MIC; the clear bytes. -/
opaque Config.ccmOpen : BitVec 256 → BitVec 64 → BitVec 32 → BitVec 3 → List Byte → List Byte → Option (List Byte)

/-- CCM* securing: the bytes and the MIC as sent. -/
opaque Config.ccmSeal : BitVec 256 → BitVec 64 → BitVec 32 → BitVec 3 → List Byte → List Byte × List Byte

/-- What is fused at manufacture (R331, R337): ROOT, the private half of IDKEY, the GCM nonce prefix and the serial number. -/
opaque Config.root : BitVec 256
opaque Config.idKey : BitVec 256
opaque Config.gcmPrefix : BitVec 32
opaque Config.serial : BitVec 64

/-- What R343 leaves to the certificate's issuer: its serial number, the issuer's name, notBefore, what the subject's name holds
before the serial number and the extensions, each as encoded in DER; the key it is signed with and the random number that took;
and what follows the certificate in its buffer. -/
opaque Config.certNumber : Nat
opaque Config.certIssuer : List Byte
opaque Config.certFrom : List Byte
opaque Config.certSubject : List Byte
opaque Config.certExtensions : List Byte
opaque Config.certKey : BitVec 256
opaque Config.certRandom : Nat
opaque Config.certPad : Nat → Byte

/-- The Basfort image key, fused at manufacture (R342). -/
opaque Config.basfortImageKey : BitVec 512

end Sys2Proof
end

