-- ==== Sys2Proof/Machine/Table.lean ====
section
/-! DEFINITION. Sparse tables: the one form in which registers, memories and numbered slots are held.
A table lists pairs of a key and a value, keys rising, and lists no value equal to what an unlisted key reads as. -/

namespace Sys2Proof.Machine

/-- A sparse table keyed by a number. -/
abbrev Tbl (α : Type) := List (Nat × α)

/-- The value listed for a key, if one is. -/
def tfind {α : Type} (k : Nat) : Tbl α → Option α
  | [] => none
  | (j, v) :: r => if j = k then some v else tfind k r

/-- The value read at a key; `d` gives what an unlisted key reads as. -/
def tget {α : Type} (d : Nat → α) (t : Tbl α) (k : Nat) : α :=
  (tfind k t).getD (d k)

/-- Put a pair in its place. -/
def tins {α : Type} (k : Nat) (v : α) : Tbl α → Tbl α
  | [] => [(k, v)]
  | (j, w) :: r =>
    if k < j then (k, v) :: (j, w) :: r
    else if k = j then (k, v) :: r
    else (j, w) :: tins k v r

/-- Remove every pair of a key. -/
def tdel {α : Type} (k : Nat) (t : Tbl α) : Tbl α :=
  t.filter fun p => !(p.1 == k)

/-- Write a key: the pair goes in, or out when the value is what an unlisted key reads as. -/
def tset {α : Type} [DecidableEq α] (d : Nat → α) (t : Tbl α) (k : Nat) (v : α) : Tbl α :=
  if v = d k then tdel k t else tins k v t

/-- Give every key that `p` names back the value an unlisted key reads as. -/
def tclear {α : Type} (p : Nat → Bool) (t : Tbl α) : Tbl α :=
  t.filter fun e => !p e.1

/-- The keys rise strictly. -/
def tsorted {α : Type} : Tbl α → Bool
  | [] => true
  | [_] => true
  | (j, _) :: (k, w) :: r => decide (j < k) && tsorted ((k, w) :: r)

/-- The canonical form: keys strictly rising, no value an unlisted key reads as. -/
def twf {α : Type} [DecidableEq α] (d : Nat → α) (t : Tbl α) : Bool :=
  tsorted t && t.all fun e => decide (e.2 ≠ d e.1)

end Sys2Proof.Machine
end

