-- ==== Sys2Proof/Machine/State.lean ====
section
/-! DEFINITION. The state of the device: plain data, every field at its reset value by default.
Registers are held in one table (`regs`, keyed by BAR0 offset); the records below hold what lies behind them. -/

namespace Sys2Proof.Machine

/-- A fault of the model. No command of this block raises one today: what the spec calls a fault of a newt
is state (NWT_CSTn), and an access that completes with an error response is a completion. Safe. -/
inductive Fault where
  /-- Reserved: raised by nothing. Safe. -/
  | none
  deriving DecidableEq, Repr

/-- Why a command has no meaning here. -/
inductive Refusal where
  /-- A command of the table without a meaning yet, by its mnemonic; raised by exec's arms only. Safe. -/
  | notModelled (mnemonic : String)
  deriving DecidableEq, Repr

/-! ### Host ring interface (chapter 05) -/

/-- The status of a completion (R116, R117): TYPE and CODE. -/
structure Status where
  typ : Nat := 0
  code : Nat := 0
  deriving DecidableEq, Repr

/-- A fetched command whose completion is not yet written (R107). `execd` marks a storage command whose
data phase is done and which waits only for its completion (FLUSH), or a SEND or SETPOINT in progress. -/
structure Cmd where
  entry : Entry := 0
  sqidx : Nat := 0
  started : Bool := false
  /-- The sequence of fetches over all queues, for the covered set of a FLUSH (R150). -/
  order : Nat := 0
  /-- FLUSH: the commands it waits for, by their order numbers. -/
  waits : List Nat := []
  /-- It has ended, and its completion waits for D0: it is in flight until that is written (R107). -/
  ended : Bool := false
  /-- A WRITE whose data has reached the gather and is not yet placed. -/
  data : Option (List Blk) := none
  /-- It waits for a checkpoint (R185); an LC-ADVANCE is past its commit point and not done (R354). -/
  stalled : Bool := false
  deriving DecidableEq, Repr

/-- One entry of a queue's error log (R167). -/
structure ErrEntry where
  tag : Half
  status : Half
  opcode : Byte
  sqidx : Half
  lba : Dword
  nsid : Word
  result : Word
  time : Word
  detail : Word
  deriving DecidableEq, Repr

/-- One queue: geometry and tuning (R120), indices (R106, R109), what is in flight, its error log (R166). -/
structure Queue where
  exists' : Bool := false
  frozen : Bool := false
  /-- A DELETE-QUEUE waits for the last command in flight (R124); its admin tag. -/
  deleting : Option Half := none
  /-- The ring reads again at the next doorbell after a failed entry read (R130). -/
  stuck : Bool := false
  kind : Byte := 0
  ien : Bool := false
  sqsize : Nat := 0
  cqsize : Nat := 0
  vector : Nat := 0
  weight : Nat := 0
  sqbase : Nat := 0
  cqbase : Nat := 0
  cthresh : Nat := 0
  ctime : Nat := 0
  sqhead : Nat := 0
  sqtail : Nat := 0
  cqhead : Nat := 0
  cqtail : Nat := 0
  /-- The phase bit the next entry is written with (R109). -/
  phase : Bool := true
  /-- Entries written since the ring last signalled, and whether its timer runs (R126). -/
  count : Nat := 0
  timer : Bool := false
  inflight : List Cmd := []
  errors : List ErrEntry := []
  errLost : Nat := 0
  frzTag : Half := 0
  frzHead : Nat := 0
  frzTime : Word := 0
  deriving DecidableEq, Repr

/-- An event raised and not yet written to the event ring (R128). -/
structure Event where
  code : Half
  severity : BitVec 2
  source : Half
  detail : Word
  seq : Half
  time : Word
  deriving DecidableEq, Repr

/-- An MSI-X vector: its table entry (R100) and its Pending Bit. -/
structure Vector' where
  addr : Dword := 0
  data : Word := 0
  masked : Bool := true
  pending : Bool := false
  /-- Messages sent, and the address and data of the last. -/
  sent : Nat := 0
  last : Option (Dword × Word) := none
  deriving DecidableEq, Repr

/-- A setpoint fetched and not yet applied (R446, R447). `reply` is false once its completion is given up. -/
structure Setpoint where
  tag : Half
  kind : Nat
  index : Nat
  at' : Dword
  value : Word
  reply : Bool := true
  deriving DecidableEq, Repr

/-- A completion (R116). In D3hot it waits for D0, since no ring is written (R101): `log` is the place of its error in the
queue's log, which takes the completion's time (R167), `create` the queue that exists from its writing on (R122). -/
structure Compl where
  queue : Nat
  tag : Nat
  typ : Nat
  code : Nat
  frz : Bool
  result : Nat
  log : Option Nat := none
  create : Option (Nat × Entry) := none
  /-- The queue that is as just created from the writing on of this QUEUE-RESET's completion (R161). -/
  reset : Option Nat := none
  deriving DecidableEq, Repr

/-- What a delivery on queue 34 will carry (R286): the first 32 bytes of its first entry, without phase and TIME, and
the frame's octets. -/
structure Delivery where
  head : List Byte
  octets : List Byte
  deriving DecidableEq, Repr

/-- The host ring interface. -/
structure Hri where
  queues : Tbl Queue := []
  held : List Event := []
  evSeq : Half := 0
  lostRun : Nat := 0
  vectors : Tbl Vector' := []
  msixEnable : Bool := false
  funcMask : Bool := false
  d3hot : Bool := false
  link : LinkState := .down
  order : Nat := 0
  setpoints : List Setpoint := []
  deliveries : List Delivery := []
  deferred : List Compl := []
  /-- The storage queue being served in this arbitration round, and the fetches left to it (R125). -/
  rrQueue : Nat := 0
  rrLeft : Nat := 0
  /-- HRI_CTL.EN was set by a master other than the host and context entry 0 is not yet read (R131). -/
  ctxWait : Bool := false
  /-- What the device has written to host memory, addresses rising; an unlisted byte it has not written. -/
  hostMem : List Host.Cell := []
  /-- Host addresses at which a write of a ring entry returns an error (R130): the host's own state. -/
  badAddrs : List Nat := []
  /-- Device Control and Device Control 2 of the function's configuration (R99, R102): the values PCI Express gives them at
  reset, PRESUMED (Relaxed Ordering and No Snoop enabled, Max_Payload_Size 128 B, Max_Read_Request_Size 512 B). -/
  devCtl : Half := 0x2810
  devCtl2 : Half := 0
  /-- Base addresses (R100), Link Control, L1 PM Substates Control, the two latencies of Latency Tolerance Reporting, and the
  registers of Advanced Error Reporting by offset in its capability (R99). -/
  bars : Tbl Word := []
  linkCtl : Half := 0
  l1pm : Word := 0
  ltr : Word := 0
  aer : Tbl Word := []
  /-- Configuration requests answered with Configuration Request Retry Status (R75, step 13). -/
  retried : Nat := 0
  /-- The last memory write carried the Relaxed Ordering attribute, or No Snoop (R102). -/
  relaxed : Bool := false
  noSnoop : Bool := false
  /-- The address ranges of abandoned READs' buffers, whose contents are undefined: hostMem holds free values there (R163). -/
  undefBufs : List (Nat × Nat) := []
  deriving DecidableEq, Repr

/-! ### The store (chapters 06, 07) -/

/-- An atomic unit of an accepted write (R149, R152), staged until it commits, its blocks encrypted (R182, R186). A block is
`none` once a later TRIM has unwritten it. `order` is its command's fetch order (R150); `failed` that the command did not
succeed (R151). -/
structure Unit' where
  id : Nat
  order : Nat
  first : Nat
  data : List (Option Blk)
  failed : Bool := false
  deriving DecidableEq, Repr

/-- A codeword as stored in NAND (R170): DATA, ADDR, SEQ, CRC and LDPC. -/
structure Codeword where
  data : Blk := 0
  addr : Word := 0
  seq : Dword := 0
  crc : Word := 0
  ldpc : BitVec 2048 := 0
  deriving DecidableEq, Repr

/-- A map-log record of 8 bytes (R183): HEAD and ARG. -/
structure LogRec where
  head : Word
  arg : Word
  deriving DecidableEq, Repr

/-- A checkpoint slot (R185): the map it holds, the log position at which it started, the media key generation; `bad` that it
has failed its CRC at a start (R188). -/
structure Checkpoint where
  valid : Bool := false
  bad : Bool := false
  map : Tbl Word := []
  logPos : Nat := 0
  gen : Nat := 0
  number : Nat := 0
  /-- The write sequence at its start. -/
  seq : Nat := 0
  deriving DecidableEq, Repr

/-- The life of one NAND die (R190) and what counts towards its retirement (R189). -/
structure Die where
  timeouts : Nat := 0
  retiredBlocks : List Nat := []
  /-- Blocks with a unit that failed tier 3, and the seconds at which it did. -/
  tier3Fails : List (Nat × Nat) := []
  /-- Blocks queued for refresh (R179), and for a check (R177). -/
  refresh : List Nat := []
  check : List Nat := []
  deriving DecidableEq, Repr

/-- An entry of the block table (R169, R174, R180): the block's pool where it has changed, its erase count, and the pane it
belongs to where it replaced another. -/
structure BlockInfo where
  pslc : Option Bool := none
  erases : Nat := 0
  pane : Option Nat := none
  deriving DecidableEq, Repr

/-- A stripe of a pane in the pane table (R172): closed, the dies whose pages are absent, and whether it has its parity page. -/
structure Stripe where
  closed : Bool := false
  absent : List Nat := []
  parity : Bool := false
  deriving DecidableEq, Repr

/-- A pane in the pane table (R171, R172): in use and since when; without parity (R190, R191); closed to further programs;
to be moved after a power loss (R187); the blocks that are not those of its own number, by die; retired blocks that still hold
pages of it (R180); its parity pages released for data (R191). -/
structure Pane where
  opened : Bool := false
  age : Nat := 0
  noParity : Bool := false
  closed : Bool := false
  evac : Bool := false
  replaced : List (Nat × Nat) := []
  former : List (Nat × Nat) := []
  released : Bool := false
  stripes : Tbl Stripe := []
  deriving DecidableEq, Repr

/-- A unit being moved (R176 to R178, R191): its target is programmed, its source retained. A unit of NS1 is named by its
block, one of journal or metadata by its ADDR; `why` is the offset of the counter it belongs to (R548), 0 for regrowth. -/
structure Moving where
  lba : Nat
  why : Nat
  source : Nat
  target : Nat
  deriving DecidableEq, Repr

/-- A committed write that no FLUSH has yet made durable: its command's order, where its codewords lie, and the log position
past its records (R184, R192). -/
structure Fresh where
  order : Nat
  locs : List Nat
  logEnd : Nat
  deriving DecidableEq, Repr

/-- The store: map, NAND contents, log, checkpoints, staged units, dies, counters of page 0x04 (R548). -/
structure Store where
  /-- NS1 block to map entry (R174); an unlisted block is unwritten. -/
  map : Tbl Word := []
  /-- The map cache's lines, most recently used first, and whether each is dirty (R174). -/
  mapCache : List (Nat × Bool) := []
  /-- Programmed codewords of the cache and the TLC pool by location, a location being written as its map entry. -/
  cells : Tbl (Option Codeword) := []
  /-- Block table and pane table; a block's key is die x 8,192 + block. -/
  blocks : Tbl BlockInfo := []
  panes : Tbl Pane := []
  paneAge : Nat := 0
  moves : List Moving := []
  fresh : List Fresh := []
  /-- Units that could not be read: locations, and NS2 blocks with their contents; they fail again until rewritten (R145). -/
  badLocs : List Nat := []
  badNs2 : List (Nat × Blk) := []
  units : List Unit' := []
  nextUnit : Nat := 0
  writeSeq : Nat := 0
  log : List LogRec := []
  /-- Log records before this position are programmed with their stripes closed. -/
  logDurable : Nat := 0
  /-- SEQ of the first codeword whose records the log still holds. -/
  logSeq : Nat := 0
  /-- The programmed units of the log, oldest first: offset in the log's region, and how many records of the log each holds; and
  the offset of the next one. -/
  logUnits : List (Nat × Nat) := []
  logNext : Nat := 0
  /-- Where units of journal and metadata lie, by ADDR, that are not in their own place of their region (R180, R191). -/
  moved : Tbl (Option Nat) := []
  /-- Locations of units whose COMMIT was lost with the power (R187). -/
  cutLocs : List Nat := []
  /-- What a full scan found, in place of a checkpoint, until one is complete (R175, R188). -/
  scanBase : Option Checkpoint := none
  ckptA : Checkpoint := {}
  ckptB : Checkpoint := {}
  /-- A checkpoint being written: slot (true: B), and what it will hold. -/
  ckptRun : Option (Bool × Checkpoint) := none
  dies : Tbl Die := []
  folding : Bool := false
  /-- The die table on flash: the retiring or retired die and whether its regrowth is done (R190). -/
  dieTable : Option (Nat × Bool) := none
  die2 : Option Nat := none
  /-- Regrowth has begun; the units then counted; those of journal and metadata still on the retired die, by ADDR (R191, R198). -/
  rgBegun : Bool := false
  rgTotal : Nat := 0
  rgOther : List Nat := []
  /-- Counters of page 0x04 by offset; those at 40, 48 and 56 are lifetime counters (R548). -/
  counters : Tbl Nat := []
  /-- The lifetime counters as the newest checkpoint saved them. -/
  savedCounters : Tbl Nat := []
  /-- TLC-pool blocks lost to retirement (R180, R194). -/
  lostBlocks : Nat := 0
  /-- The RTC count at the last device reset (R548). -/
  since : Dword := 0
  deriving DecidableEq, Repr

/-! ### Radio and MAC (chapters 08, 09) -/

/-- Where a receiver is in a frame (R210 to R212). -/
inductive RxState where
  | searching | qualifying | decoding
  deriving DecidableEq, Repr

/-- What starts a chain's front end and its calibration (R229). -/
structure ChainState where
  rx : Tbl RxState := []
  /-- The transmission in progress, its frame, and its power code (R221). -/
  tx : Option TxReq := none
  txFrame : Option MacFrame := none
  /-- The FCS that goes out behind the frame (R282), and when its strobe was (MAC timer). -/
  txFcs : List Byte := []
  txStart : Word := 0
  power : BitVec 6 := 0
  blanked : Bool := false
  railDown : List RadioRail := []
  pendRx : Bool := false
  pendTx : Bool := false
  calRunning : Bool := false
  calForced : Bool := false
  firstCal : Bool := true
  waited : Nat := 0
  /-- Die temperature at the last completed calibration (R239). -/
  calTemp : Byte := 0
  failRun : Nat := 0
  /-- The steps of the running calibration. -/
  runRx : Bool := false
  runTx : Bool := false
  /-- What steps 1 to 5 have set since reset, by step; else the factory trims are in force (R231). -/
  calVals : Tbl (Option Word) := []
  /-- Channels being measured (R219), and what each channel's last measurement reported to the MAC. -/
  ed : Tbl Bool := []
  edResult : Tbl (Option (BitVec 16)) := []
  deriving DecidableEq, Repr

/-- What role 6 may have saved of the calibration results (R84, R228): the values of each chain's steps and their
temperatures, and RFS_PCLAMP. -/
structure CalSave where
  sub : Tbl (Option Word)
  ghz : Tbl (Option Word)
  subTemp : Byte
  ghzTemp : Byte
  clamp : Word
  deriving DecidableEq, Repr

/-- The radio. `inForce` holds RFS_WIN and RFS_TYMCFGn as the receiver uses them (R208). -/
structure Radio where
  inForce : Tbl Word := []
  waiting : List Nat := []
  relock : Bool := false
  sub : ChainState := {}
  ghz : ChainState := {}
  /-- The gain in steps of 6 dB, 0 to 10 (R206); on step 0 SG_FEM_BYP is high. -/
  gain : Nat := 10
  temp : Byte := 0
  /-- The 2.4 GHz channel still in force while a change of RF2_CTL.CH waits (R226). -/
  ch24 : Option (BitVec 4) := none
  wakeCalWait : Bool := false
  /-- The calibration results in role 6's retained bank, from the entry into HUSH to the first RUN (R84, R91). -/
  calSaved : Option CalSave := none
  /-- Rails that fell while D0 was down, which its registers could not show (R225). -/
  railFell : List RadioRail := []
  /-- FIR and MASK tables as copied at the last start strobe (R222). -/
  txTables : List Word := []
  counters : Tbl Dword := []
  deriving DecidableEq, Repr

/-- A pair of a DUP list (R264): frame counter, sequence number, whether secured, and when (MAC timer). -/
structure DupPair where
  fc : Word
  seq : Byte
  secured : Bool
  time : Word
  deriving DecidableEq, Repr

/-- A node-table entry (R264). -/
structure Node where
  extaddr : Dword := 0
  short : Half := 0
  panid : Half := 0
  state : Nat := 0
  flags : Byte := 0
  keyslot : Byte := 0
  seclvl : Byte := 0
  cslot : Half := 0
  ctym : Byte := 0
  cint : Byte := 0
  cphase : Byte := 0
  lastContact : Dword := 0
  rxfc : Word := 0
  dup : List DupPair := []
  dupNext : Nat := 0
  misses : Nat := 0
  rssic : Byte := 0
  lqi : Byte := 0
  drift : Half := 0
  holdLeft : Nat := 0
  rxcount : Word := 0
  dupcount : Half := 0
  authfail : Half := 0
  misstotal : Half := 0
  offset : Half := 0
  host : BitVec 416 := 0
  deriving DecidableEq, Repr

/-- A SEND in progress (R282). -/
structure SendOp where
  tag : Half
  node : Nat
  chain : Byte
  timing : Nat
  frame : MacFrame
  mcs : Byte
  power : Byte
  sec : Bool
  be : Nat := 0
  backoff : Nat := 0
  /-- Measurements of the present procedure, and of the whole command. -/
  attempts : Nat := 0
  measures : Nat := 0
  transmissions : Nat := 0
  measuring : Bool := false
  /-- The channel was found free: the strobe may follow (R274). -/
  ready : Bool := false
  onAir : Bool := false
  waitAck : Bool := false
  /-- The start of the slot it was last sent in, where TIMING is 1, and when its frame ended (R275). -/
  lastSlot : Option Word := none
  endAt : Word := 0
  /-- The frame as the device secured it at its first strobe; a repeat sends it again (R336). -/
  sealed : Option MacFrame := none
  /-- Its completion is given up under R285. -/
  reply : Bool := true
  deriving DecidableEq, Repr

/-- A croak that a slot expects: of which node, by its entry as cached at the slot's start (R268), whose LASTCONTACT moves on
with contacts up to the expected start; the slot's start and the expected start (MAC timer), and the CSEQ of the period.
`judged`: R262 has been applied to it. -/
structure Expect where
  node : Nat
  entry : Node
  slot : Word
  start : Word
  cseq : Nat
  judged : Bool := false
  deriving DecidableEq, Repr

/-- An acknowledgement due (R278). -/
structure AckDue where
  chain : Chain
  /-- The channel and MCS of the frame it answers, which it takes. -/
  ch : RxChan
  mcs : BitVec 3
  node : Nat
  seq : Byte
  enh : Bool
  secured : Bool
  correction : Half
  fc : Word
  frame : MacFrame
  deriving DecidableEq, Repr

/-- The MAC hardware. The node table is in DRAM, cached entries on D0 (R265). -/
structure Mac where
  nodes : Tbl Node := []
  cache : Tbl Node := []
  /-- The entries cached, most recently used first. -/
  cached : List Nat := []
  /-- Entries written by NODE-WRITE since they were cached (R268). -/
  written : List Nat := []
  plan : List Word := []
  nextPlan : Option (List Word) := none
  /-- The plan waiting takes effect at no boundary before this (MAC timer; R259). -/
  planFrom : Word := 0
  /-- The µs MAC timer (R255), and what has passed of its next µs, in 1/512 µs. -/
  timer : Word := 0
  timerFrac : Nat := 0
  /-- Whether the schedule runs, whether a period has begun since it started, and the slot that starts next. -/
  running : Bool := false
  started : Bool := false
  nextSlot : Nat := 0
  /-- When the current slot started and the next one will (MAC timer), and the RTC count at slot 0 of this period (R257). -/
  slotStart : Word := 0
  nextStart : Word := 0
  periodTime : Dword := 0
  inSlot : Bool := false
  sends : List SendOp := []
  acks : List AckDue := []
  /-- Decoded frames handed over by the radio, oldest first (R215). -/
  handed : List RxFrame := []
  /-- An acknowledgement due for the frame being handled is not ready by its deadline (R279). -/
  late : Bool := false
  /-- The croaks that this slot and the one before expect (R263, R268). -/
  expected : List Expect := []
  /-- Nodes whose croaks were heard in this period; the cells they owned then, and those of the period before (R258, R261). -/
  croaked : List Nat := []
  heard : List (Nat × Nat) := []
  receipt : List (Nat × Nat) := []
  /-- Which of the parent's slots its chorus is in, by the plan and ROFF as the link was found (R271, R293). -/
  parentSlot : Nat := 0
  parentHeard : Bool := false
  depth : Byte := 0
  /-- The RTC count when the parent was last heard, and the chorus periods since. -/
  parentLast : Dword := 0
  parentMissed : Nat := 0
  scanStep : Nat := 0
  scanSaved : Tbl Word := []
  keyexhPosted : List Nat := []
  chorusDue : Option MacFrame := none
  /-- A wake from HUSH has left the MAC without its table until roles 4 and 5 rebuild it (R84, R91). -/
  lost : Bool := false
  /-- What those roles may have saved in a retained bank: nodes and plan as they stood at the entry into HUSH. -/
  saved : Option (Tbl Node × List Word) := none
  deriving DecidableEq, Repr

/-! ### The radio journal (chapter 10) -/

/-- A journal record: a data record or a marker (R301, R302). `payload` is in clear; `pos` is its offset within the
clutch; `group` the commit sequence of its group. -/
structure Record where
  nodef : Half
  length : Nat
  tick : Word
  rssi : Byte := 0
  evm : Byte := 0
  mode : Byte := 0
  tym : Byte := 0
  fc : Word
  payload : List Byte := []
  pos : Nat := 0
  group : Word := 0
  deriving DecidableEq, Repr

/-- A clutch (R298), with its records in stored order, markers included. -/
structure Clutch where
  clseq : Word
  slot : Nat
  firstCseq : Word
  base : Dword
  untimed : Bool
  restart : Bool
  keygen : Nat
  /-- The reason of its seal (R300). -/
  sealed' : Option Nat := none
  pinned : Bool := false
  records : List Record := []
  deriving DecidableEq, Repr

/-- The journal. `clutches` lists the clutches present, oldest first; the last is open while it is unsealed. -/
structure Journal where
  clutches : List Clutch := []
  /-- A group is open, from this offset of the open clutch on; records of it have group `nextCseq`. -/
  groupStart : Option Nat := none
  /-- Where the next record of the open clutch goes. -/
  pos : Nat := 64
  nextCseq : Word := 1
  nextClseq : Word := 1
  nextSlot : Nat := 0
  /-- Groups committed and not yet durable, oldest first. -/
  committed : List Word := []
  /-- The journal mirror (R309): slot and codeword of each copy, and the die it lies on. -/
  mirror : List (Nat × Nat × Nat) := []
  /-- Records dropped in the present run (R296). -/
  lossRun : Nat := 0
  /-- No clutch has opened since a reset or power loss, power-on included: a reset cut the journal; the next start seals what was open and the next clutch is marked RESTART (R312). -/
  restart : Bool := true
  deriving DecidableEq, Repr

/-! ### Keys and life cycle (chapter 11) -/

/-- A key slot: its STATE and ORIGIN codes (R345), value and TXFC (R336). -/
structure KeySlot where
  state : Nat := 0
  origin : Nat := 0
  key : BitVec 256 := 0
  txfc : Word := 0
  /-- A session slot's GCM counter (R338). -/
  counter : Dword := 0
  deriving DecidableEq, Repr

/-- A wrapped blob in the key-state area (R333): the slot's value and the epoch it is bound to. -/
structure Blob where
  epoch : Nat
  origin : Nat
  nonce : BitVec 96
  cipher : List Byte
  tag : BitVec 128
  deriving DecidableEq, Repr

/-- The key store, cipher engine and life cycle. -/
structure Keys where
  slots : Tbl KeySlot := []
  blobs : List (Nat × Blob) := []
  steps : Nat := 0
  scrapped : Bool := false
  custKeys : Tbl (BitVec 512) := []
  enrolled : BitVec 4 := 0
  revoked : BitVec 4 := 0
  challenge : Option (BitVec 128) := none
  wipePend : Bool := false
  /-- GCM counters of JOURNAL and of the wrapping key, and their ledger records (R338). -/
  jctr : Dword := 0
  wctr : Dword := 0
  jledger : Dword := 0
  wledger : Dword := 0
  /-- A journal group is sealed only once the ledger record it waits for is programmed (R338). -/
  jwait : Bool := false
  chgLock : Bool := false
  deriving DecidableEq, Repr

/-! ### Newts, roles and mailboxes (chapters 12, 13, 19) -/

/-- What a taken control trigger does where a redirect applies (R386, R389, R390). -/
inductive Redirect where
  | jump (target : Nat) | wait (mask : Nat) | stop
  deriving DecidableEq, Repr

/-- A result on its way to a port: words left, port, value, and the bits it sets in mac.st (R370, R379). -/
structure Landing where
  left : Nat
  port : Nat
  value : Word
  sticky : Nat := 0
  deriving DecidableEq, Repr

/-- A gather access in flight: words left, the word that triggered it, and whether it will report a fault and with which
cause, GATHUE or BUSERR (R382, R384). -/
structure GathReq where
  left : Nat
  pc : Nat
  bad : Bool
  cause : Nat := 10
  deriving DecidableEq, Repr

/-- A register request of a newt (R383). -/
structure RegReq where
  store : Bool
  addr : Nat
  data : Word
  pc : Nat
  deriving DecidableEq, Repr

/-- A mailbox message of 32 bytes (R404), byte 0 in the lowest bits. -/
abbrev Msg := BitVec 256

/-- A mailbox operation in progress (R393): a message to send, or where to copy the oldest one. -/
inductive MbxOp where
  | send (dst : Nat) (msg : Msg) | recv (addr : Nat)
  deriving DecidableEq, Repr

/-- The header of the image held in instruction memory (R532). -/
structure Image where
  keyidx : Byte
  process : Bool
  roles : BitVec 64
  timask : BitVec 256
  deriving DecidableEq, Repr

/-- What ends the latency of a sampled word (R545): the issue of a later word, the completion of the register
request so many places down the queue, the mailbox. -/
inductive LatEnd where
  | words (left : Nat) | reg (left : Nat) | mbx
  deriving DecidableEq, Repr

/-- A sampling record whose latency still runs (R545, R546). -/
structure OpenRec where
  addr : Nat
  issue : BitVec 48
  until' : LatEnd
  events : Nat
  deriving DecidableEq, Repr

/-- A newt (R361). Its run state, cause and fault address are in NWT_CSTn and NWT_FPCn. -/
structure Newt where
  ports : Tbl Word := []
  acc : Tbl (BitVec 72) := []
  /-- The accumulators as they stood one and two words ago (R380). -/
  acc1 : Tbl (BitVec 72) := []
  acc2 : Tbl (BitVec 72) := []
  /-- The staged parts mac.al, mac.am, mac.ah (R380). -/
  stage : Tbl Word := []
  pc : Nat := 0
  pend0 : Option Redirect := none
  pend1 : Option Redirect := none
  landing : List Landing := []
  regq : List RegReq := []
  gath : List GathReq := []
  /-- The last word triggered a gather access (R382). -/
  lastGath : Bool := false
  mbx : List Msg := []
  mbxOp : Option MbxOp := none
  evpend : BitVec 4 := 0
  evhops : Tbl Nat := []
  /-- Cycles left of the timer; 0 disarmed (R395). -/
  tmr : Nat := 0
  cyc : BitVec 48 := 0
  dmem : Tbl Byte := []
  imem : Tbl (BitVec 128) := []
  image : Option Image := none
  waitMask : Nat := 0
  /-- Of the present wait, the cycles already counted (R395); it was waiting when HUSH halted it (R392). -/
  waited : Nat := 0
  wasWaiting : Bool := false
  /-- It stopped itself under R390 since its last successful BOOT or TEST (R416). -/
  selfStopped : Bool := false
  /-- Sampling (R545): words counted towards N, the records held, how many are, the next sequence number. -/
  sampleCount : Nat := 0
  samples : Tbl (BitVec 128) := []
  heldRecs : Nat := 0
  sampleSeq : Byte := 0
  openRecs : List OpenRec := []
  deriving DecidableEq, Repr

/-- How far a move has come (R410). -/
inductive MoveStage where
  | loading | handover
  deriving DecidableEq, Repr

/-- The move in progress (R410, R415); `mirror` lists the channel deliveries added for the target. -/
structure Move where
  role : Nat
  source : Nat
  target : Nat
  persist : Bool
  /-- A takeover from a faulted newt, with its cause (R415). -/
  takeover : Bool
  cause : Nat
  /-- The target was basking and starts at an entry. -/
  fresh : Bool
  stage : MoveStage := .loading
  mirror : List (Nat × Nat) := []
  deriving DecidableEq, Repr

/-- A message the mailbox router holds for a newt: for a gated newt (R85), or waiting for an entry (R409, R411). -/
structure Held where
  newt : Nat
  msg : Msg
  gated : Bool
  deriving DecidableEq, Repr

/-- Roles, moves and the router. The role table is NWT_ROLEn. -/
structure Roles where
  move : Option Move := none
  /-- Takeovers waiting: role, faulted newt, cause (R415). -/
  takeovers : List (Nat × Nat × Nat) := []
  boot : Option Nat := none
  test : Option Nat := none
  /-- PERSIST copies still to be made: source newt, target newt (R410). -/
  persists : List (Nat × Nat) := []
  router : List Held := []
  /-- Messages sent and not yet arrived, with the newt they go to (R406). -/
  wires : List (Nat × Msg) := []
  /-- Roles whose forced holder has written no driven output yet (R414). -/
  fhold : List Nat := []
  /-- Roles whose driven outputs are at their safe values: without a token, and after FHOLD passed (R414). -/
  safeHeld : List Nat := []
  fholdSafe : List Nat := []
  /-- NWT_STAT has been read with BDROP at 0 since the last drop was posted (R407). -/
  bdropArmed : Bool := true
  /-- Classes for which NOSPARE stands (R416): bit 0 data, bit 1 process. -/
  nospare : BitVec 2 := 0
  /-- When each newt was last tested, as a serial number (R554). -/
  tested : Tbl Nat := []
  testSerial : Nat := 0
  /-- The newt of the self-test that role 7 has under way (R554): its roles leave, or its test runs. -/
  rotating : Option Nat := none
  deriving DecidableEq, Repr

/-! ### Process I/O and the event matrix (chapters 14, 15) -/

/-- What an output pad does: nothing (unpowered or before strap sampling), drive a level, follow its PWM, or
float with a pull (0 none, 1 down, 2 up). -/
inductive Pad where
  | off | low | high | pwm | released (pull : Nat)
  deriving DecidableEq, Repr

/-- A conversion sequence that runs (R430): the next slot, the last, and the slots' channels as at the trigger. -/
structure AdcRun where
  slot : Nat
  len : Nat
  list0 : Word
  list1 : Word
  hop : Nat
  deriving DecidableEq, Repr

/-- Process I/O behind its registers. -/
structure Pio where
  adc : Option AdcRun := none
  /-- Comparators in the 5 µs after EN rose (R432). -/
  arming : BitVec 4 := 0
  /-- When each comparator's inhibit began, in the count layout (R455). -/
  inhSince : Tbl Dword := []
  /-- PWMs whose periods run, and their configuration as the running period uses it (R438). -/
  running : BitVec 12 := 0
  pwmCfg : Tbl Word := []
  /-- PWMs that drive SAFE until their next period start (R435, R439). -/
  waitPeriod : BitVec 12 := 0
  /-- GPIOs whose configuration has been written since reset (R45). -/
  cfgWritten : BitVec 24 := 0
  /-- Levels put on the GPIO pads from outside. -/
  gpioExt : BitVec 24 := 0
  /-- What each pad's retention latch holds in HUSH (R47). -/
  latched : Tbl Pad := []
  /-- Filtered levels of the encoder inputs A and B (R444). -/
  encA : BitVec 4 := 0
  encB : BitVec 4 := 0
  deriving DecidableEq, Repr

/-! ### Lehr, power, reset (chapters 02, 03, 04, 16) -/

/-- A master's shadow set of the four time words (R473). -/
structure Shadow where
  frozen : Bool := false
  cnt0 : Word := 0
  cnt1 : Word := 0
  cal0 : Word := 0
  cal1 : Word := 0
  /-- The set timed out, so the next snapshot carries SHTMO. -/
  timedOut : Bool := false
  deriving DecidableEq, Repr

/-- What a master has staged by LEHR_CNT0 and LEHR_CAL0 (R474, R477). -/
structure Staged where
  cnt : Option Word := none
  cal : Option Word := none
  deriving DecidableEq, Repr

/-- The RTC and the backup supply. -/
structure Lehr where
  sec : BitVec 40 := 0
  frac : BitVec 15 := 0
  /-- The cycle within the 64 s trim interval, and the TRIM the interval uses (R472). -/
  trimCycle : Nat := 0
  trim : Byte := 0
  /-- Cycles since the periodic wake last fired or was written (R480). -/
  per : Nat := 0
  shadows : Tbl Shadow := []
  staged : Tbl Staged := []
  /-- The alarm in force in the count layout (R479), and the low word staged. -/
  alarm : Dword := 0
  xtalOk : Bool := true
  /-- Which sources feed VAO (R481). -/
  fromMain : Bool := true
  fromBak : Bool := false
  charging : Bool := false
  /-- The 10 ms before the charger resumes on main power (R481). -/
  chargeWait : Bool := false
  qualifying : Bool := false
  alive : Bool := true
  /-- VBAK counting: the count when the backup supply took over. -/
  bakSince : BitVec 40 := 0
  usedBak : Bool := false
  lostWhy : Nat := 0
  lostPost : Bool := true
  ckAo : Bool := true
  deriving DecidableEq, Repr

/-- What the device is doing as a whole. -/
inductive Phase where
  /-- PORn low: power-on reset. -/
  | por
  /-- A device reset holds (R62). -/
  | held
  /-- Out of reset: bring-up and service. -/
  | run
  /-- VDDIO_33 absent: backup only (R92). -/
  | backup
  deriving DecidableEq, Repr

/-- What holds a device in reset. -/
structure Holds where
  porn : Bool := true
  sysrstn : Bool := false
  perstn : Bool := false
  brownout : List Rail := []
  clockFail : Bool := false
  /-- After a sequence that breaks R51, the rails that have not yet passed their thresholds (R52). -/
  sequence : List Rail := []
  sequenceRf : List RadioRail := []
  deriving DecidableEq, Repr

/-- Which wake is in progress (R89, R90). -/
inductive Waking where
  | no | fromDoze | fromHush
  deriving DecidableEq, Repr

/-- Power, reset and bring-up. -/
structure Power where
  phase : Phase := .por
  holds : Holds := {}
  straps : BitVec 6 := 0
  strapped : Bool := false
  /-- The straps have been sampled since the last reset ended (R41). -/
  sampled : Bool := false
  ckref : Bool := false
  d1Locked : Bool := false
  d0Locked : Bool := false
  islands : BitVec 4 := 0
  waking : Waking := .no
  wakeToRun : Bool := false
  /-- Of the wake in progress: the TCXO's wait (R90) or the image reload (R89) is over. -/
  settled : Bool := false
  /-- A wake from HUSH stopped in DOZE: islands A to C gated, DRAM unpowered (R91). -/
  afterHush : Bool := false
  dramOn : Bool := false
  /-- D0's logic is released: out of reset and not in HUSH (R75, R88). -/
  d0run : Bool := false
  bootHeld : Bool := false
  pfailn : Bool := true
  /-- PFAILn fell with the device out of reset, and power has held since (R186). -/
  pfell : Bool := false
  seqerr : Bool := false
  wdtStage : Bool := false
  wdtKey : Bool := false
  /-- SMBALERTn, low while it is driven (R84, R564). -/
  alertn : Bool := true
  replacen : Bool := true
  /-- A power-on reset is the one this boot follows (R551). -/
  fromPor : Bool := true
  deriving DecidableEq, Repr

/-! ### Code flash, service port, die link, health (chapters 17, 18, 01, 20) -/

/-- What the information area keeps of a sector (R506, R511). -/
structure Sector where
  eintr : Bool := false
  exhausted : Bool := false
  marker : Bool := false
  erases : Nat := 0
  /-- One past the highest line programmed since the last erase. -/
  nextLine : Nat := 0
  /-- Its content is undefined (R508, R511). -/
  undef : Bool := false
  deriving DecidableEq, Repr

/-- Where the command sequence stands (R505). -/
inductive CflStep where
  | idle | unlocked1 | unlocked2 | haveCmd (erase : Bool) | haveAddr | haveData (n : Nat) | started (erase : Bool)
  deriving DecidableEq, Repr

/-- The code flash. -/
structure Flash where
  /-- Content by address; an unlisted byte is erased. -/
  bytes : Tbl Byte := []
  /-- Lines whose content is undefined (R507, R512). -/
  undefLines : List Nat := []
  /-- Lines that the last read of them found uncorrectable (R503, R504). -/
  ueLines : List Nat := []
  sectors : Tbl Sector := []
  step : CflStep := .idle
  owner : Option Master := none
  addr : Nat := 0
  data : Tbl Word := []
  /-- The line being programmed, by its number. -/
  programming : Option Nat := none
  /-- The sector under an active or suspended erase. -/
  erasing : Option Nat := none
  suspended : Bool := false
  eraseOwner : Option Master := none
  deriving DecidableEq, Repr

/-- The service port. -/
structure Svc where
  response : List Byte := []
  stored : Bool := false
  heldSeq : Option Half := none
  heldCrc : Word := 0
  heldResponse : List Byte := []
  /-- The command that executes: its payload, and the session slot and key it came under. -/
  exec : Option (List Byte) := none
  session : Option (BitVec 2 × BitVec 256) := none
  /-- The counter its reply is sealed with (R337), and of a KEYCMD the admin ring's key commands that came before it (R349). -/
  sealCtr : Dword := 0
  ahead : Nat := 0
  /-- Of a NEWTOP: NWT_MOVE is written, and its BOOT or TEST has not finished. Of a KEYCMD: its transition has passed the commit
  point (R354). -/
  started : Bool := false
  waitFlash : Bool := false
  deriving DecidableEq, Repr

/-- A register access held while the die link is down (R16), or behind an earlier one of its master (R11): its bytes, and
for a write their values. -/
structure HeldAccess where
  master : Master
  write : Bool
  addr : Nat
  size : Nat
  data : Word
  deriving DecidableEq, Repr

/-- The die link. -/
structure Link where
  regRetries : Nat := 0
  smpRetries : Nat := 0
  held : List HeldAccess := []
  /-- The last access that completed with an error response: its master. -/
  errors : List Master := []
  deriving DecidableEq, Repr

/-- An entry of the health log (R555). -/
structure HealthEntry where
  time : Dword
  cause : Nat
  raised : Bool
  untimed : Bool
  detail : Word
  deriving DecidableEq, Repr

/-- The health block behind its registers; `logged` is the cause state the health log last recorded. -/
structure Health where
  log : List HealthEntry := []
  toProgram : List HealthEntry := []
  total : Nat := 0
  logged : BitVec 7 := 0
  ever : BitVec 7 := 0
  tlrun : BitVec 3 := 0
  otcount : Byte := 0
  excursion : Bool := false
  /-- Causes evaluated since the last reset (R553). -/
  known : BitVec 7 := 0
  deriving DecidableEq, Repr

/-- The device. -/
structure State where
  /-- Every register, by BAR0 offset; an unlisted one holds its At reset value. -/
  regs : Tbl Word := []
  hri : Hri := {}
  store : Store := {}
  radio : Radio := {}
  mac : Mac := {}
  jnl : Journal := {}
  keys : Keys := {}
  newts : Tbl Newt := []
  gather : Tbl Byte := []
  roles : Roles := {}
  pio : Pio := {}
  lehr : Lehr := {}
  power : Power := {}
  flash : Flash := {}
  svc : Svc := {}
  link : Link := {}
  health : Health := {}
  /-- High halves of the cycle counters as latched for each master and newt (R544). -/
  cycLatch : Tbl Half := []
  /-- The answer a read gave its master, newest last: what a register read returned (R5, R473). -/
  answers : List (Master × Word) := []
  /-- The model's own counter of free values; not the spec's. -/
  free : Nat := 0
  /-- The commands that wait, oldest first. -/
  pending : List Instr := []
  deriving DecidableEq, Repr

/-- The device in power-on reset, its lehr powered for the first time. -/
def State.reset : State := {}

end Sys2Proof.Machine
end

