-- ==== Sys2Proof/Machine/Operands.lean ====
section
/-! DEFINITION. Bit fields of words and of 64-byte entries, byte lists, sign extension, CRC: every operand form. -/

namespace Sys2Proof.Machine

/-- Bits hi to lo of a number. -/
def nfld (hi lo : Nat) (w : Nat) : Nat := w / 2 ^ lo % 2 ^ (hi + 1 - lo)

/-- Bits hi to lo of a register. -/
def fld (hi lo : Nat) (w : Word) : Nat := nfld hi lo w.toNat

/-- A register with v in bits hi to lo. -/
def putFld (hi lo v : Nat) (w : Word) : Word :=
  BitVec.ofNat 32 (w.toNat / 2 ^ (hi + 1) * 2 ^ (hi + 1) + v % 2 ^ (hi + 1 - lo) * 2 ^ lo + w.toNat % 2 ^ lo)

/-- One bit of a register. -/
def bit (i : Nat) (w : Word) : Bool := w.getLsbD i

/-- A register with bit i at b. -/
def putBit (i : Nat) (b : Bool) (w : Word) : Word := putFld i i (if b then 1 else 0) w

/-- A number's bit. -/
def nbit (i : Nat) (n : Nat) : Bool := n / 2 ^ i % 2 == 1

/-- A bit vector with bit i at b. -/
def bput {w : Nat} (i : Nat) (b : Bool) (v : BitVec w) : BitVec w :=
  if b then v ||| BitVec.ofNat w (2 ^ i) else v &&& ~~~(BitVec.ofNat w (2 ^ i))

/-- Little-endian bytes of a number (R2). -/
def leBytes : Nat → Nat → List Byte
  | 0, _ => []
  | k + 1, v => BitVec.ofNat 8 v :: leBytes k (v / 256)

/-- The number that little-endian bytes hold (R2). -/
def leNat : List Byte → Nat
  | [] => 0
  | b :: r => b.toNat + 256 * leNat r

/-- The bytes of a register that an access from `a` on of `size` bytes addresses, each in its own lane; the others read 0
here (R4). -/
def laneMask (a size w : Nat) (v : Word) : Word :=
  BitVec.ofNat 32 (((List.range 4).map fun i =>
    if a ≤ w + i ∧ w + i < a + size then v.toNat / 256 ^ i % 256 * 256 ^ i else 0).sum)

/-- The registers that an access touches, by their word addresses, in ascending order. -/
def touched (a size : Nat) : List Nat := (List.range ((a % 4 + size + 3) / 4)).map fun i => a / 4 * 4 + 4 * i

/-- The number that big-endian bytes hold. -/
def beNat (l : List Byte) : Nat := leNat l.reverse

/-- `size` bytes at `off` of an entry whose byte 0 is lowest, as a little-endian number. -/
def nat64 (n off size : Nat) : Nat := n / 256 ^ off % 256 ^ size

/-- Field of a 64-byte entry. -/
def ent (e : Entry) (off size : Nat) : Nat := nat64 e.toNat off size

/-- Two's complement value of the low `k` bits. -/
def sext (k : Nat) (n : Nat) : Int :=
  let m := n % 2 ^ k
  if 2 ^ (k - 1) ≤ m then (m : Int) - 2 ^ k else m

/-- A register holding an integer modulo 2^32. -/
def wordOfInt (i : Int) : Word := BitVec.ofInt 32 i

/-- A number from a bit. -/
def b2n (b : Bool) : Nat := if b then 1 else 0

/-- The bits of `new` where the mask is set, of `old` elsewhere. -/
def mixBits (mask old new : Word) : Word := (old &&& ~~~mask) ||| (new &&& mask)

/-- Replace the element at an index. -/
def setAt {α : Type} (i : Nat) (v : α) (l : List α) : List α := l.set i v

/-- The first k elements, filled up with d to length k. -/
def padTo {α : Type} (k : Nat) (d : α) (l : List α) : List α :=
  l.take k ++ List.replicate (k - l.length) d

/-- One bit of a reflected CRC-32 step. -/
def crc32Bit (c : BitVec 32) : BitVec 32 :=
  if c.getLsbD 0 then (c >>> 1) ^^^ 0xEDB88320 else c >>> 1

/-- One byte of a reflected CRC-32. -/
def crc32Byte (c : BitVec 32) (b : Byte) : BitVec 32 :=
  let c := c ^^^ b.setWidth 32
  crc32Bit (crc32Bit (crc32Bit (crc32Bit (crc32Bit (crc32Bit (crc32Bit (crc32Bit c)))))))

/-- CRC-32 of IEEE 802.3. -/
def crc32 (l : List Byte) : Word := ~~~(l.foldl crc32Byte 0xFFFFFFFF)

/-- One bit of a CRC-8 step, polynomial x^8 + x^2 + x + 1. -/
def crc8Bit (c : Byte) : Byte := if c.getLsbD 7 then (c <<< 1) ^^^ 0x07 else c <<< 1

/-- CRC-8 of a byte list, from 0: the SMBus packet error code. -/
def crc8 (l : List Byte) : Byte :=
  l.foldl (fun c b =>
    crc8Bit (crc8Bit (crc8Bit (crc8Bit (crc8Bit (crc8Bit (crc8Bit (crc8Bit (c ^^^ b))))))))) 0

/-- The bytes of a bit vector of whole bytes, byte 0 first. -/
def bvBytes {w : Nat} (n : Nat) (b : BitVec w) : List Byte := leBytes n b.toNat

/-! ### P-256, derivation and DER (R340, R341, R343) -/

/-- Big-endian bytes of a number. -/
def beBytes (k v : Nat) : List Byte := (leBytes k v).reverse

/-- The field, the coefficient b and the group order of NIST P-256. -/
def p256P : Nat := 2 ^ 256 - 2 ^ 224 + 2 ^ 192 + 2 ^ 96 - 1
def p256B : Nat := 0x5AC635D8AA3A93E7B3EBBD55769886BC651D06B0CC53B0F63BCE3C3E27D2604B
def p256N : Nat := 0xFFFFFFFF00000000FFFFFFFFFFFFFFFFBCE6FAADA7179E84F3B9CAC2FC632551

/-- The halves of a public key or a signature, each 32 bytes big-endian (R341). -/
def half0 (v : BitVec 512) : Nat := beNat ((bvBytes 64 v).take 32)
def half1 (v : BitVec 512) : Nat := beNat ((bvBytes 64 v).drop 32)

/-- A public key is a point of the curve. -/
def p256On (pub : BitVec 512) : Bool :=
  let x := half0 pub
  let y := half1 pub
  decide (x < p256P) && decide (y < p256P) && (y * y + 3 * x) % p256P == (x * x * x + p256B) % p256P

/-- ECDSA verification (R341). -/
def ecdsaVerify (pub : BitVec 512) (digest : BitVec 256) (sig : BitVec 512) : Bool :=
  let r := half0 sig
  let v := half1 sig
  p256On pub && r != 0 && decide (r < p256N) && v != 0 && decide (v < p256N) && Config.ecdsaMatch pub digest sig

/-- The counter-mode KDF of NIST SP 800-108 with AES-CMAC, two blocks (R340). PRESUMED (log 156): counter and length are of 4
bytes, big-endian. -/
def kdf (key : BitVec 256) (label context : List Byte) : BitVec 256 :=
  let block (i : Nat) : List Byte := bvBytes 16 (Config.cmac key (beBytes 4 i ++ label ++ [0] ++ context ++ beBytes 4 256))
  BitVec.ofNat 256 (leNat (block 1 ++ block 2))

/-- JXWRAP and JXSESS. -/
def labelWrap : List Byte := [0x4A, 0x58, 0x57, 0x52, 0x41, 0x50]
def labelSess : List Byte := [0x4A, 0x58, 0x53, 0x45, 0x53, 0x53]

/-- The session key that an ephemeral private key gives with a tool's public key (R340, R347). -/
def sessionKey (priv : BitVec 256) (tool : BitVec 512) : BitVec 256 :=
  kdf (Config.ecdh priv tool) labelSess (bvBytes 64 tool ++ bvBytes 64 (Config.p256Pub priv))

/-- A DER value: tag, length, content; and a non-negative INTEGER. -/
def derLen (n : Nat) : List Byte :=
  if n < 128 then [BitVec.ofNat 8 n] else if n < 256 then [0x81, BitVec.ofNat 8 n] else 0x82 :: beBytes 2 n
def der (tag : Byte) (l : List Byte) : List Byte := tag :: derLen l.length ++ l
def derNat (v : Nat) : List Byte :=
  let l := (beBytes 32 v).dropWhile (· == 0)
  der 2 (if (l.headD 0x80).getLsbD 7 then 0 :: l else l)

/-- Sixteen upper-case hexadecimal digits. -/
def hexDigits (v : BitVec 64) : List Byte :=
  (List.range 16).map fun i =>
    let d := v.toNat / 16 ^ (15 - i) % 16
    BitVec.ofNat 8 (if d < 10 then 0x30 + d else 0x37 + d)

/-- The ASCII bytes of 99991231235959Z. -/
def noExpiry : List Byte := [0x39, 0x39, 0x39, 0x39, 0x31, 0x32, 0x33, 0x31, 0x32, 0x33, 0x35, 0x39, 0x35, 0x39, 0x5A]

/-- ecdsa-with-SHA256, and the public key of IDKEY as SubjectPublicKeyInfo. -/
def derAlg : List Byte := der 0x30 (der 6 [0x2A, 0x86, 0x48, 0xCE, 0x3D, 4, 3, 2])
def derSpki : List Byte :=
  der 0x30 (der 0x30 (der 6 [0x2A, 0x86, 0x48, 0xCE, 0x3D, 2, 1] ++ der 6 [0x2A, 0x86, 0x48, 0xCE, 0x3D, 3, 1, 7]) ++
    der 3 ([0, 4] ++ bvBytes 64 (Config.p256Pub Config.idKey)))

/-- What the certificate of IDKEY says (R343; RFC 5280): its subject's serialNumber is the device's, it does not expire. -/
def certBody : List Byte :=
  der 0x30 (der 0xA0 (der 2 [2]) ++ derNat Config.certNumber ++ derAlg ++ Config.certIssuer ++
    der 0x30 (Config.certFrom ++ der 0x18 noExpiry) ++
    der 0x30 (Config.certSubject ++ der 0x31 (der 0x30 (der 6 [0x55, 4, 5] ++ der 0x13 (hexDigits Config.serial)))) ++
    derSpki ++ Config.certExtensions)

/-- The certificate: its body, and Basfort's signature over it. -/
def certificate : List Byte :=
  let sig := Config.ecdsaSign Config.certKey (Config.sha256 certBody) Config.certRandom
  der 0x30 (certBody ++ derAlg ++ der 3 (0 :: der 0x30 (derNat (half0 sig) ++ derNat (half1 sig))))

end Sys2Proof.Machine
end

