-- ==== Sys2Proof/Machine/Isa.lean ====
section
/-! DEFINITION. The Newt Move Architecture as arithmetic (chapter 12): slots, ports, the ALUs, the MAC unit. -/

namespace Sys2Proof.Machine

/-! ### Ports (R368) -/

/-- The kinds of port. -/
inductive PortKind where
  | w | r | t | none
  deriving DecidableEq, Repr

/-- The kind of a port number; 0x3FF is handled by the slot rules. -/
def portKind (p : Nat) : PortKind :=
  if p < 0x40 then .w
  else if p ∈ [0x40, 0x60, 0x80, 0x81, 0x83, 0x84, 0x85, 0x86, 0x87, 0x100, 0x101, 0x120, 0x121, 0x140, 0x183] then .w
  else if p ∈ [0x41, 0x61, 0x82, 0x102, 0x103, 0x104, 0x105, 0x122, 0x123, 0x124, 0x141, 0x142, 0x160, 0x161,
      0x180, 0x181, 0x182, 0x184] then .r
  else if (0x50 ≤ p ∧ p < 0x60) ∨ (0x70 ≤ p ∧ p < 0x80) ∨ p = 0x90 ∨ p = 0x91 ∨ (0xC0 ≤ p ∧ p < 0x100) ∨
      (0x110 ≤ p ∧ p < 0x115) ∨ (0x118 ≤ p ∧ p < 0x11B) ∨ (0x130 ≤ p ∧ p < 0x13A) ∨
      p ∈ [0x150, 0x151, 0x170, 0x171, 0x190, 0x191] then .t
  else .none

/-- The function unit of a trigger port: ALU 0 and 1, MAC 2, LSU 3, control 4, mailbox 5, events 6, counter 7. -/
def unitOf (p : Nat) : Nat :=
  if p < 0x60 then 0 else if p < 0x80 then 1 else if p < 0x100 then 2 else if p < 0x120 then 3
  else if p < 0x140 then 4 else if p < 0x160 then 5 else if p < 0x180 then 6 else 7

/-! ### Slots (R363 to R365) -/

/-- The source of a move. -/
inductive Src where
  | val (v : Word) | port (p : Nat)
  deriving DecidableEq, Repr

/-- A move: its slot, destination and source. -/
structure Move' where
  slot : Nat
  dst : Nat
  src : Src
  deriving DecidableEq, Repr

/-- The four slots of a word, slot 0 first. -/
def slots (w : BitVec 128) : List Word := (List.range 4).map fun i => w.extractLsb' (32 * i) 32

/-- A destination that may be written: nul, W and T ports. -/
def dstOk (p : Nat) : Bool := p == 0x3FF || portKind p == .w || portKind p == .t

/-- A port that may be read. -/
def srcOk (p : Nat) : Bool := portKind p == .w || portKind p == .r

/-- Decode slots from slot i on: a move, or none for an ILLEGAL slot, each with its slot number. A literal's data
slot is not decoded. -/
def decodeSlots : Nat → List Word → List (Nat × Option Move')
  | _, [] => []
  | i, [w] =>
    let d := fld 31 22 w
    if bit 21 w then [(i, if dstOk d then some ⟨i, d, .val (BitVec.ofInt 32 (sext 21 w.toNat))⟩ else none)]
    else [(i, if dstOk d && fld 20 10 w == 0 && srcOk (fld 9 0 w) then some ⟨i, d, .port (fld 9 0 w)⟩ else none)]
  | i, w :: x :: r =>
    let d := fld 31 22 w
    if bit 21 w then
      (i, if dstOk d then some ⟨i, d, .val (BitVec.ofInt 32 (sext 21 w.toNat))⟩ else none) :: decodeSlots (i + 1) (x :: r)
    else if fld 20 0 w = 0x3FF then
      (i, if dstOk d then some ⟨i, d, .val x⟩ else none) :: decodeSlots (i + 2) r
    else
      (i, if dstOk d && fld 20 10 w == 0 && srcOk (fld 9 0 w) then some ⟨i, d, .port (fld 9 0 w)⟩ else none) ::
        decodeSlots (i + 1) (x :: r)

/-! ### The ALUs (R372) -/

/-- Clamp an integer to a signed width. -/
def clampS (k : Nat) (x : Int) : Int := max (-(2 ^ (k - 1))) (min (2 ^ (k - 1) - 1) x)

/-- Leading zero bits of a word. -/
def clz32 (t : Word) : Nat := 32 - (if t = 0 then 0 else t.toNat.log2 + 1)

/-- An ALU operation by its port offset. -/
def alu (op : Nat) (a t : Word) : Word :=
  let k := t.toNat % 32
  match op with
  | 0 => a + t
  | 1 => a - t
  | 2 => a &&& t
  | 3 => a ||| t
  | 4 => a ^^^ t
  | 5 => a <<< k
  | 6 => a >>> k
  | 7 => a.sshiftRight k
  | 8 => if a.slt t then 1 else 0
  | 9 => if a.ult t then 1 else 0
  | 10 => if a.slt t then a else t
  | 11 => if a.slt t then t else a
  | 12 => wordOfInt (clampS 32 (a.toInt + t.toInt))
  | 13 => wordOfInt (clampS 32 (a.toInt - t.toInt))
  | 14 => wordOfInt (clampS (if k = 0 then 32 else k) a.toInt)
  | _ => BitVec.ofNat 32 (clz32 t)

/-! ### The MAC unit (R374 to R379) -/

/-- Rounding: 0 truncate, 1 half up, 2 half even (R376). -/
def roundQ (rnd k : Nat) (x : Int) : Int :=
  match rnd with
  | 0 => x.fdiv (2 ^ k)
  | 1 => (x + 2 ^ (k - 1)).fdiv (2 ^ k)
  | _ =>
    let q := x.fdiv (2 ^ k)
    let r := x.fmod (2 ^ k)
    if r < 2 ^ (k - 1) then q else if 2 ^ (k - 1) < r then q + 1 else if q % 2 = 0 then q else q + 1

/-- Narrow to w bits: the result modulo 2^w, and the sticky bits it sets (SATD 1, WRAPD 2). -/
def narrow (rnd : Nat) (sat : Bool) (k w : Nat) (x : Int) : Nat × Nat :=
  let q := roundQ rnd k x
  let c := clampS w q
  if sat then ((c % 2 ^ w).toNat, if c = q then 0 else 1) else ((q % 2 ^ w).toNat, if c = q then 0 else 2)

/-- Rounding and saturation of a variant: of mac.mode for variant 0 (R375, R377). -/
def macMode (variant : Nat) (mode : Word) : Nat × Bool :=
  match variant with
  | 0 => (fld 1 0 mode, bit 2 mode)
  | 1 => (0, false)
  | 2 => (1, false)
  | 3 => (2, false)
  | 5 => (0, true)
  | 6 => (1, true)
  | _ => (2, true)

/-- A write of mac.mode: RND 0b11 leaves RND as it was (R377). -/
def macModeWrite (old v : Word) : Word := if fld 1 0 v = 3 then putFld 1 0 (fld 1 0 old) v else v

/-- What a MAC trigger does: accumulators, mac.r, sticky bits (SATD 1, WRAPD 2, GUARD 4). -/
structure MacOut where
  acc : Tbl (BitVec 72)
  r : Word
  sticky : Nat
  deriving DecidableEq, Repr

/-- An accumulator. -/
def accGet (t : Tbl (BitVec 72)) (k : Nat) : BitVec 72 := tget (fun _ => 0) t k
def accSet (t : Tbl (BitVec 72)) (k : Nat) (v : BitVec 72) : Tbl (BitVec 72) := tset (fun _ => 0) t k v

/-- A single operation: the new exact value of the accumulator, wrapped modulo 2^72 (R374). -/
def macSingle (acc : Tbl (BitVec 72)) (n : Nat) (x : Int) (rs : Nat × Bool) : MacOut :=
  let v : BitVec 72 := BitVec.ofInt 72 x
  let (r, st) := narrow rs.1 rs.2 31 32 v.toInt
  { acc := accSet acc n v, r := BitVec.ofNat 32 r, sticky := st ||| (if v.toInt = x then 0 else 4) }

/-- Lane k of a packed pair of Q15 values. -/
def lane (k : Nat) (w : Word) : Int := sext 16 (w.toNat / 2 ^ (16 * k))

/-- The starting value of a lane: bits 39:0 of its accumulator, signed (R378). -/
def laneAcc (v : BitVec 72) : Int := sext 40 v.toNat

/-- A dual operation from the exact lane values; `keep` for rd2, which changes no accumulator (R378). -/
def macDual (acc : Tbl (BitVec 72)) (p : Nat) (x0 x1 : Int) (rs : Nat × Bool) (keep : Bool) : MacOut :=
  let w0 : BitVec 40 := BitVec.ofInt 40 x0
  let w1 : BitVec 40 := BitVec.ofInt 40 x1
  let (r0, s0) := narrow rs.1 rs.2 15 16 w0.toInt
  let (r1, s1) := narrow rs.1 rs.2 15 16 w1.toInt
  let g := if w0.toInt = x0 ∧ w1.toInt = x1 then 0 else 4
  { acc := if keep then acc else accSet (accSet acc (2 * p) (w0.signExtend 72)) (2 * p + 1) (w1.signExtend 72)
    r := BitVec.ofNat 32 (r0 + 65536 * r1), sticky := s0 ||| s1 ||| g }

/-- MAC operation at port 0x0C0 + 8 × op + variant (R375). -/
def macOp (acc : Tbl (BitVec 72)) (port : Nat) (a t n mode : Word) : MacOut :=
  let op := (port - 0xC0) / 8
  let rs := macMode ((port - 0xC0) % 8) mode
  let k := n.toNat % 4
  let p := k / 2
  let x := (accGet acc k).toInt
  let prod := a.toInt * t.toInt
  let l0 := laneAcc (accGet acc (2 * p))
  let l1 := laneAcc (accGet acc (2 * p + 1))
  let p0 := lane 0 a * lane 0 t
  let p1 := lane 1 a * lane 1 t
  match op with
  | 0 => macSingle acc k prod rs
  | 1 => macSingle acc k (x + prod) rs
  | 2 => macSingle acc k (x - prod) rs
  | 3 => macDual acc p p0 p1 rs false
  | 4 => macDual acc p (l0 + p0) (l1 + p1) rs false
  | 5 => macDual acc p (l0 - p0) (l1 - p1) rs false
  | 6 => macSingle acc k x rs
  | _ => macDual acc p l0 l1 rs true

/-- mac.t.ld and mac.t.ldx (R375): `staged` is the 72-bit value of the staged parts. -/
def macLoad (acc : Tbl (BitVec 72)) (port : Nat) (t n mode : Word) (staged : BitVec 72) : MacOut :=
  macSingle acc (n.toNat % 4) (if port = 0x90 then t.toInt * 2 ^ 31 else staged.toInt) (macMode 0 mode)

/-- Parts of an accumulator as mac.al, mac.am and mac.ah read it (R380). -/
def accPart (port : Nat) (v : BitVec 72) : Word :=
  if port = 0x84 then v.extractLsb' 0 32 else if port = 0x85 then v.extractLsb' 32 32
  else (v.extractLsb' 64 8).signExtend 32

end Sys2Proof.Machine
end

