-- ==== Sys2Proof/Machine/Regs.lean ====
section
/-! DEFINITION. The register map (R562, chapter 21) and the field types of R7: for each register its value at
reset, its RW, RWL and W1C bits, and the values a field admits (R8). -/

namespace Sys2Proof.Machine

/-! ### Names
The index of an array wraps at its size, so that a name never leaves its array. -/

abbrev R.GLB_CAP0 : Nat := 0x000000
abbrev R.GLB_CAP1 : Nat := 0x000004
abbrev R.GLB_STAT : Nat := 0x000008
abbrev R.PWR_CTL : Nat := 0x010000
abbrev R.PWR_STAT : Nat := 0x010004
abbrev R.PWR_TMR : Nat := 0x010008
abbrev R.PWR_RETSEL : Nat := 0x01000C
abbrev R.PWR_WAKEEN : Nat := 0x010010
abbrev R.PWR_WAKEST : Nat := 0x010014
abbrev R.PWR_VETOD : Nat := 0x010020
abbrev R.PWR_VETOH0 : Nat := 0x010024
abbrev R.PWR_VETOH1 : Nat := 0x010028
abbrev R.CLK_CDCLOST : Nat := 0x020040
abbrev R.RST_CAUSE : Nat := 0x030000
abbrev R.RST_CTL : Nat := 0x030004
abbrev R.RST_STAT : Nat := 0x030008
abbrev R.RST_WDT_CTL : Nat := 0x030010
abbrev R.RST_WDT_KICK : Nat := 0x030014
abbrev R.RST_STRAP : Nat := 0x030020
abbrev R.HRI_CTL : Nat := 0x040000
abbrev R.HRI_STAT : Nat := 0x040004
abbrev R.HRI_QCTL : Nat := 0x040008
abbrev R.HRI_QCTH : Nat := 0x04000C
abbrev R.HRI_INFL : Nat := 0x040010
abbrev R.HRI_QEX0 : Nat := 0x040020
abbrev R.HRI_QEX1 : Nat := 0x040024
abbrev R.HRI_QFRZ0 : Nat := 0x040028
abbrev R.HRI_QFRZ1 : Nat := 0x04002C
abbrev R.STO_STAT : Nat := 0x050000
abbrev R.STO_CTL : Nat := 0x050004
abbrev R.STO_RGCTL : Nat := 0x050008
abbrev R.STO_RGTOTAL : Nat := 0x05000C
abbrev R.STO_RGLEFT : Nat := 0x050010
abbrev R.STO_HEALTH : Nat := 0x050014
abbrev R.JNL_CTL : Nat := 0x060000
abbrev R.JNL_STAT : Nat := 0x060004
abbrev R.JNL_CSEQ : Nat := 0x060008
abbrev R.JNL_CLSEQ : Nat := 0x06000C
abbrev R.JNL_OLDEST : Nat := 0x060010
abbrev R.JNL_PINS : Nat := 0x060014
abbrev R.JNL_LOST : Nat := 0x060018
abbrev R.RFS_CTL : Nat := 0x070000
abbrev R.RFS_STAT : Nat := 0x070004
abbrev R.RFS_WIN : Nat := 0x070008
abbrev R.RFS_APPLY : Nat := 0x07000C
abbrev R.RFS_TXCFG : Nat := 0x070010
abbrev R.RFS_TXCRC : Nat := 0x070014
abbrev R.RFS_CAL : Nat := 0x070020
abbrev R.RFS_CALSTAT : Nat := 0x070024
abbrev R.RFS_PCLAMP : Nat := 0x070028
abbrev R.RFS_TYMCFG (n : Nat) : Nat := 0x070100 + 8 * (n % 16)
abbrev R.RFS_TYMDET (n : Nat) : Nat := 0x070104 + 8 * (n % 16)
abbrev R.RFS_TYMCNT (n : Nat) : Nat := 0x070200 + 4 * (n % 16)
abbrev R.RFS_FIR (n : Nat) : Nat := 0x070400 + 4 * (n % 32)
abbrev R.RFS_MASK (n : Nat) : Nat := 0x070480 + 4 * (n % 16)
abbrev R.RF2_CTL : Nat := 0x080000
abbrev R.RF2_STAT : Nat := 0x080004
abbrev R.MAC_CTL : Nat := 0x090000
abbrev R.MAC_STAT : Nat := 0x090004
abbrev R.MAC_SCHED : Nat := 0x090008
abbrev R.MAC_GUARD : Nat := 0x09000C
abbrev R.MAC_LBT : Nat := 0x090010
abbrev R.MAC_PARENT : Nat := 0x090014
abbrev R.MAC_CNT (n : Nat) : Nat := 0x090020 + 4 * (n % 4)
abbrev R.CIP_STAT : Nat := 0x0A0000
abbrev R.CIP_CNT : Nat := 0x0A0004
abbrev R.KEY_LCS : Nat := 0x0B0000
abbrev R.KEY_CTL : Nat := 0x0B0004
abbrev R.KEY_STAT : Nat := 0x0B0008
abbrev R.NWT_ROLE (n : Nat) : Nat := 0x0C0000 + 4 * (n % 64)
abbrev R.NWT_MOVE : Nat := 0x0C0100
abbrev R.NWT_STAT : Nat := 0x0C0104
abbrev R.NWT_CTL : Nat := 0x0C0108
abbrev R.NWT_BASK : Nat := 0x0C010C
abbrev R.NWT_CST (n : Nat) : Nat := 0x0C0400 + 8 * (n % 16)
abbrev R.NWT_FPC (n : Nat) : Nat := 0x0C0404 + 8 * (n % 16)
abbrev R.PIO_STAT : Nat := 0x0D0000
abbrev R.PIO_CTL : Nat := 0x0D0004
abbrev R.PIO_ADCSEQ : Nat := 0x0D0010
abbrev R.PIO_ADCLIST0 : Nat := 0x0D0014
abbrev R.PIO_ADCLIST1 : Nat := 0x0D0018
abbrev R.PIO_ADCRES (n : Nat) : Nat := 0x0D0080 + 4 * (n % 16)
abbrev R.PIO_CMP (n : Nat) : Nat := 0x0D0100 + 16 * (n % 4)
abbrev R.PIO_FMASKP (n : Nat) : Nat := 0x0D0104 + 16 * (n % 4)
abbrev R.PIO_FMASKG (n : Nat) : Nat := 0x0D0108 + 16 * (n % 4)
abbrev R.PIO_CMPBAK : Nat := 0x0D0140
abbrev R.PIO_PWMCFG (n : Nat) : Nat := 0x0D0200 + 16 * (n % 12)
abbrev R.PIO_PWMDUTY (n : Nat) : Nat := 0x0D0204 + 16 * (n % 12)
abbrev R.PIO_OUT (n : Nat) : Nat := 0x0D0300 + 4 * (n % 36)
abbrev R.PIO_GPIOCFG (n : Nat) : Nat := 0x0D0400 + 4 * (n % 24)
abbrev R.PIO_GPIOOUT : Nat := 0x0D0460
abbrev R.PIO_GPIOIN : Nat := 0x0D0464
abbrev R.PIO_ENCCFG (n : Nat) : Nat := 0x0D0500 + 16 * (n % 4)
abbrev R.PIO_ENCPOS (n : Nat) : Nat := 0x0D0504 + 16 * (n % 4)
abbrev R.PIO_ENCCAP (n : Nat) : Nat := 0x0D0508 + 16 * (n % 4)
abbrev R.PIO_ENCPER (n : Nat) : Nat := 0x0D050C + 16 * (n % 4)
abbrev R.PIO_SP (n : Nat) : Nat := 0x0D0600 + 4 * (n % 16)
abbrev R.PIO_SPNEW : Nat := 0x0D0640
abbrev R.EVM_STAT : Nat := 0x0E0000
abbrev R.EVM_SWEV : Nat := 0x0E0004
abbrev R.EVM_TS (n : Nat) : Nat := 0x0E0010 + 4 * (n % 4)
abbrev R.EVM_MERGED (n : Nat) : Nat := 0x0E0020 + 4 * (n % 3)
abbrev R.EVM_PMASK (c x : Nat) : Nat := 0x0E0100 + 32 * (c % 48) + 4 * (x % 4)
abbrev R.EVM_CMASK (c x : Nat) : Nat := 0x0E0110 + 32 * (c % 48) + 4 * (x % 3)
abbrev R.EVM_CCTL (n : Nat) : Nat := 0x0E011C + 32 * (n % 48)
abbrev R.LEHR_STAT : Nat := 0x0F0000
abbrev R.LEHR_CTL : Nat := 0x0F0004
abbrev R.LEHR_CNT0 : Nat := 0x0F0008
abbrev R.LEHR_CNT1 : Nat := 0x0F000C
abbrev R.LEHR_CAL0 : Nat := 0x0F0010
abbrev R.LEHR_CAL1 : Nat := 0x0F0014
abbrev R.LEHR_OFS : Nat := 0x0F0018
abbrev R.LEHR_ALM0 : Nat := 0x0F0020
abbrev R.LEHR_ALM1 : Nat := 0x0F0024
abbrev R.LEHR_PER : Nat := 0x0F0028
abbrev R.LEHR_TRIM : Nat := 0x0F002C
abbrev R.LEHR_CHG : Nat := 0x0F0030
abbrev R.LEHR_RET (n : Nat) : Nat := 0x0F0040 + 4 * (n % 8)
abbrev R.CFL_STAT : Nat := 0x100000
abbrev R.CFL_CTL : Nat := 0x100004
abbrev R.CFL_UNLOCK : Nat := 0x100008
abbrev R.CFL_CMD : Nat := 0x10000C
abbrev R.CFL_ADDR : Nat := 0x100010
abbrev R.CFL_DATA (n : Nat) : Nat := 0x100014 + 4 * (n % 4)
abbrev R.CFL_APBASE : Nat := 0x100024
abbrev R.CFL_WP : Nat := 0x100028
abbrev R.CFL_SECSEL : Nat := 0x10002C
abbrev R.CFL_SECSTAT : Nat := 0x100030
abbrev R.CFL_ECC : Nat := 0x100034
abbrev R.CFL_WEAR : Nat := 0x100038
abbrev R.CFL_LAYOUT : Nat := 0x100040
abbrev R.CFL_SMAP (n : Nat) : Nat := 0x100100 + 4 * (n % 8)
abbrev R.SVC_STAT : Nat := 0x110000
abbrev R.SVC_CTL : Nat := 0x110004
abbrev R.SVC_CNT : Nat := 0x110008
abbrev R.PMC_CTL0 : Nat := 0x120000
abbrev R.PMC_CTL1 : Nat := 0x120004
abbrev R.PMC_STAT : Nat := 0x120008
abbrev R.PMC_CYCL (n : Nat) : Nat := 0x121000 + 256 * (n % 16)
abbrev R.PMC_CYCH (n : Nat) : Nat := 0x121004 + 256 * (n % 16)
abbrev R.PMC_OVF (n : Nat) : Nat := 0x121008 + 256 * (n % 16)
abbrev R.PMC_SCTL (n : Nat) : Nat := 0x12100C + 256 * (n % 16)
abbrev R.PMC_SEL (n k : Nat) : Nat := 0x121010 + 256 * (n % 16) + 4 * (k % 8)
abbrev R.PMC_CNT (n k : Nat) : Nat := 0x121030 + 256 * (n % 16) + 4 * (k % 8)
abbrev R.PMC_SBUF (n : Nat) : Nat := 0x128000 + 1024 * (n % 16)
abbrev R.HLT_STAT : Nat := 0x130000
abbrev R.HLT_CAUSE : Nat := 0x130004
abbrev R.HLT_EVER : Nat := 0x130008
abbrev R.HLT_THR : Nat := 0x13000C
abbrev R.HLT_CTL : Nat := 0x130010
abbrev R.HLT_CNT : Nat := 0x130014
abbrev R.SMB_STAT : Nat := 0x140000

/-! ### Definitions -/

/-- A field with reserved encodings: bits hi to lo hold one of the ranges (R8). -/
structure Legal where
  hi : Nat
  lo : Nat
  ranges : List (Nat × Nat)
  deriving DecidableEq, Repr

/-- A register: its value at reset and its bits by access type (R7); every other bit is RO, WO or reserved. -/
structure RegDef where
  reset : Word := 0
  rw : Word := 0
  rwl : Word := 0
  w1c : Word := 0
  legal : List Legal := []
  deriving DecidableEq, Repr

/-- Where a register, or an indexed set of registers, lies in its block's window. -/
structure Place where
  off : Nat
  stride : Nat := 4
  n : Nat := 1
  stride2 : Nat := 65536
  n2 : Nat := 1
  deriving DecidableEq, Repr

/-- Whether an offset within the window is one of the place's registers. -/
def Place.has (p : Place) (o : Nat) : Bool :=
  decide (p.off ≤ o) &&
    let d := o - p.off
    decide (d / p.stride2 < p.n2) && decide (d % p.stride2 % p.stride = 0) && decide (d % p.stride2 / p.stride < p.n)

/-- The registers of GLB. -/
def rowsGLB : List (Place × RegDef) :=
  [
    -- GLB_CAP0 (R17)
    ({ off := 0x0 }, { reset := 0xfb090184 }),
    -- GLB_CAP1 (R18)
    ({ off := 0x4 }, { reset := 0x20322010 }),
    -- GLB_STAT (R19)
    ({ off := 0x8 }, { w1c := 0x7 })]

/-- The registers of PWR. -/
def rowsPWR : List (Place × RegDef) :=
  [
    -- PWR_CTL (R93)
    ({ off := 0x0 }, { reset := 0xe9, rwl := 0x4ff, legal := [⟨7, 3, [(0, 29)]⟩] }),
    -- PWR_STAT (R94)
    ({ off := 0x4 }, { reset := 0x78, w1c := 0x380 }),
    -- PWR_TMR (R95)
    ({ off := 0x8 }, { reset := 0x3c06414, rwl := 0xffffffff, legal := [⟨7, 0, [(1, 255)]⟩, ⟨19, 8, [(1, 4095)]⟩, ⟨31, 20, [(1, 4095)]⟩] }),
    -- PWR_RETSEL (R96)
    ({ off := 0xc }, { rwl := 0xffffffff }),
    -- PWR_WAKEEN (R97)
    ({ off := 0x10 }, { reset := 0x1e1, rw := 0x3ff }),
    -- PWR_WAKEST (R97)
    ({ off := 0x14 }, { w1c := 0xf3ff }),
    -- PWR_VETOD (R98)
    ({ off := 0x20 }, { rw := 0xffffffff }),
    -- PWR_VETOH0 (R98)
    ({ off := 0x24 }, { rw := 0xffffffff }),
    -- PWR_VETOH1 (R98)
    ({ off := 0x28 }, { rw := 0xffffffff })]

/-- The registers of CLK. -/
def rowsCLK : List (Place × RegDef) :=
  [
    -- CLK_CDCLOST (R33)
    ({ off := 0x40 }, { reset := 0xf0000 })]

/-- The registers of RST. -/
def rowsRST : List (Place × RegDef) :=
  [
    -- RST_CAUSE (R72)
    ({ off := 0x0 }, { reset := 0x1, w1c := 0xff }),
    -- RST_CTL (R73)
    ({ off := 0x4 }, { rwl := 0x5 }),
    -- RST_STAT (R74)
    ({ off := 0x8 }, { w1c := 0x5 }),
    -- RST_WDT_CTL (R70)
    ({ off := 0x10 }, { reset := 0x7d01, rwl := 0xffff1, legal := [⟨19, 4, [(1, 65535)]⟩] }),
    -- RST_WDT_KICK (R71)
    ({ off := 0x14 }, {  }),
    -- RST_STRAP (R43)
    ({ off := 0x20 }, {  })]

/-- The registers of HRI. -/
def rowsHRI : List (Place × RegDef) :=
  [
    -- HRI_CTL (R133)
    ({ off := 0x0 }, { rw := 0x1 }),
    -- HRI_STAT (R134)
    ({ off := 0x4 }, { w1c := 0x3d }),
    -- HRI_QCTL (R135)
    ({ off := 0x8 }, { rw := 0xfffff000 }),
    -- HRI_QCTH (R135)
    ({ off := 0xc }, { rw := 0xffffffff }),
    -- HRI_INFL (R136)
    ({ off := 0x10 }, {  }),
    -- HRI_QEX0 (R137)
    ({ off := 0x20 }, {  }),
    -- HRI_QEX1 (R137)
    ({ off := 0x24 }, {  }),
    -- HRI_QFRZ0 (R137)
    ({ off := 0x28 }, {  }),
    -- HRI_QFRZ1 (R137)
    ({ off := 0x2c }, {  })]

/-- The registers of STO. -/
def rowsSTO : List (Place × RegDef) :=
  [
    -- STO_STAT (R195)
    ({ off := 0x0 }, { reset := 0x3f0000, w1c := 0x4e1 }),
    -- STO_CTL (R196)
    ({ off := 0x4 }, { reset := 0x1, rwl := 0x7 }),
    -- STO_RGCTL (R197)
    ({ off := 0x8 }, { reset := 0x10a, rwl := 0x13f, legal := [⟨5, 0, [(1, 45)]⟩] }),
    -- STO_RGTOTAL (R198)
    ({ off := 0xc }, {  }),
    -- STO_RGLEFT (R198)
    ({ off := 0x10 }, {  }),
    -- STO_HEALTH (R199)
    ({ off := 0x14 }, { reset := 0xfffff })]

/-- The registers of JNL. -/
def rowsJNL : List (Place × RegDef) :=
  [
    -- JNL_CTL (R322)
    ({ off := 0x0 }, { reset := 0x11, rw := 0x1, rwl := 0x7fe, legal := [⟨9, 1, [(1, 400)]⟩] }),
    -- JNL_STAT (R323)
    ({ off := 0x4 }, { w1c := 0x21 }),
    -- JNL_CSEQ (R324)
    ({ off := 0x8 }, {  }),
    -- JNL_CLSEQ (R324)
    ({ off := 0xc }, {  }),
    -- JNL_OLDEST (R324)
    ({ off := 0x10 }, {  }),
    -- JNL_PINS (R324)
    ({ off := 0x14 }, {  }),
    -- JNL_LOST (R324)
    ({ off := 0x18 }, {  })]

/-- The registers of RFS. -/
def rowsRFS : List (Place × RegDef) :=
  [
    -- RFS_CTL (R233)
    ({ off := 0x0 }, { rw := 0x3, rwl := 0x4 }),
    -- RFS_STAT (R234)
    ({ off := 0x4 }, { reset := 0x400, w1c := 0x1841 }),
    -- RFS_WIN (R235)
    ({ off := 0x8 }, { reset := 0xd3ea0, rw := 0xfffff, legal := [⟨19, 0, [(784000, 955000)]⟩] }),
    -- RFS_APPLY (R236)
    ({ off := 0xc }, {  }),
    -- RFS_TXCFG (R237)
    ({ off := 0x10 }, { reset := 0x40a3c, rw := 0x1fffc0, rwl := 0x3f, legal := [⟨5, 0, [(0, 60)]⟩, ⟨11, 6, [(0, 60)]⟩, ⟨20, 14, [(2, 64)]⟩] }),
    -- RFS_TXCRC (R246)
    ({ off := 0x14 }, { rwl := 0xffffffff }),
    -- RFS_CAL (R238)
    ({ off := 0x20 }, { reset := 0x28, rwl := 0x7c }),
    -- RFS_CALSTAT (R239)
    ({ off := 0x24 }, {  }),
    -- RFS_PCLAMP (R240)
    ({ off := 0x28 }, { reset := 0x3c3c3c3c }),
    -- RFS_TYMCFGn (R241)
    ({ off := 0x100, stride := 8, n := 16 }, { rw := 0xfff }),
    -- RFS_TYMDETn (R242)
    ({ off := 0x104, stride := 8, n := 16 }, { reset := 0x81c, rw := 0xfff, legal := [⟨7, 0, [(0, 100)]⟩, ⟨11, 8, [(1, 15)]⟩] }),
    -- RFS_TYMCNTn (R243)
    ({ off := 0x200, n := 16 }, {  }),
    -- RFS_FIRn (R244)
    ({ off := 0x400, n := 32 }, { rwl := 0xffff }),
    -- RFS_MASKn (R245)
    ({ off := 0x480, n := 16 }, { reset := 0xffff, rwl := 0xffffff, legal := [⟨15, 0, [(0, 5000), (65535, 65535)]⟩] })]

/-- The registers of RF2. -/
def rowsRF2 : List (Place × RegDef) :=
  [
    -- RF2_CTL (R247)
    ({ off := 0x0 }, { reset := 0xe500, rw := 0x7ffff, legal := [⟨10, 6, [(0, 30)]⟩, ⟨18, 11, [(0, 100)]⟩] }),
    -- RF2_STAT (R248)
    ({ off := 0x4 }, { w1c := 0x9 })]

/-- The registers of MAC. -/
def rowsMAC : List (Place × RegDef) :=
  [
    -- MAC_CTL (R288)
    ({ off := 0x0 }, { reset := 0xffff0000, rw := 0x7, rwl := 0xffffff08 }),
    -- MAC_STAT (R289)
    ({ off := 0x4 }, { w1c := 0x3 }),
    -- MAC_SCHED (R290)
    ({ off := 0x8 }, {  }),
    -- MAC_GUARD (R291)
    ({ off := 0xc }, { reset := 0xc864096, rw := 0x1fffffff, legal := [⟨9, 0, [(0, 1000)]⟩, ⟨19, 10, [(1, 1000)]⟩, ⟨28, 20, [(50, 500)]⟩] }),
    -- MAC_LBT (R292)
    ({ off := 0x10 }, { reset := 0x1d8337, rwl := 0x3fffff, legal := [⟨7, 0, [(0, 100)]⟩, ⟨11, 8, [(3, 8)]⟩, ⟨15, 12, [(3, 8)]⟩, ⟨18, 16, [(1, 5)]⟩] }),
    -- MAC_PARENT (R293)
    ({ off := 0x14 }, { rw := 0x1ffffff, legal := [⟨24, 12, [(0, 5999)]⟩] }),
    -- MAC_CNTx (R294)
    ({ off := 0x20, n := 3 }, {  })]

/-- The registers of CIP. -/
def rowsCIP : List (Place × RegDef) :=
  [
    -- CIP_STAT (R356)
    ({ off := 0x0 }, { w1c := 0x5 }),
    -- CIP_CNT (R357)
    ({ off := 0x4 }, {  })]

/-- The registers of KEY. -/
def rowsKEY : List (Place × RegDef) :=
  [
    -- KEY_LCS (R358)
    ({ off := 0x0 }, {  }),
    -- KEY_CTL (R359)
    ({ off := 0x4 }, { rwl := 0x3 }),
    -- KEY_STAT (R360)
    ({ off := 0x8 }, { w1c := 0x3 })]

/-- The registers of NWT. -/
def rowsNWT : List (Place × RegDef) :=
  [
    -- NWT_ROLEn (R421)
    ({ off := 0x0, n := 64 }, { reset := 0x1f0000 }),
    -- NWT_MOVE (R422)
    ({ off := 0x100 }, {  }),
    -- NWT_STAT (R423)
    ({ off := 0x104 }, { w1c := 0x41 }),
    -- NWT_CTL (R424)
    ({ off := 0x108 }, { reset := 0xa7d01, rwl := 0xfffff3, legal := [⟨15, 4, [(1, 4095)]⟩, ⟨23, 16, [(1, 255)]⟩] }),
    -- NWT_BASK (R425)
    ({ off := 0x10c }, {  }),
    -- NWT_CSTn (R398)
    ({ off := 0x400, stride := 8, n := 16 }, { reset := 0x6 }),
    -- NWT_FPCn (R399)
    ({ off := 0x404, stride := 8, n := 16 }, {  })]

/-- The registers of PIO. -/
def rowsPIO : List (Place × RegDef) :=
  [
    -- PIO_STAT (R451)
    ({ off := 0x0 }, { w1c := 0x1f5 }),
    -- PIO_CTL (R452)
    ({ off := 0x4 }, { rw := 0xff, rwl := 0x100 }),
    -- PIO_ADCSEQ (R453)
    ({ off := 0x10 }, { rw := 0xffff007e }),
    -- PIO_ADCLIST0 (R453)
    ({ off := 0x14 }, { rw := 0xffffffff, legal := [⟨3, 0, [(0, 9)]⟩, ⟨7, 4, [(0, 9)]⟩, ⟨11, 8, [(0, 9)]⟩, ⟨15, 12, [(0, 9)]⟩, ⟨19, 16, [(0, 9)]⟩, ⟨23, 20, [(0, 9)]⟩, ⟨27, 24, [(0, 9)]⟩, ⟨31, 28, [(0, 9)]⟩] }),
    -- PIO_ADCLIST1 (R453)
    ({ off := 0x18 }, { rw := 0xffffffff, legal := [⟨3, 0, [(0, 9)]⟩, ⟨7, 4, [(0, 9)]⟩, ⟨11, 8, [(0, 9)]⟩, ⟨15, 12, [(0, 9)]⟩, ⟨19, 16, [(0, 9)]⟩, ⟨23, 20, [(0, 9)]⟩, ⟨27, 24, [(0, 9)]⟩, ⟨31, 28, [(0, 9)]⟩] }),
    -- PIO_ADCRESm (R453)
    ({ off := 0x80, n := 16 }, {  }),
    -- PIO_CMPn (R436)
    ({ off := 0x100, stride := 16, n := 4 }, { rwl := 0x3ffff, w1c := 0x80000 }),
    -- PIO_FMASKPn (R437)
    ({ off := 0x104, stride := 16, n := 4 }, { rwl := 0xfff }),
    -- PIO_FMASKGn (R437)
    ({ off := 0x108, stride := 16, n := 4 }, { rwl := 0xffffff }),
    -- PIO_CMPBAK (R437)
    ({ off := 0x140 }, { w1c := 0xf }),
    -- PIO_PWMCFGn (R440)
    ({ off := 0x200, stride := 16, n := 12 }, { rw := 0xffff003f }),
    -- PIO_PWMDUTYn (R440)
    ({ off := 0x204, stride := 16, n := 12 }, { rw := 0xffff, legal := [⟨15, 0, [(0, 32768)]⟩] }),
    -- PIO_OUTn (R443)
    ({ off := 0x300, n := 36 }, { reset := 0x2, rwl := 0xfffff, legal := [⟨1, 0, [(0, 2)]⟩] }),
    -- PIO_GPIOCFGn (R442)
    ({ off := 0x400, n := 24 }, { reset := 0x2, rw := 0x3f, legal := [⟨2, 1, [(0, 2)]⟩] }),
    -- PIO_GPIOOUT (R442)
    ({ off := 0x460 }, { rw := 0xffffff }),
    -- PIO_GPIOIN (R442)
    ({ off := 0x464 }, {  }),
    -- PIO_ENCCFGn (R445)
    ({ off := 0x500, stride := 16, n := 4 }, { rw := 0xfff }),
    -- PIO_ENCPOSn (R445)
    ({ off := 0x504, stride := 16, n := 4 }, { rw := 0xffffffff }),
    -- PIO_ENCCAPn (R445)
    ({ off := 0x508, stride := 16, n := 4 }, {  }),
    -- PIO_ENCPERn (R445)
    ({ off := 0x50c, stride := 16, n := 4 }, { reset := 0xffffffff }),
    -- PIO_SPn (R450)
    ({ off := 0x600, n := 16 }, { rw := 0xffffffff }),
    -- PIO_SPNEW (R450)
    ({ off := 0x640 }, { w1c := 0xffff })]

/-- The registers of EVM. -/
def rowsEVM : List (Place × RegDef) :=
  [
    -- EVM_STAT (R465)
    ({ off := 0x0 }, { w1c := 0x3 }),
    -- EVM_SWEV (R466)
    ({ off := 0x4 }, {  }),
    -- EVM_TSn (R467)
    ({ off := 0x10, n := 4 }, {  }),
    -- EVM_MERGEDx (R468)
    ({ off := 0x20, n := 2 }, { w1c := 0xffffffff }),
    -- EVM_MERGED2 (R468)
    ({ off := 0x28 }, { w1c := 0x3ffffff }),
    -- EVM_PMASKxc (R469)
    ({ off := 0x100, n := 4, stride2 := 32, n2 := 48 }, { rwl := 0xffffffff }),
    -- EVM_CMASKxc (R469)
    ({ off := 0x110, n := 2, stride2 := 32, n2 := 48 }, { rwl := 0xffffffff }),
    -- EVM_CMASK2c (R469)
    ({ off := 0x118, n := 1, stride2 := 32, n2 := 48 }, { rwl := 0x3ffffff }),
    -- EVM_CCTLc (R469)
    ({ off := 0x11c, stride := 32, n := 48 }, { rwl := 0x3 })]

/-- The registers of LEHR. -/
def rowsLEHR : List (Place × RegDef) :=
  [
    -- LEHR_STAT (R487)
    ({ off := 0x0 }, { reset := 0x6, w1c := 0x2ed }),
    -- LEHR_CTL (R488)
    ({ off := 0x4 }, { rwl := 0x18 }),
    -- LEHR_CNT0 (R489)
    ({ off := 0x8 }, { rw := 0xffff8000 }),
    -- LEHR_CNT1 (R489)
    ({ off := 0xc }, { rw := 0x7fffff }),
    -- LEHR_CAL0 (R490)
    ({ off := 0x10 }, { reset := 0x1000000, rw := 0x1f1f3f3f }),
    -- LEHR_CAL1 (R490)
    ({ off := 0x14 }, { reset := 0x607d001, rw := 0x3fff0f }),
    -- LEHR_OFS (R491)
    ({ off := 0x18 }, { rw := 0x8003ffff, legal := [⟨17, 0, [(0, 64800), (197344, 262143)]⟩] }),
    -- LEHR_ALM0 (R492)
    ({ off := 0x20 }, { rw := 0xffffffff }),
    -- LEHR_ALM1 (R492)
    ({ off := 0x24 }, { rw := 0x807fffff }),
    -- LEHR_PER (R493)
    ({ off := 0x28 }, { rw := 0x3ffffff }),
    -- LEHR_TRIM (R494)
    ({ off := 0x2c }, { rwl := 0xff, legal := [⟨7, 0, [(0, 127), (129, 255)]⟩] }),
    -- LEHR_CHG (R495)
    ({ off := 0x30 }, { rwl := 0xf, legal := [⟨2, 1, [(0, 2)]⟩] }),
    -- LEHR_RETn (R496)
    ({ off := 0x40, n := 8 }, { rw := 0xffffffff })]

/-- The registers of CFL. -/
def rowsCFL : List (Place × RegDef) :=
  [
    -- CFL_STAT (R515)
    ({ off := 0x0 }, { w1c := 0xf9 }),
    -- CFL_CTL (R516)
    ({ off := 0x4 }, { rwl := 0x4 }),
    -- CFL_UNLOCK (R517)
    ({ off := 0x8 }, {  }),
    -- CFL_CMD (R517)
    ({ off := 0xc }, {  }),
    -- CFL_ADDR (R517)
    ({ off := 0x10 }, {  }),
    -- CFL_DATAx (R517)
    ({ off := 0x14, n := 4 }, {  }),
    -- CFL_APBASE (R518)
    ({ off := 0x24 }, { rw := 0xff }),
    -- CFL_WP (R518)
    ({ off := 0x28 }, { rwl := 0x1ffff, legal := [⟨7, 0, [(0, 141)]⟩, ⟨15, 8, [(0, 141)]⟩] }),
    -- CFL_SECSEL (R518)
    ({ off := 0x2c }, { rw := 0xff, legal := [⟨7, 0, [(0, 141)]⟩] }),
    -- CFL_SECSTAT (R518), answered from the information area
    ({ off := 0x30 }, { }),
    -- CFL_ECC (R519)
    ({ off := 0x34 }, {  }),
    -- CFL_WEAR (R519)
    ({ off := 0x38 }, {  }),
    -- CFL_LAYOUT (R501)
    ({ off := 0x40 }, { reset := 0x32212 }),
    -- CFL_SMAPn (R499)
    ({ off := 0x100 }, { reset := 0xd0010 }),
    ({ off := 0x104 }, { reset := 0x10007e })]

/-- The registers of SVC. -/
def rowsSVC : List (Place × RegDef) :=
  [
    -- SVC_STAT (R534)
    ({ off := 0x0 }, { w1c := 0x1 }),
    -- SVC_CTL (R535)
    ({ off := 0x4 }, { rwl := 0x7 }),
    -- SVC_CNT (R536)
    ({ off := 0x8 }, {  })]

/-- The registers of PMC. -/
def rowsPMC : List (Place × RegDef) :=
  [
    -- PMC_CTL0 (R543)
    ({ off := 0x0 }, { rwl := 0xffff0001 }),
    -- PMC_CTL1 (R543)
    ({ off := 0x4 }, { rwl := 0xffffffff }),
    -- PMC_STAT (R543)
    ({ off := 0x8 }, { w1c := 0x3 }),
    -- PMC_CYCLn (R544)
    ({ off := 0x1000, stride := 256, n := 16 }, {  }),
    -- PMC_CYCHn (R544)
    ({ off := 0x1004, stride := 256, n := 16 }, {  }),
    -- PMC_OVFn (R544)
    ({ off := 0x1008, stride := 256, n := 16 }, { w1c := 0xff }),
    -- PMC_SCTLn (R547)
    ({ off := 0x100c, stride := 256, n := 16 }, { reset := 0x10, rw := 0x1fffff, legal := [⟨3, 1, [(0, 5)]⟩, ⟨19, 4, [(1, 65535)]⟩] }),
    -- PMC_SELkn (R544)
    ({ off := 0x1010, n := 8, stride2 := 256, n2 := 16 }, { rw := 0x7f, legal := [⟨5, 0, [(0, 15)]⟩] }),
    -- PMC_CNTkn (R544)
    ({ off := 0x1030, n := 8, stride2 := 256, n2 := 16 }, { rw := 0xffffffff }),
    -- PMC_SBUFn (R546), answered from the sampling buffers
    ({ off := 0x8000, n := 4096 }, { })]

/-- The registers of HLT. -/
def rowsHLT : List (Place × RegDef) :=
  [
    -- HLT_STAT (R556)
    ({ off := 0x0 }, { w1c := 0x9 }),
    -- HLT_CAUSE (R557)
    ({ off := 0x4 }, {  }),
    -- HLT_EVER (R557)
    ({ off := 0x8 }, {  }),
    -- HLT_THR (R558)
    ({ off := 0xc }, { reset := 0x1b31033, rwl := 0xfffff7f, legal := [⟨3, 0, [(1, 15)]⟩, ⟨6, 4, [(1, 7)]⟩, ⟨15, 8, [(1, 255)]⟩, ⟨23, 16, [(64, 191)]⟩, ⟨27, 24, [(1, 15)]⟩] }),
    -- HLT_CTL (R559)
    ({ off := 0x10 }, { reset := 0x1802, rwl := 0xff07 }),
    -- HLT_CNT (R560)
    ({ off := 0x14 }, {  })]

/-- The registers of SMB. -/
def rowsSMB : List (Place × RegDef) :=
  [
    -- SMB_STAT (R564)
    ({ off := 0x0 }, { w1c := 0x3 })]

/-- The registers of a block, by its number in the block map. -/
def blockRows : Nat → List (Place × RegDef)
  | 0 => rowsGLB
  | 1 => rowsPWR
  | 2 => rowsCLK
  | 3 => rowsRST
  | 4 => rowsHRI
  | 5 => rowsSTO
  | 6 => rowsJNL
  | 7 => rowsRFS
  | 8 => rowsRF2
  | 9 => rowsMAC
  | 10 => rowsCIP
  | 11 => rowsKEY
  | 12 => rowsNWT
  | 13 => rowsPIO
  | 14 => rowsEVM
  | 15 => rowsLEHR
  | 16 => rowsCFL
  | 17 => rowsSVC
  | 18 => rowsPMC
  | 19 => rowsHLT
  | 20 => rowsSMB
  | _ => []

/-- The first row that has the offset. -/
def findRow (o : Nat) : List (Place × RegDef) → Option RegDef
  | [] => none
  | (p, d) :: r => if p.has o then some d else findRow o r

/-- The register at a BAR0 offset, if one is defined there (R5). -/
def regDef (a : Nat) : Option RegDef :=
  findRow (a % 65536) (blockRows (a / 65536))

/-- NWT_ROLEn resets with its CLASS by n and INCOMING 0x1F (R421); every other register by its row. -/
def resetVal (a : Nat) : Word :=
  if R.NWT_ROLE 0 ≤ a ∧ a < R.NWT_ROLE 0 + 256 ∧ a % 4 = 0 then
    (if a < R.NWT_ROLE 32 then 0x1F0000 else 0x1F0080)
  else match regDef a with
    | some d => d.reset
    | none => 0

/-- The status register of a block and the bit of its BADVAL (R4); CLK has none. -/
def badvalOf : Nat → Option (Nat × Nat)
  | 0 => some (R.GLB_STAT, 0)
  | 1 => some (R.PWR_STAT, 7)
  | 3 => some (R.RST_STAT, 0)
  | 4 => some (R.HRI_STAT, 0)
  | 5 => some (R.STO_STAT, 0)
  | 6 => some (R.JNL_STAT, 0)
  | 7 => some (R.RFS_STAT, 0)
  | 8 => some (R.RF2_STAT, 0)
  | 9 => some (R.MAC_STAT, 0)
  | 10 => some (R.CIP_STAT, 0)
  | 11 => some (R.KEY_STAT, 0)
  | 12 => some (R.NWT_STAT, 0)
  | 13 => some (R.PIO_STAT, 0)
  | 14 => some (R.EVM_STAT, 0)
  | 15 => some (R.LEHR_STAT, 0)
  | 16 => some (R.CFL_STAT, 0)
  | 17 => some (R.SVC_STAT, 0)
  | 18 => some (R.PMC_STAT, 0)
  | 19 => some (R.HLT_STAT, 0)
  | 20 => some (R.SMB_STAT, 0)
  | _ => none

/-- The LOCK bit that governs the RWL fields at an offset (R7): its register and bit. An event channel has its
own (R463); the lehr-held registers of PIO have PIO_CTL.LOCK (R427). -/
def lockOf (a : Nat) : Nat × Nat :=
  match a / 65536 with
  | 1 => (R.PWR_CTL, 10)
  | 3 => (R.RST_CTL, 2)
  | 5 => (R.STO_CTL, 2)
  | 6 => (R.JNL_CTL, 10)
  | 7 => (R.RFS_CTL, 2)
  | 9 => (R.MAC_CTL, 3)
  | 11 => (R.KEY_CTL, 1)
  | 12 => (R.NWT_CTL, 1)
  | 13 => (R.PIO_CTL, 8)
  | 14 => (a / 32 * 32 + 0x1C, 1)
  | 15 => (R.LEHR_CTL, 4)
  | 16 => (R.CFL_CTL, 2)
  | 17 => (R.SVC_CTL, 2)
  | 18 => (R.PMC_CTL0, 0)
  | _ => (R.HLT_CTL, 0)

end Sys2Proof.Machine
end

