-- ==== Sys2Proof/Machine/Flags.lean ====
section
/-! DEFINITION. Registers in the state: reading, writing, fields, status flags (W1C bits, BADVAL), counters, and
the generic effect of a write by the field types of R7. -/

namespace Sys2Proof.Machine

/-- A register's present value. -/
def State.rd (s : State) (a : Nat) : Word := tget resetVal s.regs a

/-- Give a register a value, as hardware does. -/
def State.wr (a : Nat) (v : Word) (s : State) : State :=
  { s with regs := tset resetVal s.regs a v }

/-- Bits hi to lo of a register. -/
def State.rf (s : State) (a hi lo : Nat) : Nat := fld hi lo (s.rd a)

/-- One bit of a register. -/
def State.rb (s : State) (a i : Nat) : Bool := bit i (s.rd a)

/-- Hardware writes bits hi to lo. -/
def State.wf (a hi lo v : Nat) (s : State) : State := s.wr a (putFld hi lo v (s.rd a))

/-- Hardware writes one bit. -/
def State.wb (a i : Nat) (b : Bool) (s : State) : State := s.wr a (putBit i b (s.rd a))

/-- Set a status flag. -/
def State.flag (a i : Nat) (s : State) : State := s.wb a i true

/-- Add to a count held in bits hi to lo, modulo its width. -/
def State.count (a hi lo k : Nat) (s : State) : State := s.wf a hi lo (s.rf a hi lo + k)

/-- Add one to a count that stops at its largest value. -/
def State.countSat (a hi lo : Nat) (s : State) : State :=
  s.wf a hi lo (min (2 ^ (hi + 1 - lo) - 1) (s.rf a hi lo + 1))

/-- Give back their reset values to all registers that p names. -/
def State.resetRegs (p : Nat → Bool) (s : State) : State := { s with regs := tclear p s.regs }

/-- Set BADVAL in the status register of the block that holds an offset (R4). -/
def State.badval (a : Nat) (s : State) : State :=
  match badvalOf (a / 65536) with
  | some (r, i) => s.flag r i
  | none => s

/-- Whether a value of a field is among its legal encodings. -/
def Legal.ok (l : Legal) (w : Word) : Bool :=
  l.ranges.any fun r => decide (r.1 ≤ fld l.hi l.lo w) && decide (fld l.hi l.lo w ≤ r.2)

/-- R8: each field that would take a reserved encoding keeps its old value; whether any did. -/
def keepLegal (old : Word) : List Legal → Word → Word × Bool
  | [], new => (new, false)
  | l :: r, new =>
    if l.ok new then keepLegal old r new
    else ((keepLegal old r (putFld l.hi l.lo (fld l.hi l.lo old) new)).1, true)

/-- The new value of a register by its field types (R6, R7, R8), and whether BADVAL is set. -/
def writeFields (d : RegDef) (locked : Bool) (old data : Word) : Word × Bool :=
  let (new, bad) := keepLegal old d.legal data
  let open' := if locked then d.rw else d.rw ||| d.rwl
  let stored := mixBits open' old new
  let refused := locked && decide (new &&& d.rwl ≠ old &&& d.rwl)
  (stored &&& ~~~(d.w1c &&& new), bad || refused)

/-- A write of a whole word by the field types alone; an undefined offset ignores it (R5). -/
def State.writeReg (a : Nat) (data : Word) (s : State) : State :=
  match regDef a with
  | none => s
  | some d =>
    let (l, i) := lockOf a
    let (v, bad) := writeFields d (s.rb l i) (s.rd a) data
    let s := s.wr a v
    if bad then s.badval a else s

/-- A read answers its master. -/
def State.answer (m : Master) (w : Word) (s : State) : State := { s with answers := s.answers ++ [(m, w)] }

/-- A register of Advanced Error Reporting at reset (R99), PRESUMED (log 125): as PCI Express has it. -/
def aerReset (o : Nat) : Word := if o = 0x0C then 0x00462030 else if o = 0x14 then 0x2000 else 0

/-- A register of Advanced Error Reporting. -/
def State.aerWord (o : Nat) (s : State) : Word := tget aerReset s.hri.aer o

/-- An access completes with an error response (R13, R16); the host sees a Completer Abort, which Advanced Error Reporting
records as bit 15 of its Uncorrectable Error Status (R13, R99). -/
def State.accessError (m : Master) (s : State) : State :=
  let s : State := { s with link.errors := s.link.errors ++ [m] }
  if m = .host then { s with hri.aer := tset aerReset s.hri.aer 4 (s.aerWord 4 ||| 0x8000) } else s

/-- Take the next free value of the model. -/
def State.freeNat (s : State) : Nat × State := (Config.freeNat s.free, { s with free := s.free + 1 })

/-- Take the next free choice of the model. -/
def State.freeBool (s : State) : Bool × State := (Config.freeBool s.free, { s with free := s.free + 1 })

end Sys2Proof.Machine
end

