-- ==== Sys2Proof/Machine/Ops.lean ====
section
/-! DEFINITION. The operations every family shares: the RTC's time stamp, host memory, rings and their signals,
events (R128), completions and errors of commands (R116, R156), scatter lists (R118, R119). -/

namespace Sys2Proof.Machine

/-- What a command answers. -/
abbrev Out := Host.Outcome State Fault Refusal

/-! ### Time -/

/-- Seconds x 1,024 + fraction / 32, modulo 2^32 (R116). -/
def State.time32 (s : State) : Word :=
  BitVec.ofNat 32 (s.lehr.sec.toNat * 1024 + s.lehr.frac.toNat / 32)

/-- The RTC count in the count layout: seconds above a 15-bit fraction (R471). -/
def State.count64 (s : State) : Dword :=
  BitVec.ofNat 64 (s.lehr.sec.toNat * 32768 + s.lehr.frac.toNat)

/-! ### Power as the rules name it -/

/-- PWR_STAT.STATE: 0 RUN, 1 IDLE, 2 DOZE, 3 HUSH, 4 waking (R94). -/
def State.pstate (s : State) : Nat := s.rf R.PWR_STAT 2 0

/-- D0's logic runs: RUN, IDLE, DOZE or a wake from DOZE. -/
def State.d0up (s : State) : Bool := s.power.phase == .run && s.power.d0run

/-- Islands A to C are gated or being woken (R81, R88). -/
def State.gated (s : State) : Bool := decide (2 ≤ s.pstate)

/-- The data class runs: RUN or IDLE. -/
def State.dataUp (s : State) : Bool := s.d0up && !s.gated

/-! ### Queues -/

def State.q (s : State) (n : Nat) : Queue := tget (fun _ => {}) s.hri.queues n

def State.setQ (n : Nat) (q : Queue) (s : State) : State :=
  { s with hri.queues := tset (fun _ => {}) s.hri.queues n q }

def State.modQ (n : Nat) (f : Queue → Queue) (s : State) : State := s.setQ n (f (s.q n))

/-- Entries written and not yet consumed (R106). -/
def Queue.used (q : Queue) : Nat := (q.cqtail + q.cqsize - q.cqhead) % q.cqsize

/-- Entries that fit before the device-written ring is full (R106). -/
def Queue.room (q : Queue) : Nat := q.cqsize - 1 - q.used

/-- Submission entries the host has announced and the device has not fetched (R106). -/
def Queue.waiting (q : Queue) : Nat := (q.sqtail + q.sqsize - q.sqhead) % q.sqsize

def State.vec (s : State) (v : Nat) : Vector' := tget (fun _ => {}) s.hri.vectors v

def State.setVec (v : Nat) (x : Vector') (s : State) : State :=
  { s with hri.vectors := tset (fun _ => {}) s.hri.vectors v x }

/-- The message of a vector is sent (R127). -/
def State.sendMsg (v : Nat) (s : State) : State :=
  let x := s.vec v
  s.setVec v { x with pending := false, sent := x.sent + 1, last := some (x.addr, x.data) }

/-- No message can be sent now: the function is masked, or in D3hot, where the device writes no memory (R101, R127). -/
def State.msixHeld (s : State) : Bool := s.hri.funcMask || s.hri.d3hot

/-- R127: a ring signals its vector. A masked vector becomes pending; with MSI-X disabled nothing is sent. -/
def State.signal (v : Nat) (s : State) : State :=
  if !s.hri.msixEnable then s
  else
    let x := s.vec v
    if x.masked || s.msixHeld then s.setVec v { x with pending := true } else s.sendMsg v

/-- R127: what was held has ended; pending messages of vectors not masked are sent. -/
def State.sendPending (s : State) : State :=
  if !s.hri.msixEnable || s.msixHeld then s
  else (List.range 64).foldl (fun s v => if (s.vec v).pending && !(s.vec v).masked then s.sendMsg v else s) s

/-- R126: an entry has been written to a ring; it signals now or is counted and starts the timer. DESIGN CHOICE (log 43): an
entry written while IEN is 0 is not counted, so it does not count towards CTHRESH once IEN is 1. -/
def State.ringWritten (n : Nat) (urgent : Bool) (s : State) : State :=
  let q := s.q n
  if !q.ien then s
  else if urgent || (q.cthresh == 0 && q.ctime == 0) || (q.cthresh != 0 && decide (q.cthresh ≤ q.count + 1)) then
    (s.setQ n { q with count := 0, timer := false }).signal q.vector
  else s.setQ n { q with count := q.count + 1, timer := q.timer || q.ctime != 0 }

/-- Bytes written to host memory from an address on. -/
def putBytes (a : Nat) : List Byte → List Host.Cell → List Host.Cell
  | [], m => m
  | b :: r, m => putBytes (a + 1) r (tins a b m)

/-- The device writes a ring entry: no Relaxed Ordering, no No Snoop (R102). -/
def State.hostWrite (a : Nat) (l : List Byte) (s : State) : State :=
  { s with hri.hostMem := putBytes a l s.hri.hostMem, hri.relaxed := false, hri.noSnoop := false }

/-- Put the phase bit at bit 0 of byte 8 of an entry (R109). -/
def withPhase (p : Bool) (l : List Byte) : List Byte :=
  l.set 8 ((l.getD 8 0 &&& 0xFE) ||| (if p then 1 else 0))

/-- Write one entry at the tail of a device-written ring and advance it (R109, R110); the entry counts as written
also where the host answers an error (R130). Answers whether the write succeeded. -/
def State.ringPut (n : Nat) (l : List Byte) (s : State) : State × Bool :=
  let q := s.q n
  let a := q.cqbase + q.cqtail * l.length
  let t := (q.cqtail + 1) % q.cqsize
  let s' := s.setQ n { q with cqtail := t, phase := if t = 0 then !q.phase else q.phase }
  if s.hri.badAddrs.contains a then (s', false)
  else (s'.hostWrite a (withPhase q.phase l), true)

/-! ### Events (R128) -/

/-- The 16 bytes of an event entry, its phase bit clear. -/
def Event.bytes (e : Event) (time : Word) : List Byte :=
  leBytes 4 e.detail.toNat ++ leBytes 2 e.code.toNat ++ leBytes 2 e.seq.toNat ++
    leBytes 2 (e.severity.toNat * 2) ++ leBytes 2 e.source.toNat ++ leBytes 4 time.toNat

/-- The event ring can take an entry now: it exists, is not full, D0 runs and rings are written (R101, R128). -/
def State.evReady (s : State) : Bool :=
  (s.q 35).exists' && !s.hri.d3hot && s.d0up && decide (0 < (s.q 35).room)

/-- Write one event to the ring; TIME is the time of writing, and error and urgent signal at once (R126, R128). A
write that the host answers with an error sets RINGERR (R134). -/
def State.putEvent (e : Event) (s : State) : State :=
  let (s', ok) := s.ringPut 35 (e.bytes s.time32)
  let s' := s'.ringWritten 35 (decide (2 ≤ e.severity.toNat))
  if ok then s' else s'.flag R.HRI_STAT 5

/-- Make an event with the next sequence number. -/
def State.newEvent (code : Nat) (sev : Nat) (source : Nat) (detail : Nat) (s : State) : Event × State :=
  ({ code := BitVec.ofNat 16 code, severity := BitVec.ofNat 2 sev, source := BitVec.ofNat 16 source,
     detail := BitVec.ofNat 32 detail, seq := s.hri.evSeq, time := s.time32 },
   { s with hri.evSeq := s.hri.evSeq + 1 })

/-- R128: raise an event. It is written, or held in order, or, as the 65th held discarded and counted. -/
def State.post (code sev source detail : Nat) (s : State) : State :=
  if s.power.phase != .run then s else
  let (e, s) := s.newEvent code sev source detail
  if s.evReady && s.hri.held.isEmpty && s.hri.lostRun == 0 then s.putEvent e
  else if s.hri.held.length < 64 then { s with hri.held := s.hri.held ++ [e] }
  else
    let s := s.count R.HRI_STAT 15 8 1
    { s with hri.lostRun := s.hri.lostRun + 1 }

/-- Write held events in order while the ring has room. -/
def drainHeld : List Event → State → State
  | [], s => { s with hri.held := [] }
  | e :: r, s => if s.evReady then drainHeld r (s.putEvent e) else { s with hri.held := e :: r }

/-- R128: space has returned; the held events are written, then one EVLOST entry if any were discarded. -/
def State.drainEvents (s : State) : State :=
  let s := drainHeld s.hri.held s
  if s.evReady && s.hri.held.isEmpty && s.hri.lostRun != 0 then
    let n := s.hri.lostRun
    let (e, s) := s.newEvent 7 1 0 n
    ({ s with hri.lostRun := 0 } : State).putEvent e
  else s

/-- Single-bit SRAM errors are corrected, written back and counted (R25). -/
def State.sramFixed (k : Nat) (s : State) : State := s.count R.GLB_STAT 31 16 k

/-- An uncorrectable SRAM error is found (R26): SRAMUE, with its event (R129). -/
def State.sramUe (source detail : Nat) (s : State) : State := (s.flag R.GLB_STAT 2).post 2 2 source detail

/-- The same in a cache or in journal staging, whose SOURCE R129 does not state: a free value. -/
def State.sramUeFree (detail : Nat) (s : State) : State :=
  let (n, s) := s.freeNat
  s.sramUe (n % 65536) detail

/-- The same in the gather, in a bank not named. -/
def State.sramUeGather (s : State) : State :=
  let (n, s) := s.freeNat
  s.sramUe (n % 32) 2

/-- The bank of the gather that holds a word found uncorrectable. -/
def sramBank (x : SramRead) : Option Nat :=
  match x.lost with
  | some (.gather b) => some b.val
  | _ => none

/-- What a command's reads of the gather find: single-bit errors corrected and counted (R25), a word lost (R26). -/
def State.gatherRead (x : SramRead) (s : State) : State :=
  let s := s.sramFixed x.corrected
  match sramBank x with
  | some b => s.sramUe b 2
  | none => s

/-! ### Completions (R116) and errors (R156) -/

/-- The 16 bytes of a completion entry, its phase bit clear. -/
def complBytes (n tag typ code : Nat) (frz : Bool) (result sqhead : Nat) (time : Word) : List Byte :=
  leBytes 4 result ++ leBytes 2 sqhead ++ leBytes 2 tag ++
    leBytes 2 (code % 128 * 2 + typ % 8 * 256 + b2n frz * 2048) ++ leBytes 2 n ++ leBytes 4 time.toNat

/-- Write a completion; where the host answers an error, RINGERR is posted and set (R130). Admin completions and
those that freeze signal at once (R126). -/
def State.putCompl (c : Compl) (s : State) : State :=
  let (s', ok) := s.ringPut c.queue
    (complBytes c.queue c.tag c.typ c.code c.frz c.result (s.q c.queue).sqhead s.time32)
  let s' := s'.ringWritten c.queue (c.queue == 0 || c.frz)
  if ok then s' else (s'.flag R.HRI_STAT 5).post 4 2 c.queue 1

/-- Write a completion, or keep it for D0 while the function is in D3hot (R101); a queue that is gone gets none. -/
def State.complete (c : Compl) (s : State) : State :=
  if !(s.q c.queue).exists' then s
  else if s.hri.d3hot then { s with hri.deferred := s.hri.deferred ++ [c] }
  else s.putCompl c

/-- The field of a fetched entry. -/
def Cmd.f (c : Cmd) (off size : Nat) : Nat := ent c.entry off size
def Cmd.opcode (c : Cmd) : Nat := c.f 0 1
def Cmd.dptrKind (c : Cmd) : Nat := c.f 1 1 % 4
def Cmd.tag (c : Cmd) : Nat := c.f 2 2
def Cmd.nsid (c : Cmd) : Nat := c.f 4 4
def Cmd.dptr (c : Cmd) : Nat := c.f 8 8
def Cmd.slba (c : Cmd) : Nat := c.f 16 8
def Cmd.nblk (c : Cmd) : Nat := c.f 24 4
def Cmd.sgcount (c : Cmd) : Nat := c.f 28 4

/-- Remove the first command with a tag. -/
def dropTag (tag : Nat) : List Cmd → List Cmd
  | [] => []
  | c :: r => if c.tag = tag then r else c :: dropTag tag r

/-- The first command with a tag that has not ended. -/
def findTag (tag : Nat) : List Cmd → Option Cmd
  | [] => none
  | c :: r => if c.tag = tag ∧ c.ended = false then some c else findTag tag r

/-- The first command with a tag has ended; it stays in flight until its completion is written (R107). -/
def endTag (tag : Nat) : List Cmd → List Cmd
  | [] => []
  | c :: r => if c.tag = tag ∧ c.ended = false then { c with ended := true } :: r else c :: endTag tag r

/-- The queue is gone; DELETE-QUEUE's own completion follows (R124). -/
def State.dropQueue (n : Nat) (s : State) : State :=
  let d := (s.q n).deleting
  let s := s.setQ n {}
  match d with
  | none => s
  | some t =>
    let s := s.modQ 0 fun q => { q with inflight := dropTag t.toNat q.inflight }
    s.complete { queue := 0, tag := t.toNat, typ := 0, code := 0, frz := false, result := 0 }

/-- A queue being deleted goes once its last completion is written (R124). -/
def State.dropDone (n : Nat) (s : State) : State :=
  let q := s.q n
  if q.deleting.isSome && q.inflight.isEmpty && !s.hri.deferred.any (fun c => c.queue == n) then s.dropQueue n else s

/-- A command ends: it leaves the queue with its completion, which in D3hot is not yet written (R101, R107). -/
def State.retire (n tag : Nat) (s : State) : State :=
  if s.hri.d3hot then s.modQ n fun q => { q with inflight := endTag tag q.inflight }
  else (s.modQ n fun q => { q with inflight := dropTag tag q.inflight }).dropDone n

/-- A command of a queue completes with SUCCESS, NOT READY or a status of the admin queue: none freezes or is logged (R144, R166). -/
def State.finish (n : Nat) (c : Cmd) (typ code result : Nat) (s : State) : State :=
  (s.complete { queue := n, tag := c.tag, typ, code, frz := false, result }).retire n c.tag

/-- Where the next error of a queue's log goes, if it goes anywhere (R166). -/
def Queue.logPlace (q : Queue) : Option Nat := if q.errors.length < 16 then some q.errors.length else none

/-- Record an error in its queue's log, up to sixteen (R166, R167). -/
def Queue.logError (e : ErrEntry) (q : Queue) : Queue :=
  if q.errors.length < 16 then { q with errors := q.errors ++ [e] }
  else { q with errLost := q.errLost + 1 }

/-- The log entry of an error (R167). -/
def State.errEntry (c : Cmd) (typ code result lba detail : Nat) (frz : Bool) (s : State) : ErrEntry :=
  { tag := BitVec.ofNat 16 c.tag
    status := BitVec.ofNat 16 (code % 128 * 2 + typ % 8 * 256 + b2n frz * 2048)
    opcode := BitVec.ofNat 8 c.opcode, sqidx := BitVec.ofNat 16 c.sqidx
    lba := BitVec.ofNat 64 lba, nsid := BitVec.ofNat 32 c.nsid
    result := BitVec.ofNat 32 result, time := s.time32, detail := BitVec.ofNat 32 detail }

/-- A command error (R156): the queue freezes unless it already is, the error is logged, the completion says so. -/
def State.failed (n : Nat) (c : Cmd) (typ code result lba detail : Nat) (s : State) : State :=
  let frz := !(s.q n).frozen
  let t := s.time32
  let e := s.errEntry c typ code result lba detail frz
  let place := (s.q n).logPlace
  let s := s.modQ n fun q =>
    let q := q.logError e
    if frz then
      { q with frozen := true, frzTag := BitVec.ofNat 16 c.tag, frzHead := q.sqhead, frzTime := t }
    else q
  s.complete { queue := n, tag := c.tag, typ, code, frz, result, log := place }

/-- The error of a command that was fetched and in flight. -/
def State.fail (n : Nat) (c : Cmd) (typ code result lba detail : Nat) (s : State) : State :=
  (s.failed n c typ code result lba detail).retire n c.tag

/-- A command of the SEND or setpoint queue completes with a status that does not freeze it: R166 leaves only SUCCESS and
NOT READY out of the log. -/
def State.declined (n : Nat) (c : Cmd) (typ code result : Nat) (s : State) : State :=
  let e := s.errEntry c typ code result (2 ^ 64 - 1) 0 false
  let place := (s.q n).logPlace
  ((s.modQ n fun q => q.logError e).complete
    { queue := n, tag := c.tag, typ, code, frz := false, result, log := place }).retire n c.tag

/-- R107, R166, R167: a completion that waited for D0 is written; its error and the freeze it caused bear its time, and its
command is no longer in flight. -/
def State.release (s : State) (c : Compl) : State :=
  if !(s.q c.queue).exists' then s
  else
    let t := s.time32
    let s := s.putCompl c
    s.modQ c.queue fun q => { q with
      inflight := dropTag c.tag q.inflight
      errors := match c.log with
        | some k => q.errors.modify k fun e => { e with time := t }
        | none => q.errors
      frzTime := if c.frz then t else q.frzTime }

/-- The admin command whose turn it is (R581): the oldest that has not taken effect, if its opcode is the one named. A
CREATE-QUEUE and a QUEUE-RESET take effect when their completion is written (R122, R161). -/
def State.admin (op : Nat) (s : State) : Option Cmd :=
  if s.hri.deferred.any (fun c => c.create.isSome || c.reset.isSome) then none
  else match (s.q 0).inflight.find? (fun c => !c.started && !c.ended) with
  | some c => if c.opcode = op then some c else none
  | none => none

/-- An admin command completes (admin errors never freeze, chapter 05). -/
def State.adminDone (c : Cmd) (typ code result : Nat) (s : State) : State := s.finish 0 c typ code result

/-- The LBA of an error that comes before range checking (R167). -/
def noLba : Nat := 2 ^ 64 - 1

/-- The offset of the first field that is not in order (R113); fields are listed by offset. -/
def firstBad (l : List (Nat × Bool)) : Option Nat := (l.find? fun p => !p.2).map (·.1)

/-- A reserved range of an entry, which must be 0. -/
def Cmd.zero (c : Cmd) (off size : Nat) : Nat × Bool := (off, c.f off size == 0)

/-- Bytes 8 to 15 of an entry that moves `len` bytes: a contiguous buffer is aligned and does not wrap (R112, R580). -/
def Cmd.dptrOk (c : Cmd) (len : Nat) : Nat × Bool :=
  (8, c.dptrKind != 1 || (c.dptr % 4 == 0 && decide (c.dptr + len ≤ 2 ^ 64)))

/-- SGCOUNT of an entry whose DPTR names a scatter list (R112). -/
def Cmd.sgOk (c : Cmd) : Nat × Bool := (28, c.dptrKind != 0 || (decide (1 ≤ c.sgcount) && decide (c.sgcount ≤ 256)))

/-! ### Scatter lists and buffers -/

/-- One data or chain entry within its ranges (R118, R119, R580); `last` is whether it ends its segment. -/
def sgEntryOk (e : SgEntry) (last : Bool) : Bool :=
  e.rsv == 0 &&
    ((e.typ == 0 && e.addr % 4 == 0 && e.len % 4 == 0 && decide (4 ≤ e.len) && decide (e.len ≤ 16777216)
        && decide (e.addr + e.len ≤ 2 ^ 64)) ||
      (e.typ == 1 && last && e.addr % 16 == 0 && decide (1 ≤ e.len) && decide (e.len ≤ 256)
        && decide (e.addr + 16 * e.len ≤ 2 ^ 64)))

/-- Every entry of a segment is in order, and a chain stands only last (R119). -/
def segOk : List SgEntry → Bool
  | [] => true
  | [e] => sgEntryOk e true
  | e :: f :: r => sgEntryOk e false && segOk (f :: r)

/-- The segments hang together: each has the entries its chain entry announces, and the last ends in no chain. -/
def chainOk : Nat → List (List SgEntry) → Bool
  | _, [] => false
  | n, [g] => decide (g.length = n) && segOk g && (g.getLast?.map (·.typ != 1)).getD false
  | n, g :: h :: r =>
    decide (g.length = n) && segOk g &&
      match g.getLast? with
      | some e => e.typ == 1 && chainOk e.len (h :: r)
      | none => false

/-- The data entries of a list in order. -/
def sgData (l : List (List SgEntry)) : List SgEntry := (l.flatten).filter fun e => e.typ == 0

/-- A whole list fits R118, R119 and R580 for a transfer of `len` bytes. DESIGN CHOICE (log 107): SCATTER MISMATCH answers
also a first segment (DPTR) that is not aligned to 16, and an entry whose ADDR or LEN is outside the range R118 gives it:
the spec states no status for these two. -/
def sgListOk (c : Cmd) (l : List (List SgEntry)) (len : Nat) : Bool :=
  c.dptr % 16 == 0 && decide (c.dptr + 16 * c.sgcount ≤ 2 ^ 64) && chainOk c.sgcount l &&
    decide (l.flatten.length ≤ 4096) && decide (((sgData l).map (·.len)).sum = len)

/-- Whether a command's buffer of `len` bytes can be used: no error; a scatter list that could not be read
(DATA TRANSFER ERROR, detail 1); one that breaks its rules (SCATTER MISMATCH). -/
inductive SgState where
  | good | unreadable | mismatch
  deriving DecidableEq, Repr

def checkSegs (c : Cmd) (segs : Segs) (len : Nat) : SgState :=
  if c.dptrKind = 1 then .good
  else match segs with
    | none => .unreadable
    | some l => if sgListOk c l len then .good else .mismatch

/-- The address ranges of a command's buffer. -/
def bufRanges (c : Cmd) (segs : Segs) (len : Nat) : List (Nat × Nat) :=
  if c.dptrKind = 1 then [(c.dptr, len)]
  else match segs with
    | none => []
    | some l => (sgData l).map fun e => (e.addr, e.len)

/-- Write bytes from an offset of a buffer on. -/
def putRanges : List (Nat × Nat) → List Byte → List Host.Cell → List Host.Cell
  | [], _, m => m
  | (a, n) :: r, l, m => putRanges r (l.drop n) (putBytes a (l.take n) m)

/-- Leave out the first k bytes of a buffer's ranges. -/
def dropRanges : Nat → List (Nat × Nat) → List (Nat × Nat)
  | _, [] => []
  | k, (a, n) :: r => if n ≤ k then dropRanges (k - n) r else (a + k, n - k) :: r

/-- The device writes bytes into a command's buffer from an offset on; such data writes carry Relaxed Ordering where
Device Control enables it (R102). -/
def State.putBuffer (c : Cmd) (segs : Segs) (len off : Nat) (l : List Byte) (s : State) : State :=
  { s with
    hri.hostMem := putRanges (dropRanges off (bufRanges c segs len)) l s.hri.hostMem
    hri.relaxed := s.hri.devCtl.getLsbD 4, hri.noSnoop := false }

/-! ### The parent link, as fetching asks (R272, R273) -/

def State.pstate272 (s : State) : Nat := s.rf R.MAC_STAT 4 2
def State.isRouter (s : State) : Bool := s.rb R.MAC_CTL 1
def State.pnode (s : State) : Nat := s.rf R.MAC_PARENT 11 0

/-- A SEND to the parent is held (R273); a root has no parent link. -/
def State.txHeld (node : Nat) (s : State) : Bool := s.isRouter && s.pstate272 != 1 && node == s.pnode

end Sys2Proof.Machine
end

