-- ==== Sys2Proof/Machine/Events.lean ====
section
/-! DEFINITION. Wake causes (R85, R87), output pads (R44, R45), the PWM and ADC operations, and the event matrix
that links them (chapter 15). -/

namespace Sys2Proof.Machine

/-! ### Wake causes -/

/-- The bit of a cause in PWR_WAKEEN and PWR_WAKEST (R97). -/
def wakeBit : WakeSrc → Nat
  | .smb => 0
  | .cmp n => 1 + n.val
  | .alarm => 5
  | .periodic => 6
  | .clkreq => 7
  | .perst => 8
  | .gpio => 9
  | .rxframe => 12
  | .jnlCommit => 13
  | .mbx => 14
  | .req => 15

/-- Whether a cause needs RUN (R85). -/
def wakeNeedsRun : WakeSrc → Bool
  | .clkreq | .perst | .rxframe | .jnlCommit | .mbx | .req => true
  | _ => false

/-- The states a cause wakes from (R85): DOZE, HUSH. -/
def wakesFrom : WakeSrc → Bool × Bool
  | .clkreq | .rxframe | .jnlCommit | .mbx => (true, false)
  | .req => (true, true)
  | _ => (false, true)

/-- A cause with an enable bit needs it; the others are always enabled (R85). -/
def State.wakeEnabled (c : WakeSrc) (s : State) : Bool :=
  decide (12 ≤ wakeBit c) || s.rb R.PWR_WAKEEN (wakeBit c)

/-- The four ready bits of PWR_STAT at once (R88). -/
def State.ready (v : Nat) (s : State) : State := s.wf R.PWR_STAT 6 3 v

/-- Step 2 of R89: the switches of islands A to C close. The ready bits are those of the domain being woken (R88), so a
wake from HUSH that goes on to RUN shows RGRDY alone again and raises the others anew: DESIGN CHOICE (log 36), since the
spec does not say whether they stay set from the wake of D0. -/
def State.startDozeWake (s : State) : State :=
  let w : Power := { s.power with waking := .fromDoze, settled := false, islands := s.power.islands &&& 0x8 }
  (({ s with power := w } : State).ready 1).wf R.PWR_STAT 2 0 4

/-- Step 2 of R90: the switches of D0 and D1 close and the CK_REF input is on. -/
def State.startHushWake (s : State) : State :=
  ({ s with power := { s.power with
      waking := .fromHush, settled := false, ckref := false, d1Locked := false, d0Locked := false,
      islands := 0 } } : State).ready 1
    |>.wf R.PWR_STAT 2 0 4

/-- R85, R87: a cause arrives. In IDLE it returns the device to RUN; in the states it wakes from it is latched and
starts the wake; during a wake it is latched, and one that needs RUN is honoured when DOZE is reached. A wake from
HUSH for a cause that needs the host asserts SMBALERTn (R84), also where the cause comes while that wake is under way:
DEDUCED, one that needs RUN and is not PERSTn itself. -/
def State.wake (c : WakeSrc) (s : State) : State :=
  if s.power.phase != .run || !s.wakeEnabled c then s
  else
    let (d, h) := wakesFrom c
    let latch (s : State) : State :=
      let s := s.flag R.PWR_WAKEST (wakeBit c)
      { s with power := { s.power with wakeToRun := s.power.wakeToRun || wakeNeedsRun c } }
    let alert (s : State) : State :=
      if wakeNeedsRun c && c != .perst then { s.flag R.SMB_STAT 1 with power.alertn := false } else s
    match s.pstate with
    | 1 => s.wf R.PWR_STAT 2 0 0
    | 2 => if d then (latch s).startDozeWake else s
    | 3 =>
      if !h then s else alert (latch s).startHushWake
    | 4 =>
      if !(d || h) then s
      else if s.power.waking == .fromHush then alert (latch s) else latch s
    | _ => s

/-- Bank n of the gather keeps its contents in DOZE and HUSH (R82, R96). -/
def State.bankKept (b : Nat) (s : State) : Bool :=
  s.rb R.PWR_RETSEL b || (decide (s.rf R.PWR_CTL 7 3 ≤ b) && decide (b ≤ s.rf R.PWR_CTL 7 3 + 2))

/-- A unit of the data class has work: IDLE ends (R77). -/
def State.busyRun (s : State) : State := if s.pstate = 1 then s.wf R.PWR_STAT 2 0 0 else s

/-- A newt runs: one of islands A to C is data-class work (R77). -/
def State.newtBusy (n : Nat) (s : State) : State := if n < 12 then s.busyRun else s

/-! ### Newts and roles: what the matrix and the pads need -/

def State.newt (s : State) (n : Nat) : Newt := tget (fun _ => {}) s.newts n

def State.setNewt (n : Nat) (x : Newt) (s : State) : State :=
  { s with newts := tset (fun _ => {}) s.newts n x }

def State.modNewt (n : Nat) (f : Newt → Newt) (s : State) : State := s.setNewt n (f (s.newt n))

/-- Programmable counter k of newt n adds to its count; a wrap sets its OVF bit (R538). -/
def State.pmcAdd (n k d : Nat) (s : State) : State :=
  let v := (s.rd (R.PMC_CNT n k)).toNat + d
  let s := s.wr (R.PMC_CNT n k) (BitVec.ofNat 32 v)
  if 2 ^ 32 ≤ v then s.flag (R.PMC_OVF n) k else s

/-- An event of R540 occurs d times on newt n. -/
def State.pmc (n code d : Nat) (s : State) : State :=
  (List.range 8).foldl (fun s k =>
    if s.rb (R.PMC_SEL n k) 6 && s.rf (R.PMC_SEL n k) 5 0 == code && d != 0 then s.pmcAdd n k d else s) s

/-- Fields of NWT_ROLEn (R421); a number that names no role is UNASSIGNED. -/
def State.holder (r : Nat) (s : State) : Nat := s.rf (R.NWT_ROLE r) 3 0
def State.roleState (r : Nat) (s : State) : Nat := if r < 64 then s.rf (R.NWT_ROLE r) 5 4 else 0
def State.token (r : Nat) (s : State) : Bool := s.rb (R.NWT_ROLE r) 6
def State.epoch (r : Nat) (s : State) : Nat := s.rf (R.NWT_ROLE r) 15 8

/-- A newt holds a role (R401). -/
def State.holds (n r : Nat) (s : State) : Bool := s.roleState r != 0 && s.holder r == n

/-! ### Output pads -/

/-- Output k is bound (R443), and to which role. -/
def State.boundTo (k : Nat) (s : State) : Option Nat :=
  if s.rb (R.PIO_OUT k) 14 then some (32 + s.rf (R.PIO_OUT k) 19 15) else none

/-- Output k is active (R414): a PWM by EN and PERIOD, a GPIO by DIR. -/
def State.active (k : Nat) (s : State) : Bool :=
  if k < 12 then s.rb (R.PIO_PWMCFG k) 0 && decide (2 ≤ s.rf (R.PIO_PWMCFG k) 31 16)
  else s.rb (R.PIO_GPIOCFG (k - 12)) 0

/-- Comparators that inhibit output k now (R435). -/
def State.inhibited (k : Nat) (s : State) : Bool :=
  (List.range 4).any fun n => s.rb (R.PIO_CMP n) 21 &&
    (if k < 12 then s.rb (R.PIO_FMASKP n) k else s.rb (R.PIO_FMASKG n) (k - 12))

/-- Output k is at its safe value under R414. -/
def State.roleSafe (k : Nat) (s : State) : Bool :=
  match s.boundTo k with
  | none => false
  | some r => s.active k && (s.roles.safeHeld.contains r || s.roles.fholdSafe.contains r)

/-- What SAFE drives (R443): 0 low, 1 high, 2 high impedance with the GPIO's pull. -/
def State.safePad (k : Nat) (s : State) : Pad :=
  match s.rf (R.PIO_OUT k) 1 0 with
  | 0 => .low
  | 1 => .high
  | _ => .released (if k < 12 then 0 else s.rf (R.PIO_GPIOCFG (k - 12)) 2 1)

/-- The duty that SAFE amounts to (R439). -/
def State.safeDuty (k : Nat) (s : State) : Nat := if s.rf (R.PIO_OUT k) 1 0 = 1 then 32768 else 0

/-- PWM k drives SAFE now (R438, R439). -/
def State.pwmHeld (k : Nat) (s : State) : Bool :=
  !s.pio.running.getLsbD k || s.pio.waitPeriod.getLsbD k || s.inhibited k || s.roleSafe k

/-- What a powered pad does with D1 awake. -/
def State.padAwake (k : Nat) (s : State) : Pad :=
  if k < 12 then (if s.pwmHeld k then s.safePad k else .pwm)
  else
    let g := k - 12
    let pull := s.rf (R.PIO_GPIOCFG g) 2 1
    if !s.pio.cfgWritten.getLsbD g then s.safePad k
    else if !s.rb (R.PIO_GPIOCFG g) 0 then .released pull
    else if s.inhibited k || s.roleSafe k then s.safePad k
    else if !s.rb R.PIO_GPIOOUT g then .low
    else if s.rb (R.PIO_GPIOCFG g) 3 then .released pull else .high

/-- D1 is powered down or its pads still in retention: HUSH, and its wake until LOGRDY (R47, R90). -/
def State.hushed (s : State) : Bool :=
  s.pstate == 3 || (s.power.waking == .fromHush && !s.rb R.PWR_STAT 6)

/-- Output k at its pad (R44 to R48). In HUSH the latch holds, and the flick overrides it (R434). In backup only, with
VDDIO_33 back above its threshold and PORn high, it is at its safe value (R46, R47). -/
def State.pad (k : Nat) (s : State) : Pad :=
  match s.power.phase with
  | .backup =>
    if (s.lehr.fromMain || s.lehr.qualifying) && !s.power.holds.porn then s.safePad k else .off
  | .por => .off
  | .held => if s.power.strapped then s.safePad k else .off
  | .run =>
    if !s.power.strapped then .off
    else if s.hushed then
      (if s.inhibited k && (k < 12 || s.rb (R.PIO_GPIOCFG (k - 12)) 0) then s.safePad k
       else tget (fun _ => Pad.off) s.pio.latched k)
    else s.padAwake k

/-- The level at a GPIO's pad (R442): what the output drives, else what the board puts there. -/
def State.gpioLevel (g : Nat) (s : State) : Bool :=
  match s.pad (12 + g) with
  | .low => false
  | .high => true
  | _ => s.pio.gpioExt.getLsbD g

/-- R413: a master may drive output k. -/
def State.mayDrive (m : Master) (k : Nat) (s : State) : Bool :=
  match s.boundTo k with
  | none => true
  | some r =>
    match m with
    | .newt n => s.token r && s.roleState r != 0 && s.holder r == n.val
    | _ => false

/-- A role has a driven output (R414). -/
def State.hasDriven (r : Nat) (s : State) : Bool :=
  (List.range 36).any fun k => s.boundTo k == some r && s.active k

/-- Drive a role's outputs safe, or end that, as its token stands (R414). -/
def State.tokenSafe (r : Nat) (s : State) : State :=
  if !s.token r && s.hasDriven r then
    if s.roles.safeHeld.contains r then s
    else ({ s with roles.safeHeld := r :: s.roles.safeHeld } : State).post 0x67 1 r 0
  else { s with roles.safeHeld := s.roles.safeHeld.filter (· != r) }

/-- PWMs whose roles are held safe resume at their next period start. -/
def State.markWait (s : State) : State :=
  let w := (List.range 12).foldl
    (fun w k => if s.inhibited k || s.roleSafe k then bput k true w else w) s.pio.waitPeriod
  { s with pio.waitPeriod := w }

/-- Judge R414 for every process role. -/
def State.outSafe (s : State) : State :=
  ((List.range 32).foldl (fun s i => s.tokenSafe (32 + i)) s).markWait

/-- The token holder has written one of the role's driven outputs: FHOLD no longer runs or holds (R414). -/
def State.outWritten (k : Nat) (s : State) : State :=
  match (if s.active k then s.boundTo k else none) with
  | none => s
  | some r => { s with
      roles.fhold := s.roles.fhold.filter (· != r), roles.fholdSafe := s.roles.fholdSafe.filter (· != r) }

/-! ### ADC triggers -/

/-- A trigger of the sequencer (R430). -/
def State.adcTrigger (hop : Nat) (s : State) : State :=
  if !s.rb R.PIO_CTL 0 || s.hushed || s.power.phase != .run then s
  else if s.pio.adc.isSome then (s.flag R.PIO_STAT 2).post 0x52 1 0 0
  else
    ({ s with pio.adc := some {
        slot := 0, len := s.rf R.PIO_ADCSEQ 6 3, list0 := s.rd R.PIO_ADCLIST0, list1 := s.rd R.PIO_ADCLIST1,
        hop := hop } } : State).flag R.PIO_STAT 3

/-! ### PWM period start -/

/-- NOW moves towards DUTY by at most RATE, or all the way when RATE is 0 (R439). -/
def moveNow (now duty rate : Nat) : Nat :=
  if rate = 0 then duty
  else if now ≤ duty then min duty (now + rate) else max duty (now - rate)

/-- A period of PWM k starts (R438, R439); `up` raises an event with a hop count. -/
def State.pwmPeriod (up : Nat → Nat → State → State) (k hop : Nat) (s : State) : State :=
  let cfg := s.rd (R.PIO_PWMCFG k)
  if !bit 0 cfg || fld 31 16 cfg < 2 then
    { s with pio.running := bput k false s.pio.running }
  else
    let held := s.inhibited k || s.roleSafe k
    let from' := if s.pwmHeld k then s.safeDuty k else s.rf (R.PIO_PWMDUTY k) 31 16
    let now := if held then s.safeDuty k
      else moveNow from' (s.rf (R.PIO_PWMDUTY k) 15 0) (s.rf (R.PIO_OUT k) 13 2)
    let s : State := { s with
      pio.pwmCfg := tset (fun _ => 0) s.pio.pwmCfg k cfg
      pio.running := bput k true s.pio.running
      pio.waitPeriod := bput k held s.pio.waitPeriod }
    let s := up (74 + k) hop (s.wf (R.PIO_PWMDUTY k) 31 16 now)
    if k = 0 ∧ s.rf R.PIO_ADCSEQ 2 1 = 2 then s.adcTrigger 0 else s

/-! ### The event matrix -/

/-- R461: the input's MERGED bit is set; the first one posts EVMERGE. -/
def State.merged (t : Nat) (s : State) : State :=
  let first := s.rd (R.EVM_MERGED 0) == 0 && s.rd (R.EVM_MERGED 1) == 0 && s.rd (R.EVM_MERGED 2) == 0
  let s := s.flag (R.EVM_MERGED (t / 32)) (t % 32)
  if first then s.post 0x5A 1 t 0 else s

/-- A trigger at task input k of newt n (R394, R461, R464). -/
def State.newtInput (n k hop : Nat) (s : State) : State :=
  if s.gated && n < 12 then s.count R.EVM_STAT 31 24 1
  else
    let x := s.newt n
    let old := tget (fun _ => 0) x.evhops k
    let x : Newt := { x with openRecs := x.openRecs.map (fun o => { o with events := o.events ||| 8 }) }
    if x.evpend.getLsbD k then
      ((s.setNewt n { x with evhops := tset (fun _ => 0) x.evhops k (max old hop) }).merged (4 * n + k)).pmc n 14 1
    else
      (s.setNewt n { x with
        evpend := bput k true x.evpend, evhops := tset (fun _ => 0) x.evhops k hop }).pmc n 13 1

/-- The effect of a trigger at a task input (R457). -/
def State.task (up : Nat → Nat → State → State) (hop : Nat) (s : State) (t : Nat) : State :=
  if t < 64 then s.newtInput (t / 4) (t % 4) hop
  else if t = 64 then (if s.rf R.PIO_ADCSEQ 2 1 = 1 then s.adcTrigger (hop + 1) else s)
  else if t = 65 then
    (List.range 12).foldl (fun s k =>
      if s.pio.running.getLsbD k && s.rb (R.PIO_PWMCFG k) 2 then s.pwmPeriod up k (hop + 1) else s) s
  else if t < 70 then s.wr (R.PIO_ENCCAP (t - 66)) (s.rd (R.PIO_ENCPOS (t - 66)))
  else if t < 82 then
    let k := t - 70
    let s := s.wb (R.PIO_PWMCFG k) 0 false
    ({ s with pio.running := bput k false s.pio.running } : State).outSafe
  else if t < 86 then s.post 0x59 0 (t - 82) hop
  else if t < 90 then s.wr (R.EVM_TS (t - 86)) s.mac.timer
  else s

/-- The matrix is powered and routes (R464). -/
def State.evmUp (s : State) : Bool := s.d0up && s.pstate != 3

/-- The channels that are enabled and name a producer (R458). -/
def State.channels (p : Nat) (s : State) : List Nat :=
  (List.range 48).filter fun c => s.rb (R.EVM_CCTL c) 0 && s.rb (R.EVM_PMASK c (p / 32)) (p % 32)

/-- The task inputs those channels deliver to; an input that several name is listed once (R461). -/
def State.inputs (cs : List Nat) (s : State) : List Nat :=
  (List.range 90).filter fun t => cs.any fun c => s.rb (R.EVM_CMASK c (t / 32)) (t % 32)

/-- R456, R458, R462: producer p raises an event; `n` bounds the chain of task-caused events. -/
def raiseN : Nat → Nat → Nat → State → State
  | 0, _, _, s => s
  | n + 1, p, hop, s =>
    if !s.evmUp then s
    else if 8 ≤ hop then
      let first := !s.rb R.EVM_STAT 1
      let s := ((s.flag R.EVM_STAT 1).wf R.EVM_STAT 14 8 p).count R.EVM_STAT 23 16 1
      if first then s.post 0x58 2 p hop else s
    else
      let cs := s.channels p
      let ts := s.inputs cs
      let s := cs.foldl (fun s c => s.count (R.EVM_CCTL c) 31 16 1) s
      ts.foldl (State.task (raiseN n) hop) s

/-- Raise an event. Hop counts below 8 rise by one with every task-caused event, so ten levels suffice. -/
def State.raise (p hop : Nat) (s : State) : State := raiseN 10 p hop s

/-- R461: triggers that several producers raise in one cycle at a task input act as one. `many` says there are several:
then the input has merged, but for an ADC_START that finds a sequence running. -/
def State.triggered (many : Bool) (t : Nat) (s : State) : State :=
  let v := s.task (raiseN 9) 0 t
  if !many then v
  else if t < 64 then (if s.gated && t < 48 then v else v.newtInput (t / 4) (t % 4) 0)
  else if t = 64 && s.pio.adc.isSome then v
  else v.merged t

/-- Producers that one command raises together, with hop 0 (R458, R461). -/
def State.raiseTogether (ps : List Nat) (s : State) : State :=
  if !s.evmUp then s
  else
    let reached (t : Nat) : Nat := (ps.filter fun p => (s.inputs (s.channels p)).contains t).length
    let v := ps.foldl (fun v p => (s.channels p).foldl (fun v c => v.count (R.EVM_CCTL c) 31 16 1) v) s
    ((List.range 90).filter fun t => reached t != 0).foldl (fun v t => v.triggered (reached t != 1) t) v

/-- A trigger of the sequencer from outside the matrix, and a period start likewise. -/
def State.pwmStart (k hop : Nat) (s : State) : State := s.pwmPeriod (raiseN 10) k hop

end Sys2Proof.Machine
end

