-- ==== Sys2Proof/Machine/Flash.lean ====
section
/-! DEFINITION. Code flash (chapter 17): geometry, content, the command sequence, programs and erases, and the
images in its slots (R532, R533). -/

namespace Sys2Proof.Machine

/-! ### Geometry (R498, R500) -/

/-- The sector of a flash address. -/
def sectorOf (a : Nat) : Nat := if a < 0x20000 then a / 0x2000 else 16 + (a - 0x20000) / 0x10000

/-- A sector's first address. -/
def sectorBase (k : Nat) : Nat := if k < 16 then 0x2000 * k else 0x20000 + 0x10000 * (k - 16)

/-- A sector's size in bytes. -/
def sectorSize (k : Nat) : Nat := if k < 16 then 0x2000 else 0x10000

/-- Device-reserved sectors. -/
def sectorReserved (k : Nat) : Bool := decide (k < 8) || k == 16 || k == 17

def State.sector (k : Nat) (s : State) : Sector := tget (fun _ => {}) s.flash.sectors k

def State.setSector (k : Nat) (x : Sector) (s : State) : State :=
  { s with flash.sectors := tset (fun _ => {}) s.flash.sectors k x }

/-- The flash is powered (R513). -/
def State.flashUp (s : State) : Bool := s.power.phase == .run && !s.hushed

/-- A master's program or erase is running. -/
def State.flashOp (s : State) : Bool :=
  s.flash.programming.isSome || (s.flash.erasing.isSome && !s.flash.suspended)

/-- CFL_STAT.BUSY: a program or erase is running (R505). A PERSIST copy holds the controller too (R531). -/
def State.flashBusy (s : State) : Bool := s.flashOp || !s.roles.persists.isEmpty

/-- A byte of flash. One of a line or sector whose content is undefined is a free value (R507, R511, R512). -/
def State.flashByte (s : State) (a : Nat) : Byte :=
  if s.flash.undefLines.contains (a / 16) || (s.sector (sectorOf a)).undef then
    BitVec.ofNat 8 (Config.freeNat (s.free * 0x800000 + a))
  else tget (fun _ => 0xFF) s.flash.bytes a

def State.flashBytes (s : State) (a n : Nat) : List Byte := (List.range n).map fun i => s.flashByte (a + i)

/-- Put bytes into the flash array. -/
def putFlash (a : Nat) : List Byte → Tbl Byte → Tbl Byte
  | [], t => t
  | b :: r, t => putFlash (a + 1) r (tset (fun _ => 0xFF) t a b)

/-! ### The status register -/

/-- OWNER and OWNNEWT of CFL_STAT (R515). -/
def State.cflOwner (o : Option Master) (s : State) : State :=
  let (c, n) : Nat × Nat := match o with
    | none => (0, 0)
    | some .host => (1, 0)
    | some (.newt n) => (2, n.val)
    | some .smbus => (3, 0)
    | some .svc => (4, 0)
  (({ s with flash.owner := o } : State).wf R.CFL_STAT 11 9 c).wf R.CFL_STAT 19 16 n

/-- BUSY, SUSPENDED and EINTRFOUND follow the state of the array (R515). -/
def State.cflShow (s : State) : State :=
  ((s.wb R.CFL_STAT 1 s.flashBusy).wb R.CFL_STAT 2 (s.flash.erasing.isSome && s.flash.suspended)).wb R.CFL_STAT 8
    ((List.range 142).any fun k => (s.sector k).eintr)

/-- RES and DONE of an operation that ended or was refused (R505). -/
def State.cflResult (res : Nat) (s : State) : State :=
  ((s.wf R.CFL_STAT 15 12 res).flag R.CFL_STAT 3).cflShow

/-- The claim is released unless the same master's erase or program still runs. -/
def State.cflRelease (s : State) : State :=
  let s : State := { s with flash.step := .idle }
  if s.flashOp then s else s.cflOwner none

/-- R505: the sequence is abandoned. -/
def State.cflAbandon (s : State) : State :=
  ((({ s with flash.step := .idle } : State).cflOwner none).wf R.CFL_STAT 15 12 1).flag R.CFL_STAT 4

/-! ### The command sequence (R505) -/

/-- A write of a sequence register by the claimant; `r` names it: 0 UNLOCK, 1 CMD, 2 ADDR, 3 + x DATAx. -/
def State.cflStep (r : Nat) (w : Word) (s : State) : State :=
  let go (st : CflStep) (s : State) : State := { s with flash.step := st }
  match s.flash.step, r with
  | .unlocked1, 0 => if fld 15 0 w = 0x55AA then go .unlocked2 s else s.cflAbandon
  | .unlocked2, 1 =>
    if fld 7 0 w = 1 then go (.haveCmd false) s
    else if fld 7 0 w = 2 then go (.haveCmd true) s
    else s.cflAbandon
  | .haveCmd e, 2 =>
    go (if e then .started true else .haveAddr) { s with flash.addr := fld 22 0 w, flash.data := [] }
  | .haveAddr, 3 => go (.haveData 1) { s with flash.data := tins 0 w [] }
  | .haveData n, k =>
    if k = 3 + n then
      go (if n = 3 then .started false else .haveData (n + 1)) { s with flash.data := tins n w s.flash.data }
    else s.cflAbandon
  | _, _ => s.cflAbandon

/-- A write of UNLOCK, CMD, ADDR or DATA from a master (R505). -/
def State.cflWrite (m : Master) (r : Nat) (w : Word) (s : State) : State :=
  match s.flash.owner with
  | none =>
    if r = 0 ∧ fld 15 0 w = 0xAA55 then
      ({ s with flash.step := .unlocked1 } : State).cflOwner (some m)
    else s.cflAbandon
  | some o =>
    if o ≠ m then s.flag R.CFL_STAT 0
    else match s.flash.step with
      | .idle =>
        if r = 0 ∧ fld 15 0 w = 0xAA55 then { s with flash.step := .unlocked1 } else s.cflAbandon
      | _ => s.cflStep r w

/-- R506: whether a sector is write-protected. -/
def State.cflProtected (k : Nat) (s : State) : Bool :=
  sectorReserved k || (s.rb R.CFL_WP 16 && decide (s.rf R.CFL_WP 7 0 ≤ k) && decide (k ≤ s.rf R.CFL_WP 15 8))

/-- The refusal of a PROGRAM of a line, by RES (R506); none: it starts. A sector that reads ERASE_INTR gives RES 5 whatever its
highest line (R511). DESIGN CHOICE (log 162): the other rows are judged in their order after RES 6 of R505. -/
def State.programCheck (a : Nat) (s : State) : Option Nat :=
  let k := sectorOf a
  let x := s.sector k
  if s.flashBusy then some 6
  else if a % 16 ≠ 0 then some 2
  else if s.cflProtected k then some 3
  else if x.eintr then some 5
  else if (a - sectorBase k) / 16 < x.nextLine then some 4
  else if s.flash.erasing = some k then some 6
  else if x.exhausted then some 7
  else none

/-- The refusal of an ERASE (R508). DESIGN CHOICE (log 162): RES 6 before RES 3. -/
def State.eraseCheck (a : Nat) (s : State) : Option Nat :=
  if s.flashBusy || s.flash.erasing.isSome then some 6
  else if s.cflProtected (sectorOf a) then some 3
  else none

/-- Start programming a line: its record is written first (R506), then the line. -/
def State.startProgram (a : Nat) (l : List Byte) (s : State) : State :=
  let k := sectorOf a
  let s := s.setSector k { s.sector k with nextLine := (a - sectorBase k) / 16 + 1 }
  ({ s with
    flash.bytes := putFlash a l s.flash.bytes
    flash.programming := some (a / 16) } : State).cflShow

/-- R511: an erase starts: its marker is recorded and the sector's erase count rises. -/
def State.startErase (k : Nat) (m : Option Master) (s : State) : State :=
  let x := s.sector k
  let s := s.setSector k { x with marker := true, erases := min 1048575 (x.erases + 1) }
  ({ s with flash.erasing := some k, flash.suspended := false, flash.eraseOwner := m } : State).cflShow

/-- A sector becomes erased (R508). -/
def State.eraseArray (k : Nat) (s : State) : State :=
  let lo := sectorBase k
  let hi := lo + sectorSize k
  let s := s.setSector k { s.sector k with
    eintr := false, exhausted := false, marker := false, nextLine := 0, undef := false }
  { s with
    flash.bytes := tclear (fun a => decide (lo ≤ a) && decide (a < hi)) s.flash.bytes
    flash.undefLines := s.flash.undefLines.filter fun l => !(decide (lo ≤ 16 * l) && decide (16 * l < hi))
    flash.ueLines := s.flash.ueLines.filter fun l => !(decide (lo ≤ 16 * l) && decide (16 * l < hi)) }

/-- The four data words of the sequence as the line's bytes (R505). -/
def State.cflLine (s : State) : List Byte :=
  (List.range 4).flatMap fun i => leBytes 4 (tget (fun _ => (0 : Word)) s.flash.data i).toNat

/-- PROGRAM LINE, once its sequence is complete: the checks of R506, then the program. -/
def execProgramLine (s : State) : Out := .next <|
  if s.flash.step = .started false ∧ s.flashUp then
    match s.programCheck s.flash.addr with
    | some res => (s.cflResult res).cflRelease
    | none => ({ s with flash.step := .idle } : State).startProgram s.flash.addr s.cflLine
  else s

/-- ERASE SECTOR, once its sequence is complete: the checks of R508, then the erase. -/
def execEraseSector (s : State) : Out := .next <|
  if s.flash.step = .started true ∧ s.flashUp then
    match s.eraseCheck s.flash.addr with
    | some res => (s.cflResult res).cflRelease
    | none => ({ s with flash.step := .idle } : State).startErase (sectorOf s.flash.addr) s.flash.owner
  else s

/-- The running program or erase finishes (step 7 of R505, R508). -/
def State.flashDone (s : State) : State :=
  match s.flash.programming, s.flash.erasing with
  | some _, _ => (({ s with flash.programming := none } : State).cflResult 0).cflRelease
  | none, some k =>
    if s.flash.suspended then s
    else ((({ s.eraseArray k with flash.erasing := none, flash.eraseOwner := none } : State)).cflResult 0).cflRelease
  | none, none => s

/-- R507: the program ends with RES 9 and its line is undefined. -/
def State.programFailed (s : State) : State :=
  match s.flash.programming with
  | none => s
  | some l =>
    (({ s with flash.programming := none, flash.undefLines := l :: s.flash.undefLines } : State).cflResult 9).cflRelease

/-- R508: the erase ends with RES 8, its sector EXHAUSTED and undefined, its marker cleared (R511). -/
def State.eraseFailed (s : State) : State :=
  match s.flash.erasing with
  | none => s
  | some k =>
    if s.flash.suspended then s
    else
      let s := s.setSector k { s.sector k with exhausted := true, marker := false, undef := true }
      (({ s with flash.erasing := none, flash.eraseOwner := none } : State).cflResult 8).cflRelease

def execEraseTimeout (s : State) : Out := .next s.eraseFailed

/-- R505: more than 1 ms between two steps. -/
def execCflSequenceTimeout (s : State) : Out := .next <|
  match s.flash.step with
  | .idle | .started _ => s
  | _ => s.cflAbandon

/-- A write of CFL_CTL's SUSP and RESUME (R509); LOCK follows its field type. -/
def State.cflCtl (w : Word) (s : State) : State :=
  if bit 0 w && bit 1 w then s.flag R.CFL_STAT 0
  else
  let s := s.writeReg R.CFL_CTL w
  if bit 0 w then
    if s.flash.erasing.isSome && !s.flash.suspended then
      let s : State := { s with flash.suspended := true }
      (if s.flash.step = .idle then s.cflOwner none else s).cflShow
    else s
  else if bit 1 w then
    if s.flash.erasing.isSome && s.flash.suspended && s.flash.programming.isNone then
      let s : State := { s with flash.suspended := false }
      (if s.flash.owner.isNone then s.cflOwner s.flash.eraseOwner else s).cflShow
    else s
  else s

/-- CFL_WP: FIRST above LAST while EN is 1 is ignored (R518). -/
def State.cflWp (w : Word) (s : State) : State :=
  if bit 16 w && decide (fld 15 8 w < fld 7 0 w) then s.flag R.CFL_STAT 0 else s.writeReg R.CFL_WP w

/-- What a read of flash meets (R504): a busy or suspended sector. -/
def State.flashReadCheck (a : Nat) (s : State) : Option Nat :=
  if s.flash.erasing = some (sectorOf a) then some (if s.flash.suspended then 5 else 6) else none

/-- The line of flash address `a` is erased, so it reads without error (R503). -/
def State.lineErased (a : Nat) (s : State) : Bool :=
  let k := sectorOf a
  let x := s.sector k
  !sectorReserved k && decide (x.nextLine ≤ (a - sectorBase k) / 16) && (s.flashBytes (a / 16 * 16) 16).all (· == 0xFF) &&
    !x.undef && !s.flash.undefLines.contains (a / 16)

/-- What SECDED found at a line is known until it is read again, or its sector erased. -/
def State.eccSeen (a : Nat) (ue : Bool) (s : State) : State :=
  let l := s.flash.ueLines.filter (· != a / 16)
  { s with flash.ueLines := if ue then a / 16 :: l else l }

/-- A read of a word at flash address `a` (R500, R503, R504); none where the read ends with an error response. -/
def State.flashRead (a : Nat) (ecc : Ecc) (s : State) : Option Word × State :=
  match s.flashReadCheck a with
  | some b => (none, s.flag R.CFL_STAT b)
  | none =>
    let v : Word := if sectorReserved (sectorOf a) then 0 else BitVec.ofNat 32 (leNat (s.flashBytes a 4))
    match (if s.lineErased a then .clean else ecc : Ecc) with
    | .clean => (some v, s.eccSeen a false)
    | .corrected => (some v, (s.eccSeen a false).count R.CFL_ECC 15 0 1)
    | .uncorrectable => (none, ((s.eccSeen a true).count R.CFL_ECC 23 16 1).flag R.CFL_STAT 7)

/-- A program cut by a reset or power loss leaves its line undefined (R512); an erase leaves its marker, and its sector
undefined (R511). -/
def State.flashCut (s : State) : State :=
  let u := match s.flash.programming with | some l => [l] | none => []
  let s := match s.flash.erasing with | some k => s.setSector k { s.sector k with undef := true } | none => s
  { s with
    flash.undefLines := u ++ s.flash.undefLines
    flash.programming := none, flash.erasing := none, flash.suspended := false, flash.eraseOwner := none
    flash.step := .idle, flash.owner := none, flash.data := [], flash.addr := 0 }

/-- R511: markers found: their sectors read ERASE_INTR and their content is undefined. The marker of an erase begun since the
reset is no such find. -/
def State.markerScan (s : State) : State :=
  ((List.range 142).foldl (fun s k =>
    let x := s.sector k
    if x.marker && s.flash.erasing != some k then s.setSector k { x with eintr := true, undef := true, marker := false } else s) s).cflShow

/-! ### Images (R532, R533) -/

/-- The first address of a newt's slot (R500). -/
def slotBase (n : Nat) : Nat := sectorBase (18 + 2 * n)

/-- A slot's header fields. -/
structure Header where
  keyidx : Nat
  cls : Nat
  codelen : Nat
  roles : Nat
  timask : Nat
  deriving DecidableEq, Repr

def State.header (b : Nat) (s : State) : Header :=
  let h := leNat (s.flashBytes b 56)
  { keyidx := nat64 h 5 1, cls := nat64 h 6 1, codelen := nat64 h 8 4, roles := nat64 h 16 8, timask := nat64 h 24 32 }

/-- Whether the lines an image covers can be fetched: no busy sector (R504), none cut off (R511), no uncorrectable line. DESIGN
CHOICE (log 159): a line is uncorrectable to a fetch where the last read of it was. -/
def State.imageReadable (b : Nat) (s : State) : Bool :=
  let len := 256 + (s.header b).codelen
  ([sectorOf b, sectorOf b + 1].all fun k => !(s.sector k).eintr && s.flash.erasing != some k) &&
    !s.flash.ueLines.any fun l => decide (b / 16 ≤ l) && decide (16 * l < b + len)

/-- The reason an image in a slot fails for a newt, or none (R533). `sig` is whether SIG verifies. -/
def State.imageFault (n : Nat) (s : State) : Option Nat :=
  let b := slotBase n
  let h := s.header b
  let classOk (r : Nat) : Bool := !nbit r h.roles || (if r < 32 then h.cls == 0 else h.cls == 1)
  if !s.imageReadable b then some 1
  else if s.flashBytes b 5 ≠ [0x4A, 0x58, 0x49, 0x4D, 0x01] then some 3
  else if s.flashByte (b + 7) ≠ 0 || h.codelen % 16 ≠ 0 || h.codelen < 64 || 65536 < h.codelen then some 3
  else if (s.flashBytes (b + 56) 136).any (· != 0) || h.roles = 0 then some 3
  else if h.cls ≠ (if n < 12 then 0 else 1) || !(List.range 64).all classOk then some 3
  else
    let low := h.roles % 65536 ≠ 0
    let high := h.roles / 65536 ≠ 0
    if low && high then some 2
    else if low && h.keyidx ≠ 0xFF then some 2
    else if high && !(decide (h.keyidx < 4) && s.keys.enrolled.getLsbD h.keyidx && !s.keys.revoked.getLsbD h.keyidx)
    then some 2
    else
      let key := if h.keyidx = 0xFF then Config.basfortImageKey else tget (fun _ => 0) s.keys.custKeys h.keyidx
      let digest := Config.sha256 (s.flashBytes b 192 ++ s.flashBytes (b + 256) h.codelen)
      if ecdsaVerify key digest (BitVec.ofNat 512 (leNat (s.flashBytes (b + 192) 64))) then none else some 0

/-- The instruction words of an image's code (16 bytes each). -/
def codeWords (l : List Byte) : Nat → Nat → Tbl (BitVec 128)
  | 0, _ => []
  | k + 1, i =>
    let w : BitVec 128 := BitVec.ofNat 128 (leNat ((l.drop (16 * i)).take 16))
    if w = 0 then codeWords l k (i + 1) else (i, w) :: codeWords l k (i + 1)

/-- Load the image of slot `src` into newt `n`'s instruction memory; words beyond CODELEN read 0. -/
def State.loadImage (n src : Nat) (s : State) : State :=
  let b := slotBase src
  let h := s.header b
  s.modNewt n fun x => { x with
    imem := codeWords (s.flashBytes (b + 256) h.codelen) (h.codelen / 16) 0
    image := some {
      keyidx := BitVec.ofNat 8 h.keyidx, process := h.cls == 1
      roles := BitVec.ofNat 64 h.roles, timask := BitVec.ofNat 256 h.timask } }

end Sys2Proof.Machine
end

