-- ==== Sys2Proof/Machine/Perf.lean ====
section
/-! DEFINITION. Performance counters and sampling (chapter 19): who may read, sampling records, the counter reads. -/

namespace Sys2Proof.Machine

/-- The reset value of a newt port (R368): mac.mode 6, every other 0. -/
def portReset (p : Nat) : Word := if p = 0x83 then 6 else 0

/-- The roles a newt holds or is incoming for (R541). -/
def State.rolesOf (n : Nat) (s : State) : List Nat :=
  (List.range 64).filter fun r => s.holds n r || s.roles.move.any fun m => m.target == n && m.role == r

/-- R541: UREAD of a role. -/
def State.uread (r : Nat) (s : State) : Bool :=
  if r < 32 then s.rb R.PMC_CTL0 r else s.rb R.PMC_CTL1 (r - 32)

/-- R541: a newt's reads of counters are permitted. -/
def State.pmcMayRead (n : Nat) (s : State) : Bool :=
  let rs := s.rolesOf n
  rs.any (fun r => decide (r < 16)) || (!rs.isEmpty && rs.all fun r => s.uread r)

/-- A master's writes to PMC are accepted (R542). -/
def State.pmcMayWrite (m : Master) (s : State) : Bool :=
  match m with
  | .newt n => (List.range 16).any fun r => s.holds n.val r
  | _ => true

/-! ### Sampling records (R545, R546) -/

/-- A record. -/
def sampleRec (addr lat events cyc seq : Nat) : BitVec 128 :=
  BitVec.ofNat 128 (addr % 65536 + lat * 2 ^ 16 + events % 2 ^ 32 * 2 ^ 32 + cyc % 2 ^ 48 * 2 ^ 64 +
    seq % 256 * 2 ^ 112 + 2 ^ 120)

/-- Write a record into the newt's buffer. -/
def State.writeSample (n addr lat events cyc : Nat) (s : State) : State :=
  let c := R.PMC_SCTL n
  if s.rb c 20 && s.rb c 27 then s
  else
    let x := s.newt n
    let p := s.rf c 26 21
    let held := min 64 (x.heldRecs + 1)
    let s := s.setNewt n { x with
      samples := tset (fun _ => 0) x.samples p (sampleRec addr (min 65535 lat) events cyc x.sampleSeq.toNat)
      heldRecs := held, sampleSeq := x.sampleSeq + 1 }
    (s.wf c 26 21 (p + 1)).wb c 27 (held == 64)

/-- A record's latency ends now. -/
def State.closeRec (n : Nat) (s : State) (o : OpenRec) : State :=
  s.writeSample n o.addr ((s.newt n).cyc.toNat - o.issue.toNat) o.events o.issue.toNat

/-- Close the records that `p` picks, oldest first. -/
def State.closeWhere (n : Nat) (p : OpenRec → Bool) (s : State) : State :=
  let os := (s.newt n).openRecs
  let s := s.modNewt n fun x => { x with openRecs := os.filter fun o => !p o }
  (os.filter p).foldl (State.closeRec n) s

/-- The newt stops: every record ends. -/
def State.closeAll (n : Nat) (s : State) : State := s.closeWhere n fun _ => true

/-- A word issues: records whose results land before it end. -/
def State.closeWords (n : Nat) (s : State) : State :=
  let step (o : OpenRec) : OpenRec :=
    match o.until' with
    | .words k => { o with until' := .words (k - 1) }
    | _ => o
  (s.modNewt n fun x => { x with openRecs := x.openRecs.map step }).closeWhere n fun o => o.until' == .words 0

/-- A register request completes. -/
def State.closeReg (n : Nat) (s : State) : State :=
  let step (o : OpenRec) : OpenRec :=
    match o.until' with
    | .reg k => { o with until' := .reg (k - 1) }
    | _ => o
  (s.modNewt n fun x => { x with openRecs := x.openRecs.map step }).closeWhere n fun o => o.until' == .reg 0

def State.closeMbx (n : Nat) (s : State) : State := s.closeWhere n fun o => o.until' == .mbx

/-- CLR of PMC_SCTLn empties the buffer (R547). -/
def State.sampleClear (n : Nat) (s : State) : State :=
  let s := s.modNewt n fun x => { x with samples := [], heldRecs := 0 }
  (s.wf (R.PMC_SCTL n) 26 21 0).wb (R.PMC_SCTL n) 27 false

/-- A write of PMC_SCTLn (R547). -/
def State.sctlWrite (n : Nat) (w : Word) (s : State) : State :=
  let s := s.writeReg (R.PMC_SCTL n) w
  if bit 28 w then s.sampleClear n else s

/-- The latch of a master for a newt's counter. -/
def latchKey (m : Master) (n : Nat) : Nat :=
  16 * (match m with | .host => 0 | .newt k => 1 + k.val | .smbus => 17 | .svc => 18) + n

/-- A read of PMC_CYCLn latches bits 47:32 for the reading master (R544). -/
def State.cyclLatch (m : Master) (n : Nat) (s : State) : State :=
  { s with cycLatch := tset (fun _ => 0) s.cycLatch (latchKey m n) ((s.newt n).cyc.extractLsb' 32 16) }

/-- What the PMC's views hold: cycle counter halves and sampling words. -/
def State.pmcView (m : Master) (a : Nat) (s : State) : Option Word :=
  let o := a - 0x120000
  if 0x8000 ≤ o ∧ o < 0xC000 then
    some (((tget (fun _ => 0) (s.newt ((o - 0x8000) / 1024)).samples (o % 1024 / 16)).toNat / 2 ^ (o % 16 * 8)) |>
      BitVec.ofNat 32)
  else if 0x1000 ≤ o ∧ o < 0x2000 ∧ o % 256 = 0 then some ((s.newt ((o - 0x1000) / 256)).cyc.extractLsb' 0 32)
  else if 0x1000 ≤ o ∧ o < 0x2000 ∧ o % 256 = 4 then
    some ((tget (fun _ => (0 : Half)) s.cycLatch (latchKey m ((o - 0x1000) / 256))).setWidth 32)
  else none

end Sys2Proof.Machine
end

