-- ==== Sys2Proof/Machine/Roles.lean ====
section
/-! DEFINITION. Roles, mailboxes and shedding (chapter 13): the role table in NWT_ROLEn, newt starts and stops,
messages and the router, moves, takeovers, tokens, BOOT and TEST. -/

namespace Sys2Proof.Machine

/-! ### Newts as the role system sees them -/

/-- NWT_CSTn.RUN (R398). -/
def State.run (n : Nat) (s : State) : Nat := s.rf (R.NWT_CST n) 2 0

def State.setRun (n v : Nat) (s : State) : State := s.wf (R.NWT_CST n) 2 0 v

/-- A newt reads PARKED; NWT_FPCn then reads 0 (R398, R399). -/
def State.setParked (n : Nat) (s : State) : State := (s.setRun n 5).wr (R.NWT_FPC n) 0

/-- A newt's island is gated or unpowered: islands A to C in DOZE, every newt in HUSH. -/
def State.newtGated (n : Nat) (s : State) : Bool := (decide (n < 12) && s.gated) || s.pstate == 3

/-- The newt holds some role. -/
def State.holdsAny (n : Nat) (s : State) : Bool := (List.range 64).any fun r => s.holds n r

/-- The newt is INCOMING to the move in progress. -/
def State.incoming (n : Nat) (s : State) : Bool :=
  match s.roles.move with
  | some m => m.target == n
  | none => false

/-- NWT_BASK.RETIRED (R425). -/
def State.retired (n : Nat) (s : State) : Bool := s.rb R.NWT_BASK (16 + n)

/-- R416: the newt is basking. Before BOOTDONE none is. -/
def State.basking (n : Nat) (s : State) : Bool :=
  s.rb R.RST_STAT 5 && !s.holdsAny n && !s.incoming n && s.run n != 4 && s.run n != 5 && !s.retired n &&
    !(s.newt n).selfStopped

/-- A BOOT or TEST of the newt is in progress: its memories are about to be replaced. -/
def State.busyNewt (n : Nat) (s : State) : Bool := s.roles.boot == some n || s.roles.test == some n

/-- A basking newt that can take a role now. -/
def State.spareFor (process : Bool) (s : State) (n : Nat) : Bool :=
  decide (12 ≤ n) == process && s.basking n && !s.busyNewt n

/-- The newt's instruction memory holds an image that names a role (R402). -/
def State.named (n r : Nat) (s : State) : Bool :=
  match (s.newt n).image with
  | some i => nbit r i.roles.toNat
  | none => false

/-- The newt runs an image. -/
def State.running (n : Nat) (s : State) : Bool := decide (s.run n ≤ 2)

/-- The class of a newt and of a role: true for process (R20, R401). -/
def newtProcess (n : Nat) : Bool := decide (12 ≤ n)
def roleProcess (r : Nat) : Bool := decide (32 ≤ r)

/-- The task inputs a role uses on a newt, by its image's mask (R402). -/
def State.taskInputs (n r : Nat) (s : State) : List Nat :=
  match (s.newt n).image with
  | some i => (List.range 4).filter fun k => nbit (4 * r + k) i.timask.toNat
  | none => []

/-- A newt starts at an entry (R391): every port at its reset value but g0 to g2, nothing pending, timer disarmed.
Its mailbox, memories and cycle counter stay. -/
def State.startNewt (n entry g0 g1 g2 : Nat) (s : State) : State :=
  let g (k v : Nat) (t : Tbl Word) : Tbl Word := tset portReset t k (BitVec.ofNat 32 v)
  let s := s.modNewt n fun x => { x with
    ports := g 0 g0 (g 1 g1 (g 2 g2 [])), acc := [], acc1 := [], acc2 := [], stage := []
    pc := entry, pend0 := none, pend1 := none, landing := [], regq := [], gath := [], lastGath := false
    mbxOp := none, evpend := 0, evhops := [], tmr := 0, waitMask := 0, waited := 0, wasWaiting := false, openRecs := [] }
  ((s.wr (R.NWT_CST n) 0).wr (R.NWT_FPC n) 0).newtBusy n

/-- A newt that gives up its last role stops and is basking (R411, R416); one that is down stays so. -/
def State.restNewt (n : Nat) (s : State) : State :=
  if s.holdsAny n || s.incoming n then s
  else if s.running n then (s.setRun n 3).wf (R.NWT_FPC n) 15 0 (s.newt n).pc
  else s

/-- NOSPARE is posted when a class comes to have no basking newt (R416). -/
def State.spareClass (process : Bool) (s : State) : State :=
  let some' := (List.range 16).any fun n => newtProcess n == process && s.basking n
  let i := b2n process
  let had := s.roles.nospare.getLsbD i
  let s : State := { s with roles.nospare := bput i (!some') s.roles.nospare }
  if some' || had then s else s.post 0x65 1 i 0

def State.spares (s : State) : State :=
  if s.rb R.RST_STAT 5 then (s.spareClass false).spareClass true else s

/-- BUSY: a move, boot or test is in progress (R423). -/
def State.nwtBusy (s : State) : State :=
  s.wb R.NWT_STAT 1 (s.roles.move.isSome || s.roles.boot.isSome || s.roles.test.isSome)

/-- RES of NWT_STAT (R423). -/
def State.res (v : Nat) (s : State) : State := s.wf R.NWT_STAT 5 2 v

/-! ### Messages (R404 to R407) -/

def Msg.f (m : Msg) (off size : Nat) : Nat := nat64 m.toNat off size
def Msg.dst (m : Msg) : Nat := m.f 0 1
def Msg.src (m : Msg) : Nat := m.f 1 1
def Msg.epoch (m : Msg) : Nat := m.f 2 1
def Msg.fwd (m : Msg) : Bool := nbit 24 m.toNat
def Msg.ho (m : Msg) : Bool := nbit 28 m.toNat
def Msg.bounced (m : Msg) : Bool := nbit 25 m.toNat

/-- The message is one for the role (R411 step 4): sent to it by a role, or bounced back to it (R407). A device message
is for a newt. -/
def Msg.isFor (r : Nat) (m : Msg) : Bool := if m.bounced then m.src == r else m.dst == r && m.src != 0xFF

/-- A message with other bytes 0 to 3: DSTROLE, EPOCH and FLAGS; SRCROLE and BODY stay. -/
def Msg.mark (m : Msg) (dst epoch flags : Nat) : Msg :=
  BitVec.ofNat 256 (m.toNat / 2 ^ 32 * 2 ^ 32 + flags % 256 * 2 ^ 24 + epoch % 256 * 2 ^ 16 + m.src * 256 + dst % 256)

/-- A device message (R409): type in byte 4, role and new epoch in bytes 5 and 6. -/
def deviceMsg (type role epoch : Nat) : Msg :=
  BitVec.ofNat 256 (epoch % 256 * 2 ^ 48 + role * 2 ^ 40 + type * 2 ^ 32 + epoch % 256 * 2 ^ 16 + 0xFF * 256 + role)

/-- The router holds messages for the newt under R409 or R411. -/
def State.routerHolds (n : Nat) (s : State) : Bool := s.roles.router.any fun h => h.newt == n && !h.gated

/-- How many messages the router holds for a newt. -/
def State.heldFor (n : Nat) (s : State) : Nat := (s.roles.router.filter fun h => h.newt == n).length

/-- A mailbox can take a message now: it has room and the router holds nothing that goes in before it (R405, R411). -/
def State.mbxRoom (n : Nat) (s : State) : Bool :=
  decide ((s.newt n).mbx.length < 16) && decide (s.heldFor n = 0)

/-- The rest of a moved role's messages is held, behind which every later message waits (R411). A device message that is
held (R409) makes none wait. -/
def State.restHeld (n : Nat) (s : State) : Bool :=
  s.roles.router.any fun h => h.newt == n && !h.gated && h.msg.src != 0xFF

/-- The mailbox is full for a message that may be dropped or bounced for it (R405 to R407): 16 messages held for a gated
newt, or 16 entries taken and none waiting under R411. -/
def State.mbxFull (n : Nat) (s : State) : Bool :=
  if s.newtGated n then decide (16 ≤ s.heldFor n)
  else decide (16 ≤ (s.newt n).mbx.length) && !s.restHeld n

/-- A message enters a mailbox; a forwarded one counts as such (R540). -/
def State.putMsg (n : Nat) (m : Msg) (s : State) : State :=
  let s := (s.modNewt n fun x => { x with mbx := x.mbx ++ [m] }).pmc n 11 1
  if m.fwd then s.pmc n 15 1 else s

/-- Deliver a message that is never refused: into the mailbox, or held by the router (R85, R409), behind what the router
already holds for the newt. A message for a gated newt is the wake cause. -/
def State.giveMsg (n : Nat) (m : Msg) (s : State) : State :=
  if s.newtGated n then
    ({ s with roles.router := s.roles.router ++ [⟨n, m, true⟩] } : State).wake .mbx
  else if s.mbxRoom n then s.putMsg n m
  else { s with roles.router := s.roles.router ++ [⟨n, m, decide ((s.newt n).mbx.length < 16) && !s.routerHolds n⟩] }

/-- R407: the message goes back to the holder of its SRCROLE, or is dropped and counted. -/
def State.bounce (m : Msg) (reason : Nat) (s : State) : State :=
  let m' := m.mark m.dst m.epoch (b2n m.fwd + 2 + 4 * reason + 16 * b2n m.ho)
  let r := m.src
  let h := s.holder r
  if decide (r < 64) && s.roleState r != 0 && !s.mbxFull h then s.giveMsg h m'
  else
    let s := s.count R.NWT_STAT 23 16 1
    if s.roles.bdropArmed then ({ s with roles.bdropArmed := false } : State).post 0x68 1 m.src m.dst else s

/-- R406: the epochs match and the newt holds the role, or is the incoming newt of a hand-over message. -/
def State.accepts (n : Nat) (m : Msg) (s : State) : Bool :=
  let r := m.dst
  s.roleState r != 0 && m.epoch == s.epoch r &&
    (s.holds n r || (m.ho && s.incoming n && (s.roles.move.any fun v => v.role == r)))

/-- R406: a message that is not delivered is bounced, or forwarded once with its EPOCH renewed. -/
def State.astray (m : Msg) (s : State) : State :=
  let r := m.dst
  if s.roleState r = 0 then s.bounce m 1
  else if m.fwd then s.bounce m 2
  else { s with roles.wires := (s.holder r, m.mark r (s.epoch r) (m.f 3 1 ||| 1)) :: s.roles.wires }

/-- R406: the oldest message on its way arrives at its newt. -/
def State.arrive (s : State) : State :=
  match s.roles.wires with
  | [] => s
  | (n, m) :: rest =>
    let s : State := { s with roles.wires := rest }
    if !s.accepts n m then s.astray m
    else if m.fwd && s.mbxFull n then s.bounce m 3
    else s.giveMsg n m

/-- Send a device message about a role to a newt (R409). -/
def State.tell (n type role : Nat) (s : State) : State := s.giveMsg n (deviceMsg type role (s.epoch role))

/-- Where a message for a role goes (R410 step 4): HO messages of the holder to the incoming newt. -/
def State.target (sender : Nat) (m : Msg) (s : State) : Nat × Bool :=
  let r := m.dst
  let ho := m.ho && s.roleState r == 2 && s.holder r == sender
  (if ho then s.rf (R.NWT_ROLE r) 20 16 else s.holder r, ho)

/-- The code of a send, 0 when it goes out (R405). -/
def State.sendCode (n : Nat) (m : Msg) (s : State) : Nat :=
  let t := (s.target n m).1
  let onWay := (s.roles.wires.filter fun w => w.1 == t).length
  if !(decide (m.src < 64) && s.holds n m.src) then 3
  else if s.roleState m.dst = 0 then 2
  else if s.newtGated t then
    (if 16 ≤ (s.roles.router.filter fun h => h.newt == t).length + onWay then 1 else 0)
  else if s.routerHolds t || decide (16 ≤ (s.newt t).mbx.length + onWay) then 1
  else 0

/-! ### Moves -/

def State.modRole (r : Nat) (f : Word → Word) (s : State) : State :=
  s.wr (R.NWT_ROLE r) (f (s.rd (R.NWT_ROLE r)))

/-- The role stays HELD or becomes so by a newt. -/
def State.setHeld (r holder : Nat) (s : State) : State :=
  s.modRole r fun w => putFld 20 16 0x1F (putFld 5 4 1 (putFld 3 0 holder w))

/-- The mirrored deliveries of a move (R410 step 3): for each channel that delivers to an input of the role on the
holder, the same input of the target, where it was not yet named. -/
def State.mirrorList (r src tgt : Nat) (s : State) : List (Nat × Nat) :=
  (List.range 48).flatMap fun c =>
    (s.taskInputs src r).filterMap fun k =>
      let a := 4 * src + k
      let b := 4 * tgt + k
      if s.rb (R.EVM_CMASK c (a / 32)) (a % 32) && !s.rb (R.EVM_CMASK c (b / 32)) (b % 32) then some (c, b) else none

/-- Set or clear deliveries of channels to inputs (R460). -/
def State.setDeliveries (on : Bool) (l : List (Nat × Nat)) (s : State) : State :=
  l.foldl (fun s p => s.wb (R.EVM_CMASK p.1 (p.2 / 32)) (p.2 % 32) on) s

/-- Every channel's deliveries to the given inputs of a newt end (R411). -/
def State.dropDeliveries (n : Nat) (ks : List Nat) (s : State) : State :=
  s.setDeliveries false ((List.range 48).flatMap fun c => ks.map fun k => (c, 4 * n + k))

/-- A role becomes UNASSIGNED: its epoch rises, its token is released (R401, R414, R415, R422). -/
def State.unassign (r detail : Nat) (s : State) : State :=
  let s := s.modRole r fun w =>
    putFld 20 16 0x1F (putFld 15 8 (fld 15 8 w + 1) (putFld 6 6 0 (putFld 5 4 0 w)))
  let s : State := { s with
    roles.fhold := s.roles.fhold.filter (· != r), roles.fholdSafe := s.roles.fholdSafe.filter (· != r) }
  let s := s.post 0x61 1 r detail
  if 32 ≤ r then (s.tokenSafe r).markWait else s

/-- R415: the next role of a faulted newt starts its takeover, or becomes UNASSIGNED. DESIGN CHOICE (log 160): where the only
basking newts are under BOOT or TEST it waits for their end. -/
def takeNext : List (Nat × Nat × Nat) → State → State
  | [], s => ({ s with roles.takeovers := [] } : State)
  | (r, f, c) :: rest, s =>
    if s.roles.move.isSome then { s with roles.takeovers := (r, f, c) :: rest }
    else if !(s.roleState r != 0 && s.holder r == f) then takeNext rest s
    else
      match (List.range 16).find? (s.spareFor (roleProcess r)) with
      | none =>
        if (List.range 16).any fun n => newtProcess n == roleProcess r && s.basking n then
          { s with roles.takeovers := (r, f, c) :: rest }
        else takeNext rest (s.unassign r 1)
      | some t =>
        let s : State := { s with
          roles.takeovers := rest
          roles.move := some {
            role := r, source := f, target := t, persist := false, takeover := true, cause := c, fresh := true } }
        s.modRole r fun w => putFld 20 16 t (putFld 5 4 2 w)

/-- R408: the first check a MOVE fails, by its RES code. DESIGN CHOICE (log 160): a target under BOOT or TEST gives BUSY, since
its memories are about to be replaced. -/
def State.moveCheck (r t : Nat) (s : State) : Option Nat :=
  let sourceOnly := (List.range 64).all fun q => q == r || !s.holds (s.holder r) q
  let otherSpare := (List.range 16).any fun n => n != t && newtProcess n == roleProcess r && s.basking n
  if s.roleState r ≠ 1 then some 9
  else if newtProcess t != roleProcess r then some 1
  else if s.retired t then some 8
  else if s.newtGated t then some 7
  else if s.holds t r || s.incoming t || !(s.basking t || (decide (s.run t ≤ 1) && s.named t r)) then some 2
  else if s.roles.move.isSome || s.busyNewt t then some 4
  else if !otherSpare && !sourceOnly then some 11
  else none

/-- The refusal of BOOT or TEST of a newt (R417, R418, R420, R423). -/
def State.bootCheck (n : Nat) (test : Bool) (s : State) : Option Nat :=
  if s.holdsAny n then some 10
  else if s.incoming n then some 2
  else if s.newtGated n then some 7
  else if s.roles.boot.isSome || s.roles.test.isSome then some 4
  else if test && s.run n == 5 && !s.retired n then some 2
  else if !test && s.retired n then some 8
  else none

def State.testOp (n : Nat) (s : State) : State :=
  match s.bootCheck n true with
  | some c => s.res c
  | none => (({ s with roles.test := some n } : State).res 0).nwtBusy

/-- A self-test of R554 that cannot go on is skipped and counted. -/
def State.skipTest (n : Nat) (s : State) : State :=
  (({ s with roles.rotating := none } : State).count R.HLT_STAT 15 8 1).post 0x73 0 n 1

/-- A move of a role starts: R410 step 1. -/
def State.beginMove (r t : Nat) (persist : Bool) (s : State) : State :=
  let fresh := s.basking t
  let s : State := { s with roles.move := some {
    role := r, source := s.holder r, target := t, persist, takeover := false, cause := 0, fresh } }
  ((s.modRole r fun w => putFld 20 16 t (putFld 5 4 2 w)).res 0).nwtBusy

/-- R554: role 7's test of a newt goes on: its next role moves to a basking spare, or, once it holds none, it is tested. -/
def State.rotate (s : State) : State :=
  match s.roles.rotating with
  | none => s
  | some n =>
    if s.roles.move.isSome || s.roles.test == some n then s
    else
      match (List.range 64).find? fun r => s.holds n r with
      | none => if (s.bootCheck n true).isSome then s.skipTest n else s.testOp n
      | some r =>
        match (List.range 16).find? fun t => t != n && s.spareFor (newtProcess n) t with
        | none => s.skipTest n
        | some t => if (s.moveCheck r t).isSome then s.skipTest n else s.beginMove r t false

/-- Whatever the end of a move allows: the next takeover, the rotation's next move, BUSY, the spares of each class. -/
def State.settleMoves (s : State) : State := (takeNext s.roles.takeovers s).rotate.nwtBusy.spares

/-- R412: the move in progress is abandoned. `stopTarget` is false where the target itself went down. -/
def State.abandon (stopTarget : Bool) (s : State) : State :=
  match s.roles.move with
  | none => s
  | some m =>
    let s : State := { s with
      roles.move := none, roles.rotating := if s.roles.rotating == some m.source then none else s.roles.rotating }
    let s := (s.setHeld m.role m.source).setDeliveries false m.mirror
    let s := s.modNewt m.target fun x => { x with mbx := x.mbx.filter fun g => !(g.ho && !g.bounced && g.dst == m.role) }
    let s : State := { s with
      roles.wires := s.roles.wires.filter (fun w => !(w.1 == m.target && w.2.ho && w.2.dst == m.role))
      roles.router := s.roles.router.filter (fun h =>
        !(h.newt == m.target && h.msg.ho && !h.msg.bounced && h.msg.dst == m.role)) }
    let s := if stopTarget then s.restNewt m.target else s
    s.tell m.source 4 m.role

/-- Messages of a role move from the old holder's mailbox to the target (R411 step 4). -/
def State.moveMail (r old new : Nat) (s : State) : State :=
  let mine := (s.newt old).mbx.filter fun g => g.isFor r
  let s := s.modNewt old fun x => { x with mbx := x.mbx.filter fun g => !g.isFor r }
  let here := s.roles.router.filter fun h => h.newt == old && h.msg.isFor r
  let s : State := { s with roles.router := s.roles.router.filter (fun h => !(h.newt == old && h.msg.isFor r)) }
  (mine ++ here.map (·.msg)).foldl (fun s g => s.giveMsg new g) s

/-- R411: the commit of the move in progress, forced or not. -/
def State.commit (forced : Bool) (s : State) : State :=
  match s.roles.move with
  | none => s
  | some m =>
    let old := m.source
    let r := m.role
    let epoch := (s.epoch r + 1) % 256
    let ks := s.taskInputs old r
    let s : State := { s with roles.move := none }
    let s := (s.setHeld r m.target).modRole r (putFld 15 8 epoch)
    let s := (s.dropDeliveries old ks).moveMail r old m.target
    let s := (s.restNewt old).tell m.target (if forced then 3 else 2) r
    let s := s.post 0x60 0 r (old + 16 * m.target + 256 * epoch + (if forced then 65536 else 0))
    let s : State := if m.persist && !s.roles.persists.contains (old, m.target)
      then ({ s with roles.persists := s.roles.persists ++ [(old, m.target)] } : State).cflShow else s
    if forced then
      let s := s.flag R.NWT_STAT 6
      if s.hasDriven r then { s with roles.fhold := r :: s.roles.fhold.filter (· != r) } else s
    else s

/-- Steps 2 and 3 of R410 up to HANDOVER, and their takeover form (R415): the image is in place and the target starts with
mirrored inputs; none where the image does not check or cannot be fetched, or does not name the role. -/
def State.loadTarget (m : Move) (s : State) : Option State :=
  let bad := !s.named m.target m.role &&
    ((s.imageFault m.source).isSome || !nbit m.role (s.header (slotBase m.source)).roles)
  if bad then none
  else
    let s := if s.named m.target m.role then s else s.loadImage m.target m.source
    let mirror := s.mirrorList m.role m.source m.target
    let s := if m.fresh then
        (if m.takeover then s.startNewt m.target 0x30 m.role m.source m.cause
         else s.startNewt m.target 0x20 m.role m.source 0)
      else s
    let s := s.setDeliveries true mirror
    some { s with roles.move := some { m with stage := .handover, mirror } }

/-- The move in progress commits. DESIGN CHOICE (log 161): one that has not loaded its target yet does so first, since no newt
holds a role without its image (R402); where that fails it is abandoned with RES 3. Whether it committed. -/
def State.commitLoaded (forced : Bool) (s : State) : Bool × State :=
  match s.roles.move with
  | none => (true, s)
  | some m =>
    if m.stage ≠ .loading then (true, s.commit forced)
    else
      match s.loadTarget m with
      | some s => (true, s.commit forced)
      | none => (false, (s.abandon true).res 3)

/-- R412, R415: a newt has faulted or stopped itself: its move ends, its roles move or become UNASSIGNED. A moving holder
commits at once. -/
def State.newtDown (n cause : Nat) (s : State) : State :=
  let s := s.post 0x62 2 n (cause + 65536 * s.rf (R.NWT_FPC n) 15 0)
  let s := match s.roles.move with
    | none => s
    | some m =>
      if m.target = n then s.abandon false
      else if m.source = n ∧ !m.takeover then (s.commitLoaded true).2
      else s
  let held := (List.range 64).filter fun r => s.holds n r && !(s.roles.move.any fun m => m.role == r)
  let s := if s.rb R.NWT_CTL 0 then
      ({ s with roles.takeovers := s.roles.takeovers ++ held.map (fun r => (r, n, cause)) } : State)
    else held.foldl (fun s r => s.unassign r 3) s
  s.settleMoves

/-- A fault of R396: the newt stops, NWT_CSTn and NWT_FPCn say where, results in flight complete (R397). -/
def State.newtFault (n cause slot pc : Nat) (s : State) : State :=
  let s := (s.closeAll n).modNewt n fun x => { x with
    gath := [], lastGath := false, pend0 := none, pend1 := none, tmr := 0 }
  let s := s.wr (R.NWT_CST n) (BitVec.ofNat 32 (4 + 8 * cause + 128 * slot))
  (s.wr (R.NWT_FPC n) (BitVec.ofNat 32 pc)).newtDown n cause

/-- OP = MOVE (R410 step 1). -/
def State.startMove (r t : Nat) (persist : Bool) (s : State) : State :=
  match s.moveCheck r t with
  | some c => s.res c
  | none => (s.beginMove r t persist).settleMoves

/-- Steps 2 and 3 of R410 end, in a takeover with its commit at once (R415), else with HANDOVER to the holder. -/
def State.moveLoaded (s : State) : State :=
  match s.roles.move with
  | none => s
  | some m =>
    if m.stage ≠ .loading then s
    else
      match s.loadTarget m with
      | none =>
        (if m.takeover then (({ s with roles.move := none } : State).setHeld m.role m.source).unassign m.role 2
         else (s.abandon true).res 3).settleMoves
      | some s => if m.takeover then (s.commit true).settleMoves else s.tell m.source 1 m.role

/-- OP = COMMIT from the holder (R410, R411); it is refused only where the role is not MOVING. -/
def State.commitOp (r : Nat) (s : State) : State :=
  match s.roles.move with
  | some m =>
    if m.role = r then
      let (done, s) := s.commitLoaded false
      (if done then s.res 0 else s).settleMoves
    else s.res 9
  | none => s.res 9

/-- OP = UNASSIGN (R422); a move of the role is abandoned first (R412). -/
def State.unassignOp (r : Nat) (s : State) : State :=
  let s := if s.roles.move.any fun m => m.role == r then s.abandon true else s
  let h := s.holder r
  let had := s.roleState r != 0
  let s := s.unassign r 0
  ((if had then s.restNewt h else s).res 0).settleMoves

/-- OP = TAKE from the holder (R414). -/
def State.takeToken (r : Nat) (s : State) : State :=
  (((s.modRole r (putFld 6 6 1)).res 0).tokenSafe r)

/-- OP = RELEASE (R414). -/
def State.releaseToken (r : Nat) (s : State) : State :=
  if s.token r then (((s.modRole r (putFld 6 6 0)).res 0).tokenSafe r).markWait else s.res 5

def State.bootOp (n : Nat) (s : State) : State :=
  match s.bootCheck n false with
  | some c => s.res c
  | none => (({ s with roles.boot := some n } : State).res 0).nwtBusy

/-- The slot of a newt replaces its instruction memory, its data memory is zeroed, it basks, SHEDOK (R417 step 3). It would
start at an entry of the new image, so NWT_FPCn reads 0: DESIGN CHOICE (log 89), since R399 names no word here. -/
def State.shed (n : Nat) (s : State) : State :=
  let s := s.loadImage n n
  let s := s.modNewt n fun x => { x with dmem := [], selfStopped := false }
  let roles := match (s.newt n).image with | some i => i.roles.toNat | none => 0
  ((s.setRun n 3).wr (R.NWT_FPC n) 0).post 0x64 0 n (if n < 12 then roles % 2 ^ 32 else roles / 2 ^ 32)

/-- R418: a BOOT check ends. -/
def State.bootDone (s : State) : State :=
  match s.roles.boot with
  | none => s
  | some n =>
    let s : State := { s with roles.boot := none }
    (match s.imageFault n with
      | some why => (s.res 3).post 0x63 2 n why
      | none => s.shed n).settleMoves

/-- A test under R554 has run. -/
def State.selfTested (n : Nat) (passed : Bool) (s : State) : State :=
  if s.roles.rotating == some n then
    let s := ({ s with roles.rotating := none } : State).count R.HLT_STAT 23 16 1
    if passed then s.post 0x73 0 n 0 else s
  else s

/-- R420: a self-test ends; `failed` is what failed. -/
def State.testDone (failed : Option Nat) (s : State) : State :=
  match s.roles.test with
  | none => s
  | some n =>
    let s : State := { s with
      roles.test := none
      roles.tested := tset (fun _ => 0) s.roles.tested n (s.roles.testSerial + 1)
      roles.testSerial := s.roles.testSerial + 1 }
    let s := s.modNewt n fun x => { x with imem := [], dmem := [], image := none }
    (match failed with
      | some what => ((s.wb R.NWT_BASK (16 + n) true).setParked n).post 0x66 2 n what
      | none =>
        let s := s.wb R.NWT_BASK (16 + n) false
        match s.imageFault n with
        | some why => (s.setParked n).post 0x63 2 n why
        | none => s.shed n).selfTested n failed.isNone |>.settleMoves

/-- A newt holding one of roles 0 to 15 (R342, R541). -/
def State.basfort (n : Nat) (s : State) : Bool := (List.range 16).any fun r => s.holds n r

/-- A write of NWT_MOVE (R422): the writer rule, then the operation. -/
def State.nwtMove (m : Master) (w : Word) (s : State) : State :=
  let r := fld 5 0 w
  let t := fld 11 8 w
  let isHolder := match m with | .newt n => s.holds n.val r | _ => false
  let general := match m with | .newt n => s.basfort n.val | _ => true
  let bad := s.flag R.NWT_STAT 0
  match fld 14 12 w with
  | 0 => if general then s.startMove r t (bit 15 w) else bad
  | 1 => if isHolder then s.commitOp r else bad
  | 2 => if isHolder then s.takeToken r else bad
  | 3 => if general then s.unassignOp r else bad
  | 4 => if general then s.bootOp t else bad
  | 5 => if general then s.testOp t else bad
  | 6 => if general || isHolder then s.releaseToken r else bad
  | _ => bad

/-! ### Meanings that are no register write -/

def execMoveImageLoaded (s : State) : Out := .next s.moveLoaded

/-- R410: HOTMO passes without a commit. -/
def execHandoverTimeout (s : State) : Out := .next <|
  match s.roles.move with
  | some m => if m.stage = .handover then (s.commit true).settleMoves else s
  | none => s

/-- The copy of an image from one slot into another (R410, PERSIST); only the sectors it occupies are erased (R531). -/
def State.copySlot (src dst : Nat) (s : State) : State :=
  let len := 256 + (s.header (slotBase src)).codelen
  let l := s.flashBytes (slotBase src) len
  let k := sectorOf (slotBase dst)
  let bump (k : Nat) (s : State) : State :=
    s.setSector k { s.sector k with erases := min 1048575 ((s.sector k).erases + 1) }
  let lines := (len + 15) / 16
  let s := (bump k s).eraseArray k
  let s := s.setSector k { s.sector k with nextLine := min lines 4096 }
  let s := if lines ≤ 4096 then s else
    let s := (bump (k + 1) s).eraseArray (k + 1)
    s.setSector (k + 1) { s.sector (k + 1) with nextLine := lines - 4096 }
  { s with flash.bytes := putFlash (slotBase dst) l s.flash.bytes }

/-- A PERSIST copy finishes: the target's slot holds the holder's image. -/
def execPersistCopyDone (s : State) : Out := .next <|
  match s.roles.persists with
  | [] => s
  | (a, b) :: rest => (({ s with roles.persists := rest } : State).copySlot a b).cflShow

def execNewtBootDone (s : State) : Out := .next s.bootDone

def execNewtTestDone (failed : Option (Fin 3)) (s : State) : Out := .next (s.testDone (failed.map (·.val)))

/-- R414: FHOLD passed without a write by the new holder of a forced commit. -/
def execFholdExpiry (role : Fin 64) (s : State) : Out := .next <|
  if s.roles.fhold.contains role.val then
    let s : State := { s with roles.fhold := s.roles.fhold.filter (· != role.val) }
    if s.hasDriven role.val then
      (({ s with roles.fholdSafe := role.val :: s.roles.fholdSafe } : State).post 0x67 1 role.val 1).markWait
    else s
  else s

def execMessageArrive (s : State) : Out := .next s.arrive

/-- The first message the router holds for a newt, and what it holds without it. -/
def placeHeld (n : Nat) : List Held → Option (Held × List Held)
  | [] => none
  | h :: r =>
    if h.newt = n then some (h, r)
    else (placeHeld n r).map fun p => (p.1, h :: p.2)

/-- The router places the first message it holds for a newt whose mailbox has room (R409, R411, R85). A role's message
that was held because the newt was gated arrives only now, so R406 is judged now. -/
def State.placeOne (n : Nat) (s : State) : State :=
  if !s.newtGated n && decide ((s.newt n).mbx.length < 16) then
    match placeHeld n s.roles.router with
    | none => s
    | some (h, rest) =>
      let s : State := { s with roles.router := rest }
      if h.gated && !h.msg.bounced && h.msg.src != 0xFF && !s.accepts n h.msg then s.astray h.msg
      else s.putMsg n h.msg
  else s

def execHeldMessagePlace (n : Fin 16) (s : State) : Out := .next (s.placeOne n.val)

end Sys2Proof.Machine
end

