-- ==== Sys2Proof/Machine/Newt.lean ====
section
/-! DEFINITION. A newt executing words (chapter 12): memory, checks of a word, its three phases, redirects, waits,
the timer, the mailbox unit. -/

namespace Sys2Proof.Machine

/-! ### Memory (R362) -/

def Newt.port (x : Newt) (p : Nat) : Word := tget portReset x.ports p

def putPort (p : Nat) (v : Word) (x : Newt) : Newt := { x with ports := tset portReset x.ports p v }

def State.setPort (n p : Nat) (v : Word) (s : State) : State := s.modNewt n (putPort p v)

/-- Where an address of the load/store unit lies. -/
inductive Region where
  | dmem | gather | regs | none
  deriving DecidableEq, Repr

def regionOf (a : Nat) : Region :=
  if 0x10000000 ≤ a ∧ a < 0x10010000 then .dmem
  else if 0x20000000 ≤ a ∧ a < 0x20800000 then .gather
  else if 0x40000000 ≤ a ∧ a < 0x40150000 then .regs
  else .none

/-- Little-endian bytes of a byte table. -/
def memRead (t : Tbl Byte) (a size : Nat) : Nat := leNat ((List.range size).map fun i => tget (fun _ => 0) t (a + i))

def memWrite (a : Nat) : List Byte → Tbl Byte → Tbl Byte
  | [], t => t
  | b :: r, t => memWrite (a + 1) r (tset (fun _ => 0) t a b)

/-- A load's value from its bytes: zero- or sign-extended to 32 bits. -/
def extend (size : Nat) (signed : Bool) (v : Nat) : Word :=
  if signed then BitVec.ofInt 32 (sext (8 * size) v) else BitVec.ofNat 32 v

/-- Size and signedness of a load or store trigger, and whether it stores (R381). -/
def lsuForm (p : Nat) : Nat × Bool × Bool :=
  match p with
  | 0x110 => (4, false, false)
  | 0x111 => (2, true, false)
  | 0x112 => (2, false, false)
  | 0x113 => (1, true, false)
  | 0x114 => (1, false, false)
  | 0x118 => (4, false, true)
  | 0x119 => (2, false, true)
  | _ => (1, false, true)

/-- The address a load or store trigger forms (R381). -/
def lsuAddr (b t : Word) : Nat := (b + t).toNat

/-! ### Results on their way (R370) -/

/-- A result lands in its port. -/
def land (x : Newt) (l : Landing) : Newt :=
  let x := putPort l.port l.value x
  if l.sticky = 0 then x else putPort 0x87 (x.port 0x87 ||| BitVec.ofNat 32 l.sticky) x

/-- A word starts: results whose word has come land, in trigger order. Also the sticky bits set in this word. -/
def landStep (x : Newt) : Newt × Nat :=
  let ls := x.landing.map fun l => { l with left := l.left - 1 }
  let due := ls.filter fun l => l.left == 0
  (due.foldl land { x with landing := ls.filter fun l => l.left != 0 },
    due.foldl (fun k l => k ||| l.sticky) 0)

/-- Every result in flight lands (R371). -/
def landAll (x : Newt) : Newt :=
  let x := x.landing.foldl land { x with landing := [] }
  { x with acc1 := x.acc, acc2 := x.acc }

/-! ### Reads (phase 1) -/

/-- The value a source port reads in the word at x.pc (R368, R380, R395). -/
def State.readPort (n p : Nat) (s : State) : Word :=
  let x := s.newt n
  match p with
  | 0x84 | 0x85 | 0x86 => accPart p (accGet x.acc2 ((x.port 0x81).toNat % 4))
  | 0x105 => BitVec.ofNat 32 (x.regq.length + 8 * x.gath.length)
  | 0x123 => BitVec.ofNat 32 x.pc
  | 0x124 => BitVec.ofNat 32 (n + 16 * (n / 4))
  | 0x142 => BitVec.ofNat 32 x.mbx.length
  | 0x160 => x.evpend.setWidth 32
  | 0x180 => if s.pmcMayRead n then x.cyc.extractLsb' 0 32 else 0
  | 0x181 => if s.pmcMayRead n then (x.cyc.extractLsb' 32 16).setWidth 32 else 0
  | 0x182 => BitVec.ofNat 32 x.tmr
  | _ => x.port p

/-- A move with its value. -/
structure Moved where
  slot : Nat
  dst : Nat
  v : Word
  deriving DecidableEq, Repr

def State.source (n : Nat) (s : State) (m : Move') : Moved :=
  { slot := m.slot, dst := m.dst, v := match m.src with | .val v => v | .port p => s.readPort n p }

/-! ### Writes (phase 2) -/

/-- A move into a W port (R366, R377, R379, R380). -/
def writePort (sticky : Nat) (x : Newt) (m : Moved) : Newt :=
  match m.dst with
  | 0x83 => putPort 0x83 (macModeWrite (x.port 0x83) m.v) x
  | 0x84 | 0x85 | 0x86 => { x with stage := tset (fun _ => 0) x.stage m.dst m.v }
  | 0x87 => putPort 0x87 ((m.v &&& 7) ||| BitVec.ofNat 32 sticky) x
  | _ => putPort m.dst m.v x

/-- The 72-bit value of the staged parts (R375). -/
def stagedParts (x : Newt) : BitVec 72 :=
  let g (p : Nat) : Nat := (tget (fun _ => (0 : Word)) x.stage p).toNat
  BitVec.ofNat 72 (g 0x84 + 2 ^ 32 * g 0x85 + 2 ^ 64 * (g 0x86 % 256))

/-! ### Checks (R367, R369, R381 to R393, R396) -/

/-- Whether a control trigger's condition holds (R385). -/
def ctlTaken (p : Nat) (a b : Word) : Bool :=
  match p with
  | 0x130 => a == b
  | 0x131 => a != b
  | 0x132 => a.slt b
  | 0x133 => a.ult b
  | 0x134 => !a.slt b
  | 0x135 => !a.ult b
  | _ => true

/-- The cause a trigger faults with, if any; `x` holds the operand ports as phase 2 left them. A register is accessed
as a whole word only (R4, R381). -/
def trigFault (x : Newt) (ue : Bool) (m : Moved) : Option Nat :=
  let p := m.dst
  if 0xC0 ≤ p ∧ p < 0x100 then (if p % 8 = 4 then some 1 else none)
  else if 0x110 ≤ p ∧ p < 0x11B then
    let a := lsuAddr (x.port 0x100) m.v
    let (size, _, store) := lsuForm p
    let g := regionOf a
    if g = .none then some 3
    else if a % size ≠ 0 ∨ (g = .regs ∧ size ≠ 4) then some 2
    else if g = .gather ∧ x.lastGath then some 5
    else if g = .regs ∧ 4 ≤ x.regq.length then some 6
    else if g = .dmem ∧ !store ∧ ue then some 9
    else none
  else if 0x130 ≤ p ∧ p < 0x138 then
    if ctlTaken p (x.port 0x120) (x.port 0x121) && (m.v.toNat % 16 != 0 || decide (0x10000 ≤ m.v.toNat)) then some 4
    else none
  else if p = 0x138 then (if m.v = 0 ∨ 64 ≤ m.v.toNat then some 1 else none)
  else if p = 0x150 ∨ p = 0x151 then
    if x.mbxOp.isSome then some 7
    else if regionOf m.v.toNat ≠ .dmem then some 3
    else if m.v.toNat % 32 ≠ 0 then some 2
    else if p = 0x150 ∧ ue then some 9
    else none
  else none

/-- Faults of the triggers in slot order: a second trigger of a unit, or the trigger's own cause. -/
def trigFaults (x : Newt) (ue : Bool) : List Nat → List Moved → List (Nat × Nat)
  | _, [] => []
  | seen, m :: r =>
    let u := unitOf m.dst
    if seen.contains u then (m.slot, 1) :: trigFaults x ue seen r
    else match trigFault x ue m with
      | some c => (m.slot, c) :: trigFaults x ue (u :: seen) r
      | none => trigFaults x ue (u :: seen) r

/-- The offending slot with the lowest number. -/
def lowest : List (Nat × Nat) → Option (Nat × Nat)
  | [] => none
  | f :: r =>
    match lowest r with
    | some g => if g.1 < f.1 then some g else some f
    | none => some f

/-! ### Triggers (phase 3) -/

/-- A result to come. -/
def State.toLand (n left port : Nat) (v : Word) (sticky : Nat) (s : State) : State :=
  s.modNewt n fun x => { x with landing := x.landing ++ [⟨left, port, v, sticky⟩] }

/-- A MAC trigger (R375). -/
def State.macTrig (n : Nat) (m : Moved) (s : State) : State :=
  let x := s.newt n
  let o := if m.dst < 0xC0 then macLoad x.acc m.dst m.v (x.port 0x81) (x.port 0x83) (stagedParts x)
    else macOp x.acc m.dst (x.port 0x80) m.v (x.port 0x81) (x.port 0x83)
  let s := (s.modNewt n fun x => { x with acc := o.acc }).toLand n 3 0x82 o.r o.sticky
  (s.pmc n 9 1).pmc n 10 (if o.sticky % 4 = 0 then 0 else 1)

/-- The fabric refuses an access of the gather at offset a: the bank is without power while islands A to C are gated
(R32, R84). -/
def State.gathRefused (a : Nat) (s : State) : Bool := s.gated && !s.bankKept (a / 262144)

/-- A load or store trigger (R381 to R383); `ue` for a gather load that will find an uncorrectable error. A refused gather
access reports BUSERR when its word comes (R384). -/
def State.lsuTrig (n : Nat) (ue : Bool) (m : Moved) (s : State) : State :=
  let x := s.newt n
  let a := lsuAddr (x.port 0x100) m.v
  let (size, signed, store) := lsuForm m.dst
  let d := leBytes size (x.port 0x101).toNat
  match regionOf a with
  | .dmem =>
    if store then s.modNewt n fun x => { x with dmem := memWrite (a - 0x10000000) d x.dmem }
    else s.toLand n 2 0x102 (extend size signed (memRead x.dmem (a - 0x10000000) size)) 0
  | .gather =>
    let no := s.gathRefused (a - 0x20000000)
    let g : GathReq := { left := 12, pc := x.pc, bad := no || (ue && !store), cause := if no then 3 else 10 }
    let s := (s.modNewt n fun x => { x with gath := x.gath ++ [g] }).pmc n 5 1
    if no then s
    else if store then { s with gather := memWrite (a - 0x20000000) d s.gather }
    else s.toLand n 12 0x103 (extend size signed (memRead s.gather (a - 0x20000000) size)) 0
  | .regs =>
    (s.modNewt n fun x => { x with
      regq := x.regq ++ [⟨store, a - 0x40000000, x.port 0x101, x.pc⟩] }).pmc n 6 1
  | .none => s

/-- A mailbox trigger (R393): the buffer of a send is read now. -/
def State.mbxTrig (n : Nat) (m : Moved) (s : State) : State :=
  let x := s.newt n
  let a := m.v.toNat - 0x10000000
  let op : MbxOp := if m.dst = 0x150 then
      .send ((x.port 0x140).toNat % 64) (BitVec.ofNat 256 (memRead x.dmem a 32))
    else .recv a
  (s.modNewt n fun x => { x with mbxOp := some op }).setPort n 0x141 0xFFFFFFFF

/-- An event trigger (R394). -/
def State.evtTrig (n : Nat) (m : Moved) (s : State) : State :=
  let x := s.newt n
  if m.dst = 0x170 then
    let hit := (List.range 4).filter fun k => bit k m.v && x.evpend.getLsbD k
    let h := hit.foldl (fun h k => max h (tget (fun _ => 0) x.evhops k)) 0
    let x : Newt := { x with evpend := x.evpend &&& ~~~(m.v.setWidth 4) }
    s.setNewt n (if hit.isEmpty then x else putPort 0x161 (BitVec.ofNat 32 (min 15 (h + 1))) x)
  else s.raise (4 * n + m.v.toNat % 4) (x.port 0x161).toNat

/-- The redirect a control trigger decides (R386, R389, R390). -/
def redirectOf (m : Moved) : Redirect :=
  if m.dst = 0x138 then .wait m.v.toNat else if m.dst = 0x139 then .stop else .jump m.v.toNat

/-- One trigger acts. -/
def State.trigger (n : Nat) (ue : Bool) (s : State) (m : Moved) : State :=
  let x := s.newt n
  match unitOf m.dst with
  | 0 => s.toLand n 1 0x41 (alu (m.dst - 0x50) (x.port 0x40) m.v) 0
  | 1 => s.toLand n 1 0x61 (alu (m.dst - 0x70) (x.port 0x60) m.v) 0
  | 2 => s.macTrig n m
  | 3 => s.lsuTrig n ue m
  | 4 => if m.dst = 0x137 then s.toLand n 1 0x122 (BitVec.ofNat 32 (x.pc + 48)) 0 else s
  | 5 => s.mbxTrig n m
  | 6 => s.evtTrig n m
  | _ => if m.dst = 0x190 then s.modNewt n fun x => { x with tmr := m.v.toNat } else s.setPort n 0x184 0

/-! ### Conditions of a wait (R389) -/

def Newt.waitHolds (x : Newt) (mask : Nat) : Bool :=
  (nbit 0 mask && x.evpend != 0) || (nbit 1 mask && !x.mbx.isEmpty) || (nbit 2 mask && bit 0 (x.port 0x184)) ||
    (nbit 3 mask && x.regq.isEmpty) || (nbit 4 mask && x.gath.isEmpty) || (nbit 5 mask && x.mbxOp.isNone)

/-- A wait ends: evt.hop returns to 0 while evt.pend reads 0 (R394). -/
def waitOver (x : Newt) : Newt := if x.evpend = 0 then putPort 0x161 0 x else x

/-- What a timer of `tmr` cycles shows k cycles later where it reloads with `per` (R395). -/
def timerAfter (tmr per k : Nat) : Nat :=
  if k < tmr then tmr - k else if per = 0 then 0 else per - (k - tmr) % per

/-- Island cycles pass for a newt that is running or waiting (R395, R537): the cycle counter counts them, and an armed timer
that reaches 0 sets EXP and reloads from cnt.per. -/
def passCycles (k : Nat) (x : Newt) : Newt :=
  let y : Newt := { x with cyc := x.cyc + BitVec.ofNat 48 k }
  if x.tmr = 0 then y
  else
    let y : Newt := { y with tmr := timerAfter x.tmr (x.port 0x183).toNat k }
    if k < x.tmr then y else putPort 0x184 1 y

/-- The next word: sequential, or where the redirect that is due leads; `new` is what this word decided (R386, R389, R390). -/
def State.redirect (n : Nat) (new : Option Redirect) (s : State) : State :=
  let x := s.newt n
  let next := x.pc + 16
  let go (pc : Nat) (x : Newt) : Newt := { x with pc, pend0 := x.pend1, pend1 := new }
  match x.pend0 with
  | none => s.setNewt n (go next x)
  | some (.jump t) => s.setNewt n (go t x)
  | some (.wait mask) =>
    let y := go next x
    if y.waitHolds mask then s.setNewt n (waitOver y)
    else (s.setNewt n { (landAll y) with waitMask := mask, waited := 0 }).setRun n 1
  | some .stop =>
    let s := (s.setNewt n { (go next x) with selfStopped := true, tmr := 0 }).closeAll n
    ((s.setRun n 3).wr (R.NWT_FPC n) (BitVec.ofNat 32 (next % 65536))).newtDown n 0

/-! ### A word -/

/-- The kinds of sampling a word belongs to (R547), and where its latency ends (R545). -/
def sampleKinds (x : Newt) (ts : List Moved) (taken : Bool) : List Nat :=
  let lsu (g : Region) := ts.any fun m => decide (0x110 ≤ m.dst ∧ m.dst < 0x115) &&
    regionOf (lsuAddr (x.port 0x100) m.v) == g
  [0] ++ (if lsu .gather then [1] else []) ++ (if lsu .regs then [2] else []) ++ (if taken then [3] else []) ++
    (if ts.any (fun m => unitOf m.dst == 2) then [4] else []) ++ (if ts.any (fun m => unitOf m.dst == 5) then [5] else [])

def latEnd (x : Newt) (ts : List Moved) : LatEnd :=
  let kinds := sampleKinds x ts false
  if kinds.contains 5 then .mbx
  else if kinds.contains 2 then .reg (x.regq.length + 1)
  else if kinds.contains 1 then .words 12
  else if kinds.contains 4 then .words 3
  else if ts.any (fun m => decide (0x110 ≤ m.dst ∧ m.dst < 0x115)) then .words 2
  else .words 1

/-- Count the word towards N; whether it is sampled. -/
def State.sampled (n : Nat) (kinds : List Nat) (s : State) : State × Bool :=
  let c := R.PMC_SCTL n
  if !s.rb c 0 || !kinds.contains (s.rf c 3 1) then (s, false)
  else
    let x := s.newt n
    let k := x.sampleCount + 1
    if s.rf c 19 4 ≤ k then
      (s.setNewt n { x with sampleCount := 0 },
        !s.rb c 20 || decide (x.heldRecs + x.openRecs.length < 64))
    else (s.setNewt n { x with sampleCount := k }, false)

/-- A word faults: nothing of it is written; it is recorded with LAT 0 (R397, R545). -/
def State.wordFault (n cause slot : Nat) (kinds : List Nat) (s : State) : State :=
  let (s, yes) := s.sampled n kinds
  let x := s.newt n
  let s := if yes then s.writeSample n x.pc 0 4 x.cyc.toNat else s
  s.newtFault n cause slot x.pc

/-- A word whose sources are read and whose triggers may act: writes, triggers, redirects, counters, sampling. -/
def State.runWord (n stall sticky : Nat) (gue : Bool) (ws ts : List Moved) (y : Newt) (s : State) : State :=
  let x := s.newt n
  let taken := ts.any fun m => unitOf m.dst == 4 && ctlTaken m.dst (y.port 0x120) (y.port 0x121)
  let br := taken && ts.any fun m => decide (0x130 ≤ m.dst ∧ m.dst < 0x138)
  let counted := taken && ts.any fun m => decide (0x130 ≤ m.dst ∧ m.dst < 0x139)
  let redir := (ts.find? fun m => unitOf m.dst == 4 && ctlTaken m.dst (y.port 0x120) (y.port 0x121)).map redirectOf
  let (s, yes) := s.sampled n (sampleKinds y ts br)
  let openRec : OpenRec := {
    addr := x.pc, issue := x.cyc, until' := latEnd y ts
    events := (if stall = 0 then 0 else 1) + (if br then 2 else 0) }
  let isGath := ts.any fun m => decide (0x110 ≤ m.dst ∧ m.dst < 0x11B) &&
    regionOf (lsuAddr (y.port 0x100) m.v) == .gather
  let s := s.modNewt n fun x =>
    let x := passCycles (1 + stall) (ws.foldl (writePort sticky) x)
    { x with
      lastGath := isGath, acc2 := x.acc1, acc1 := x.acc
      openRecs := (if stall = 0 then x.openRecs else x.openRecs.map fun o => { o with events := o.events ||| 1 }) ++
        (if yes then [openRec] else []) }
  let s := ts.foldl (State.trigger n gue) s
  let s := if yes && (s.newt n).regq.length == 4 then s.modNewt n fun x => { x with
      openRecs := x.openRecs.dropLast ++ (x.openRecs.drop (x.openRecs.length - 1)).map fun o =>
        { o with events := o.events ||| 16 } } else s
  let s := ((s.pmc n 1 1).pmc n 2 (1 + stall)).pmc n 4 stall
  let s := if counted then s.pmc n 3 1 else s
  s.redirect n redir

/-- Gather accesses whose word has come; one that met an uncorrectable error or was refused stops the newt (R384). -/
def gathStep (x : Newt) : Newt × Option GathReq :=
  let gs := x.gath.map fun g => { g with left := g.left - 1 }
  ({ x with gath := gs.filter fun g => g.left != 0 }, gs.find? fun g => g.left == 0 && g.bad)

/-- The gather bank in which an error was found. -/
def gatherBank : Option SramSite → Nat
  | some (.gather b) => b.val
  | _ => 0

/-- A newt executes the word at its pc (R366); `stall` cycles of R24; `sram` is what its reads of SRAM find: errors that are
corrected (R25), an uncorrectable one (R26). -/
def State.word (n stall : Nat) (sram : SramRead) (s : State) : State :=
  let ue := sram.lost
  let s := s.sramFixed sram.corrected
  let (x, sticky) := landStep (s.newt n)
  let (x, bad) := gathStep x
  let s := (s.setNewt n x).closeWords n
  match bad with
  | some g => s.newtFault n g.cause 0 g.pc
  | none =>
    let pc := x.pc
    if 0x10000 ≤ pc then s.newtFault n 4 0 0xFFF0
    else
      let hit (k : SramSite → Bool) : Bool := ue.any k
      if hit fun u => match u with | .imem k => k.val == n | _ => false then (s.sramUe n 0).wordFault n 8 0 [0]
      else
        let w : BitVec 128 := tget (fun _ => 0) x.imem (pc / 16)
        let ds := decodeSlots 0 (slots w)
        let vs := (ds.filterMap (·.2)).map (s.source n)
        let ws := vs.filter fun m => portKind m.dst == .w
        let ts := vs.filter fun m => portKind m.dst == .t
        let y := ws.foldl (writePort sticky) x
        let due := hit fun u => match u with | .dmem k => k.val == n | _ => false
        let gue := hit fun u => match u with | .gather _ => true | _ => false
        let faults := (ds.filterMap fun d => if d.2.isNone then some (d.1, 1) else none) ++ trigFaults y due [] ts
        let isBranch := ts.any fun m => decide (0x130 ≤ m.dst ∧ m.dst < 0x138) &&
          ctlTaken m.dst (y.port 0x120) (y.port 0x121)
        match lowest faults with
        | some (slot, cause) =>
          let s := if cause = 9 then s.sramUe n 1 else s
          s.wordFault n cause slot (sampleKinds y ts isBranch)
        | none => (if gue then s.sramUe (gatherBank ue) 2 else s).runWord n stall sticky gue ws ts y

/-- NEWT WORD EXECUTE: a running newt of a powered island executes one word. -/
def execNewtWordExecute (n : Fin 16) (stall : Nat) (sram : SramRead) (s : State) : Out := .next <|
  if s.run n.val = 0 ∧ s.d0up ∧ !s.newtGated n.val then s.word n.val stall sram else s

/-- R389: a selected condition holds and the paused newt resumes, `cycles` after it paused; those up to a NEWT_TIMER_EXPIRY
in the pause are counted already. -/
def State.waitEnd (n cycles : Nat) (s : State) : State :=
  let cycles := max cycles (s.newt n).waited
  let x := passCycles (cycles - (s.newt n).waited) (s.newt n)
  let bad := x.gath.find? (·.bad)
  let x : Newt := { x with
    gath := [], waited := 0
    openRecs := x.openRecs.map fun o => match o.until' with | .words _ => { o with until' := .words 1 } | _ => o }
  let s' := (((s.setNewt n x).pmc n 2 cycles).pmc n 8 cycles).pmc n 7 (if nbit 3 x.waitMask then cycles else 0)
  match bad with
  | some g => s'.newtFault n g.cause 0 g.pc
  | none =>
    if x.waitHolds x.waitMask then ((s'.modNewt n waitOver).setRun n 0).newtBusy n else s

def execWaitEnd (n : Fin 16) (cycles : Nat) (s : State) : Out := .next <|
  if s.run n.val = 1 ∧ s.d0up ∧ !s.newtGated n.val then s.waitEnd n.val cycles else s

/-- R395: the cycles left of an armed timer pass, and it reaches 0. A newt that waits goes on waiting. DESIGN CHOICE (log 141):
in a newt that runs they are cycles of no word. -/
def State.timerExpiry (n : Nat) (s : State) : State :=
  let k := (s.newt n).tmr
  if s.run n = 1 then s.modNewt n fun x => { passCycles k x with waited := x.waited + k }
  else (s.modNewt n (passCycles k)).pmc n 2 k

def execNewtTimerExpiry (n : Fin 16) (s : State) : Out := .next <|
  if s.run n.val ≤ 1 ∧ s.d0up ∧ !s.newtGated n.val ∧ (s.newt n.val).tmr ≠ 0 then s.timerExpiry n.val else s

/-! ### The mailbox unit (R393, R405) -/

/-- The message of a send as the device marks it (R404), before its destination is known. -/
def sentMsg (dst : Nat) (raw : Msg) : Msg := raw.mark dst 0 (raw.f 3 1 / 16 % 2 * 16)

/-- A mailbox operation completes with its code in mbx.r (R405). -/
def State.mbxDone (n : Nat) (s : State) : State :=
  match (s.newt n).mbxOp with
  | none => s
  | some op =>
    let s := s.modNewt n fun x => { x with mbxOp := none }
    let (code, s) : Nat × State := match op with
      | .send dst raw =>
        let m := sentMsg dst raw
        let code := s.sendCode n m
        if code = 0 then
          let (t, ho) := s.target n m
          (0, { s with roles.wires := s.roles.wires ++ [(t, m.mark dst (s.epoch dst) (if ho then 16 else 0))] })
        else (code, s.pmc n 12 1)
      | .recv a =>
        match (s.newt n).mbx with
        | [] => (4, s)
        | m :: rest => (0, s.modNewt n fun x => { x with mbx := rest, dmem := memWrite a (bvBytes 32 m) x.dmem })
    (s.setPort n 0x141 (BitVec.ofNat 32 code)).closeMbx n

def execMailboxOpComplete (n : Fin 16) (s : State) : Out := .next (s.mbxDone n.val)

end Sys2Proof.Machine
end

