-- ==== Sys2Proof/Machine/Panes.lean ====
section
/-! DEFINITION. How the store lays codewords out in NAND (chapter 07): codewords, locations, blocks and their pools, panes,
stripes and parity, and the regions of journal, checkpoints and log. -/

namespace Sys2Proof.Machine

/-! ### Codewords (R170) -/

/-- The name of a unit in ADDR: its kind (0 NS1, 1 journal, 2 map checkpoint, 3 map log) and its number. -/
def unitAddr (kind n : Nat) : Nat := n % 2 ^ 27 + kind % 8 * 2 ^ 27

/-- Bytes 0 to 4,107 of a codeword, which its CRC covers. -/
def codewordBody (data : Blk) (addr : Word) (seq : Dword) : List Byte :=
  bvBytes 4096 data ++ bvBytes 4 addr ++ bvBytes 8 seq

/-- The codeword of a unit. -/
def Codeword.make (kind n : Nat) (data : Blk) (seq : Nat) : Codeword :=
  let addr : Word := BitVec.ofNat 32 (unitAddr kind n)
  let body := codewordBody data addr (BitVec.ofNat 64 seq)
  let crc := crc32 body
  { data, addr, seq := BitVec.ofNat 64 seq, crc, ldpc := Config.ldpc (body ++ bvBytes 4 crc) }

/-- Its 4,368 bytes. -/
def Codeword.bytes (c : Codeword) : List Byte :=
  codewordBody c.data c.addr c.seq ++ bvBytes 4 c.crc ++ bvBytes 256 c.ldpc

/-- Its CRC checks. -/
def Codeword.crcOk (c : Codeword) : Bool := c.crc == crc32 (codewordBody c.data c.addr c.seq)

/-- Bytewise XOR of two codewords (R171). -/
def Codeword.xor (a b : Codeword) : Codeword :=
  { data := a.data ^^^ b.data, addr := a.addr ^^^ b.addr, seq := a.seq ^^^ b.seq, crc := a.crc ^^^ b.crc
    ldpc := a.ldpc ^^^ b.ldpc }

/-! ### Locations (R174) -/

/-- Fields of a location, which is written as a map entry is. -/
def locDie (l : Nat) : Nat := l / 2 ^ 26
def locBlock (l : Nat) : Nat := l / 8192 % 8192
def locPage (l : Nat) : Nat := l / 4 % 2048
def locCw (l : Nat) : Nat := l % 4

def locAt (die block page cw : Nat) : Nat := die * 2 ^ 26 + block * 8192 + page * 4 + cw

/-! ### Blocks and panes (R169, R171)

Pane n consists of block n of each die. Panes 0 to 767 are the host-write cache, 768 to 1,244 the journal region, 1,245 to
1,308 the metadata region, all pseudo-SLC, and 1,309 to 5,461 the TLC pool: the slices of chapter 07 in pane numbers that
the spec does not state (DESIGN CHOICE, log 109). -/

def cacheEnd : Nat := 768
def pslcEnd : Nat := 1309
def paneEnd : Nat := 5462

def Store.info (t : Store) (d b : Nat) : BlockInfo := tget (fun _ => ({} : BlockInfo)) t.blocks (d * 8192 + b)

def Store.setInfo (d b : Nat) (x : BlockInfo) (t : Store) : Store :=
  { t with blocks := tset (fun _ => ({} : BlockInfo)) t.blocks (d * 8192 + b) x }

/-- The block's pool (R169): it changes only by replacing a failed pseudo-SLC block (R180). -/
def Store.isPslc (t : Store) (d b : Nat) : Bool := (t.info d b).pslc.getD (decide (b < pslcEnd))

def Store.pane (t : Store) (n : Nat) : Pane := tget (fun _ => ({} : Pane)) t.panes n

def Store.setPane (n : Nat) (p : Pane) (t : Store) : Store :=
  { t with panes := tset (fun _ => ({} : Pane)) t.panes n p }

/-- The pane a location lies in. -/
def Store.paneOf (t : Store) (l : Nat) : Nat := (t.info (locDie l) (locBlock l)).pane.getD (locBlock l)

/-- The block of pane n on a die. -/
def Store.blockIn (t : Store) (n d : Nat) : Nat :=
  match (t.pane n).replaced.find? fun p => p.1 == d with
  | some p => p.2
  | none => n

/-- The die of the parity member of stripe s of pane n: D5 + ((n + s) mod 3) (R171). -/
def parityDie (n s : Nat) : Nat := 2 + (n + s) % 3

/-- Dies that take no further programs: retiring, retired, failed. -/
def Store.gone (t : Store) : List Nat := (t.dieTable.map (·.1)).toList ++ t.die2.toList

/-- The dies that hold data in a stripe: all but the parity member's, or without parity all that remain (R171, R190). -/
def Store.dataDies (t : Store) (n s : Nat) : List Nat :=
  (List.range 5).filter fun d => !t.gone.contains d && ((t.pane n).noParity || d != parityDie n s)

def Store.cell (t : Store) (l : Nat) : Option Codeword := tget (fun _ => none) t.cells l

def Pane.stripe (p : Pane) (s : Nat) : Stripe := tget (fun _ => ({} : Stripe)) p.stripes s

/-- Where codeword c of a stripe's page on a die lies: in the pane's block there, or in a retired one that still holds pages
of the pane (R180). -/
def Store.memberLoc (t : Store) (n s d c : Nat) : Nat :=
  let old := ((t.pane n).former.filter fun p => p.1 == d).map (·.2)
  let b := ((t.blockIn n d :: old).find? fun b => (t.cell (locAt d b s c)).isSome).getD (t.blockIn n d)
  locAt d b s c

/-- That codeword, if it is programmed. -/
def Store.member (t : Store) (n s d c : Nat) : Option Codeword := t.cell (t.memberLoc n s d c)

/-- Nothing in a pane is valid: no map entry, no unit of journal or metadata moved there and no move in progress points into
it. -/
def Store.stale (t : Store) (n : Nat) : Bool :=
  (t.pane n).opened && !(t.map.any fun p => t.paneOf p.2.toNat == n) &&
    !(t.moved.any fun p => p.2.any fun l => t.paneOf l == n) &&
    !(t.moves.any fun m => t.paneOf m.source == n || t.paneOf m.target == n)

/-- A pane can be erased: nothing in it is valid, nor was under the log as it is on flash (R177, R184). -/
def Store.erasable (t : Store) (n : Nat) : Bool := t.stale n && t.logDurable == t.log.length

/-- A block takes programs: its die is not gone and it is not retired (R180, R190). -/
def Store.blockOk (t : Store) (d b : Nat) : Bool :=
  let x : Die := tget (fun _ => ({} : Die)) t.dies d
  !t.gone.contains d && !x.retiredBlocks.contains b

/-- The pane's blocks are its own and none of them is retired. -/
def Store.paneGood (t : Store) (n : Nat) : Bool :=
  (List.range 5).all fun d =>
    let b := t.blockIn n d
    let x : Die := tget (fun _ => ({} : Die)) t.dies d
    t.gone.contains d || (!x.retiredBlocks.contains b && (t.info d b).pane.getD b == n)

/-- Nothing is programmed on the wordline of a TLC location: its three pages are programmed in one shot (R169). -/
def Store.blankLine (t : Store) (l : Nat) : Bool :=
  let w := locPage l / 3
  (List.range 12).all fun i => (t.cell (locAt (locDie l) (locBlock l) (3 * w + i / 4) (i % 4))).isNone

/-- A codeword can be programmed at a location of panes lo to hi - 1: the die works, the page exists, the pane is in order,
and the place is free, is no parity member's and lies in no closed stripe (R171, R172, R174, R180). The places of a pane's
released parity take data (R191; DESIGN CHOICE, log 109). -/
def Store.canProgram (t : Store) (lo hi l : Nat) : Bool :=
  let d := locDie l
  let n := t.paneOf l
  let s := locPage l
  let p := t.pane n
  let place := decide (d < 5) && !t.gone.contains d && decide (lo ≤ n) && decide (n < hi) && t.paneGood n &&
    t.blockIn n d == locBlock l && decide (s < (if n < pslcEnd then 512 else 1536))
  let noPar := if !p.opened || t.erasable n then t.dieTable.isSome else p.noParity
  let spare := p.released && d == parityDie n s
  let blank := if n < pslcEnd || spare then (t.cell l).isNone else t.blankLine l
  let free := !p.opened || t.erasable n || (!p.closed && !p.evac && (spare || !(p.stripe s).closed) && blank)
  place && free && (noPar || d != parityDie n s)

/-- One block of a die is erased: its count rises and what was noted of its units is gone (R145, R179). A die that is gone is
erased no more. -/
def Store.eraseBlock (b : Nat) (t : Store) (d : Nat) : Store :=
  if t.gone.contains d then t else
  let x := t.info d b
  let y : Die := tget (fun _ => ({} : Die)) t.dies d
  let y : Die := { y with refresh := y.refresh.filter (· != b), check := y.check.filter (· != b) }
  let t := t.setInfo d b { x with erases := x.erases + 1 }
  { t with
    dies := tset (fun _ => ({} : Die)) t.dies d y
    badLocs := t.badLocs.filter fun l => !(locDie l == d && locBlock l == b) }

/-- A pane's blocks are erased if they were used before, and it begins anew. One opened while a die is retiring or retired has
no parity (R190). -/
def Store.freshPane (t : Store) (n : Nat) : Store :=
  let p := t.pane n
  let t := if p.opened then (List.range 5).foldl (fun t d => t.eraseBlock (t.blockIn n d) d) t else t
  let q : Pane := { opened := true, age := t.paneAge, noParity := t.dieTable.isSome, replaced := p.replaced }
  ({ t with
    cells := t.cells.filter fun c => t.paneOf c.1 != n
    cutLocs := t.cutLocs.filter fun l => t.paneOf l != n
    paneAge := t.paneAge + 1 } : Store).setPane n q

/-- A pane comes into use, if it is not in use with valid units. -/
def Store.openPane (t : Store) (n : Nat) : Store := if (t.pane n).opened && !t.erasable n then t else t.freshPane n

/-- The page of a stripe on a die. -/
def Store.pageOf (t : Store) (n s d : Nat) : List (Option Codeword) := (List.range 4).map (t.member n s d)

/-- A stripe is closed: its parity page, the XOR of its other four pages with absent ones as zeros, is programmed and the
absent pages are noted (R171, R172). The XOR takes what a die since retired was programmed with, as the store computed it then.
A stripe whose parity place holds data has no parity. -/
def Store.closeStripe (t : Store) (q : Nat × Nat) : Store :=
  let (n, s) := q
  let p := t.pane n
  let pd := parityDie n s
  let parity := !p.noParity && t.blockOk pd (t.blockIn n pd) && (t.pageOf n s pd).all Option.isNone
  let dies := (List.range 5).filter fun d => d != pd || !parity
  let absent := dies.filter fun d => (t.pageOf n s d).all Option.isNone
  let par (c : Nat) : Codeword := dies.foldl (fun x d => x.xor ((t.member n s d c).getD {})) {}
  let cells := if parity then
      (List.range 4).foldl (fun m c => tins (locAt pd (t.blockIn n pd) s c) (some (par c)) m) t.cells
    else t.cells
  ({ t with cells } : Store).setPane n
    { p with stripes := tset (fun _ => ({} : Stripe)) p.stripes s { closed := true, absent, parity } }

/-- Every data page of a stripe is programmed: of the TLC pool pages are whole, of the pSLC pool codeword by codeword. -/
def Store.fullStripe (t : Store) (n s : Nat) : Bool :=
  (t.dataDies n s).all fun d =>
    if n < pslcEnd then (t.pageOf n s d).all Option.isSome else (t.pageOf n s d).any Option.isSome

/-- The stripes of some locations. -/
def Store.stripesOf (t : Store) (ls : List Nat) : List (Nat × Nat) :=
  (ls.map fun l => (t.paneOf l, locPage l)).eraseDups

/-- Codewords are programmed at their places; a stripe that is then full is closed with its parity (R171, R172). -/
def Store.programAll (t : Store) (l : List (Nat × Codeword)) : Store :=
  let locs := l.map (·.1)
  let t := ((locs.map t.paneOf).eraseDups).foldl Store.openPane t
  let t : Store := { t with cells := l.foldl (fun m p => tins p.1 (some p.2) m) t.cells }
  ((t.stripesOf locs).filter fun q => t.fullStripe q.1 q.2).foldl Store.closeStripe t

/-- The stripes of the cache that hold codewords and are not closed. -/
def Store.openStripes (t : Store) : List (Nat × Nat) :=
  (t.stripesOf (t.cells.map (·.1))).filter fun q => decide (q.1 < cacheEnd) && !((t.pane q.1).stripe q.2).closed

/-- A FLUSH closes every stripe of the cache that is open (R172); those of TLC panes are always full. -/
def Store.closeOpen (t : Store) : Store := t.openStripes.foldl Store.closeStripe t

/-- A codeword rebuilt from the other members of its stripe (R173, tier 4): no other member is on a die that is gone or could
not be read (R145), the stripe has its parity, and the CRC of the result checks. Of a stripe of the cache or the TLC pool that
is still open the store holds the parity that it computes as the pages are programmed (DESIGN CHOICE, log 109); it is lost
with the power, and the pane is then closed (R187). -/
def Store.rebuild (t : Store) (l : Nat) : Option Codeword :=
  let n := t.paneOf l
  let s := locPage l
  let p := t.pane n
  let others := (List.range 5).filter fun d => d != locDie l
  let lost := others.any fun d => t.gone.contains d || t.badLocs.contains (t.memberLoc n s d (locCw l))
  let x :=
    if p.noParity || lost then none
    else if (p.stripe s).closed then
      (if (p.stripe s).parity then
        some (others.foldl (fun x d => x.xor ((t.member n s d (locCw l)).getD {})) ({} : Codeword))
      else none)
    else if p.closed || (decide (cacheEnd ≤ n) && decide (n < pslcEnd)) then none
    else t.cell l
  x.filter Codeword.crcOk

/-- The block of a location is closed to programs: its pane is, or its last wordline is programmed (R177). -/
def Store.blockClosed (t : Store) (l : Nat) : Bool := (t.pane (t.paneOf l)).closed || decide (512 ≤ locPage l / 3 + 1)

/-- The wordline after a location's is programmed (R177). -/
def Store.nextLine (t : Store) (l : Nat) : Bool :=
  let w := locPage l / 3 + 1
  (List.range 12).any fun i => (t.cell (locAt (locDie l) (locBlock l) (3 * w + i / 4) (i % 4))).isSome

/-- Panes of the cache that hold something: occupied, or none of them free (R176, R178). The spec gives no measure of a cache
that is full or more than half full: panes in use of the 768 count (DESIGN CHOICE, log 142). -/
def Store.cacheUsed (t : Store) : Nat := (t.panes.filter fun p => decide (p.1 < cacheEnd) && p.2.opened && !t.stale p.1).length

def Store.cacheFull (t : Store) : Bool :=
  (List.range cacheEnd).all fun n =>
    let p := t.pane n
    !t.paneGood n || (p.opened && !t.stale n &&
      (p.closed || p.evac || (List.range 512).all fun s => (p.stripe s).closed || t.fullStripe n s))

/-- Panes of the TLC pool that lack a block: one is retired, or has replaced a pseudo-SLC block (R180). -/
def Store.brokenTlc (t : Store) : List Nat :=
  let retired := t.dies.flatMap fun x => x.2.retiredBlocks.map fun b => t.paneOf (locAt x.1 b 0 0)
  let taken := (t.blocks.filter fun p => p.2.pane.isSome).map fun p => p.1 % 8192
  ((retired ++ taken).eraseDups).filter fun n => decide (pslcEnd ≤ n) && !t.paneGood n && !(t.pane n).opened

/-- Free panes of the TLC pool. -/
def Store.freeTlc (t : Store) : Nat :=
  (paneEnd - pslcEnd) -
    (t.panes.filter fun p => decide (pslcEnd ≤ p.1) && p.2.opened && (!t.stale p.1 || !t.paneGood p.1)).length -
    t.brokenTlc.length

/-- The lowest erase count of a pool, and whether some block of it is past that by more than it may be (wear levelling). -/
def Store.spread (t : Store) (pslc : Bool) : Bool :=
  let l := (t.blocks.filter fun p => t.isPslc (p.1 / 8192) (p.1 % 8192) == pslc).map fun p => p.2.erases
  let size := if pslc then 5 * pslcEnd else 5 * (paneEnd - pslcEnd)
  let low := if l.length < size then 0 else l.foldl min (l.headD 0)
  l.any fun e => decide (low + (if pslc then 1000 else 300) < e)

/-- Mean erase count over the rated cycles in 0.1 %, for the more worn pool (R193, R194). -/
def Store.wear (t : Store) : Nat :=
  let sum (pslc : Bool) : Nat :=
    ((t.blocks.filter fun p => t.isPslc (p.1 / 8192) (p.1 % 8192) == pslc).map fun p => p.2.erases).sum
  max (1000 * sum true / (5 * pslcEnd * 30000)) (1000 * sum false / (5 * (paneEnd - pslcEnd) * 3000))

/-- The TLC pool is left with no free pane (R181): its capacity of good blocks, less the valid data, is less than a pane's
24,576 units. In tenths of a unit; a block is 24 MiB, of which a fifth is parity's. -/
def Store.poolFull (t : Store) : Bool :=
  let valid := (t.map.filter fun p => decide (pslcEnd ≤ t.paneOf p.2.toNat)).length
  decide (10 * 102052659 < 49152 * t.lostBlocks + 10 * valid + 10 * 24576)

/-- A pane's parity is released: its places take data from then on (R191). -/
def Store.releaseParity (t : Store) (n : Nat) : Store :=
  ({ t with cells := t.cells.filter fun c => !(t.paneOf c.1 == n && locDie c.1 == parityDie n (locPage c.1)) } : Store).setPane n
    { t.pane n with noParity := true, released := true }

/-! ### Regions of journal, checkpoints and log

Their units fill stripes in order, page by page, four data pages to a stripe (DESIGN CHOICE, log 109). -/

/-- The stripe of unit o of a region that begins with a pane: pane and page. -/
def regionStripe (pane0 o : Nat) : Nat × Nat := (pane0 + o / 16 / 512, o / 16 % 512)

/-- The die of that unit. -/
def regionDie (pane0 o : Nat) : Nat :=
  let (n, s) := regionStripe pane0 o
  ((List.range 5).filter fun d => d != parityDie n s).getD (o / 4 % 4) 0

def journalPane : Nat := 768
def checkpointPane : Nat := 1245
def logPane : Nat := 1269

/-- The first pane of the region of a KIND. -/
def kindPane (kind : Nat) : Nat := if kind = 1 then journalPane else if kind = 2 then checkpointPane else logPane

/-- Where a unit is programmed now: in its own place, but on the parity member's where the own block takes no programs (R180,
R190). -/
def Store.regionLoc (t : Store) (kind o : Nat) : Nat :=
  let (n, s) := regionStripe (kindPane kind) o
  let d := regionDie (kindPane kind) o
  let d := if t.blockOk d (t.blockIn n d) then d else parityDie n s
  locAt d (t.blockIn n d) s (o % 4)

/-- Where a programmed unit of journal or metadata lies, by its ADDR. -/
def Store.unitLoc (t : Store) (a : Nat) : Nat :=
  match tget (fun _ => none) t.moved a with
  | some l => l
  | none =>
    let o := a % 2 ^ 27
    let (n, s) := regionStripe (kindPane (a / 2 ^ 27)) o
    t.memberLoc n s (regionDie (kindPane (a / 2 ^ 27)) o) (o % 4)

/-- A unit of journal or metadata is programmed, with its write sequence (R170). -/
def Store.putUnit (kind o : Nat) (data : Blk) (seq : Nat) (t : Store) : Store :=
  let l := t.regionLoc kind o
  let (n, s) := regionStripe (kindPane kind) o
  let d := regionDie (kindPane kind) o
  let own := locAt d (t.blockIn n d) s (o % 4)
  { t with
    cells := tins l (some (Codeword.make kind o data seq)) t.cells
    moved := tset (fun _ => none) t.moved (unitAddr kind o) (if l = own then none else some l) }

/-- The units of a checkpoint: 375,000,000 bytes of map, and the header's (R174, R185). -/
def checkpointUnits : Nat := 91554

/-- The offset in its region of a slot's first unit, twelve panes apart. -/
def checkpointBase (slotB : Bool) : Nat := if slotB then 98304 else 0

/-- A slot's panes. -/
def checkpointPanes (slotB : Bool) : List Nat := (List.range 12).map fun i => checkpointPane + (if slotB then 12 else 0) + i

/-- The units of the log's region, a ring of 40 panes. -/
def logRing : Nat := 40 * 8192

/-- A slot holds a checkpoint that passes its CRC. -/
def Checkpoint.good (c : Checkpoint) : Bool := c.valid && !c.bad

/-- The newer of the two slots is B. -/
def Store.newerB (t : Store) : Bool :=
  t.ckptB.good && (!t.ckptA.good || decide (t.ckptA.number < t.ckptB.number))

/-- The newest complete checkpoint: of a slot, or what a full scan left in its place (R175, R188). -/
def Store.newestCkpt (t : Store) : Option Checkpoint :=
  if t.newerB then some t.ckptB else if t.ckptA.good then some t.ckptA else t.scanBase

/-- The position in the log from which it is not released (R185). -/
def Store.logFrom (t : Store) : Nat := (t.newestCkpt.map (·.logPos)).getD 0

/-- The log units left when records before position k are released; of the first what it still holds. -/
def unitsFrom : Nat → List (Nat × Nat) → List (Nat × Nat)
  | _, [] => []
  | k, (o, n) :: r => if n ≤ k then unitsFrom (k - n) r else (o, n - k) :: r

/-- The units of the log that are not released. -/
def Store.logValid (t : Store) : List Nat := (unitsFrom t.logFrom t.logUnits).map (·.1)

/-- The codewords a clutch has, by number (R297). -/
def Clutch.codewords (c : Clutch) : List Nat := (c.records.map fun r => r.pos / 4096).eraseDups

/-- A unit of journal or metadata, by its ADDR, is programmed and valid. -/
def State.validUnit (s : State) (a : Nat) : Bool :=
  let t := s.store
  let o := a % 2 ^ 27
  let kind := a / 2 ^ 27
  let named :=
    if kind = 1 then s.jnl.clutches.any fun c => c.slot == o / 256 && c.codewords.contains (o % 256)
    else if kind = 2 then
      (t.ckptA.good && decide (o < checkpointUnits)) ||
        (t.ckptB.good && decide (checkpointBase true ≤ o) && decide (o < checkpointBase true + checkpointUnits))
    else kind == 3 && t.logValid.contains o
  named && (t.cell (t.unitLoc a)).isSome

/-- The valid units of journal and metadata at places that `p` takes, by their ADDR. -/
def State.otherUnits (p : Nat → Bool) (s : State) : List Nat :=
  let t := s.store
  let slot (b : Bool) : List Nat := (List.range checkpointUnits).map fun k => unitAddr 2 (checkpointBase b + k)
  let all := (s.jnl.clutches.flatMap fun c => c.codewords.map fun k => unitAddr 1 (256 * c.slot + k)) ++
    (if t.ckptA.good then slot false else []) ++ (if t.ckptB.good then slot true else []) ++ t.logValid.map (unitAddr 3)
  all.filter fun a => p (t.unitLoc a) && s.validUnit a

/-- Where a unit lies: of NS1 by its block, of journal and metadata by its ADDR. -/
def State.unitAt (a : Nat) (s : State) : Nat :=
  if a < 2 ^ 27 then (tget (fun _ => (0xFFFFFFFF : Word)) s.store.map a).toNat else s.store.unitLoc a

end Sys2Proof.Machine
end

