-- ==== Sys2Proof/Machine/Store.lean ====
section
/-! DEFINITION. The store (chapters 06, 07): content of NS1, staging and commits, the map log and its replay,
checkpoints, dies, and the commands of its background work. -/

namespace Sys2Proof.Machine

/-! ### Content -/

/-- Blocks of each namespace (R138). -/
def ns1Blocks : Nat := 93750000
def ns2Blocks : Nat := 3906250

/-- The map entry of an unwritten block (R174). -/
def unmapped : Nat → Word := fun _ => 0xFFFFFFFF

def State.mapAt (s : State) (lba : Nat) : Word := tget unmapped s.store.map lba

/-- Fields of a map entry (R174). -/
def dieOf (e : Word) : Nat := locDie e.toNat
def blockOf (e : Word) : Nat := locBlock e.toNat

/-- Slot k. -/
def State.slot (k : Nat) (s : State) : KeySlot := tget (fun _ => ({} : KeySlot)) s.keys.slots k

/-- The key in a slot. -/
def State.slotKey (k : Nat) (s : State) : BitVec 256 := (s.slot k).key

/-- What encrypts a block of NS1: the media key in slots 258 and 259, the block number as tweak (R182, R329). -/
def State.media (lba : Nat) (s : State) : BlockCipher := Config.xts (s.slotKey 258) (s.slotKey 259) lba

/-- A block of a staged unit, if the unit covers it and no TRIM has unwritten it since. -/
def Unit'.block (u : Unit') (lba : Nat) : Option Blk :=
  if u.first ≤ lba then (u.data.getD (lba - u.first) none) else none

/-- The newest staged content of a block, encrypted. -/
def State.staged (s : State) (lba : Nat) : Option Blk := (s.store.units.reverse.findSome? fun u => u.block lba)

/-- The content of an NS1 block as a READ returns it: the plaintext that a WRITE supplied (R139, R143, R147). -/
def State.ns1 (s : State) (lba : Nat) : Blk :=
  match s.staged lba with
  | some b => (s.media lba).dec b
  | none =>
    match s.store.cell (s.mapAt lba).toNat with
    | some c => (s.media lba).dec c.data
    | none => 0

/-- Blocks written and not trimmed (R168). -/
def State.ns1Used (s : State) : Nat :=
  let staged := s.store.units.flatMap fun u =>
    ((List.range u.data.length).filter fun i => (u.data.getD i none).isSome).map fun i => u.first + i
  s.store.map.length + (staged.eraseDups.filter fun l => s.mapAt l == 0xFFFFFFFF).length

/-! ### Counters of page 0x04 (R548) -/

def State.stoCount (off k : Nat) (s : State) : State :=
  { s with store.counters := tset (fun _ => 0) s.store.counters off (tget (fun _ => 0) s.store.counters off + k) }

/-! ### Programs -/

/-- STO_HEALTH shows SPARE (R194) and WEAR once the store is ready (R199); SPARE in 0.1 %, from the TLC-pool blocks lost
since shipment, in hundredths of a MiB. -/
def spareOf (lost : Nat) : Nat := 1000 * (3166208 - 1920 * lost) / 39864320

def State.showHealth (s : State) : State :=
  if s.rb R.STO_STAT 1 then
    (s.wf R.STO_HEALTH 9 0 (spareOf s.store.lostBlocks)).wf R.STO_HEALTH 19 10 (min 1022 s.store.wear)
  else s

def State.die (d : Nat) (s : State) : Die := tget (fun _ => {}) s.store.dies d

def State.setDie (d : Nat) (x : Die) (s : State) : State :=
  { s with store.dies := tset (fun _ => {}) s.store.dies d x }

/-- A die answered an operation: a run of timeouts ends (R189). -/
def State.dieAnswered (d : Nat) (s : State) : State := s.setDie d { s.die d with timeouts := 0 }

/-- The store programs and erases: it is ready, its map is whole, PFAILn is high, at most one die has failed (R186, R192). -/
def State.nandOk (s : State) : Bool :=
  s.dataUp && s.rb R.STO_STAT 1 && !s.rb R.STO_STAT 8 && s.power.pfailn && s.store.die2.isNone

/-- Codewords of the cache or the TLC pool are programmed, and counted (R548). -/
def State.program (l : List (Nat × Codeword)) (s : State) : State :=
  let pslc := (l.filter fun p => decide (s.store.paneOf p.1 < pslcEnd)).length
  let s : State := { s with store := s.store.programAll l }
  let s : State := { s with store.writeSeq := s.store.writeSeq + l.length }
  let s := (((l.map fun p => locDie p.1).eraseDups).foldl (fun s d => s.dieAnswered d) s)
  ((s.stoCount 48 pslc).stoCount 56 (l.length - pslc)).showHealth

/-! ### The map and its log -/

/-- A line of the map cache is used, and dirty where its entries change: write-back, the least recently used of 32,768
lines is replaced (R174). -/
def State.touchMap (lba : Nat) (dirty : Bool) (s : State) : State :=
  let k := lba / 16
  let old := s.store.mapCache.any fun p => p.1 == k && p.2
  { s with store.mapCache := ((k, old || dirty) :: s.store.mapCache.filter fun p => p.1 != k).take 32768 }

/-- The die whose units are being rebuilt (R191). -/
def Store.regrowing (t : Store) : Option Nat :=
  match t.dieTable with
  | some (d, false) => if t.rgBegun then some d else none
  | _ => none

/-- `n` units leave STO_RGLEFT (R191, R198). -/
def State.rgDown (n : Nat) (s : State) : State :=
  if s.store.regrowing.isSome && n != 0 then s.wr R.STO_RGLEFT (BitVec.ofNat 32 ((s.rd R.STO_RGLEFT).toNat - n)) else s

/-- The lost members of a pane have all been rebuilt or replaced: its parity is released (R191). -/
def State.paneRebuilt (n : Nat) (s : State) : State :=
  let t := s.store
  match t.regrowing with
  | none => s
  | some d =>
    if (t.pane n).noParity || t.map.any (fun p => dieOf p.2 == d && t.paneOf p.2.toNat == n) ||
        t.rgOther.any (fun a => t.paneOf (t.unitLoc a) == n) then s
    else { s with store := t.releaseParity n }

/-- Give a block a new map entry; a unit of the retiring die that is replaced leaves STO_RGLEFT, and the parity of its pane may
go with it (R191). -/
def State.setMap (lba : Nat) (e : Word) (s : State) : State :=
  let old := s.mapAt lba
  let n := s.store.paneOf old.toNat
  let lost := s.store.regrowing == some (dieOf old)
  let s := if lost then s.rgDown 1 else s
  let s := ({ s with store.map := tset unmapped s.store.map lba e } : State).touchMap lba true
  if lost then s.paneRebuilt n else s

/-- Units of journal or metadata are no longer valid: those of the retired die leave STO_RGLEFT (R191), and the parity of their
panes may go with them. -/
def State.dropOther (p : Nat → Bool) (s : State) : State :=
  let l := s.store.rgOther.filter p
  let panes := (l.map fun a => s.store.paneOf (s.store.unitLoc a)).eraseDups
  let s := ({ s with store.rgOther := s.store.rgOther.filter fun a => !p a } : State).rgDown l.length
  panes.foldl (fun s n => s.paneRebuilt n) s

/-- A record of the map log (R183): HEAD from TYPE and block number, and ARG. -/
def logRec (typ blk arg : Nat) : LogRec :=
  { head := BitVec.ofNat 32 (blk % 2 ^ 27 + typ % 32 * 2 ^ 27), arg := BitVec.ofNat 32 arg }

def LogRec.typ (r : LogRec) : Nat := fld 31 27 r.head
def LogRec.blk (r : LogRec) : Nat := fld 26 0 r.head

/-- Its 8 bytes. -/
def LogRec.bytes (r : LogRec) : List Byte := bvBytes 4 r.head ++ bvBytes 4 r.arg

/-- What it counts towards the bound on the log, in 1/4,096 of a record (R185). -/
def LogRec.weight (r : LogRec) : Nat := 4096 + (if r.typ = 1 then r.arg.toNat else 0)

def State.logRecs (l : List LogRec) (s : State) : State := { s with store.log := s.store.log ++ l }

/-- The data of a log codeword: its records, and what follows them. -/
def logBlk (l : List LogRec) : Blk :=
  let b := l.flatMap LogRec.bytes
  BitVec.ofNat 32768 (leNat (b ++ (List.range (4096 - b.length)).map Config.logRest))

/-- One unit of the log is programmed at the next place of its ring, whose next pane is erased first. -/
def Store.putLog (t : Store) (seq : Nat) (l : List LogRec) : Store :=
  let o := t.logNext % logRing
  let t := if o % 8192 = 0 then t.freshPane (logPane + o / 8192) else t
  { t.putUnit 3 o (logBlk l) seq with
    logUnits := t.logUnits ++ [(o, l.length)]
    logNext := (o + 1) % logRing }

/-- The log's records up to position `k` are programmed, 512 to a codeword, and their stripes closed (R172, R184). What the log
holds is programmed anew once it has taken half its ring (DESIGN CHOICE, log 109). -/
def Store.programLog (t : Store) (k : Nat) : Store :=
  let renew := decide (10240 ≤ t.logUnits.length)
  let rest := (t.log.take k).drop (if renew then 0 else t.logDurable)
  let n := (rest.length + 511) / 512
  let t' : Store := if renew then { t with logUnits := [] } else t
  let t' := (List.range n).foldl (fun t' i => t'.putLog (t.writeSeq + i) ((rest.drop (512 * i)).take 512)) t'
  let new := (t'.logUnits.drop (t'.logUnits.length - n)).map fun u => regionStripe logPane u.1
  let t' := new.eraseDups.foldl Store.closeStripe t'
  { t' with
    logDurable := k
    logNext := (t'.logNext + 15) / 16 * 16 % logRing
    writeSeq := t.writeSeq + n }

/-- Log records still in the DRAM buffer are programmed (R175, R184); the dies answer (R189). -/
def State.programLog (s : State) : State :=
  let t := s.store.programLog s.store.log.length
  let n := t.writeSeq - s.store.writeSeq
  let new := t.logUnits.drop (t.logUnits.length - n)
  let dies := (new.map fun u => locDie (t.unitLoc (unitAddr 3 u.1))).eraseDups
  (dies.foldl (fun s d => s.dieAnswered d) ({ s with store := t } : State)).stoCount 48 n

/-- Replay of the log onto a map (R184): MAP records wait for their unit's COMMIT; a reserved TYPE stops it (R183). -/
def replay : List LogRec → List (Nat × Word) → Tbl Word → Tbl Word
  | [], _, m => m
  | r :: l, o, m =>
    if r.typ = 0 then replay l ((r.blk, r.arg) :: o) m
    else if r.typ = 1 then
      replay l o (tclear (fun k => decide (r.blk ≤ k) && decide (k < r.blk + r.arg.toNat)) m)
    else if r.typ = 2 then replay l o (tset unmapped m r.blk r.arg)
    else if r.typ = 3 then replay l [] m
    else if r.typ = 4 then replay l [] (o.foldr (fun p m => tset unmapped m p.1 p.2) m)
    else m

/-! ### Atomic units (R152) -/

/-- The atomic units of a range: its intersections with aligned regions of 32 blocks. -/
def atomic : Nat → Nat → Nat → List (Nat × Nat)
  | 0, _, _ => []
  | fuel + 1, first, n =>
    if n = 0 then []
    else
      let k := min n (32 - first % 32)
      (first, k) :: atomic fuel (first + k) (n - k)

/-- The units of a range of `n` blocks. -/
def unitsOf (first n : Nat) : List (Nat × Nat) := atomic (n / 32 + 2) first n

/-- Stage one unit of a write, encrypted (R186). -/
def State.stageUnit (order first : Nat) (data : List Blk) (failed : Bool) (s : State) : State :=
  let enc := (List.range data.length).map fun i => some ((s.media (first + i)).enc (data.getD i 0))
  { s with
    store.units := s.store.units ++ [{ id := s.store.nextUnit, order, first, data := enc, failed }]
    store.nextUnit := s.store.nextUnit + 1 }

/-- Stage the given units of a write, its data from its first block on; `failed` where its command does not succeed. -/
def State.stageUnits (order base : Nat) (data : List Blk) (us : List (Nat × Nat)) (failed : Bool) (s : State) : State :=
  us.foldl (fun s u => s.stageUnit order u.1 ((data.drop (u.1 - base)).take u.2) failed) s

/-- Blocks in write staging, of which there is room for 8,192 (R186). -/
def State.stagedBlocks (s : State) : Nat := (s.store.units.map fun u => u.data.length).sum

/-- A range becomes unwritten (TRIM): staged blocks of earlier writes too (R141, R183). -/
def State.trimUnit (s : State) (u : Nat × Nat) : State :=
  let inside (l : Nat) : Bool := decide (u.1 ≤ l) && decide (l < u.1 + u.2)
  let gone := (s.store.map.filter fun p => inside p.1).map (·.1)
  let cut (v : Unit') : Unit' := { v with
    data := (List.range v.data.length).map fun i => if inside (v.first + i) then none else v.data.getD i none }
  let s := gone.foldl (fun s l => s.setMap l 0xFFFFFFFF) s
  ({ s with store.units := s.store.units.map cut } : State).logRecs [logRec 1 u.1 u.2]

/-- The blocks of a staged unit that no TRIM has unwritten, with what is staged for them. -/
def Unit'.live (u : Unit') : List (Nat × Blk) :=
  (List.range u.data.length).filterMap fun i => (u.data.getD i none).map fun b => (u.first + i, b)

/-- Another unit that shares blocks was accepted before this one (R153). -/
def State.unitBlocked (u : Unit') (s : State) : Bool :=
  s.store.units.any fun v =>
    decide (v.id < u.id) && decide (v.first < u.first + u.data.length) && decide (u.first < v.first + v.data.length)

/-- UNIT COMMIT (R176, R183, R184): the codewords of a staged unit are programmed at `locs` in the cache, one for each live
block, and its COMMIT is logged. Units that share blocks commit in the order of acceptance (R153). -/
def State.commitUnit (id : Nat) (locs : List Nat) (s : State) : State :=
  match s.store.units.find? fun u => u.id == id with
  | none => s
  | some u =>
    let live := u.live
    if s.unitBlocked u || locs.length != live.length || locs.eraseDups.length != locs.length ||
        !(locs.all (s.store.canProgram 0 cacheEnd)) then s
    else
      let seq := s.store.writeSeq
      let put : List (Nat × Nat × Codeword) := (List.range live.length).map fun i =>
        let p := live.getD i (0, 0)
        (p.1, locs.getD i 0, Codeword.make 0 p.1 p.2 (seq + i))
      let s : State := { s with
        store.units := s.store.units.filter (fun v => v.id != id)
        store.fresh := s.store.fresh ++
          (if u.failed then [] else
            [⟨u.order, locs, s.store.log.length + (if live.isEmpty then 0 else live.length + 2)⟩]) }
      if live.isEmpty then s
      else
        let s := (s.program (put.map fun p => p.2)).logRecs ([logRec 3 u.first (seq % 2 ^ 32)] ++
          (put.map fun p => logRec 0 p.1 p.2.1) ++ [logRec 4 u.first (seq % 2 ^ 32)])
        put.foldl (fun s p => s.setMap p.1 (BitVec.ofNat 32 p.2.1)) s

def execUnitCommit (unit : Nat) (locs : List Nat) (s : State) : Out := .next <|
  if s.nandOk then s.commitUnit unit locs else s

/-! ### Checkpoints (R185) -/

/-- The log since the newer checkpoint has reached 16 MiB, or no slot holds one. -/
def State.ckptDue (s : State) : Bool :=
  let t := s.store
  !(t.ckptA.good || t.ckptB.good) || decide (2097152 ≤ t.log.length - t.logFrom)

/-- A checkpoint starts in the older slot, which is erased and holds nothing until it is complete. -/
def State.ckptStart (s : State) : State :=
  let b := !s.store.newerB && s.store.ckptA.good
  let num := max s.store.ckptA.number s.store.ckptB.number + 1
  let c : Checkpoint := {
    valid := true, map := s.store.map, logPos := s.store.log.length, gen := s.keys.steps / 3 + 1, number := num
    seq := s.store.writeSeq }
  let s : State := { s with store.ckptRun := some (b, c) }
  let s : State := if b then { s with store.ckptB.valid := false, store.ckptB.bad := false }
    else { s with store.ckptA.valid := false, store.ckptA.bad := false }
  let s : State := { s with store := (checkpointPanes b).foldl Store.freshPane s.store }
  let lo := unitAddr 2 (checkpointBase b)
  let mine (a : Nat) : Bool := decide (lo ≤ a) && decide (a < lo + checkpointUnits)
  ({ s with store.moved := tclear mine s.store.moved } : State).dropOther mine

/-- The data of unit k of a checkpoint: 1,024 map entries, or its header, which comes last (R174, R185; DESIGN CHOICE, log 109). -/
def Checkpoint.blk (c : Checkpoint) (k : Nat) : Blk :=
  if k + 1 = checkpointUnits then Config.ckptHeader c.number c.logPos
  else
    let entry (i : Nat) : Word := if i < ns1Blocks then tget unmapped c.map i else Config.ckptRest (i - ns1Blocks)
    BitVec.ofNat 32768 (leNat ((List.range 1024).flatMap fun i => bvBytes 4 (entry (1024 * k + i))))

/-- A checkpoint's units are programmed in its slot, and their stripes closed (R170, R171, R185). -/
def Store.putCkpt (b : Bool) (c : Checkpoint) (t : Store) : Store :=
  let base := checkpointBase b
  let t' := (List.range checkpointUnits).foldl (fun t' k => t'.putUnit 2 (base + k) (c.blk k) (t.writeSeq + k)) t
  let t' := (List.range ((checkpointUnits + 15) / 16)).foldl (fun t' i => t'.closeStripe (regionStripe checkpointPane (base + 16 * i))) t'
  { t with
    cells := t'.cells
    moved := t'.moved
    panes := t'.panes
    writeSeq := t.writeSeq + checkpointUnits
    ckptA := if b then t.ckptA else c
    ckptB := if b then c else t.ckptB
    scanBase := none }

/-- Log that no slot needs is dropped: what precedes a complete checkpoint is released, and its pages, read where that slot
fails its CRC (R188), are held back to the other slot's start (DESIGN CHOICE, log 143). -/
def State.releaseLog (s : State) : State :=
  let a := s.store.ckptA
  let b := s.store.ckptB
  let useA := a.good && (!b.good || decide (a.logPos ≤ b.logPos))
  let k := if useA then a.logPos else if b.good then b.logPos else 0
  { s with
    store.log := s.store.log.drop k
    store.logDurable := s.store.logDurable - k
    store.logUnits := unitsFrom k s.store.logUnits
    store.logSeq := if useA then a.seq else if b.good then b.seq else s.store.logSeq
    store.fresh := s.store.fresh.map fun f => { f with logEnd := f.logEnd - k }
    store.ckptA.logPos := a.logPos - k
    store.ckptB.logPos := b.logPos - k }

/-- A checkpoint completes: its slot holds it, the lifetime counters with it, and the log before it is released (R185, R548). -/
def State.ckptDone (s : State) : State :=
  match s.store.ckptRun with
  | none => s
  | some (b, c) =>
    let s := s.programLog.stoCount 48 checkpointUnits
    let s : State := { s with store := { s.store.putCkpt b c with
      ckptRun := none
      savedCounters := s.store.counters.filter (fun p => p.1 == 40 || p.1 == 48 || p.1 == 56) } }
    let s := (List.range 5).foldl (fun s d => if s.store.gone.contains d then s else s.dieAnswered d) s
    let valid := s.store.logValid
    (s.dropOther fun a => a / 2 ^ 27 == 3 && !valid.contains (a % 2 ^ 27)).releaseLog

def execCheckpointStart (s : State) : Out := .next <|
  if s.nandOk && s.store.ckptRun.isNone && s.ckptDue then s.ckptStart else s

def execCheckpointDone (s : State) : Out := .next <| if s.nandOk then s.ckptDone else s

/-- What the log holds that is not released and, once committed, staging will add to it, in 1/4,096 of a record (R185). -/
def State.logWeight (s : State) : Nat :=
  ((s.store.log.drop s.store.logFrom).map LogRec.weight).sum + (s.store.units.map fun u => 4096 * (u.data.length + 2)).sum

/-- Records of a command that writes or trims `us`. -/
def cmdWeight (trim : Bool) (us : List (Nat × Nat)) : Nat :=
  (us.map fun u => if trim then 4096 + u.2 else 4096 * (u.2 + 2)).sum

/-- The command would pass the bound of 32 MiB of log (R185). -/
def State.logFull (trim : Bool) (us : List (Nat × Nat)) (s : State) : Bool :=
  decide (4096 * 4194304 < s.logWeight + cmdWeight trim us)

/-- A command in flight waits for the running checkpoint. -/
def State.stallCmd (q : Nat) (c : Cmd) (s : State) : State :=
  s.modQ q fun x => { x with inflight := x.inflight.map fun d => if d == c then { d with stalled := true } else d }

/-- A command that waited goes on: LOGSTALL, with the wait in µs (R185). -/
def State.stallOver (us : Nat) (s : State) : State := (s.flag R.STO_STAT 6).post 0x46 1 0 us

/-- The map as the newest checkpoint and the log since its start yield it (R175, R188). -/
def Store.rebuilt (t : Store) : Tbl Word :=
  match t.newestCkpt with
  | some c => replay (t.log.drop c.logPos) [] c.map
  | none => replay t.log [] []

/-! ### The full scan (R188) -/

/-- A location is a parity member's. -/
def Store.parityAt (t : Store) (l : Nat) : Bool :=
  let n := t.paneOf l
  !(t.pane n).noParity && locDie l == parityDie n (locPage l)

/-- The newest codeword of each NS1 block, of those taken. -/
def Store.newest (t : Store) (take : Nat → Codeword → Bool) : Tbl Word :=
  t.cells.foldl (fun m p =>
    match p.2 with
    | none => m
    | some c =>
      let lba := c.addr.toNat
      let older := match t.cell (tget unmapped m lba).toNat with
        | some b => decide (b.seq.toNat < c.seq.toNat)
        | none => true
      if decide (lba < ns1Blocks) && !t.parityAt p.1 && take p.1 c && older then tset unmapped m lba (BitVec.ofNat 32 p.1)
      else m) []

/-- The log page that record i of the log lies in, by number within the log's region. -/
def logPageOf : List (Nat × Nat) → Nat → Nat
  | [], i => i / 2048
  | (o, n) :: r, i => if i < n then o / 4 else logPageOf r (i - n)

/-- The map from a scan of every programmed codeword, `unreadable` the log pages that cannot be read. A unit whose records the
log no longer holds was committed unless a power loss cut it (DEDUCED, log 143); the readable log gives the others, and where
some of it cannot be read the newest unit by SEQ is taken. -/
def Store.scanned (t : Store) (unreadable : List Nat) : Tbl Word :=
  let log := ((List.range t.log.length).filter fun i => !unreadable.contains (logPageOf t.logUnits i)).map fun i =>
    t.log.getD i (logRec 0 0 0)
  let base := t.newest fun l c => (decide (c.seq.toNat < t.logSeq) && !t.cutLocs.contains l) || !unreadable.isEmpty
  let m := replay log [] base
  base.foldl (fun m p =>
    match t.cell (tget unmapped m p.1).toNat, t.cell p.2.toNat with
    | some a, some b => if a.seq.toNat < b.seq.toNat then tset unmapped m p.1 p.2 else m
    | _, _ => m) m

/-- R175: entries of the map, or of a dirty line of its cache, are rebuilt from the newest checkpoint and the log; where a scan
has taken the place of both slots, from what it found. While the scan runs there is no map to mend. -/
def State.mapRebuild (first n : Nat) (s : State) : State :=
  let t := s.store
  let new := t.rebuilt
  let m := (List.range n).foldl
    (fun m i => tset unmapped m (first + i) (tget unmapped new (first + i))) t.map
  if s.rb R.STO_STAT 8 then s else { s with store.map := m }

/-- A line of the map cache holds changes. -/
def State.lineDirty (first : Nat) (s : State) : Bool := s.store.mapCache.any fun p => p.1 == first / 16 && p.2

def execMapRebuild (first : Nat) (cacheLine : Bool) (s : State) : Out := .next <|
  if cacheLine then
    (if s.lineDirty first then (s.sramUeFree 3).mapRebuild (first / 16 * 16) 16 else s.sramUeFree 3)
  else s.mapRebuild (first / 1024 * 1024) 1024

/-! ### Dies (R189 to R192) -/

/-- STO_STAT shows the die table (R190, R192). -/
def State.showDies (s : State) : State :=
  let s := match s.store.dieTable with
    | some (d, done) => ((s.wb R.STO_STAT 2 true).wb R.STO_STAT 3 !done).wf R.STO_STAT 18 16 d
    | none => s
  match s.store.die2 with
  | some d => (s.wb R.STO_STAT 9 true).wf R.STO_STAT 21 19 d
  | none => s

/-- Units of NS1 on a die. -/
def State.onDie (d : Nat) (s : State) : Nat := (s.store.map.filter fun p => dieOf p.2 == d).length

/-- The store is ready and its map whole (R188). -/
def State.mapWhole (s : State) : Bool := s.rb R.STO_STAT 1 && !s.rb R.STO_STAT 8

/-- Regrowth starts, or goes on after a reset, once the map is whole and role 2 assigned: its veto stands, and the units are
counted the first time (R191, R198). -/
def State.regrowStart (s : State) : State :=
  match s.store.dieTable with
  | some (d, false) =>
    if s.roleState 2 = 0 || !s.mapWhole then s
    else
      let s := s.wb R.PWR_VETOD 2 true
      if s.store.rgBegun then s
      else
        let n := s.onDie d + s.store.rgOther.length
        (({ s with store.rgBegun := true, store.rgTotal := n } : State).wr R.STO_RGTOTAL (BitVec.ofNat 32 n)).wr R.STO_RGLEFT
          (BitVec.ofNat 32 n)
  | _ => s

/-- STO_RGTOTAL and STO_RGLEFT as the store's own records give them, once the map is whole (R187, R198). -/
def State.showRegrowth (s : State) : State :=
  let s := s.wr R.STO_RGTOTAL (BitVec.ofNat 32 s.store.rgTotal)
  match s.store.regrowing with
  | some d => if s.rb R.STO_STAT 8 then s else s.wr R.STO_RGLEFT (BitVec.ofNat 32 (s.onDie d + s.store.rgOther.length))
  | none => s

/-- Stripes that a die's retirement finds open get their parity, of the pages programmed before it, so that its units can be
read through tier 4 (R190; DESIGN CHOICE, log 109); while PFAILn is low nothing is programmed (R186). -/
def State.closeOpened (s : State) : State :=
  if s.power.pfailn && s.rb R.STO_STAT 1 && s.store.die2.isNone then { s with store := s.store.closeOpen } else s

/-- A die meets a condition of R189, by its DETAIL: it is retired, or it is the second to fail. -/
def State.dieFails (d detail : Nat) (s : State) : State :=
  match s.store.dieTable with
  | none =>
    let other := s.otherUnits fun l => locDie l == d
    let s := ({ s with store.dieTable := some (d, false), store.rgOther := other } : State).showDies.closeOpened
    s.regrowStart.post 0x40 2 d detail
  | some (e, _) =>
    if e = d ∨ s.store.die2.isSome then s
    else (({ s with store.die2 := some d } : State).showDies).post 0x42 3 d detail

/-- R189: an operation on a die does not report ready within 10 ms. -/
def execNandTimeout (die : Fin 5) (s : State) : Out := .next <|
  let x := s.die die.val
  let s := s.setDie die.val { x with timeouts := x.timeouts + 1 }
  if x.timeouts + 1 = 3 then s.dieFails die.val 0 else s

/-- A block is queued for refresh (R173, R179). -/
def State.queueRefresh (d block : Nat) (s : State) : State :=
  let x := s.die d
  if x.refresh.contains block then s else s.setDie d { x with refresh := x.refresh ++ [block] }

/-- A unit of a block failed tier 3; sixteen distinct blocks within 24 h retire the die (R189). DESIGN CHOICE (log 110): the
spec names no clock; the RTC's seconds count, so a commit of the count or calendar moves them. -/
def State.tier3Failed (d block : Nat) (s : State) : State :=
  let x := s.die d
  let now := s.lehr.sec.toNat
  let l := (block, now) :: x.tier3Fails.filter fun p => p.1 != block && decide (now < p.2 + 86400)
  let s := s.setDie d { x with tier3Fails := l }
  if 16 ≤ l.length then s.dieFails d 2 else s

/-- A good block of the TLC pool that nothing uses (R180). -/
def State.spareBlock (d b : Nat) (s : State) : Bool :=
  decide (pslcEnd ≤ b) && decide (b < paneEnd) && !(s.store.pane b).opened && !(s.die d).retiredBlocks.contains b &&
    (s.store.info d b).pane.isNone && !s.store.isPslc d b

/-- A retired block's place in its pane is taken by a block of the TLC pool, which then is of the pane's pool; the pages it
still holds stay where they are until the pane is erased (R180). -/
def State.replaceBlock (d block repl : Nat) (s : State) : State :=
  let t := s.store
  let n := (t.info d block).pane.getD block
  let p := t.pane n
  let t := t.setInfo d repl { t.info d repl with
    pslc := if t.isPslc d block then some true else none
    pane := some n }
  { s with store := t.setPane n { p with
      replaced := (d, repl) :: p.replaced.filter (fun q => q.1 != d)
      former := if p.opened then p.former ++ [(d, block)] else p.former } }

/-- A block is retired at once: moves into it are given up, and its valid units are moved by garbage collection. Its pane, of
the cache or the TLC pool, is closed to programs, its open stripes with their parity (R171, R180). -/
def State.retireBlock (d block : Nat) (s : State) : State :=
  let x := s.die d
  let s := s.setDie d { x with
    retiredBlocks := x.retiredBlocks ++ [block]
    check := x.check.filter (· != block) }
  let t := s.store
  let n := t.paneOf (locAt d block 0 0)
  let here := s.otherUnits fun l => locDie l == d && locBlock l == block
  let t : Store := { t with moved := here.foldl (fun m a => tset (fun _ => none) m a (some (t.unitLoc a))) t.moved }
  let t := if s.nandOk then (t.openStripes.filter fun q => q.1 == n).foldl Store.closeStripe t else t
  let t := if (t.pane n).opened && (decide (n < cacheEnd) || decide (pslcEnd ≤ n)) then
      t.setPane n { t.pane n with closed := true, evac := true }
    else t
  { s with store := { t with
      moves := t.moves.filter fun m => !(locDie m.target == d && locBlock m.target == block)
      lostBlocks := t.lostBlocks + 1 } }

/-- R180: a block that fails a program or an erase. A TLC-pool block is lost either way: itself, or the one that replaces a
pseudo-SLC block: `repl` if it is a good one that nothing uses, else the first that is. -/
def execBlockRetire (die : Fin 5) (block : Nat) (repl : Option Nat) (s : State) : Out := .next <|
  let x := s.die die.val
  if 5504 ≤ block || x.retiredBlocks.contains block then s
  else
    let s := s.retireBlock die.val block
    let spare := (repl.filter fun r => s.spareBlock die.val r).or
      ((List.range paneEnd).find? fun r => s.spareBlock die.val r)
    let s := match spare with
      | some r => if s.store.isPslc die.val block then s.replaceBlock die.val block r else s
      | none => s
    let s := s.showHealth.post 0x43 0 die.val block
    if 165 < x.retiredBlocks.length + 1 then s.dieFails die.val 1 else s

/-- A write of STO_CTL; RETIRE (R196). -/
def State.stoCtlWrite (w : Word) (s : State) : State :=
  let locked := s.rb R.STO_CTL 2
  let s := s.writeReg R.STO_CTL w
  if !bit 3 w then s
  else if fld 31 16 w ≠ 0x5254 || locked || s.store.dieTable.isSome || decide (4 < fld 6 4 w) then s.flag R.STO_STAT 0
  else s.dieFails (fld 6 4 w) 3

/-- R190: STO_RGLEFT has reached 0; the die is RETIRED, its units rebuilt elsewhere by role 2. -/
def execRegrowthDone (secs : Word) (s : State) : Out := .next <|
  match s.store.dieTable with
  | some (d, false) =>
    if s.store.rgBegun && s.roleState 2 != 0 && s.mapWhole && s.rd R.STO_RGLEFT == 0 &&
        s.onDie d + s.store.rgOther.length == 0 then
      ((({ s with store.dieTable := some (d, true) } : State).showDies).wb R.PWR_VETOD 2 false).post 0x41 0 d secs.toNat
    else s
  | _ => s

/-- A unit is lost (R192): held on the second failed die, or on the first and not yet rebuilt. -/
def State.unitLost (e : Word) (s : State) : Bool :=
  match s.store.die2 with
  | none => false
  | some d => dieOf e == d || (s.store.dieTable.any fun t => t.1 == dieOf e && !t.2)

/-! ### Folding, garbage collection, regrowth, scanning (R176 to R179, R191) -/

/-- What a unit's move reads: its codeword; where its die is gone, rebuilt from its stripe, or from its copy in the mirror
(R173, R191, R309). -/
def State.moveSource (a : Nat) (s : State) : Option Codeword :=
  let t := s.store
  let l := s.unitAt a
  let o := a % 2 ^ 27
  let copy := a / 2 ^ 27 == 1 && s.jnl.mirror.any fun m => m.1 == o / 256 && m.2.1 == o % 256 && !t.gone.contains m.2.2
  if t.badLocs.contains l then none
  else if t.gone.contains (locDie l) && !copy then t.rebuild l
  else t.cell l

/-- Units are copied to their targets, ciphertext unchanged, with a new SEQ and fresh parity; the sources stay as they are
until R177 is met. -/
def State.startMoves (why : Nat) (moves : List (Nat × Nat)) (s : State) : State :=
  let seq := s.store.writeSeq
  let one (i : Nat) (m : Nat × Nat) : Nat × Codeword :=
    (m.2, Codeword.make (m.1 / 2 ^ 27) (m.1 % 2 ^ 27) ((s.moveSource m.1).getD {}).data (seq + i))
  let cws := (List.range moves.length).map fun i => one i (moves.getD i (0, 0))
  let new := moves.map fun m => ({ lba := m.1, why, source := s.unitAt m.1, target := m.2 } : Moving)
  ({ s with store.moves := s.store.moves ++ new } : State).program cws

/-- Moves that can be made at all: each unit can be read and is not already moving, targets are distinct places that can be
programmed, in the TLC pool, or for a source in the cache in the cache. -/
def State.movesOk (fold : Bool) (moves : List (Nat × Nat)) (s : State) : Bool :=
  let t := s.store
  let ok (m : Nat × Nat) : Bool :=
    let known := (s.moveSource m.1).isSome && (decide (m.1 < 2 ^ 27) || s.validUnit m.1)
    let cached := decide (m.1 < 2 ^ 27) && decide (t.paneOf (s.unitAt m.1) < cacheEnd)
    known && !(t.moves.any fun v => v.lba == m.1) &&
      (t.canProgram pslcEnd paneEnd m.2 || (!fold && cached && t.canProgram 0 cacheEnd m.2))
  moves.all ok && (moves.map (·.1)).eraseDups.length == moves.length && (moves.map (·.2)).eraseDups.length == moves.length

/-- While units are left to rebuild, free panes are regrowth's before they are anyone else's (R181): a move of another kind
opens one only where another is left. -/
def State.leavesPane (moves : List (Nat × Nat)) (s : State) : Bool :=
  let t := s.store
  let opens := ((moves.map fun m => t.paneOf m.2).filter fun n => decide (pslcEnd ≤ n) && (!(t.pane n).opened || t.erasable n)).eraseDups
  t.regrowing.isNone || opens.isEmpty || decide (opens.length + 1 ≤ t.freeTlc)

/-- R176: folding may start: the cache is more than half full, or no storage command is in flight, or STO_CTL.FOLDEAGER. -/
def State.foldDue (s : State) : Bool :=
  decide (cacheEnd < 2 * s.store.cacheUsed) || s.rb R.STO_CTL 1 ||
    s.hri.queues.all fun p => p.1 == 0 || 33 ≤ p.1 || p.2.inflight.isEmpty

/-- One fold: pseudo-SLC sources, and one wordline of a TLC block, three pages of four codewords, as the target. -/
def State.foldLine (moves : List (Nat × Nat)) (s : State) : Bool :=
  let line (l : Nat) : Nat × Nat × Nat := (locDie l, locBlock l, locPage l / 3)
  decide (moves.length ≤ 12) && ((moves.map fun m => line m.2).eraseDups.length ≤ 1) &&
    moves.all fun m => decide (s.store.paneOf (s.mapAt m.1).toNat < cacheEnd)

/-- R176, R178: folding starts or goes on with one wordline, done by role 1. -/
def execFoldBegin (moves : List (Nat × Nat)) (s : State) : Out := .next <|
  if s.nandOk && s.roleState 1 != 0 && (s.store.folding || s.foldDue) && s.movesOk true moves && s.foldLine moves &&
      s.leavesPane moves then
    ({ s with store.folding := true } : State).startMoves 64 moves
  else s

/-- The unit lies on the die that is regrown, in the oldest pane that still has one (R191). -/
def State.regrowDue (lba : Nat) (s : State) : Bool :=
  let t := s.store
  match t.regrowing with
  | none => false
  | some d =>
    let age (l : Nat) : Nat := (t.pane (t.paneOf l)).age
    let e := s.unitAt lba
    let rest := (t.map.filter fun p => dieOf p.2 == d && !(t.moves.any fun m => m.lba == p.1)).map fun p => p.2.toNat
    let rest := rest ++ (t.rgOther.filter fun a => !(t.moves.any fun m => m.lba == a)).map t.unitLoc
    s.roleState 2 != 0 && (t.rgOther.contains lba || (decide (lba < 2 ^ 27) && locDie e == d)) &&
      rest.all fun l => decide (age e ≤ age l)

/-- Regrowth's targets lie in TLC panes of four data blocks (R191). -/
def Store.fourData (t : Store) (l : Nat) : Bool :=
  let n := t.paneOf l
  decide (pslcEnd ≤ n) && (!(t.pane n).opened || t.erasable n || (t.pane n).noParity)

/-- The counter of a move that role 1 or 2 may make now (R179, R180, R187), if it may: refreshed, or moved by garbage
collection and wear levelling. -/
def State.moveDue (lba : Nat) (s : State) : Option Nat :=
  let t := s.store
  let l := s.unitAt lba
  let n := t.paneOf l
  let x := s.die (locDie l)
  if x.refresh.contains (locBlock l) && s.roleState 2 != 0 then some 80
  else if s.roleState 1 = 0 then none
  else if (t.pane n).evac || x.retiredBlocks.contains (locBlock l) || (decide (pslcEnd ≤ n) && decide (t.freeTlc < 8)) || t.spread (decide (n < pslcEnd)) then some 72
  else none

/-- Garbage collection, wear levelling, a refresh or regrowth copies units to new places, each move (unit, place): units
of NS1, journal and metadata alike. Regrowth takes free panes first (R181). -/
def execGcStart (moves : List (Nat × Nat)) (s : State) : Out := .next <|
  if !s.nandOk then s
  else
    let s := s.regrowStart
    if !s.movesOk false moves then s
    else if moves.all (fun m => s.regrowDue m.1 && s.store.fourData m.2) then s.startMoves 0 moves
    else if !s.leavesPane moves then s
    else match moves.head?.bind fun m => s.moveDue m.1 with
      | none => s
      | some why =>
        if moves.all fun m => s.moveDue m.1 == some why then s.startMoves why moves else s

/-- A move is over. -/
def State.dropMove (m : Moving) (s : State) : State :=
  let l := s.store.moves.filter (· != m)
  { s with store.moves := l, store.folding := s.store.folding && !l.isEmpty }

/-- The move takes effect: for NS1 MOVE is logged and durable, and the map names the target (R177, R183); a unit of journal or
metadata lies at its target from then on. -/
def State.moveDone (m : Moving) (s : State) : State :=
  let n := s.store.paneOf m.source
  let s :=
    if m.lba < 2 ^ 27 then ((s.logRecs [logRec 2 m.lba m.target]).programLog).setMap m.lba (BitVec.ofNat 32 m.target)
    else ({ s with store.moved := tset (fun _ => none) s.store.moved m.lba (some m.target) } : State).dropOther (· == m.lba)
  let s := if m.why = 0 then s.paneRebuilt n else s.stoCount m.why 1
  s.dropMove m

/-- R177: whether the source is released. `verified`: every codeword of the target's wordline decodes at tier 1 with at most
40 corrected bits; `next`: so do those of the wordline after it. A target that fails is abandoned, its block queued for a
check; a move that a host write has overtaken is discarded (R178). The read-back ends a run of timeouts (R189). -/
def execReleaseFold (lba target : Nat) (verified next : Bool) (s : State) : Out := .next <|
  match s.store.moves.find? fun m => m.lba == lba && m.target == target with
  | none => s
  | some m =>
    let d := locDie target
    let p := s.store.pane (s.store.paneOf target)
    if !s.nandOk then s
    else
      let s := if s.store.gone.contains d then s else s.dieAnswered d
      if !verified || s.store.gone.contains d then
        let x := s.die d
        (s.setDie d { x with check := (x.check.filter (· != locBlock target)) ++ [locBlock target] }).dropMove m
      else if s.unitAt lba != m.source || (decide (2 ^ 27 ≤ lba) && !s.validUnit lba) then s.dropMove m
      else if (decide (pslcEnd ≤ s.store.paneOf target) && !s.store.blockClosed target && !(next && s.store.nextLine target)) ||
          !(p.noParity || (p.stripe (locPage target)).closed) then s
      else s.moveDone m

/-- R179: the scan queues a block for refresh. -/
def execScanRefresh (die : Fin 5) (block : Nat) (s : State) : Out := .next <|
  if s.rb R.STO_CTL 0 && s.roleState 2 != 0 then s.queueRefresh die.val block else s

/-! ### Power failure warning (R186) -/

def execPfailnFall (s : State) : Out := .next
  (({ s with power.pfailn := false, power.pfell := s.power.phase == .run } : State).wb R.STO_STAT 4 true)

/-! ### The checks of R142 for opcodes 0x01 to 0x04 -/

/-- The first field out of order (R113, R141). -/
def stoBadField (c : Cmd) : Option Nat :=
  let op := c.opcode
  let moves := op == 1 || op == 2
  firstBad [
    (1, c.f 1 1 / 4 == 0 && (if moves then decide (c.dptrKind ≤ 1) else c.dptrKind == 2)),
    (if moves then c.dptrOk (4096 * c.nblk) else (8, true)),
    (16, op != 3 || c.slba == 0),
    (24, if op = 3 then c.nblk == 0 else decide (1 ≤ c.nblk) && decide (c.nblk ≤ (if op = 4 then 1048576 else 1024))),
    (if moves then c.sgOk else (28, true)), c.zero 32 16, c.zero 48 16]

/-- NSID names a namespace the opcode serves; for WRITE and TRIM NS2 is refused later (R138, R140). -/
def stoNsOk (c : Cmd) : Bool := c.nsid == 1 || (c.nsid == 2 && c.opcode != 3)

/-- Range, then access (R139, R140): a TYPE 1 code. -/
def stoRange (c : Cmd) : Option Nat :=
  if c.opcode = 3 then none
  else if (if c.nsid = 1 then ns1Blocks else ns2Blocks) < c.slba + c.nblk then some 1
  else if c.nsid = 2 && c.opcode != 1 then some 3
  else none

/-- NS1 is served: step 4 of R188 reached and no full scan running. -/
def State.ns1Ready (s : State) : Bool := s.mapWhole

/-! ### TRIM and FLUSH -/

/-- The orders of the commands a FLUSH covers that are not yet durable (R150): units of completed writes, committed or
not, and writes and trims of its own queue still in flight. -/
def State.flushCover (q order : Nat) (s : State) : List Nat :=
  s.store.units.map (·.order) ++ s.store.fresh.map (·.order) ++
    ((s.q q).inflight.filter fun d =>
      (d.opcode == 2 || d.opcode == 4) && !d.ended && decide (d.order < order)).map (·.order)

/-- A storage command in flight by queue, tag and opcode. -/
def State.stoCmd (q tag op : Nat) (s : State) : Option Cmd :=
  (s.q q).inflight.find? fun c => c.tag == tag && c.opcode == op && !c.started && !c.ended

/-- R141: a TRIM makes its blocks unwritten; with two dies lost it fails (R192), and it waits where the log has no room (R185). -/
def State.trim (q : Nat) (c : Cmd) (s : State) : State :=
  let us := unitsOf c.slba c.nblk
  if s.store.die2.isSome then s.fail q c 2 2 0 c.slba 0
  else if s.logFull true us then s.stallCmd q c
  else
    let s := if c.stalled then (let (n, s) := s.freeNat; s.stallOver n) else s
    let s := us.foldl State.trimUnit s
    ({ s with store.fresh := s.store.fresh ++ [⟨c.order, [], s.store.log.length⟩] } : State).finish q c 0 0 0

def execTrim (q : Fin 37) (tag : Half) (s : State) : Out := .next <|
  match s.stoCmd q.val tag.toNat 4 with
  | some c => if s.dataUp then s.trim q.val c else s
  | none => s

/-- R150: the covered set was fixed at the fetch; the FLUSH waits. -/
def execFlush (q : Fin 37) (tag : Half) (s : State) : Out := .next <|
  match s.stoCmd q.val tag.toNat 3 with
  | none => s
  | some _ => s.modQ q.val fun x => { x with
      inflight := x.inflight.map fun d => if d.tag = tag.toNat && d.opcode == 3 && !d.ended then { d with started := true } else d }

/-- A committed write or trim is durable (R184): its records are programmed, and of each of its codewords that still is its
block's the stripe is closed. -/
def Store.settled (t : Store) (f : Fresh) : Bool :=
  decide (f.logEnd ≤ t.logDurable) && f.locs.all fun l =>
    let p := t.pane (t.paneOf l)
    p.noParity || (p.stripe (locPage l)).closed || !(t.map.any fun e => e.2.toNat == l)

/-- R151, R192: the FLUSH completes once every covered write that succeeded is durable: its units committed, their stripes
closed and the log programmed (R172, R184). It waits while PFAILn is low (R186). Once two dies have failed nothing is
programmed: it completes with WRITE FAULT if a covered write that succeeded is not durable (DESIGN CHOICE, log 111). -/
def State.flushDone (q : Nat) (c : Cmd) (s : State) : State :=
  let own := (s.q q).inflight.any fun d =>
    (d.opcode == 2 || d.opcode == 4) && !d.ended && c.waits.contains d.order
  if own || !s.power.pfailn then s
  else if s.store.die2.isSome then
    let lost := (s.store.units.any fun u => c.waits.contains u.order && !u.failed) ||
      s.store.fresh.any fun f => c.waits.contains f.order && !s.store.settled f
    if lost then s.fail q c 2 2 0 c.slba 0 else (s.stoCount 120 1).finish q c 0 0 0
  else if s.store.units.any fun u => c.waits.contains u.order then s
  else
    let s := ({ s with store := s.store.closeOpen } : State).programLog
    (({ s with store.fresh := [] } : State).stoCount 120 1).finish q c 0 0 0

def execFlushComplete (q : Fin 37) (tag : Half) (s : State) : Out := .next <|
  match (s.q q.val).inflight.find? fun c => c.tag == tag.toNat && c.opcode == 3 && c.started && !c.ended with
  | some c => if s.dataUp && s.rb R.STO_STAT 1 then s.flushDone q.val c else s
  | none => s

/-- Every accepted write is programmed, but for log records that the store programs as DOZE is entered, and nothing is being
programmed (R78). -/
def State.programmed (s : State) : Bool :=
  s.store.units.isEmpty && s.store.ckptRun.isNone && (s.store.logDurable == s.store.log.length || s.nandOk)

end Sys2Proof.Machine
end

