-- ==== Sys2Proof/Machine/Journal.lean ====
section
/-! DEFINITION. The radio journal (chapter 10): forming and placing records, groups and clutches, their seals, what
NS2 holds, JOURNAL-READ and the journal's admin commands. -/

namespace Sys2Proof.Machine

/-! ### Layout -/

def pad8 (n : Nat) : Nat := (n + 7) / 8 * 8

/-- The bytes a record takes (R301). -/
def Record.size (r : Record) : Nat := 16 + pad8 r.payload.length

/-- The 16-byte record header (R301). -/
def Record.header (r : Record) : List Byte :=
  leBytes 2 r.nodef.toNat ++ leBytes 2 r.length ++ leBytes 4 r.tick.toNat ++ [r.rssi, r.evm, r.mode, r.tym] ++
    leBytes 4 r.fc.toNat

def Record.padded (r : Record) : List Byte := padTo (pad8 r.payload.length) 0 r.payload

def Record.isMarker (r : Record) : Bool := r.nodef.getLsbD 12

/-- The clutch header (R298). -/
def Clutch.header (c : Clutch) : List Byte :=
  [0x4A, 0x58, 0x43, 0x4C, 0x01, BitVec.ofNat 8 (b2n c.untimed + 2 * b2n c.restart)] ++ leBytes 2 0 ++
    leBytes 4 c.clseq.toNat ++ leBytes 4 c.firstCseq.toNat ++ leBytes 8 c.base.toNat ++ leBytes 2 c.slot ++
    leBytes 2 0 ++ leBytes 4 c.keygen ++ leBytes 32 0

/-- Where a record of a size goes from an offset on: it never crosses a codeword (R299). -/
def placeAt (p size : Nat) : Nat := if 4096 < p % 4096 + size then (p / 4096 + 1) * 4096 else p

/-- The next codeword boundary at or after an offset. -/
def nextCw (p : Nat) : Nat := (p + 4095) / 4096 * 4096

/-- Where codeword 255 begins. -/
def sealAt : Nat := 255 * 4096

/-- The size of a COMMIT. -/
def commitSize : Nat := 48

/-! ### The open clutch -/

/-- The clutch that is open, if one is. -/
def State.openClutch (s : State) : Option Clutch :=
  match s.jnl.clutches.getLast? with
  | some c => if c.sealed'.isNone then some c else none
  | none => none

def State.modLast (f : Clutch → Clutch) (s : State) : State :=
  match s.jnl.clutches.getLast? with
  | some c => { s with jnl.clutches := s.jnl.clutches.dropLast ++ [f c] }
  | none => s

/-- Whether a commit sequence is durable (R308). -/
def State.groupDurable (g : Word) (s : State) : Bool := decide ((s.rd R.JNL_CSEQ - g).toNat < 2 ^ 31)

/-- Bytes in journal staging (R296): records formed and not durable. -/
def State.stagingUsed (s : State) : Nat :=
  (s.jnl.clutches.flatMap fun c => (c.records.filter fun r => r.group == s.jnl.nextCseq || s.jnl.committed.contains r.group).map
    Record.size).sum

/-- Journal programs are held (R296): PFAILn low or the store not ready. -/
def State.jnlHeld (s : State) : Bool := !s.power.pfailn || !s.rb R.STO_STAT 1

/-- The tick offset of now in a clutch (R303). -/
def State.tickIn (c : Clutch) (s : State) : Nat := (s.count64.toNat - c.base.toNat) / 32

/-- The TICK a record formed now carries, which holds at 2^31 - 1 (R301). It is never below the clutch's last (R303), also where
the count has restarted below BASE with the loss of VAO (DESIGN CHOICE, log 146). -/
def State.tickNow (c : Clutch) (s : State) : Word :=
  let last := (c.records.getLast?.map fun r => r.tick.toNat).getD 0
  BitVec.ofNat 32 (max last (min 0x7FFFFFFF (s.tickIn c)))

/-- The key generation (R350). -/
def Keys.visits (k : Keys) : Nat := k.steps / 3

/-- The slot a new clutch takes: the next one that no pinned clutch holds (R320). -/
def freeSlot : Nat → Nat → List Clutch → Nat
  | 0, k, _ => k % 15258
  | n + 1, k, cs => if cs.any fun c => c.slot == k % 15258 && c.pinned then freeSlot n (k + 1) cs else k % 15258

/-- JNL_CLSEQ, JNL_OLDEST and JNL_PINS (R324). -/
def State.jnlShow (s : State) : State :=
  let cs := s.jnl.clutches
  let s := s.wr R.JNL_PINS (BitVec.ofNat 32 (cs.filter (·.pinned)).length)
  let s := match cs.getLast? with | some c => s.wr R.JNL_CLSEQ c.clseq | none => s
  match cs with | c :: _ => s.wr R.JNL_OLDEST c.clseq | [] => s

/-- What lay in a clutch slot is no longer valid: its codewords, their stripes and copies (R297, R309). With the first slot of
a pane the pane's blocks are erased for the round that begins (R194; DESIGN CHOICE, log 109). -/
def State.clearSlot (slot : Nat) (s : State) : State :=
  let lo := 256 * slot
  let mine (o : Nat) : Bool := decide (lo ≤ o) && decide (o < lo + 256)
  let other (a : Nat) : Bool := a / 2 ^ 27 == 1 && mine (a % 2 ^ 27)
  let stripes := (List.range 16).map fun i => regionStripe journalPane (lo + 16 * i)
  let here (l : Nat) : Bool := stripes.contains (s.store.paneOf l, locPage l)
  let s := s.dropOther other
  let t := s.store
  let n := journalPane + slot / 32
  let used := t.cells.any fun p => t.paneOf p.1 == n
  let t := if slot % 32 = 0 && used then (List.range 5).foldl (fun t d => t.eraseBlock (t.blockIn n d) d) t else t
  let t : Store := { t with
    cells := t.cells.filter fun p => !here p.1
    badLocs := t.badLocs.filter fun l => !here l
    moved := tclear other t.moved }
  let blank (t : Store) (q : Nat × Nat) : Store :=
    let p := t.pane q.1
    t.setPane q.1 { p with opened := true, stripes := tset (fun _ => ({} : Stripe)) p.stripes q.2 {} }
  { s with
    store := stripes.foldl blank t
    jnl.mirror := s.jnl.mirror.filter fun m => m.1 != slot }

/-- A clutch opens (R298, R306, R312, R320); the clutch that held its slot is gone. -/
def State.newClutch (s : State) : State :=
  let j := s.jnl
  let slot := freeSlot 15258 j.nextSlot j.clutches
  let c : Clutch := {
    clseq := j.nextClseq, slot, firstCseq := j.nextCseq, base := s.count64, untimed := s.rb R.LEHR_STAT 1
    restart := j.restart, keygen := s.keys.visits + 1 }
  let j' : Journal := { j with
    clutches := j.clutches.filter (fun d => d.slot != slot) ++ [c]
    nextClseq := j.nextClseq + 1
    nextSlot := (slot + 1) % 15258
    pos := 64
    groupStart := none
    restart := false }
  (({ s with jnl := j' } : State).clearSlot slot).jnlShow

/-- Put a record at an offset of the open clutch, in the group that is open. -/
def State.putRecord (p : Nat) (r : Record) (s : State) : State :=
  let g := s.jnl.nextCseq
  let s := s.modLast fun c => { c with records := c.records ++ [{ r with pos := p, group := g }] }
  { s with jnl.pos := p + r.size }

/-! ### Groups (R307, R311) -/

/-- The hardware nonce of a counter (R337). -/
def gcmNonce (ctr : Dword) : BitVec 96 := BitVec.ofNat 96 (Config.gcmPrefix.toNat + 2 ^ 32 * ctr.toNat)

/-- A device-encryption counter is used and incremented; at a multiple of 2^16 its ledger record comes first, and at
0xFFFF_FFFF_FFFF_0000 it is used no more (R338). -/
def ctrSpent (ctr : Dword) : Bool := decide (0xFFFFFFFFFFFF0000 ≤ ctr.toNat)
def ctrRecorded (ctr ledger : Dword) : Bool := !ctrSpent ctr && (ctr.toNat % 65536 != 0 || ctr == ledger)

/-- Context slots held: an open journal group and open sessions (R329). -/
def State.ctxHeld (s : State) : Nat :=
  b2n s.jnl.groupStart.isSome + ((List.range 4).filter fun i => (s.slot (252 + i)).state != 0).length

/-- CTXUSE and CTXMAX; `more` counts messages that hold a slot within this step (R356). -/
def State.ctxNote (more : Nat) (s : State) : State :=
  let s := s.wf R.CIP_STAT 6 3 s.ctxHeld
  s.wf R.CIP_STAT 11 8 (max (s.rf R.CIP_STAT 11 8) (s.ctxHeld + more))

/-- Additional data and plaintext of a group (R311); `first` when it is its clutch's first group. -/
def groupAad (c : Clutch) (first : Bool) (rs : List Record) : List Byte :=
  (if first then c.header else []) ++ rs.flatMap Record.header ++
    rs.flatMap fun r => if r.isMarker && r.rssi == 4 then r.payload else []

def groupPlain (rs : List Record) : List Byte := (rs.filter fun r => !r.isMarker).flatMap Record.padded

/-- Close the open group with its COMMIT, placed after its last record (R302, R307); a spent counter seals no group (R338). -/
def State.putCommit (s : State) : State :=
  match s.openClutch with
  | none => s
  | some c =>
    if ctrSpent s.keys.jctr then s
    else
    let g := s.jnl.nextCseq
    let rs := c.records.filter fun r => r.group == g
    let ctr := s.keys.jctr
    let hdr : Record := {
      nodef := 0x1000, length := 32, tick := s.tickNow c, rssi := 1, fc := g }
    let nonce := gcmNonce ctr
    let tag := (Config.gcmSeal (s.slotKey 260) nonce (groupAad c (c.firstCseq == g) (rs ++ [hdr])) (groupPlain rs)).2
    let payload := bvBytes 12 nonce ++ bvBytes 16 tag ++ leBytes 4 (rs.length + 1)
    let r : Record := { hdr with payload }
    let s := s.putRecord (placeAt s.jnl.pos commitSize) r
    ({ s with
      jnl.committed := s.jnl.committed ++ [g]
      jnl.nextCseq := g + 1
      jnl.groupStart := none
      jnl.pos := nextCw s.jnl.pos
      keys.jctr := ctr + 1
      keys.jwait := s.keys.jwait || !ctrRecorded ctr s.keys.jledger } : State).ctxNote 0

/-- Commit the open group; an empty group is never committed. -/
def State.commitGroup (s : State) : State := if s.jnl.groupStart.isSome then s.putCommit else s

/-! ### Seals (R300, R302) -/

/-- The node bitmap of a clutch as 512 bytes. -/
def nodeBitmap (rs : List Record) : List Byte :=
  let nodes := (rs.filter fun r => !r.isMarker || r.rssi == 2).map fun r => r.nodef.toNat % 4096
  (List.range 512).map fun b => BitVec.ofNat 8 ((List.range 8).foldl (fun v i =>
    if nodes.contains (8 * b + i) then v + 2 ^ i else v) 0)

/-- The tick of the first record that starts in each of codewords 0 to 254. -/
def firstTicks (rs : List Record) : List Byte :=
  (List.range 255).flatMap fun k =>
    match rs.find? fun r => r.pos / 4096 == k with
    | some r => leBytes 4 r.tick.toNat
    | none => leBytes 4 0xFFFFFFFF

/-- Seal the open clutch: its open group is committed, then SEAL and its COMMIT go to codeword 255. One that a reset left open
is sealed with RESTART, whatever seals it (R300, R312). -/
def State.sealClutch (why : Nat) (s : State) : State :=
  if s.openClutch.isNone then s
  else
    let reason := if s.jnl.restart then 4 else why
    let s := s.commitGroup
    match s.openClutch with
    | none => s
    | some c =>
      if ctrSpent s.keys.jctr then s
      else
      let payload := nodeBitmap c.records ++ firstTicks c.records ++ leBytes 4 (c.records.length + 2)
      let r : Record := {
        nodef := 0x1000, length := 1536, tick := s.tickNow c, rssi := 4
        fc := BitVec.ofNat 32 reason, payload }
      let s := (s.putRecord sealAt r).putCommit
      let s := s.modLast fun c => { c with sealed' := some reason }
      if reason = 0 then s else s.post 0x32 0 reason c.clseq.toNat

/-! ### Records (R295, R296, R299) -/

/-- Whether a record of a size, and a COMMIT after it, fit before codeword 255 from an offset on. -/
def fitsClutch (p size : Nat) : Bool :=
  decide (placeAt (placeAt p size + size) commitSize + commitSize ≤ sealAt)

/-- Whether they stay within the 16 codewords of a group begun at `start` (R307). -/
def fitsGroup (start p size : Nat) : Bool :=
  decide (placeAt (placeAt p size + size) commitSize + commitSize ≤ start / 4096 * 4096 + 65536)

/-- A clutch that a reset left open is sealed with RESTART, at the store's start or before the next record (R300, R312). -/
def State.sealLeft (s : State) : State := if s.jnl.restart then s.sealClutch 4 else s

/-- Place a record: in the open clutch, or in a new one after a FULL or TICK seal (R300, R307). One placed again keeps its TICK. -/
def State.placeAs (tick : Option Word) (r : Record) (s : State) : State :=
  let s := s.sealLeft
  let s := match s.openClutch with
    | none => s
    | some c => if 2 ^ 31 ≤ s.tickIn c then s.sealClutch 1 else s
  let s := match s.jnl.groupStart with
    | some g => if fitsGroup g s.jnl.pos r.size then s else s.commitGroup
    | none => s
  let s := if s.openClutch.isSome && !fitsClutch s.jnl.pos r.size then s.sealClutch 0 else s
  let s := if s.openClutch.isNone then s.newClutch else s
  match s.openClutch with
  | none => s
  | some c =>
    if ctrSpent s.keys.jctr then s
    else
    let p := placeAt s.jnl.pos r.size
    let s : State := if s.jnl.groupStart.isNone then ({ s with jnl.groupStart := some p } : State).ctxNote 0 else s
    s.putRecord p { r with tick := tick.getD (s.tickNow c) }

def State.placeRecord (r : Record) (s : State) : State := s.placeAs none r

/-- A LOSS marker of a run of lost records (R296, R302), with its event. -/
def State.lossMarker (count source : Nat) (s : State) : State :=
  (s.placeRecord {
    nodef := 0x1000, length := 0, tick := 0, rssi := 3
    fc := BitVec.ofNat 32 (min count (2 ^ 24 - 1) + source * 2 ^ 24) }).post 0x30 1 source count

/-- Append a record where staging has room for it (R295, R296). DESIGN CHOICE (log 157): once the JOURNAL counter is spent (R338)
no group can be sealed, and records are lost as to a full staging. -/
def State.append (r : Record) (s : State) : State :=
  if !s.rb R.JNL_CTL 0 then s
  else
    let extra := if s.jnl.lossRun = 0 then 0 else 16
    if 2097152 < s.stagingUsed + r.size + extra ∨ ctrSpent s.keys.jctr = true then
      let s := ((s.wr R.JNL_LOST (s.rd R.JNL_LOST + 1)).flag R.JNL_STAT 5)
      { s with jnl.lossRun := s.jnl.lossRun + 1 }
    else
      let s := if s.jnl.lossRun = 0 then s
        else
          let n := s.jnl.lossRun
          ({ s with jnl.lossRun := 0 } : State).lossMarker n 0
      s.placeRecord r

/-- A LOST marker (R302): the node and the CSEQ of its third miss. -/
def State.lostMarker (node cseq : Nat) (s : State) : State :=
  s.append { nodef := BitVec.ofNat 16 (0x1000 + node % 4096), length := 0, tick := 0, rssi := 2
             fc := BitVec.ofNat 32 cseq }

/-- A record's group is not durable: it is in staging (R296). -/
def State.inStaging (r : Record) (s : State) : Bool := r.group == s.jnl.nextCseq || s.jnl.committed.contains r.group

/-- `n` records in staging, from the `at`-th of the open clutch on, are lost to an uncorrectable SRAM error, and a LOSS marker
takes their place (R26, R296). The group they lie in is formed anew of what is left, with what follows it, a committed one
too: nothing of it is durable (DESIGN CHOICE, log 146). -/
def State.stagingLost (at' n : Nat) (s : State) : State :=
  match s.openClutch with
  | none => s
  | some c =>
    let isCommit (r : Record) : Bool := r.isMarker && r.rssi == 1
    let wait := (c.records.filter s.inStaging).filter fun r => !isCommit r
    let gone := (wait.drop at').take n
    match gone with
    | [] => s
    | r :: _ =>
      let before := c.records.takeWhile fun x => x.group != r.group
      let redo := wait.filter fun x => !(before.contains x)
      let kept := redo.filter fun x => !(gone.contains x)
      let early := kept.filter fun x => decide (x.pos < r.pos)
      let late := kept.filter fun x => decide (r.pos < x.pos)
      let j : Journal := { s.jnl with
        committed := s.jnl.committed.takeWhile (· != r.group)
        nextCseq := r.group
        groupStart := none
        pos := if before.isEmpty then 64 else nextCw ((before.getLast?.map fun x => x.pos + x.size).getD 64) }
      let s := ({ s with jnl := j } : State).modLast fun c => { c with records := before }
      let s := (s.wr R.JNL_LOST (s.rd R.JNL_LOST + BitVec.ofNat 32 gone.length)).flag R.JNL_STAT 5
      let s := early.foldl (fun s x => s.placeAs (some x.tick) x) s
      let s := s.placeAs (some r.tick) {
        nodef := 0x1000, length := 0, tick := 0, rssi := 3
        fc := BitVec.ofNat 32 (min gone.length (2 ^ 24 - 1) + 2 ^ 24) }
      let s := late.foldl (fun s x => s.placeAs (some x.tick) x) s
      s.post 0x30 1 1 gone.length

/-! ### Durability, restart, erase -/

/-- R307: JNL_CTL.COMMIT has elapsed since the group's first record. In DOZE this wakes the device (R85). Sealing the group
reads journal staging: single-bit errors are corrected (R25), and records lost are replaced by a LOSS marker (R26). -/
def execCommitTimer (sram : SramRead) (s : State) : Out := .next <|
  if s.jnl.groupStart.isSome && s.d0up then
    let s := s.sramFixed sram.corrected
    let s := match sram.lost with
      | some (.staging k n) => (s.sramUeFree 4).stagingLost k n
      | _ => s
    s.commitGroup.wake .jnlCommit
  else s

/-- The commit sequence of the latest durable group. -/
def Journal.lastDurable (j : Journal) : Word := j.nextCseq - 1 - BitVec.ofNat 32 j.committed.length

/-- R312: a reset drops what is not durable, a SEAL too; staging is empty. The next clutch takes the slot after the newest one's, which is
that of a clutch of which nothing is durable (R320). -/
def State.jnlCut (s : State) : State :=
  let keep (r : Record) : Bool := r.group != s.jnl.nextCseq && !s.jnl.committed.contains r.group
  let cut (c : Clutch) : Clutch :=
    let rs := c.records.filter keep
    { c with records := rs, sealed' := if rs.any fun r => r.isMarker && r.rssi == 4 then c.sealed' else none }
  let cs := (s.jnl.clutches.map cut).filter fun c => !c.records.isEmpty
  let next := match cs.getLast? with | some c => c.clseq + 1 | none => s.jnl.nextClseq
  let gone := s.jnl.clutches.find? fun c => !c.records.any keep
  let j' : Journal := { s.jnl with
    clutches := cs
    groupStart := none
    committed := []
    lossRun := 0
    restart := true
    nextCseq := s.jnl.lastDurable + 1
    nextClseq := next
    nextSlot := (gone.map (·.slot)).getD s.jnl.nextSlot }
  { s with jnl := j' }

/-- R312, R324: at the store's start a clutch left open is sealed and the counts are reloaded. -/
def State.jnlRestart (s : State) : State :=
  let s := s.sealLeft
  (s.wr R.JNL_CSEQ s.jnl.lastDurable).jnlShow

/-- R321: the journal at a crypto-erase. -/
def State.jnlErase (s : State) : State :=
  let j' : Journal := { s.jnl with clutches := [], groupStart := none, committed := [], lossRun := 0, pos := 64, mirror := [] }
  ((({ s with jnl := j' } : State).wr R.JNL_PINS 0).wr R.JNL_OLDEST s.jnl.nextClseq).ctxNote 0

/-- R305: before the count is written the clutch is sealed. -/
def State.jnlTimeSet (s : State) : State := s.sealClutch 2

/-- A write of JNL_CTL (R322): EN = 0 seals with STOP. -/
def State.jnlCtlWrite (w : Word) (s : State) : State :=
  let s := if bit 0 w then s else s.sealClutch 5
  s.writeReg R.JNL_CTL w

/-- The view of JNL_STAT: OPEN, UNTIMED and HELD are what they are now (R323). -/
def State.jnlStat (s : State) : Word :=
  let o := s.openClutch
  putBit 4 s.jnlHeld (putBit 3 (o.any (·.untimed)) (putBit 2 o.isSome (s.rd R.JNL_STAT)))

/-- R313: role 3 has rebuilt the index. -/
def execJournalIndexReady (ms : Word) (s : State) : Out := .next <|
  if s.rb R.STO_STAT 1 && s.roleState 3 != 0 && s.dataUp && !s.rb R.JNL_STAT 1 then
    (s.flag R.JNL_STAT 1).post 0x31 0 0 ms.toNat
  else s

/-! ### What NS2 holds (R297, R311) -/

/-- The stored bytes of a group's data payloads, by the records' offsets: the ciphertext, cut as the payloads are. -/
def cutCt : List Record → List Byte → List (Nat × List Byte)
  | [], _ => []
  | r :: rs, ct => (r.pos, ct.take (pad8 r.payload.length)) :: cutCt rs (ct.drop (pad8 r.payload.length))

def groupStored (key : BitVec 256) (c : Clutch) (g : Word) : List (Nat × List Byte) :=
  let rs := c.records.filter fun r => r.group == g
  let com := rs.find? fun r => r.isMarker && r.rssi == 1
  let nonce : BitVec 96 := BitVec.ofNat 96 (leNat ((com.map fun r => r.payload.take 12).getD []))
  let body := rs.filter fun r => !(r.isMarker && r.rssi == 1)
  let hdrs := body ++ (com.map fun r => [{ r with payload := [] }]).getD []
  cutCt (body.filter fun r => !r.isMarker) (Config.gcmSeal key nonce (groupAad c (c.firstCseq == g) hdrs) (groupPlain body)).1

/-- Lay bytes over a byte list from an offset on. -/
def overlay (off : Nat) (l m : List Byte) : List Byte := m.take off ++ l ++ m.drop (off + l.length)

/-- The stored bytes of codeword `k` of a clutch. -/
def State.codeword (c : Clutch) (k : Nat) (s : State) : List Byte :=
  let rs := c.records.filter fun r => r.pos / 4096 == k && s.groupDurable r.group
  let stored := (rs.map (·.group)).eraseDups.flatMap fun g => groupStored (s.slotKey 260) c g
  let base := if k = 0 && c.records.any (fun r => s.groupDurable r.group) then
      overlay 0 c.header (List.replicate 4096 0) else List.replicate 4096 0
  rs.foldl (fun m r =>
    let body := if r.isMarker then r.padded else
      (stored.find? fun p => p.1 == r.pos).elim (List.replicate (pad8 r.payload.length) 0) (·.2)
    overlay (r.pos % 4096) (r.header ++ body) m) base

/-- A block of NS2 (R140, R297). -/
def State.ns2 (s : State) (b : Nat) : Blk :=
  match s.jnl.clutches.find? fun c => c.slot == b / 256 with
  | some c => BitVec.ofNat 32768 (leNat (s.codeword c (b % 256)))
  | none => 0

/-! ### Durability (R308, R309) -/

/-- The codewords of a clutch that are programmed: those of its durable groups. -/
def State.programmedCw (c : Clutch) (s : State) : List Nat :=
  ((c.records.filter fun r => s.groupDurable r.group).map fun r => r.pos / 4096).eraseDups

/-- The stripe of 16 codewords that codeword k lies in is complete: all are programmed, or the clutch has its seal (R309). -/
def State.stripeDone (c : Clutch) (k : Nat) (s : State) : Bool :=
  let l := s.programmedCw c
  l.contains 255 || (List.range 16).all fun i => l.contains (k / 16 * 16 + i)

/-- A die other than a codeword's, for its copy in the mirror. -/
def State.mirrorDie (d : Nat) (s : State) : Nat :=
  ((List.range 5).filter fun e => e != d && !s.store.gone.contains e).getD 0 0

/-- One codeword of a clutch is programmed (R309); its die answers (R189). -/
def State.jnlProgram (c : Clutch) (s : State) (k : Nat) : State :=
  let o := 256 * c.slot + k
  let l := s.store.regionLoc 1 o
  let t := s.store.putUnit 1 o (BitVec.ofNat 32768 (leNat (s.codeword c k))) s.store.writeSeq
  (({ s with
    store := { t with writeSeq := t.writeSeq + 1 }
    jnl.mirror := s.jnl.mirror ++ [(c.slot, k, s.mirrorDie (locDie l))] } : State).dieAnswered (locDie l)).stoCount 48 1

/-- Stripes that are complete get their parity, and the mirror's copies of their codewords are released (R171, R172, R309). -/
def State.jnlParity (c : Clutch) (s : State) : State :=
  let done := ((s.jnl.mirror.filter fun m => m.1 == c.slot && s.stripeDone c m.2.1).map fun m => m.2.1 / 16).eraseDups
  let t := done.foldl (fun (t : Store) g => t.closeStripe (regionStripe journalPane (256 * c.slot + 16 * g))) s.store
  { s with
    store := t
    jnl.mirror := s.jnl.mirror.filter fun m => !(m.1 == c.slot && done.contains (m.2.1 / 16)) }

/-- The codewords of a group are programmed in ascending order, one at a time, each also into the mirror while its stripe's
parity is not programmed. -/
def State.programGroup (g : Word) (s : State) : State :=
  match s.jnl.clutches.find? fun c => c.records.any fun r => r.group == g with
  | none => s
  | some c =>
    let ks := ((c.records.filter fun r => r.group == g).map fun r => r.pos / 4096).eraseDups
    (ks.foldl (State.jnlProgram c) s).jnlParity c

/-- R308: the codewords of the oldest committed group are programmed, and it is durable. -/
def execGroupDurable (s : State) : Out := .next <|
  match s.jnl.committed with
  | [] => s
  | g :: rest =>
    if s.jnlHeld || s.keys.jwait then s
    else (((({ s with jnl.committed := rest } : State).wr R.JNL_CSEQ g).programGroup g)).raise 118 0

/-- A unit of NS2 lies on a die that is gone and is not yet rebuilt. -/
def State.ns2Gone (b : Nat) (s : State) : Bool := s.store.rgOther.contains (unitAddr 1 b)

/-- It is lost with the second die, unless its copy in the mirror is left (R192, R309). -/
def State.ns2Lost (b : Nat) (s : State) : Bool :=
  s.store.die2.isSome && (s.ns2Gone b || s.store.die2 == some (locDie (s.store.unitLoc (unitAddr 1 b)))) &&
    !(s.jnl.mirror.any fun m => m.1 == b / 256 && m.2.1 == b % 256 && !s.store.gone.contains m.2.2)

/-! ### JOURNAL-READ (R314 to R318) -/

def Cmd.allNodes (c : Cmd) : Bool := nbit 2 (c.f 1 1)
def Cmd.untimed (c : Cmd) : Bool := nbit 3 (c.f 1 1)
def Cmd.cursor (c : Cmd) : Bool := nbit 4 (c.f 1 1)

/-- The first field out of order. -/
def jrBadField (c : Cmd) : Option Nat :=
  let t0 := c.f 48 8
  let t1 := c.f 56 8
  firstBad [
    (1, c.f 1 1 / 32 == 0 && decide (c.dptrKind ≤ 1)), c.dptrOk (4096 * c.nblk),
    (16, c.allNodes || (c.slba != 0 && c.slba % 8 == 0 && decide (c.slba + 512 ≤ 2 ^ 64))),
    (24, decide (1 ≤ c.nblk) && decide (c.nblk ≤ 1024)), c.sgOk, c.zero 32 16,
    (48, t0 / 2 ^ 55 == 0 && (c.cursor || decide (t0 < t1))), (56, t1 / 2 ^ 55 == 0)]

/-- A record of a clutch with what the query asks of it. -/
structure JrRec where
  clutch : Clutch
  rec' : Record
  deriving DecidableEq, Repr

def JrRec.time (r : JrRec) : Nat := r.clutch.base.toNat + r.rec'.tick.toNat * 32

/-- Whether a record matches a query (R315). -/
def jrMatch (c : Cmd) (nodes : BitVec 4096) (r : JrRec) : Bool :=
  let t := r.time
  let inTime := (c.cursor || decide (c.f 48 8 ≤ t)) && decide (t < c.f 56 8)
  let node := r.rec'.nodef.toNat % 4096
  let inSet := c.allNodes || nodes.getLsbD node
  let loss := r.rec'.isMarker && r.rec'.rssi == 3
  let kind := !r.rec'.isMarker || r.rec'.rssi == 2 || loss
  kind && (if r.clutch.untimed then c.untimed && (loss || inSet) else inTime && (loss || inSet))

/-- The entry of a returned record (R317). -/
def jrEntry (r : JrRec) : List Byte :=
  leBytes 8 r.time ++ leBytes 4 r.clutch.clseq.toNat ++ leBytes 4 r.rec'.group.toNat ++ r.rec'.header ++
    (if r.rec'.isMarker then [] else r.rec'.padded)

/-- Take entries while they fit; what is left begins with the first that did not. -/
def jrFill : Nat → List JrRec → List Byte × Nat × List JrRec
  | _, [] => ([], 0, [])
  | room, r :: rs =>
    let e := jrEntry r
    if room < e.length then ([], 0, r :: rs)
    else
      let (l, n, left) := jrFill (room - e.length) rs
      (e ++ l, n + 1, left)

/-- Where a cursor resumes in its clutch: at a record header, else at the next codeword boundary (R318). -/
def cursorPos (c : Clutch) (off : Nat) : Nat :=
  if c.records.any fun r => r.pos == off then off else (off / 4096 + 1) * 4096

/-- The device reads codeword k of a clutch: its bitmap holds a node of the set, and the codeword's span of first ticks
overlaps the range; of an untimed clutch by the nodes alone (R315). -/
def jrReads (c : Cmd) (nodes : BitVec 4096) (d : Clutch) (k : Nat) : Bool :=
  let firstTick (j : Nat) : Option Nat := (d.records.find? fun r => r.pos / 4096 == j).map (·.tick.toNat)
  let time (t : Nat) : Nat := d.base.toNat + 32 * t
  let node := c.allNodes || d.records.any fun r => (!r.isMarker || r.rssi == 2) && nodes.getLsbD (r.nodef.toNat % 4096)
  let later := (List.range (255 - k)).findSome? fun j => firstTick (k + 1 + j)
  let span := (firstTick k).any (fun t => decide (time t < c.f 56 8)) &&
    (c.cursor || later.all fun t => decide (c.f 48 8 ≤ time t))
  node && (if d.untimed then c.untimed else span)

/-- What a JOURNAL-READ finds. -/
structure JrOut where
  bytes : List Byte
  count : Nat
  deriving DecidableEq, Repr

/-- The clutches that a query looks at, and the offset from which it does (R318): those from the cursor on; where the cursor's
clutch has been overwritten, all that are present. -/
def State.jrFrom (c : Cmd) (s : State) : Bool × List (Clutch × Nat) :=
  let cs := s.jnl.clutches
  let cl : Word := BitVec.ofNat 32 (c.f 48 4)
  let past := (s.jnl.nextClseq - cl).toNat
  let overrun := c.cursor && !(cs.any fun d => d.clseq == cl) && past != 0 && decide (past < 2 ^ 31)
  let after (d : Clutch) : Bool := !c.cursor || overrun || decide ((d.clseq - cl).toNat < 2 ^ 31)
  (overrun, (cs.filter after).map fun d => (d, if c.cursor && d.clseq == cl then cursorPos d (c.f 52 4) else 0))

/-- The durable records it looks at. -/
def State.jrAll (c : Cmd) (s : State) : List JrRec :=
  (s.jrFrom c).2.flatMap fun q =>
    (q.1.records.filter fun r => s.groupDurable r.group && decide (q.2 ≤ r.pos)).map fun r => ⟨q.1, r⟩

/-- The NS2 block a record lies in. -/
def JrRec.block (r : JrRec) : Nat := 256 * r.clutch.slot + r.rec'.pos / 4096

/-- The codewords that a query reads (R315). -/
def State.jrBlocks (c : Cmd) (nodes : BitVec 4096) (s : State) : List Nat :=
  (((s.jrAll c).filter fun r => jrReads c nodes r.clutch (r.rec'.pos / 4096)).map JrRec.block).eraseDups

/-- Where a CAUGHTUP cursor stands: at the next codeword of the first clutch that is not wholly durable, else of the newest
(R318). -/
def State.jrNext (s : State) : Nat × Nat :=
  let cs := s.jnl.clutches
  let part (d : Clutch) : Bool := d.records.any fun r => !s.groupDurable r.group
  match (cs.find? part).or cs.getLast? with
  | none => (s.jnl.nextClseq.toNat, 64)
  | some d =>
    let ends := (d.records.filter fun r => s.groupDurable r.group).map fun r => nextCw (r.pos + r.size)
    (d.clseq.toNat, if d.sealed'.isSome && !part d then sealAt else ends.foldl max 64)

/-- What a query answers, given the codewords it could not read and the groups whose tag fails. A group with a codeword that
could not be read cannot be checked: it yields nothing (R316). -/
def State.journalQuery (c : Cmd) (nodes : BitVec 4096) (unreadable : List Nat) (badTag : List Word) (s : State) : JrOut :=
  let (overrun, _) := s.jrFrom c
  let all := s.jrAll c
  let cut := ((all.filter fun r => unreadable.contains r.block).map fun r => r.rec'.group).eraseDups
  let found := all.filter fun r => jrMatch c nodes r && !cut.contains r.rec'.group
  let badGroups := ((found.filter fun r => badTag.contains r.rec'.group).map fun r => r.rec'.group).eraseDups.length
  let hits := found.filter fun r => !badTag.contains r.rec'.group
  let (body, n, left) := jrFill (4096 * c.nblk - 64) hits
  let lastTime := ((all.filter fun r => !r.clutch.untimed).getLast?.map JrRec.time).getD 0
  let (state, ncl, noff) : Nat × Nat × Nat := match left with
    | r :: _ => (1, r.clutch.clseq.toNat, r.rec'.pos)
    | [] => if c.f 56 8 ≤ lastTime then (0, 0, 0) else (2, s.jrNext.1, s.jrNext.2)
  let oldest := s.rd R.JNL_OLDEST
  { bytes := leBytes 4 n ++ leBytes 4 (64 + body.length) ++ leBytes 4 (s.rd R.JNL_CSEQ).toNat ++ leBytes 4 ncl ++
      leBytes 4 noff ++ [BitVec.ofNat 8 state, BitVec.ofNat 8 (b2n overrun)] ++ leBytes 2 0 ++
      leBytes 4 oldest.toNat ++ leBytes 2 badGroups ++ leBytes 2 unreadable.length ++ leBytes 32 0 ++ body
    count := n }

/-! ### Admin commands (R320) -/

/-- The first field of JNL-PIN, JNL-UNPIN or JNL-SEAL out of order, past the common header. -/
def jnlBadField (c : Cmd) : List (Nat × Bool) :=
  if c.opcode = 0x22 then [c.zero 48 16]
  else
    let first : Word := BitVec.ofNat 32 (c.f 48 4)
    let last : Word := BitVec.ofNat 32 (c.f 52 4)
    [(52, decide ((last - first).toNat < 2 ^ 31)), c.zero 56 8]

/-- Whether a clutch lies in the range of an admin command. -/
def pinRange (c : Cmd) (d : Clutch) : Bool :=
  decide ((d.clseq - BitVec.ofNat 32 (c.f 48 4)).toNat ≤ (BitVec.ofNat 32 (c.f 52 4) - BitVec.ofNat 32 (c.f 48 4) : Word).toNat)

/-- Pin or unpin a range. -/
def State.setPins (p : Clutch → Bool) (on : Bool) (s : State) : State :=
  ({ s with jnl.clutches := s.jnl.clutches.map fun d => if p d then { d with pinned := on } else d } : State).jnlShow

def execJnlPin (s : State) : Out := .next <|
  match s.admin 0x20 with
  | none => s
  | some c =>
    let new := (s.jnl.clutches.filter fun d => pinRange c d && !d.pinned).length
    let old := (s.jnl.clutches.filter (·.pinned)).length
    if 7629 < old + new then s.adminDone c 1 0x20 0 else (s.setPins (pinRange c) true).adminDone c 0 0 new

def execJnlUnpin (s : State) : Out := .next <|
  match s.admin 0x21 with
  | none => s
  | some c =>
    let n := (s.jnl.clutches.filter fun d => pinRange c d && d.pinned).length
    (s.setPins (pinRange c) false).adminDone c 0 0 n

def execJnlSeal (s : State) : Out := .next <|
  match s.admin 0x22 with
  | none => s
  | some c =>
    match s.openClutch with
    | none => s.adminDone c 0 0 0xFFFFFFFF
    | some d => (s.sealClutch 3).adminDone c 0 0 d.clseq.toNat

end Sys2Proof.Machine
end

