-- ==== Sys2Proof/Machine/Pio.lean ====
section
/-! DEFINITION. Process I/O (chapter 14): what writes and reads of its registers do beyond their field types, the
converter, comparators and the flick, PWMs, GPIOs, encoders and setpoints. -/

namespace Sys2Proof.Machine

/-- D1's process I/O is powered and out of reset. -/
def State.pioUp (s : State) : Bool := s.power.phase == .run && !s.hushed

/-! ### Comparators and the flick (R432 to R436) -/

/-- An inhibit ends: FLICKREL with its duration in µs (R455), measured on the RTC count. -/
def State.clearInh (n : Nat) (s : State) : State :=
  if s.rb (R.PIO_CMP n) 21 then
    let since := (tget (fun _ => (0 : Dword)) s.pio.inhSince n).toNat
    let us := (s.count64.toNat - since) * 1000000 / 32768
    (s.wb (R.PIO_CMP n) 21 false).post 0x51 0 n (min 0xFFFFFFFF us)
  else s

/-- A comparator is stopped by EN = 0 (R432). -/
def State.cmpStop (n : Nat) (s : State) : State :=
  let s := s.wb (R.PIO_CMP n) 18 false
  let s : State := { s with pio.arming := bput n false s.pio.arming }
  if s.rb (R.PIO_CMP n) 7 then s else s.clearInh n

/-- A write of PIO_CMPn (R432, R435, R436). With LATCH = 0 the inhibit follows the comparator, so one that was latched
over its release ends with the write. -/
def State.cmpWrite (n : Nat) (w : Word) (s : State) : State :=
  let a := R.PIO_CMP n
  if !s.rb R.PIO_CTL 8 && s.rb a 6 && !bit 6 w && s.rb a 21 then s.flag R.PIO_STAT 0
  else
    let was := s.rb a 0
    let s := s.writeReg a w
    let s :=
      if was && !s.rb a 0 then s.cmpStop n
      else if !was && s.rb a 0 then { s with pio.arming := bput n true s.pio.arming }
      else s
    if (bit 20 w || !s.rb a 7) && !s.rb a 18 then s.clearInh n else s

/-- Comparator n decides a trip (R432 to R434). -/
def State.cmpTrip (n : Nat) (s : State) : State :=
  let a := R.PIO_CMP n
  if !s.rb a 0 || s.rb a 18 || s.pio.arming.getLsbD n || s.power.phase == .por then s
  else
    let s := (s.flag a 18).flag a 19
    if s.power.phase == .backup then s.flag R.PIO_CMPBAK n
    else
      let s := if s.rb a 6 then
          let s : State := if s.rb a 21 then s
            else { s with pio.inhSince := tset (fun _ => (0 : Dword)) s.pio.inhSince n s.count64 }
          ((s.flag a 21).markWait).post 0x50 2 n (s.rf a 17 8)
        else s
      (s.raise (64 + n) 0).wake (.cmp ⟨n % 4, Nat.mod_lt _ (by decide)⟩)

/-- Comparator n decides a release (R432, R435). -/
def State.cmpRelease (n : Nat) (s : State) : State :=
  let a := R.PIO_CMP n
  if !s.rb a 0 || !s.rb a 18 then s
  else
    let s := (s.wb a 18 false).raise (68 + n) 0
    if s.rb a 7 then s else s.clearInh n

def execComparatorTrip (n : Fin 4) (s : State) : Out := .next (s.cmpTrip n.val)
def execComparatorRelease (n : Fin 4) (s : State) : Out := .next (s.cmpRelease n.val)

/-- R432: 5 µs after EN rose the comparator may decide trips. -/
def execComparatorArmExpiry (n : Fin 4) (s : State) : Out := .next
  { s with pio.arming := bput n.val false s.pio.arming }

/-! ### Register writes with an effect of their own -/

/-- A write of PIO_PWMDUTYk (R413, R439, R440). -/
def State.pwmDutyWrite (m : Master) (k : Nat) (w : Word) (s : State) : State :=
  if s.mayDrive m k then (s.writeReg (R.PIO_PWMDUTY k) w).outWritten k else s.count R.NWT_STAT 15 8 1

/-- A write of PIO_PWMCFGk (R438, R440): EN = 0 at once, the first period when the PWM comes to run. -/
def State.pwmCfgWrite (k : Nat) (w : Word) (s : State) : State :=
  let s := s.writeReg (R.PIO_PWMCFG k) w
  let s :=
    if !s.rb (R.PIO_PWMCFG k) 0 then { s with pio.running := bput k false s.pio.running }
    else if s.active k && !s.pio.running.getLsbD k then s.pwmStart k 0
    else s
  s.outSafe

/-- A write of PIO_GPIOCFGn: from the first one after reset on, the pad follows DIR (R45, R442). -/
def State.gpioCfgWrite (k : Nat) (w : Word) (s : State) : State :=
  let s := s.writeReg (R.PIO_GPIOCFG k) w
  ({ s with pio.cfgWritten := bput k true s.pio.cfgWritten } : State).outSafe

/-- The level GPIO g drives now: an output that drives neither level shows its PIO_GPIOOUT bit (R441). -/
def State.gpioDriven (g : Nat) (s : State) : Bool :=
  match s.pad (12 + g) with
  | .low => false
  | .high => true
  | _ => s.rb R.PIO_GPIOOUT g

/-- A write of PIO_GPIOOUT by a master (R441): only the bits it may drive change; it counts once where an ignored bit
differs from what its output drives. -/
def State.gpioOutWrite (m : Master) (w : Word) (s : State) : State :=
  let old := s.rd R.PIO_GPIOOUT
  let mine := (List.range 24).filter fun g => s.mayDrive m (12 + g)
  let others := (List.range 24).filter fun g => !s.mayDrive m (12 + g)
  let new := mine.foldl (fun v g => putBit g (bit g w) v) old
  let refused := others.any fun g => bit g w != s.gpioDriven g
  let s := s.wr R.PIO_GPIOOUT new
  let s := if refused then s.count R.NWT_STAT 15 8 1 else s
  mine.foldl (fun s g => s.outWritten (12 + g)) s

/-- A write of PIO_OUTk: binding and SAFE (R443); R414 is judged anew. -/
def State.outWrite (k : Nat) (w : Word) (s : State) : State := (s.writeReg (R.PIO_OUT k) w).outSafe

/-- A write of PIO_ADCSEQ; GO triggers (R430, R453). -/
def State.adcSeqWrite (w : Word) (s : State) : State :=
  let s := s.writeReg R.PIO_ADCSEQ w
  if bit 0 w then s.adcTrigger 0 else s

/-- A read of PIO_ADCRESm clears NEW and OVR (R431). -/
def State.adcResRead (m : Nat) (s : State) : State := s.wf (R.PIO_ADCRES m) 31 30 0

/-! ### The converter (R428 to R431) -/

/-- Conditions under which the timer of TRIG 0b11 runs (R430). -/
def State.adcTimerRuns (s : State) : Bool :=
  s.rb R.PIO_CTL 0 && s.rf R.PIO_ADCSEQ 2 1 == 3 && s.rf R.PIO_ADCSEQ 31 16 != 0 && s.pioUp

def execAdcTimerExpiry (s : State) : Out := .next (if s.adcTimerRuns then s.adcTrigger 0 else s)

/-- The channel of a slot of the running sequence. -/
def AdcRun.channel (r : AdcRun) : Nat :=
  if r.slot < 8 then fld (4 * r.slot + 3) (4 * r.slot) r.list0
  else fld (4 * (r.slot - 8) + 3) (4 * (r.slot - 8)) r.list1

/-- Whether a channel's amplifier leaves its code unspecified (R429). -/
def State.csaOpen (ch : Nat) (settled : Bool) (s : State) : Bool :=
  (ch == 8 && (!settled || !s.rb R.PIO_CTL 2)) || (ch == 9 && (!settled || !s.rb R.PIO_CTL 5))

/-- The gain that CSAnGAIN selects (R452). -/
def csaGain (code : Nat) : Nat := tget (fun _ => 10) [(1, 20), (2, 50), (3, 100)] code

/-- The voltage of a channel in µV: the input's, or ADC_VCM + gain × (VP − VN) of an amplifier (R428, R429). -/
def State.adcInput (ch : Nat) (v : Int) (s : State) : Int :=
  if ch = 8 then 500000 + csaGain (s.rf R.PIO_CTL 4 3) * v
  else if ch = 9 then 500000 + csaGain (s.rf R.PIO_CTL 7 6) * v
  else v

/-- VREF in µV: the internal reference within R454's limits, or the external one within R428's. -/
def State.adcRef (vref : Nat) (s : State) : Nat :=
  if s.rb R.PIO_CTL 1 then max 900000 (min 1100000 vref) else max 995000 (min 1005000 vref)

/-- R428: floor(Vin / VREF × 65,536), held within 0 to 65,535. -/
def adcCode (v : Int) (vref : Nat) : Nat := min 65535 (v * 65536 / vref).toNat

/-- A conversion ends: its result, NEW and OVR (R428, R430, R431). -/
def State.adcDone (vin : Int) (vref : Nat) (settled : Bool) (s : State) : State :=
  match s.pio.adc with
  | none => s
  | some r =>
    let ch := r.channel
    let (code, s) : Nat × State :=
      if s.csaOpen ch settled then (s.freeNat.1 % 65536, s.freeNat.2) else (adcCode (s.adcInput ch vin) (s.adcRef vref), s)
    let a := R.PIO_ADCRES r.slot
    let ovr := s.rb a 30
    let s := s.wr a (BitVec.ofNat 32 (code + 65536 * ch + 2 ^ 30 + 2 ^ 31 * b2n ovr))
    if r.slot < r.len then
      ({ s with pio.adc := some { r with slot := r.slot + 1 } } : State).raise 72 r.hop
    else
      ((({ s with pio.adc := none } : State).wb R.PIO_STAT 3 false).raise 72 r.hop).raise 73 r.hop

def execAdcConversionDone (vin : Int) (vref : Nat) (settled : Bool) (s : State) : Out :=
  .next (if s.pioUp then s.adcDone vin vref settled else s)

/-! ### PWM -/

/-- R438: the period of a running PWM ends and the next starts. -/
def execPwmPeriodStart (k : Fin 12) (s : State) : Out := .next <|
  if s.pioUp && s.pio.running.getLsbD k.val then s.pwmStart k.val 0 else s

/-! ### GPIO -/

/-- The board changes the level at a GPIO pad (R441). -/
def State.gpioEdge (k : Nat) (level : Bool) (s : State) : State :=
  let before := s.gpioLevel k
  let s : State := { s with pio.gpioExt := bput k level s.pio.gpioExt }
  let after := s.gpioLevel k
  let sel := s.rf (R.PIO_GPIOCFG k) 5 4
  let input := !s.rb (R.PIO_GPIOCFG k) 0
  let hit := input && before != after && ((after && sel % 2 == 1) || (!after && decide (2 ≤ sel)))
  if !hit then s
  else
    let s := if k < 16 then s.raise (95 + k) 0 else s
    s.wake .gpio

def execGpioInputEdge (k : Fin 24) (level : Bool) (s : State) : Out := .next (s.gpioEdge k.val level)

/-! ### Encoders (R444) -/

/-- One counted edge: POS moves and PER takes the cycles since the last one. -/
def State.encCount (e : Nat) (up : Bool) (cycles : Word) (s : State) : State :=
  let p := s.rd (R.PIO_ENCPOS e)
  let up' := if s.rb (R.PIO_ENCCFG e) 2 then !up else up
  (s.wr (R.PIO_ENCPOS e) (if up' then p + 1 else p - 1)).wr (R.PIO_ENCPER e) cycles

/-- Filtered levels of A and B change. -/
def State.encEdge (e : Nat) (a b : Bool) (cycles : Word) (s : State) : State :=
  let a0 := s.pio.encA.getLsbD e
  let b0 := s.pio.encB.getLsbD e
  let mode := s.rf (R.PIO_ENCCFG e) 1 0
  let s : State := { s with pio.encA := bput e a s.pio.encA, pio.encB := bput e b s.pio.encB }
  if mode = 0 then s
  else if a0 != a && b0 != b then
    (((s.flag R.PIO_STAT (4 + e)).raise (90 + e) 0)).post 0x53 1 e (s.rd (R.PIO_ENCPOS e)).toNat
  else if a0 != a then
    let lead := a != b
    if mode = 1 && a != Config.x1Rising then s else s.encCount e (lead == Config.aLeadsUp) cycles
  else if b0 != b then
    let lead := b == a
    if mode = 3 then s.encCount e (lead == Config.aLeadsUp) cycles else s
  else s

def execEncoderEdge (e : Fin 4) (a b : Bool) (cycles : Word) (s : State) : Out :=
  .next (if s.pioUp then s.encEdge e.val a b cycles else s)

/-- R444: a rising edge of Z. -/
def State.encIndex (e : Nat) (s : State) : State :=
  let s := s.wr (R.PIO_ENCCAP e) (s.rd (R.PIO_ENCPOS e))
  let s := if s.rb (R.PIO_ENCCFG e) 3 then s.wr (R.PIO_ENCPOS e) 0 else s
  s.raise (86 + e) 0

def execEncoderIndex (e : Fin 4) (s : State) : Out :=
  .next (if s.pioUp && s.rf (R.PIO_ENCCFG e.val) 1 0 != 0 then s.encIndex e.val else s)

/-! ### Setpoints (R446 to R449) -/

/-- The first field of a SETPOINT entry out of order, by its offset (R113, R446). -/
def spBadField (c : Cmd) : Option Nat :=
  let kind := c.f 4 1
  let idx := c.f 5 1
  let v := c.f 16 4
  firstBad [
    (1, c.f 1 1 / 8 == 0 && c.dptrKind == 2), (4, decide (kind ≤ 2)),
    (5, if kind = 0 then decide (idx < 16) else if kind = 1 then decide (idx < 12) else decide (idx < 24)),
    c.zero 6 2, (8, c.f 8 8 / 2 ^ 55 == 0),
    (16, if kind = 0 then true else if kind = 1 then decide (v ≤ 32768) else decide (v ≤ 1)), c.zero 20 44]

/-- The output that a setpoint drives directly. -/
def spOutput (kind index : Nat) : Option Nat :=
  if kind = 1 then some index else if kind = 2 then some (12 + index) else none

/-- The setpoint names a bound output (R448). -/
def State.spBound (kind index : Nat) (s : State) : Bool :=
  match spOutput kind index with
  | some k => s.rb (R.PIO_OUT k) 14
  | none => false

/-- What a setpoint writes (R447). -/
def State.spEffect (kind index : Nat) (v : Word) (s : State) : State :=
  if kind = 0 then ((s.wr (R.PIO_SP index) v).flag R.PIO_SPNEW index).raise 94 0
  else if kind = 1 then s.wf (R.PIO_PWMDUTY index) 15 0 v.toNat
  else s.wb R.PIO_GPIOOUT index (bit 0 v)

/-- Its completion, while its command is still owed one. -/
def State.spReply (p : Setpoint) (bound : Bool) (s : State) : State :=
  if !p.reply then s
  else match findTag p.tag.toNat (s.q 36).inflight with
    | none => s
    | some c =>
      if bound then s.fail 36 c 1 2 0 noLba 0
      else s.finish 36 c 0 0 (min 0xFFFFFFFF (s.count64.toNat - p.at'.toNat))

/-- A setpoint falls due: judged for BOUND again, applied, completed (R447, R448). -/
def State.spApply (p : Setpoint) (s : State) : State :=
  if s.spBound p.kind p.index then s.spReply p true
  else (s.spEffect p.kind p.index p.value).spReply p false

/-- The setpoint due first: the lowest AT reached, in fetch order (R447). -/
def firstDue (now : Nat) : List Setpoint → Option Setpoint
  | [] => none
  | p :: r =>
    match firstDue now r with
    | none => if p.at'.toNat ≤ now then some p else none
    | some q => if p.at'.toNat ≤ q.at'.toNat then some p else some q

/-- Remove one setpoint. -/
def dropSp (p : Setpoint) : List Setpoint → List Setpoint
  | [] => []
  | q :: r => if q = p then r else q :: dropSp p r

/-- Apply every setpoint that is due, in order; at most 64 are held. -/
def applyDue : Nat → State → State
  | 0, s => s
  | n + 1, s =>
    match firstDue s.count64.toNat s.hri.setpoints with
    | none => s
    | some p => applyDue n (({ s with hri.setpoints := dropSp p s.hri.setpoints } : State).spApply p)

/-- Setpoints are applied only while D0 and D1 run (R449). -/
def State.spRuns (s : State) : Bool := s.pioUp && s.d0up

/-- The fetched setpoint is judged for BOUND and LATE, and held or applied (R446 to R448). -/
def State.spAccept (c : Cmd) (s : State) : State :=
  let kind := c.f 4 1
  let idx := c.f 5 1
  let at' := c.f 8 8
  let p : Setpoint := {
    tag := BitVec.ofNat 16 c.tag, kind, index := idx, at' := BitVec.ofNat 64 at', value := BitVec.ofNat 32 (c.f 16 4) }
  if s.spBound kind idx then s.fail 36 c 1 2 0 noLba 0
  else if at' < s.count64.toNat then
    if nbit 2 (c.f 1 1) then s.spApply p else s.declined 36 c 1 1 0
  else
    ({ s with hri.setpoints := s.hri.setpoints ++ [p] } : State).modQ 36 fun q =>
      { q with inflight := q.inflight.map fun d => if d.tag = c.tag then { d with started := true } else d }

/-- R65, R449: a setpoint fetched and not yet judged when its queue ends is judged all the same; no completion is owed. -/
def State.spKeep (s : State) (c : Cmd) : State :=
  let kind := c.f 4 1
  let idx := c.f 5 1
  let at' := c.f 8 8
  let p : Setpoint := {
    tag := BitVec.ofNat 16 c.tag, kind, index := idx, at' := BitVec.ofNat 64 at', value := BitVec.ofNat 32 (c.f 16 4)
    reply := false }
  if c.started || c.ended || s.spBound kind idx then s
  else if at' < s.count64.toNat then (if nbit 2 (c.f 1 1) then s.spApply p else s)
  else { s with hri.setpoints := s.hri.setpoints ++ [p] }

def execSetpoint (tag : Half) (s : State) : Out := .next <|
  match (s.q 36).inflight.find? fun c => c.tag == tag.toNat && !c.started && !c.ended with
  | some c => s.spAccept c
  | none => s

/-- R447: the count reaches AT. Those due before it come first. -/
def execSetpointApply (tag : Half) (s : State) : Out := .next <|
  match firstDue s.count64.toNat s.hri.setpoints with
  | some p =>
    if p.tag = tag && s.spRuns then ({ s with hri.setpoints := dropSp p s.hri.setpoints } : State).spApply p else s
  | none => s

/-- R449: at LOGRDY of a wake from HUSH, what fell due is applied late. -/
def State.spAfterHush (s : State) : State :=
  if (firstDue s.count64.toNat s.hri.setpoints).isSome then applyDue 64 (s.flag R.PIO_STAT 8) else s

end Sys2Proof.Machine
end

