-- ==== Sys2Proof/Machine/Rings.lean ====
section
/-! DEFINITION. What ends queues as a whole: QUEUE-RESET's effect (R160, R161, R285, R449), the stop of the Host Ring
Interface (R132), the host-link reset (R65, R101). -/

namespace Sys2Proof.Machine

/-- A radio counter of page 0x05 (R548). -/
def State.radioCount (off k : Nat) (s : State) : State :=
  { s with radio.counters := tset (fun _ => 0) s.radio.counters off (tget (fun _ => 0) s.radio.counters off + BitVec.ofNat 64 k) }

/-- R285: sends in flight are abandoned; one on the air finishes there, and is neither repeated nor completed. -/
def State.abandonSends (s : State) : State :=
  { s with mac.sends := (s.mac.sends.filter (·.onAir)).map fun x => { x with reply := false } }

/-- A queue as it was just after CREATE-QUEUE (R161). -/
def Queue.fresh (q : Queue) : Queue :=
  { exists' := true, kind := q.kind, ien := q.ien, sqsize := q.sqsize, cqsize := q.cqsize, vector := q.vector
    weight := q.weight, sqbase := q.sqbase, cqbase := q.cqbase, cthresh := q.cthresh, ctime := q.ctime }

/-- R160, R163: a unit of an abandoned WRITE or TRIM is all old or all new, a free choice. It can be new only once the
WRITE's data has reached the device; until then nothing of it is held. -/
def State.settleUnit (c : Cmd) (s : State) (u : Nat × Nat) : State :=
  let (new, s) := s.freeBool
  if !new || s.store.die2.isSome then s
  else if c.opcode = 4 then
    let s := s.trimUnit u
    { s with store.fresh := s.store.fresh ++ [⟨c.order, [], s.store.log.length⟩] }
  else match c.data with
    | none => s
    | some l => s.stageUnit c.order u.1 ((l.drop (u.1 - c.slba)).take u.2) false

/-- The buffer of an abandoned READ or JOURNAL-READ has undefined contents (R163): free values. Where its ranges lie in a
scatter list, which the host holds, they are free too. -/
def State.abandonRead (c : Cmd) (s : State) : State :=
  let f := s.free
  let l := if c.dptrKind = 1 then [(c.dptr, 4096 * c.nblk)] else Config.listRanges f
  let n := (l.map (·.2)).sum
  let bytes : List Byte := (List.range n).map fun i => BitVec.ofNat 8 (Config.freeNat (f + 1 + i))
  let s : State := { s with free := f + 1 + n }
  { s with hri.hostMem := putRanges l bytes s.hri.hostMem, hri.undefBufs := s.hri.undefBufs ++ l }

/-- An abandoned storage command is settled (R163). -/
def State.settleCmd (s : State) (c : Cmd) : State :=
  if c.ended then s
  else if c.opcode = 2 ∨ c.opcode = 4 then (unitsOf c.slba c.nblk).foldl (State.settleUnit c) s
  else if c.opcode = 1 ∨ c.opcode = 0x20 then s.abandonRead c
  else s

/-- The abandoned commands of a storage queue are settled. -/
def State.settleQueue (s : State) (n : Nat) : State :=
  if 1 ≤ n ∧ n ≤ 32 then (s.q n).inflight.foldl State.settleCmd s else s

/-- Steps 1 to 3 of R160: a queue's commands are abandoned and settled; R285, R449 for queues 33 and 36. -/
def State.abandonQueue (n : Nat) (s : State) : State :=
  let s := s.settleQueue n
  let s := s.modQ n fun q => { q with inflight := [] }
  let s := { s with hri.deferred := s.hri.deferred.filter fun c => c.queue != n }
  if n = 33 then s.abandonSends
  else if n = 36 then { s with hri.setpoints := [] }
  else s

/-- Step 4 of R160: the queue is as just created (R161). -/
def State.freshQueue (n : Nat) (s : State) : State := s.setQ n (s.q n).fresh

/-- R160, R161: a queue's commands are abandoned and it is as just created. -/
def State.resetQueue (n : Nat) (s : State) : State := (s.abandonQueue n).freshQueue n

/-- Deliveries not yet written to queue 34 are dropped and counted (R65, R124). -/
def State.dropDeliveries34 (s : State) : State :=
  { s.radioCount 104 s.hri.deliveries.length with hri.deliveries := [] }

/-- R132: every queue ends and is deleted; setpoints are kept without their completions, deliveries are dropped. -/
def State.hriStop (s : State) : State :=
  let s := (List.range 33).foldl State.settleQueue s.dropDeliveries34
  let s := (s.q 36).inflight.foldl State.spKeep s
  let s : State := { s with svc.ahead := 0 }
  let h : Hri := { s.hri with
    queues := []
    deferred := []
    ctxWait := false
    rrQueue := 0
    rrLeft := 0
    setpoints := s.hri.setpoints.map fun p => { p with reply := false } }
  (({ s with hri := h } : State).wb R.HRI_CTL 0 false).wb R.HRI_STAT 1 false |>.abandonSends

/-- R65: PCIe endpoint and HRI are reset; every HRI register and MSI-X with them. -/
def State.hostLinkReset (s : State) : State :=
  let s := (s.hriStop).resetRegs fun a => a / 65536 == 4
  let h : Hri := { s.hri with
    vectors := [], msixEnable := false, funcMask := false, d3hot := false, devCtl := 0x2810, devCtl2 := 0
    bars := [], linkCtl := 0, l1pm := 0, ltr := 0, aer := [] }
  { s with hri := h }

end Sys2Proof.Machine
end

