-- ==== Sys2Proof/Machine/Keys.lean ====
section
/-! DEFINITION. Cipher engine, key store and life cycle (chapter 11): the key and life-cycle commands as the admin
ring and the service port run them, tokens, wipes, ledger and what a boot does with wrapped slots. -/

namespace Sys2Proof.Machine

/-! ### Slots and life cycle -/

/-- Slot k takes a value. -/
def State.setSlot (k : Nat) (x : KeySlot) (s : State) : State :=
  { s with keys.slots := tset (fun _ => ({} : KeySlot)) s.keys.slots k x }

/-- The life-cycle state (R350): 0 BLANK, 1 PROVISIONED, 2 FIELD, 3 SERVICE, 4 SCRAPPED. -/
def Keys.lc (k : Keys) : Nat := if k.scrapped then 4 else if k.steps = 0 then 0 else (k.steps - 1) % 3 + 1

/-- Slots 0 to 251 and their exhaustion (R336). -/
def State.exhausted (k : Nat) (s : State) : Bool :=
  decide (k ≤ 251) && (s.slot k).state != 0 && (s.slot k).txfc == 0xFFFFFFFF

/-- KEY_LCS and the OTP fields of KEY_STAT (R358, R360). -/
def State.keyShow (s : State) : State :=
  let k := s.keys
  let s := s.wr R.KEY_LCS (BitVec.ofNat 32 (k.lc + 8 * k.steps + 512 * k.visits + 8192 * b2n k.wipePend))
  let s := s.wf R.KEY_STAT 5 2 k.enrolled.toNat
  let s := s.wf R.KEY_STAT 9 6 k.revoked.toNat
  s.wb R.KEY_STAT 10 k.challenge.isSome

/-- A message of lower priority may be running when a radio request, or an urgent one, arrives: of bulk where a journal group or
a session holds a slot, and of radio, for an urgent one, where a SEND, a chorus or another frame is at hand (R327). -/
def State.preemptible (urgent : Bool) (s : State) : Bool :=
  decide (0 < s.ctxHeld) || (urgent && (s.mac.chorusDue.isSome || !s.mac.handed.isEmpty || s.mac.sends.any (·.sec)))

/-- A radio or urgent request may have suspended a message (R328): whether one was running is a free choice (log 80). -/
def State.preempt (urgent : Bool) (s : State) : State :=
  if s.preemptible urgent then
    let (b, s) := s.freeBool
    if b then s.count R.CIP_CNT 15 0 1 else s
  else s

def State.rngFail (s : State) : Bool := s.rb R.CIP_STAT 1

/-! ### Wrapped slots (R333, R334, R338) -/

/-- The wrapping key W of the present epoch (R340), and the additional data of a blob (R333). -/
def State.wrapKey (s : State) : BitVec 256 := kdf Config.root labelWrap [BitVec.ofNat 8 s.keys.visits]
def State.wrapAad (k : Nat) (s : State) : List Byte := leBytes 2 k ++ [BitVec.ofNat 8 s.keys.visits]

/-- A slot's key encrypted under W (R333). -/
def State.blobOf (k origin : Nat) (key : BitVec 256) (s : State) : Blob :=
  let nonce := gcmNonce s.keys.wctr
  let c := Config.gcmSeal s.wrapKey nonce (s.wrapAad k) (bvBytes 32 key)
  { epoch := s.keys.visits, origin, nonce, cipher := c.1, tag := c.2 }

/-- What a blob holds, where its tag checks. One of an earlier epoch cannot be unwrapped, and a scrapped device has no W (R333,
R354). -/
def State.unwrap (k : Nat) (b : Blob) (s : State) : Option (BitVec 256) :=
  if b.epoch = s.keys.visits ∧ s.keys.scrapped = false then
    (Config.gcmOpen s.wrapKey b.nonce (s.wrapAad k) b.cipher b.tag).map fun p => BitVec.ofNat 256 (leNat p)
  else none

/-- Program a blob of a slot under the present epoch; the wrapping takes a context slot while it runs (R329). -/
def State.putBlob (k origin : Nat) (key : BitVec 256) (s : State) : State :=
  ({ s with
    keys.blobs := (k, s.blobOf k origin key) :: s.keys.blobs.filter (fun p => p.1 != k)
    keys.wctr := s.keys.wctr + 1 } : State).ctxNote 1

/-- A wrapped slot takes a value: its blob and its working copy. -/
def State.wrapSlot (k origin : Nat) (key : BitVec 256) (s : State) : State :=
  (s.putBlob k origin key).setSlot k { state := 1, origin, key }

/-- The wrapping key's next counter value may be used (R338). -/
def State.wrapReady (s : State) : Bool := ctrRecorded s.keys.wctr s.keys.wledger

/-- Generate a key of the device into a wrapped slot. -/
def State.genSlot (k : Nat) (s : State) : State :=
  let (n, s) := s.freeNat
  s.wrapSlot k 2 (BitVec.ofNat 256 n)

/-- A slot has a blob of the present epoch. -/
def State.hasBlob (k : Nat) (s : State) : Bool := s.keys.blobs.any fun p => p.1 == k && p.2.epoch == s.keys.visits

/-- MEDIA and JOURNAL have keys of the present epoch. -/
def State.epochKeys (s : State) : Bool := s.hasBlob 258 && s.hasBlob 259 && s.hasBlob 260

/-- Those missing are generated (R334, R354, R355), as far as the ledger lets the wrapping key's counter go (R338); none with
RNGFAIL (R339). -/
def State.genMissing (s : State) : State :=
  if s.keys.scrapped || s.rngFail then s
  else [258, 259, 260].foldl (fun s k => if s.hasBlob k || !s.wrapReady then s else s.genSlot k) s

/-- A key that is missing still will be there once the ledger's record is programmed. -/
def State.keysMissing (s : State) : Bool := !s.keys.scrapped && !s.rngFail && !ctrSpent s.keys.wctr && !s.epochKeys

/-- The wrapped slots of the table in R331. -/
def wrappedSlots : List Nat := [258, 259, 260] ++ (List.range 48).map (272 + ·)

/-- R334: a wrapped slot's newest blob whose tag checks is its value, else it is empty. -/
def State.unwrapSlot (s : State) (k : Nat) : State :=
  match (s.keys.blobs.filter fun p => p.1 == k).findSome? fun p => (s.unwrap k p.2).map fun v => (p.2.origin, v) with
  | some (origin, key) => (s.setSlot k { state := 1, origin, key }).ctxNote 1
  | none => s.setSlot k {}

/-- R334, R355: at a boot every wrapped slot is unwrapped into its working copy, and missing keys are made. -/
def State.keysBoot (s : State) : State := (wrappedSlots.foldl State.unwrapSlot s).genMissing.keyShow

/-- What a power-on or device reset does to the key store: volatile slots, sessions and challenge are cleared,
counters resume past their records (R330, R338, R353). -/
def State.keysCut (s : State) : State :=
  let k : Keys := { s.keys with
    slots := s.keys.slots.filter (fun p => decide (256 ≤ p.1))
    challenge := none
    jwait := false
    jctr := s.keys.jledger + 65536
    wctr := s.keys.wledger + 65536 }
  { s with keys := k, mac.keyexhPosted := [] }

/-- R338: the ledger records a counter that reached a multiple of 2^16. -/
def execLedgerRecord (journal ok : Bool) (s : State) : Out := .next <|
  let ctr := if journal then s.keys.jctr else s.keys.wctr
  let old := if journal then s.keys.jledger else s.keys.wledger
  let v : Dword := BitVec.ofNat 64 (ctr.toNat / 65536 * 65536)
  if v == old then s
  else if !ok then s.flag R.CIP_STAT 2
  else if journal then { s with keys.jledger := v, keys.jwait := false }
  else { s with keys.wledger := v }

/-- R339: a health test of the random generator fails. -/
def execRngHealthFail (s : State) : Out := .next (if s.d0up then s.flag R.CIP_STAT 1 else s)

/-! ### Tokens (R353) -/

/-- What a token signs. -/
def State.tokenDigest (action : Nat) (ch : BitVec 128) (s : State) : BitVec 256 :=
  Config.sha256 (bvBytes 8 Config.serial ++ [BitVec.ofNat 8 s.keys.steps, BitVec.ofNat 8 action] ++ bvBytes 16 ch)

/-- The public key a SIGNER names, if it may sign. -/
def State.signerKey (signer : Nat) (basfort : Bool) (s : State) : Option (BitVec 512) :=
  if signer = 0x80 then (if basfort then some Config.basfortImageKey else none)
  else if signer < 4 && s.keys.enrolled.getLsbD signer && !s.keys.revoked.getLsbD signer then
    some (tget (fun _ => 0) s.keys.custKeys signer)
  else none

/-- A token checks; the challenge is consumed whether it does or not. -/
def State.tokenOk (action signer : Nat) (basfort : Bool) (tok : BitVec 512) (s : State) : Bool × State :=
  let s' := { s with keys.challenge := none }
  match s.keys.challenge, s.signerKey signer basfort with
  | some ch, some k => (ecdsaVerify k (s.tokenDigest action ch) tok, s'.keyShow)
  | _, _ => (false, s'.keyShow)

/-! ### The commands -/

/-- A key or life-cycle command: its opcode, SPEC bytes 48 to 63, the buffer read (none: it could not be), the DPTR
kind, whether it came by the service port, whether its fuse reads back; whether a wiping transition has
passed its commit point and is not yet done, and whether this is the rest of such a one (R354). -/
structure KeyReq where
  op : Nat
  spec : Nat
  dptr : Nat
  buf : Option (List Byte)
  svc : Bool
  fuseOk : Bool
  midway : Bool := false
  resumed : Bool := false

/-- Bytes of SPEC by their offset in the entry. -/
def KeyReq.f (r : KeyReq) (off size : Nat) : Nat := nat64 r.spec (off - 48) size

def KeyReq.bytes (r : KeyReq) (k : Nat) : List Byte := padTo k 0 (r.buf.getD [])

/-- What a command answers: the state, a wait that leaves it for later, the status, RESULT, and what it writes at
an offset of its buffer. -/
structure KeyRes where
  s : State
  wait : Bool := false
  typ : Nat := 0
  code : Nat := 0
  result : Nat := 0
  out : List Byte := []
  off : Nat := 0

def State.keyErr (code : Nat) (s : State) : KeyRes := { s, typ := 1, code }
def State.badField (off : Nat) (s : State) : KeyRes := { s, code := 2, result := off }
def State.noData (s : State) : KeyRes := { s, code := 4 }
def State.keyOk (result : Nat) (s : State) : KeyRes := { s, result }

/-- The buffer length of a command (R345). -/
def keyLen (op form : Nat) : Nat :=
  match op with
  | 0x30 => if form = 0 then 32 else 64
  | 0x32 => 2576
  | 0x34 | 0x35 | 0x3B => 64
  | 0x36 => 192
  | 0x38 => 1024
  | 0x39 => 128
  | 0x3A => 16
  | _ => 0

/-- The DPTR kinds a command may carry, the state apart (R345). -/
def keyDptr (op : Nat) : List Nat :=
  match op with
  | 0x31 | 0x37 => [2]
  | 0x35 | 0x3B => [1, 2]
  | _ => [1]

/-- The SPEC fields of R345, in order, and whether each is in order. -/
def keyFields (op spec : Nat) : List (Nat × Bool) :=
  let f (off size : Nat) : Nat := nat64 spec (off - 48) size
  let z (off size : Nat) : Nat × Bool := (off, f off size == 0)
  match op with
  | 0x30 => [(48, decide (f 48 2 < 512)), (50, decide (f 50 1 ≤ 1)), z 51 1,
      (52, f 50 1 == 0 || decide (f 52 2 < 512)), z 54 2, (56, decide (f 48 2 ≤ 251) || f 56 4 == 0), z 60 4]
  | 0x31 => [(48, decide (f 48 2 < 512)), (50, decide (f 50 2 < 512) && decide (f 48 2 ≤ f 50 2)), z 52 12]
  | 0x34 => [(48, decide (f 48 1 ≤ 3)), z 49 15]
  | 0x35 => [(48, decide (f 48 1 ≤ 3)), (49, decide (f 49 1 ≤ 3)), z 50 14]
  | 0x37 => [(48, decide (f 48 2 < 512)), z 50 14]
  | 0x3B => [(48, decide (f 48 1 ≤ 4)), (49, decide (f 49 1 ≤ 3) || f 49 1 == 0x80), z 50 14]
  | _ => [z 48 16]

/-- A network slot, a session slot, a customer slot. -/
def netSlot (k : Nat) : Bool := decide (k ≤ 251)
def sessSlot (k : Nat) : Bool := decide (252 ≤ k) && decide (k ≤ 255)
def custSlot (k : Nat) : Bool := decide (272 ≤ k) && decide (k ≤ 319)

/-- KEY-LOAD: whether the life-cycle state and NOPLAIN permit it (R351). -/
def State.loadAllowed (slot form wrap : Nat) (s : State) : Bool :=
  let lc := s.keys.lc
  if netSlot slot then lc != 4 && !(form == 0 && s.rb R.KEY_CTL 0)
  else if lc = 1 ∨ lc = 3 then form == 0 || sessSlot wrap
  else lc == 2 && form == 1 && custSlot wrap && wrap != slot

/-- A slot takes a key: a network slot its TXFC too, a customer slot its blob. -/
def State.loadSlot (slot origin : Nat) (key : BitVec 256) (txfc : Nat) (s : State) : State :=
  if netSlot slot then
    let s : State := { s with mac.keyexhPosted := s.mac.keyexhPosted.filter (· != slot) }
    s.setSlot slot { state := 1, origin, key, txfc := BitVec.ofNat 32 txfc }
  else s.wrapSlot slot origin key

/-- KEY-LOAD (R346, R348, R351). DESIGN CHOICE (log 157): OTP FULL where the wrapping key's counter is spent (R338). -/
def State.keyLoad (r : KeyReq) (s : State) : KeyRes :=
  let slot := r.f 48 2
  let form := r.f 50 1
  let wrap := r.f 52 2
  if !(netSlot slot || custSlot slot) then s.keyErr 0x30
  else if form == 1 && !(sessSlot wrap || custSlot wrap) then s.keyErr 0x30
  else if !s.loadAllowed slot form wrap then s.keyErr 0x31
  else if form == 1 && (s.slot wrap).state == 0 then s.keyErr 0x38
  else if custSlot slot && ctrSpent s.keys.wctr then s.keyErr 0x34
  else if custSlot slot && !s.wrapReady then { s, wait := true }
  else if r.buf.isNone then s.noData
  else if form = 0 then
    (s.loadSlot slot 0 (BitVec.ofNat 256 (leNat (r.bytes 32))) (r.f 56 4)).keyOk 0
  else
    let b := r.bytes 64
    let aad := bvBytes 8 Config.serial ++ leBytes 12 r.spec
    match Config.gcmOpen (s.slot wrap).key (BitVec.ofNat 96 (leNat (b.take 12))) aad ((b.drop 12).take 32)
        (BitVec.ofNat 128 (leNat ((b.drop 44).take 16))) with
    | none => s.keyErr 0x32
    | some p => ((s.loadSlot slot 1 (BitVec.ofNat 256 (leNat p)) (r.f 56 4)).ctxNote 1).keyOk 0

/-- KEY-CLEAR. -/
def State.keyClear (r : KeyReq) (s : State) : KeyRes :=
  let a := r.f 48 2
  let b := r.f 50 2
  if !(decide (b ≤ 255) || (custSlot a && custSlot b)) then s.keyErr 0x30
  else
    let out (k : Nat) : Bool := decide (a ≤ k) && decide (k ≤ b)
    (({ s with
      keys.slots := tclear out s.keys.slots
      keys.blobs := s.keys.blobs.filter (fun p => !out p.1)
      mac.keyexhPosted := s.mac.keyexhPosted.filter (fun k => !out k) } : State).ctxNote 0).keyOk 0

/-- KEY-STAT's entry of a slot. -/
def State.keyEntry (s : State) (k : Nat) : List Byte :=
  let x := s.slot k
  let st := if k = 256 ∨ k = 257 then 1 else if decide (261 ≤ k) && decide (k ≤ 271) then 3
    else if s.exhausted k then 2 else x.state
  let og := if k = 256 ∨ k = 257 then 3 else x.origin
  [BitVec.ofNat 8 st, BitVec.ofNat 8 og] ++ leBytes 2 0 ++ leBytes 4 (if netSlot k then x.txfc.toNat else 0)

def State.keyStat (s : State) : KeyRes :=
  { s, out := bvBytes 4 Config.gcmPrefix ++ leBytes 4 0 ++ bvBytes 8 s.keys.jctr ++ (List.range 320).flatMap s.keyEntry }

/-- KEY-ENROLL. -/
def State.keyEnroll (r : KeyReq) (s : State) : KeyRes :=
  let i := r.f 48 1
  let lc := s.keys.lc
  if lc = 2 ∨ lc = 4 then s.keyErr 0x31
  else if s.keys.enrolled.getLsbD i then s.keyErr 0x34
  else if r.buf.isNone then s.noData
  else if !r.fuseOk then (s.flag R.KEY_STAT 1).keyErr 0x35
  else
    (({ s with
      keys.custKeys := tset (fun _ => 0) s.keys.custKeys i (BitVec.ofNat 512 (leNat (r.bytes 64)))
      keys.enrolled := bput i true s.keys.enrolled } : State).keyShow).keyOk 0

/-- KEY-REVOKE; in FIELD a token by another key comes with it. -/
def State.keyRevoke (r : KeyReq) (s : State) : KeyRes :=
  let i := r.f 48 1
  let signer := r.f 49 1
  let field := s.keys.lc == 2
  let fuse (s : State) : KeyRes :=
    if !r.fuseOk then (s.flag R.KEY_STAT 1).keyErr 0x35
    else (({ s with keys.revoked := bput i true s.keys.revoked } : State).keyShow).keyOk 0
  if r.dptr != (if field then 1 else 2) then s.badField 1
  else if !field && signer != 0 then s.badField 49
  else if s.keys.lc = 4 then s.keyErr 0x31
  else if !field then fuse s
  else if r.buf.isNone then s.noData
  else
    let (ok, s) := s.tokenOk (0x10 + i) signer false (BitVec.ofNat 512 (leNat (r.bytes 64)))
    if ok && signer != i then fuse s else s.keyErr 0x32

/-- The lowest free session slot. -/
def State.freeSession (s : State) : Option Nat :=
  [252, 253, 254, 255].find? fun k => (s.slot k).state == 0

/-- An ECDSA signature with IDKEY; the random number it takes is a free value (R341). -/
def State.idSign (l : List Byte) (s : State) : BitVec 512 × State :=
  let (n, s) := s.freeNat
  (Config.ecdsaSign Config.idKey (Config.sha256 l) n, s)

/-- SESSION-OPEN (R347): the private half of the ephemeral pair is a free value, used here alone. -/
def State.sessionOpen (r : KeyReq) (s : State) : KeyRes :=
  match s.freeSession with
  | none => s.keyErr 0x33
  | some k =>
    if s.rngFail then s.keyErr 0x36
    else if r.buf.isNone then s.noData
    else
      let tool := r.bytes 64
      let (n, s) := s.freeNat
      let priv := BitVec.ofNat 256 n
      let dev := bvBytes 64 (Config.p256Pub priv)
      let (sig, s) := s.idSign (tool ++ dev ++ bvBytes 8 Config.serial ++ leBytes 2 k)
      let s := s.setSlot k { state := 1, origin := 2, key := sessionKey priv (BitVec.ofNat 512 (leNat tool)) }
      { s := s.ctxNote 1, result := k, out := tool ++ dev ++ bvBytes 64 sig, off := 64 }

/-- SESSION-CLOSE. -/
def State.sessionClose (r : KeyReq) (s : State) : KeyRes :=
  let k := r.f 48 2
  if sessSlot k then ((s.setSlot k {}).ctxNote 0).keyOk 0 else s.keyErr 0x30

/-- ID-CERT. -/
def State.idCert (s : State) : KeyRes :=
  let l := certificate.take 1024
  { s, result := l.length, out := l ++ (List.range (1024 - l.length)).map Config.certPad }

/-- ID-ATTEST (R344). -/
def State.idAttest (r : KeyReq) (s : State) : KeyRes :=
  if s.rngFail then s.keyErr 0x36
  else if r.buf.isNone then s.noData
  else
    let body := r.bytes 32 ++ bvBytes 8 Config.serial ++ bvBytes 4 Config.gcmPrefix ++
      [BitVec.ofNat 8 s.keys.lc, BitVec.ofNat 8 s.keys.steps,
        BitVec.ofNat 8 (s.keys.enrolled.toNat + 16 * s.keys.revoked.toNat), BitVec.ofNat 8 (s.rf R.GLB_CAP0 11 8)] ++
      bvBytes 8 s.count64 ++ bvBytes 4 (s.rd R.JNL_CSEQ) ++ leBytes 4 0
    let (sig, s) := s.idSign body
    { s, out := body ++ bvBytes 64 sig }

/-- LC-CHALLENGE. -/
def State.lcChallenge (s : State) : KeyRes :=
  if s.rngFail then s.keyErr 0x36
  else
    let (n, s) := s.freeNat
    let ch := BitVec.ofNat 128 n
    { s := ({ s with keys.challenge := some ch } : State).keyShow, out := bvBytes 16 ch }

/-! ### LC-ADVANCE (R352, R354) -/

/-- A transition of R352: whether a token comes with it, and whether the Basfort key may sign. -/
def lcTransition (lc target : Nat) : Option (Bool × Bool) :=
  match lc, target with
  | 0, 1 | 1, 2 | 3, 1 => some (false, false)
  | 2, 3 => some (true, false)
  | 1, 4 | 2, 4 | 3, 4 => some (true, true)
  | 0, 4 => some (false, false)
  | _, _ => none

/-- A wiping transition: from FIELD to SERVICE, or to SCRAPPED. -/
def lcWipes (target : Nat) : Bool := target == 3 || target == 4

/-- Some queue of 1 to 33 or 36 exists. -/
def State.queuesActive (s : State) : Bool :=
  ((List.range 33).any fun i => (s.q (i + 1)).exists') || (s.q 36).exists'

/-- Steps 4 of R354: volatile slots, sessions and the working copies of customer slots are cleared. -/
def State.wipeSlots (s : State) : State :=
  ({ s with
    keys.slots := s.keys.slots.filter (fun p => decide (256 ≤ p.1) && !custSlot p.1)
    mac.keyexhPosted := [] } : State).ctxNote 0

/-- Steps 6 and 7 of R354: an empty map, a checkpoint of it, an empty journal (R182, R321). Panes in use are erased before they
are used again. -/
def State.wipeMap (s : State) : State :=
  let c : Checkpoint := {
    valid := true, gen := s.keys.visits + 1, number := max s.store.ckptA.number s.store.ckptB.number + 1, seq := s.store.writeSeq }
  let t : Store := { s.store with
    panes := s.store.panes.map fun p => (p.1, { p.2 with closed := true, stripes := [] })
    cells := []
    moved := []
    logNext := (s.store.logNext + 8191) / 8192 * 8192 % logRing }
  let t := ((checkpointPanes false).foldl Store.freshPane t).putCkpt false c
  let t : Store := { t with
    map := []
    mapCache := []
    moves := []
    fresh := []
    badLocs := []
    badNs2 := []
    cutLocs := []
    units := []
    log := []
    logDurable := 0
    logUnits := []
    logSeq := s.store.writeSeq
    ckptA := c
    ckptB := {}
    ckptRun := none
    rgOther := [] }
  (({ s with store := t } : State).stoCount 48 checkpointUnits).jnlErase.showRegrowth

/-- Steps 5 to 8 of R354, of which a scrap has the last alone: new MEDIA and JOURNAL keys, and then the wipe; it is done. It stays
at step 5 while a key cannot be made, and at step 6 while PFAILn is low (R186). -/
def State.wipeStore (s : State) : State :=
  if s.keys.scrapped then ({ s with keys.wipePend := false } : State).keyShow
  else
    let s := s.genMissing
    if s.epochKeys && s.power.pfailn then
      let s := s.wipeMap
      ({ s with keys.wipePend := false } : State).keyShow
    else s.keyShow

/-- A committed wiping transition goes on. DESIGN CHOICE (log 78): where RNGFAIL has risen since, the command ends with RNG FAIL
and WIPEPEND stands until the next start (R339, R355). -/
def State.lcFinish (s : State) : KeyRes :=
  let s := s.wipeStore
  if !s.keys.wipePend then s.keyOk 0
  else if s.rngFail then s.keyErr 0x36
  else if ctrSpent s.keys.wctr then s.keyErr 0x34
  else { s, wait := true }

/-- The commit point of a transition and what follows it; `midway`: it stops after step 4, with WIPEPEND set, until the next
LC_ADVANCE row or the next start of the store (R354, R355). -/
def State.lcCommit (target : Nat) (fuseOk midway : Bool) (s : State) : KeyRes :=
  if !fuseOk then (s.flag R.KEY_STAT 1).keyErr 0x35
  else
    let k : Keys := if target = 4 then { s.keys with scrapped := true, revoked := s.keys.revoked ||| s.keys.enrolled }
      else { s.keys with steps := s.keys.steps + 1 }
    if lcWipes target then
      let k' : Keys := { k with wipePend := true, blobs := k.blobs.filter fun p => p.2.epoch == k.visits }
      let s := ({ s with keys := k' } : State).wipeSlots.keyShow
      if midway then { s, wait := true } else s.lcFinish
    else (({ s with keys := k } : State).keyShow).keyOk 0

/-- LC-ADVANCE: the pair, DPTR, what the pair requires, the token, RNGFAIL, the fuse. -/
def State.lcAdvance (r : KeyReq) (s : State) : KeyRes :=
  let target := r.f 48 1
  let lc := s.keys.lc
  if r.resumed && s.keys.wipePend then s.lcFinish
  else match lcTransition lc target with
  | none => s.keyErr 0x31
  | some (token, basfort) =>
    if r.dptr != (if token then 1 else 2) then s.badField 1
    else if lc == 0 && target == 1 && s.keys.enrolled == 0 then s.keyErr 0x31
    else if lc == 1 && target == 2 && s.keys.enrolled &&& ~~~s.keys.revoked == 0 then s.keyErr 0x31
    else if target != 4 && decide (47 ≤ s.keys.steps) then s.keyErr 0x34
    else if lcWipes target && !r.svc && s.queuesActive then s.keyErr 0x37
    else if target == 3 && ctrSpent s.keys.wctr then s.keyErr 0x34
    else if target == 3 && !s.wrapReady then { s, wait := true }
    else if token && r.buf.isNone then s.noData
    else
      let (ok, s) := if token then
          s.tokenOk target (r.f 49 1) basfort (BitVec.ofNat 512 (leNat (r.bytes 64)))
        else (true, s)
      if !ok then s.keyErr 0x32
      else if target == 3 && s.rngFail then s.keyErr 0x36
      else (if lcWipes target && r.svc then s.hriStop else s).lcCommit target r.fuseOk r.midway

/-! ### Running a command -/

/-- A command takes effect (R345). -/
def State.keyRun (r : KeyReq) (s : State) : KeyRes :=
  match r.op with
  | 0x30 => s.keyLoad r
  | 0x31 => s.keyClear r
  | 0x32 => s.keyStat
  | 0x34 => s.keyEnroll r
  | 0x35 => s.keyRevoke r
  | 0x36 => s.sessionOpen r
  | 0x37 => s.sessionClose r
  | 0x38 => s.idCert
  | 0x39 => s.idAttest r
  | 0x3A => s.lcChallenge
  | 0x3B => s.lcAdvance r
  | _ => { s, code := 1 }

/-- The service port has a key command, and of the admin ring's those that came before it have ended (R349). -/
def State.svcKeyFirst (s : State) : Bool :=
  s.svc.ahead == 0 && s.svc.exec.any fun p => p.headD 0 == 0x30

/-- A committed wipe of which no command is left: its admin queue has ended, or the port's command has (R355). -/
def State.wipeOrphan (s : State) : Bool :=
  s.keys.wipePend && !(s.q 0).inflight.any (fun c => c.stalled && !c.ended) &&
    !(s.svc.started && s.svc.exec.any fun p => p.headD 0 == 0x30)

/-- Such a wipe goes on before anything else. -/
def State.wipeGoOn (s : State) : State := if s.wipeOrphan then s.wipeStore else s

/-- The port's key command has one fewer before it. -/
def State.keyPassed (s : State) : State := { s with svc.ahead := s.svc.ahead - 1 }

/-- What an admin key command answers reaches the host. -/
def KeyRes.toHost (r : KeyRes) (c : Cmd) (xferOk : Bool) : State :=
  if r.out.isEmpty then r.s.adminDone c r.typ r.code r.result
  else if xferOk then
    (r.s.putBuffer c none r.out.length r.off (r.out.drop r.off)).adminDone c r.typ r.code r.result
  else r.s.adminDone c 0 4 0

/-- The admin command whose turn it is runs (R349, R581); `xferOk` is whether its output reaches host memory. One that waits
is marked where it has passed its commit point. -/
def State.keyRow (op : Nat) (buf : Option (List Byte)) (xferOk fuseOk midway : Bool) (s : State) : State :=
  let s := s.wipeGoOn
  match s.admin op with
  | none => s
  | some c =>
    if s.svcKeyFirst then s
    else
      let r := s.keyRun {
        op, spec := c.f 48 16, dptr := c.dptrKind, buf, svc := false, fuseOk, midway, resumed := c.stalled }
      if r.wait then
        if r.s.keys.wipePend then
          r.s.modQ 0 fun q => { q with
            inflight := q.inflight.map fun d => if d.tag = c.tag && !d.ended then { d with stalled := true } else d }
        else r.s
      else (r.toHost c xferOk).keyPassed

def execKeyLoad (buf : Option (BitVec 512)) (s : State) : Out := .next (s.keyRow 0x30 (buf.map (bvBytes 64)) true true false)
def execKeyClear (s : State) : Out := .next (s.keyRow 0x31 none true true false)
def execKeyStat (xferOk : Bool) (s : State) : Out := .next (s.keyRow 0x32 none xferOk true false)
def execKeyEnroll (pub : Option (BitVec 512)) (fuseOk : Bool) (s : State) : Out :=
  .next (s.keyRow 0x34 (pub.map (bvBytes 64)) true fuseOk false)
def execKeyRevoke (token : Option (BitVec 512)) (fuseOk : Bool) (s : State) : Out :=
  .next (s.keyRow 0x35 (token.map (bvBytes 64)) true fuseOk false)
def execSessionOpen (toolpub : Option (BitVec 512)) (s : State) : Out :=
  .next (s.keyRow 0x36 (toolpub.map (bvBytes 64)) true true false)
def execSessionClose (s : State) : Out := .next (s.keyRow 0x37 none true true false)
def execIdCert (xferOk : Bool) (s : State) : Out := .next (s.keyRow 0x38 none xferOk true false)
def execIdAttest (nonce : Option (BitVec 256)) (s : State) : Out :=
  .next (s.keyRow 0x39 (nonce.map (bvBytes 32)) true true false)
def execLcChallenge (xferOk : Bool) (s : State) : Out := .next (s.keyRow 0x3A none xferOk true false)
def execLifeCycleAdvance (token : Option (BitVec 512)) (fuseOk midway : Bool) (s : State) : Out :=
  .next (s.keyRow 0x3B (token.map (bvBytes 64)) true fuseOk midway)

end Sys2Proof.Machine
end

