-- ==== Sys2Proof/Machine/Lehr.lean ====
section
/-! DEFINITION. The lehr's time-keeping (chapter 16): count and trim, time words and their shadow sets, commits,
calendar, alarm, periodic wake, charger lock, and the lehr's loss of state. -/

namespace Sys2Proof.Machine

/-! ### The count (R471, R472) -/

/-- The fraction units that n CK_RTC cycles add, from cycle k of a trim interval on. -/
def trimAdd (trim : Byte) (k n : Nat) : Nat :=
  let t := (sext 8 trim.toNat).natAbs
  let extra := (k + n) * t / 2097152 - k * t / 2097152
  if sext 8 trim.toNat < 0 then n - extra else n + extra

/-- The cycles until the count carries into the next second. -/
def cyclesToSecond (trim : Byte) (k frac : Nat) : Nat :=
  let need := 32768 - frac
  ((List.range 8).map fun i => need - 3 + i).find? (fun n => decide (1 ≤ n) && decide (need ≤ trimAdd trim k n)) |>.getD need

/-- The seconds advance: the count wraps at 2^40, and RTC_SECOND is raised. -/
def State.secondEnds (frac : Nat) (s : State) : State :=
  let s := { s with lehr.sec := s.lehr.sec + 1, lehr.frac := BitVec.ofNat 15 frac }
  if s.power.phase == .backup then s else s.raise 113 0

/-- The next trim interval starts with the TRIM written last (R472). -/
def State.trimNext (s : State) : State :=
  { s with lehr.trimCycle := s.lehr.trimCycle - 2097152, lehr.trim := BitVec.ofNat 8 (s.rf R.LEHR_TRIM 7 0) }

/-- The count runs: the lehr holds its state, and with CK_AO stopped the crystal has not failed (R59). -/
def State.counting (s : State) : Bool := s.lehr.alive && (s.lehr.xtalOk || s.lehr.ckAo)

/-- The time of n CK_RTC cycles, 15,625/512 µs each, passes for the MAC timer, which CK_REF clocks (R255). While the schedule
does not run, or has no plan, its first slot can start at any time, and a plan that waits long has waited enough (R259). -/
def State.macTick (n : Nat) (s : State) : State :=
  if !s.power.ckref then s
  else
    let k := s.mac.timerFrac + 15625 * n
    let slots := s.mac.running && !(s.mac.plan.isEmpty && s.mac.nextPlan.isNone)
    let t := s.mac.timer + BitVec.ofNat 32 (k / 512)
    let m : Mac := { s.mac with
      timer := t, timerFrac := k % 512, nextStart := if s.mac.running && !slots then t else s.mac.nextStart
      planFrom := if !s.mac.running && decide (0 ≤ (t - s.mac.planFrom).toInt) then t else s.mac.planFrom }
    { s with mac := m }

/-- One CK_RTC cycle. -/
def State.rtcTick (s : State) : State :=
  if !s.counting then s
  else
    let k := s.lehr.trimCycle
    let f := s.lehr.frac.toNat + trimAdd s.lehr.trim k 1
    let s := { s with lehr.trimCycle := k + 1, lehr.per := s.lehr.per + 1 }
    let s := if 2097152 ≤ k + 1 then s.trimNext else s
    if 32768 ≤ f then s.secondEnds (f - 32768) else { s with lehr.frac := BitVec.ofNat 15 f }

/-- Nothing happens for one CK_RTC cycle: the count and the MAC timer go on. -/
def State.clockTick (s : State) : State := (s.macTick 1).rtcTick

/-- R471: the count runs on to its next second, and the MAC timer as long. -/
def execRtcSecond (s : State) : Out := .next <|
  if !s.counting then s
  else
    let n := cyclesToSecond s.lehr.trim s.lehr.trimCycle s.lehr.frac.toNat
    let f := s.lehr.frac.toNat + trimAdd s.lehr.trim s.lehr.trimCycle n
    let s := s.macTick n
    ({ s with lehr.trimCycle := s.lehr.trimCycle + n, lehr.per := s.lehr.per + n } : State).secondEnds (f - 32768)

/-- R472: an interval of 2,097,152 cycles ends. -/
def execTrimIntervalEnd (s : State) : Out := .next (if s.counting then s.trimNext else s)

/-! ### The calendar (R476, R477) -/

/-- The days from 0000-03-01 to 2000-01-01. -/
def dayZero : Nat := 730425

/-- Year, month and day of a day counted from 0000-03-01. -/
def civil (z : Nat) : Nat × Nat × Nat :=
  let era := z / 146097
  let doe := z % 146097
  let yoe := (doe - doe / 1460 + doe / 36524 - doe / 146096) / 365
  let doy := doe - (365 * yoe + yoe / 4 - yoe / 100)
  let mp := (5 * doy + 2) / 153
  let m := if mp < 10 then mp + 3 else mp - 9
  (yoe + 400 * era + (if m ≤ 2 then 1 else 0), m, doy - (153 * mp + 2) / 5 + 1)

/-- The day of a date, counted from 0000-03-01. -/
def dayOf (y m d : Nat) : Nat :=
  let y' := if m ≤ 2 then y - 1 else y
  let yoe := y' % 400
  let doy := (153 * (if 2 < m then m - 3 else m + 9) + 2) / 5 + d - 1
  y' / 400 * 146097 + yoe * 365 + yoe / 4 - yoe / 100 + doy

def leapYear (y : Nat) : Bool := (y % 4 == 0 && y % 100 != 0) || y % 400 == 0

def monthLength (y m : Nat) : Nat :=
  match m with
  | 2 => if leapYear y then 29 else 28
  | 4 | 6 | 9 | 11 => 30
  | _ => 31

/-- LEHR_OFS.OFFSET. -/
def State.offset (s : State) : Int := sext 18 (s.rf R.LEHR_OFS 17 0)

/-- Local seconds, where they lie in the calendar's range. -/
def State.localSec (s : State) : Option Nat :=
  let t := (s.lehr.sec.toNat : Int) + s.offset
  if 0 ≤ t ∧ t ≤ 252455615999 then some t.toNat else none

/-- LEHR_CAL0 and LEHR_CAL1 as the count stands (R476, R490). -/
def State.calWords (s : State) : Word × Word :=
  match s.localSec with
  | none => (0, 0)
  | some t =>
    let d := t / 86400
    let r := t % 86400
    let (y, m, day) := civil (d + dayZero)
    (BitVec.ofNat 32 (r % 60 + 256 * (r / 60 % 60) + 65536 * (r / 3600) + 2 ^ 24 * day),
      BitVec.ofNat 32 (m + 256 * y + 2 ^ 24 * ((d + 5) % 7 + 1)))

/-! ### Time words (R473) -/

def masterIndex : Master → Nat
  | .host => 0
  | .newt n => 1 + n.val
  | .smbus => 17
  | .svc => 18

/-- RST_CAUSE.SWSRC's code of a master. -/
def masterCode : Master → Nat
  | .host => 0
  | .newt _ => 1
  | .smbus => 2
  | .svc => 3

def State.shadow (m : Master) (s : State) : Shadow := tget (fun _ => ({} : Shadow)) s.lehr.shadows (masterIndex m)

def State.setShadow (m : Master) (x : Shadow) (s : State) : State :=
  { s with lehr.shadows := tset (fun _ => ({} : Shadow)) s.lehr.shadows (masterIndex m) x }

/-- A snapshot of the four words. -/
def State.snapshot (sht : Bool) (s : State) : Shadow :=
  let (c0, c1) := s.calWords
  { frozen := true
    cnt0 := BitVec.ofNat 32 (s.lehr.frac.toNat + 2 ^ 15 * s.lehr.sec.toNat)
    cnt1 := putBit 31 sht (BitVec.ofNat 32 (s.lehr.sec.toNat / 2 ^ 17))
    cal0 := c0
    cal1 := putBit 31 sht c1 }

/-- A master reads a time word. -/
def State.timeRead (m : Master) (which : TimeWord) (s : State) : Word × State :=
  let old := s.shadow m
  let x := if old.frozen then old else s.snapshot old.timedOut
  match which with
  | .cnt0 => (x.cnt0, s.setShadow m x)
  | .cnt1 => (x.cnt1, s.setShadow m { x with frozen := false })
  | .cal0 => (x.cal0, s.setShadow m x)
  | .cal1 => (x.cal1, s.setShadow m { x with frozen := false })

/-- R473: a set left frozen for 10 ms is released. -/
def execShadowTimeout (m : Master) (s : State) : Out := .next <|
  if (s.shadow m).frozen then s.setShadow m { s.shadow m with frozen := false, timedOut := true } else s

/-! ### Commits (R474, R477) -/

def State.stage (m : Master) (s : State) : Staged := tget (fun _ => ({} : Staged)) s.lehr.staged (masterIndex m)

def State.setStage (m : Master) (x : Staged) (s : State) : State :=
  { s with lehr.staged := tset (fun _ => ({} : Staged)) s.lehr.staged (masterIndex m) x }

/-- A signed number held within 32 bits. -/
def clamp32 (i : Int) : Int := max (-(2 ^ 31)) (min (2 ^ 31 - 1) i)

/-- The count is committed by a master: the journal's clutch is sealed first (R305), due setpoints follow (R447). -/
def State.setCount (m : Master) (sec : Nat) (s : State) : State :=
  let s := s.jnlTimeSet
  let change := clamp32 ((sec : Int) - s.lehr.sec.toNat)
  let s : State := { s with lehr.sec := BitVec.ofNat 40 sec, lehr.frac := 0 }
  let s := (s.wb R.LEHR_STAT 1 false).setShadow m { s.shadow m with frozen := false }
  let s := s.post 0x7F 0 (masterCode m) (wordOfInt change).toNat
  if s.spRuns then applyDue 64 s else s

/-- A write of LEHR_CNT0. -/
def State.countStage (m : Master) (w : Word) (s : State) : State :=
  s.setStage m { s.stage m with cnt := some w }

/-- A write of LEHR_CNT1. -/
def State.countCommit (m : Master) (w : Word) (s : State) : State :=
  match (s.stage m).cnt with
  | none => s.badval R.LEHR_STAT
  | some l => (s.setStage m { s.stage m with cnt := none }).setCount m (fld 31 15 l + 2 ^ 17 * fld 22 0 w)

/-- A write of LEHR_CAL0. -/
def State.calStage (m : Master) (w : Word) (s : State) : State :=
  s.setStage m { s.stage m with cal := some w }

/-- The count that a staged LEHR_CAL0 and a LEHR_CAL1 name, if every check of R477 passes. -/
def State.calCount (l h : Word) (s : State) : Option Nat :=
  let y := fld 21 8 h
  let mo := fld 3 0 h
  let d := fld 28 24 l
  let hr := fld 20 16 l
  let mi := fld 13 8 l
  let sc := fld 5 0 l
  if 1 ≤ mo ∧ mo ≤ 12 ∧ 2000 ≤ y ∧ y ≤ 9999 ∧ 1 ≤ d ∧ d ≤ monthLength y mo ∧ hr ≤ 23 ∧ mi ≤ 59 ∧ sc ≤ 59 then
    let t : Int := ((dayOf y mo d - dayZero) * 86400 + hr * 3600 + mi * 60 + sc : Nat) - s.offset
    if 0 ≤ t then some t.toNat else none
  else none

/-- A write of LEHR_CAL1. The whole write is rejected by R477, with its staged half. -/
def State.calCommit (m : Master) (w : Word) (s : State) : State :=
  match (s.stage m).cal with
  | none => s.badval R.LEHR_STAT
  | some l =>
    let v := s.setStage m { s.stage m with cal := none }
    match s.calCount l w with
    | none => v.flag R.LEHR_STAT 3
    | some n => v.setCount m n

/-! ### LEHR_CTL, the alarm, the periodic wake -/

/-- DSTP and DSTM (R478). -/
def State.dstCommand (plus : Bool) (s : State) : State :=
  let dst := s.rb R.LEHR_OFS 31
  if dst == plus then s.flag R.LEHR_STAT 5
  else
    let o := s.offset + (if plus then 3600 else -3600)
    if o < -64800 ∨ 64800 < o then s.badval R.LEHR_STAT
    else (s.wf R.LEHR_OFS 17 0 (BitVec.ofInt 18 o).toNat).wb R.LEHR_OFS 31 plus

/-- The charger follows LEHR_CHG.EN while main power feeds the lehr alone, from 10 ms after its return on (R481, R484). -/
def State.chargeNow (s : State) : State :=
  let on := s.lehr.fromMain && !s.lehr.fromBak && !s.lehr.chargeWait
  { s with lehr.charging := on && s.rb R.LEHR_CHG 0 && !s.keys.chgLock }

/-- PRILOCK (R484): the lock is blown for good, and LEHR_CHG reads 0 from then on. -/
def State.blowPrilock (w : Word) (s : State) : State :=
  if !bit 2 w then s
  else if fld 31 16 w = 0x4C4B then (({ s with keys.chgLock := true } : State).wr R.LEHR_CHG 0).chargeNow
  else s.badval R.LEHR_STAT

/-- A write of LEHR_CTL (R488); one of DSTP and DSTM together is ignored whole (R478). -/
def State.lehrCtlWrite (w : Word) (s : State) : State :=
  if bit 0 w && bit 1 w then s.badval R.LEHR_STAT
  else
    let s := if bit 0 w then s.dstCommand true else if bit 1 w then s.dstCommand false else s
    let s := (s.blowPrilock w).writeReg R.LEHR_CTL w
    if s.rb R.LEHR_CTL 3 then s.wb R.LEHR_STAT 8 false else s

/-- A write of LEHR_ALM1 commits the alarm (R479). -/
def State.alarmCommit (w : Word) (s : State) : State :=
  let s := s.writeReg R.LEHR_ALM1 w
  { s with lehr.alarm := BitVec.ofNat 64 ((s.rd R.LEHR_ALM0).toNat + 2 ^ 32 * fld 22 0 w) }

/-- A write of LEHR_PER (R480, R493). -/
def State.perWrite (w : Word) (s : State) : State :=
  if bit 25 w && fld 23 0 w == 0 then s.badval R.LEHR_STAT
  else { s.writeReg R.LEHR_PER w with lehr.per := 0 }

/-- A write of LEHR_CHG (R484). -/
def State.chgWrite (w : Word) (s : State) : State :=
  if s.keys.chgLock then s.badval R.LEHR_STAT else (s.writeReg R.LEHR_CHG w).chargeNow

/-- R479: the alarm is due. -/
def execAlarmFire (s : State) : Out := .next <|
  if s.lehr.alive && s.rb R.LEHR_ALM1 31 && decide (s.lehr.alarm.toNat ≤ s.count64.toNat) then
    let s := (s.wb R.LEHR_ALM1 31 false).flag R.LEHR_STAT 6
    if s.power.phase == .backup then s else (s.raise 111 0).wake .alarm
  else s

/-- R480: N units have passed on the cycles that also drive the count (R59). -/
def execPeriodicFire (s : State) : Out := .next <|
  if s.counting && s.rb R.LEHR_PER 25 then
    let s := ({ s with lehr.per := 0 } : State).flag R.LEHR_STAT 7
    if s.power.phase == .backup then s else (s.raise 112 0).wake .periodic
  else s

/-- LEHR_STAT as read: CALRANGE and CHGLOCK are what they are now (R476, R484). -/
def State.lehrStat (s : State) : Word :=
  putBit 10 s.keys.chgLock (putBit 4 s.localSec.isNone (s.rd R.LEHR_STAT))

/-! ### Backup supply and loss of state -/

/-- R485: VBAK is compared, once a second. -/
def execVbakCheck (mv : Nat) (s : State) : Out := .next <|
  if s.power.phase == .backup || s.rb R.LEHR_CTL 3 || !s.lehr.alive then s
  else
    let low := decide (mv < 2300)
    let old := s.rb R.LEHR_STAT 8
    let s := s.wb R.LEHR_STAT 8 low
    if low && !old then s.post 0x7D 1 0 mv else s

/-- R482: VAO fell below 1.36 V. Only backup can run so low. -/
def execVaoLoss (s : State) : Out := .next <|
  if s.lehr.fromMain then s else { s with lehr.alive := false }

/-- The lehr-held PIO registers (R427). -/
def lehrHeldPio (a : Nat) : Bool :=
  (List.range 4).any (fun n => a == R.PIO_CMP n || a == R.PIO_FMASKP n || a == R.PIO_FMASKG n) ||
    (List.range 36).any (fun k => a == R.PIO_OUT k) || a == R.PIO_CMPBAK

/-- Every lehr register and the count at their reset values, with TIMELOST to be posted. -/
def State.lehrFresh (s : State) : State :=
  let s := s.resetRegs fun a => a / 65536 == 15 || lehrHeldPio a
  let l : Lehr := { s.lehr with
    sec := 0, frac := 0, trimCycle := 0, trim := 0, per := 0, shadows := [], staged := [], alarm := 0, alive := true
    usedBak := false, lostWhy := 0, lostPost := true }
  { s with lehr := l }

/-- R482: VAO rises again after a loss. -/
def execLehrRestart (s : State) : Out := .next (if s.lehr.alive then s else s.lehrFresh)

/-- R481 step 6, R482: what is posted at BOOTDONE. -/
def State.lehrPosts (s : State) : State :=
  let s := if s.lehr.lostPost then
      ({ s with lehr.lostPost := false } : State).post 0x7C 2 0 s.lehr.lostWhy
    else s
  if s.lehr.usedBak then
    let d := if s.rb R.LEHR_STAT 1 then 0xFFFFFFFF else min 0xFFFFFFFF (s.lehr.sec.toNat - s.lehr.bakSince.toNat)
    ({ s with lehr.usedBak := false } : State).post 0x7E 0 0 d
  else s

/-- A power-on or device reset drops staged words and shadow sets, and clears LEHR_CTL.LOCK (R486). -/
def State.lehrCut (s : State) : State :=
  ({ s with lehr.staged := [], lehr.shadows := [] } : State).wb R.LEHR_CTL 4 false

end Sys2Proof.Machine
end

