-- ==== Sys2Proof/Machine/Storage.lean ====
section
/-! DEFINITION. READ and WRITE (R145 to R155), and the store's start (R188): checkpoint load, replay, the full scan. -/

namespace Sys2Proof.Machine

/-! ### READ -/

/-- A read in progress: what each unit read so far found. -/
structure ReadRun where
  s : State
  outs : List UnitOut
  /-- The blocks' contents, none where the block failed. -/
  blocks : List (Option Blk) := []
  sramUe : Bool := false

/-- What a unit's read yields, given where it lies (R173): on a die that is gone it is not read, the rebuild is its whole read
(tier 4); one that failed before fails again (R145); one with two members of its stripe lost cannot be rebuilt. -/
def tierOf (gone lost failedBefore rebuilds : Bool) (o : UnitOut) : UnitOut :=
  if o = .sramUe then .sramUe
  else if lost || failedBefore then .failed
  else
    let o := if gone && o != .failed then .tier4 else o
    if (o == .tier4 || o == .timedOut) && !rebuilds then .failed else o

/-- What a unit's read leaves behind: the run of timeouts, the refresh queue, tier 3 failures, the counters (R179, R189,
R548). A die that is gone is not read. -/
def State.unitRead (d k : Nat) (o : UnitOut) (s : State) : State :=
  let gone := s.store.gone.contains d
  let s' := if gone then s else s.dieAnswered d
  match o with
  | .tier1 => s'
  | .tier1High => s'.queueRefresh d k
  | .tier2 => (s'.queueRefresh d k).stoCount 88 1
  | .tier3 => (s'.queueRefresh d k).stoCount 96 1
  | .tier4 => if gone then s.stoCount 104 1 else ((s'.queueRefresh d k).tier3Failed d k).stoCount 104 1
  | .timedOut => (s.queueRefresh d k).stoCount 104 1
  | .failed => if gone then s.stoCount 112 1 else (s'.tier3Failed d k).stoCount 112 1
  | .sramUe => s

/-- One mapped unit of NS1 is read through its tiers (R173): its codeword's data, or what the rest of its stripe yields. -/
def State.readUnit (e : Word) (o : UnitOut) (s : State) : Option Blk × Bool × State :=
  let l := e.toNat
  let d := locDie l
  let c := s.store.rebuild l
  let o := tierOf (s.store.gone.contains d) (s.unitLost e) (s.store.badLocs.contains l) c.isSome o
  let bad := if o = .failed && !s.unitLost e && !s.store.badLocs.contains l then s.store.badLocs ++ [l] else s.store.badLocs
  let s := { s.unitRead d (locBlock l) o with store.badLocs := bad }
  match o with
  | .failed => (none, false, s)
  | .sramUe => (none, true, s)
  | .tier4 | .timedOut => (c.map (·.data), false, s)
  | _ => ((s.store.cell l).map (·.data), false, s)

/-- It can be rebuilt: its stripe is complete, or it has a copy in the mirror on a die that is left (R309). -/
def State.ns2Rebuilds (b : Nat) (s : State) : Bool :=
  (s.store.rebuild (s.store.unitLoc (unitAddr 1 b))).isSome ||
    s.jnl.mirror.any fun m => m.1 == b / 256 && m.2.1 == b % 256 && !s.store.gone.contains m.2.2

/-- One unit of NS2 is read through its tiers. -/
def State.readUnit2 (b : Nat) (o : UnitOut) (s : State) : Option Blk × Bool × State :=
  let x := s.ns2 b
  let l := s.store.unitLoc (unitAddr 1 b)
  let failed := s.store.badNs2.contains (b, x)
  let o := tierOf (s.store.gone.contains (locDie l)) (s.ns2Lost b) failed (s.ns2Rebuilds b) o
  let new := o = .failed && !failed && !s.ns2Lost b
  let s := s.unitRead (locDie l) (locBlock l) o
  let s : State := if new then { s with
      store.badNs2 := (b, x) :: s.store.badNs2.filter (fun p => p.1 != b)
      store.badLocs := s.store.badLocs ++ [l] }
    else s
  match o with
  | .failed => (none, false, s)
  | .sramUe => (none, true, s)
  | _ => (some x, false, s)

/-- One block of an NS1 read. -/
def ReadRun.block (r : ReadRun) (lba : Nat) : ReadRun :=
  let e := r.s.mapAt lba
  let s := r.s.touchMap lba false
  if (s.staged lba).isSome || (s.store.cell e.toNat).isNone then { r with s, blocks := r.blocks ++ [some (s.ns1 lba)] }
  else
    let (b, ue, s') := s.readUnit e (r.outs.headD .tier1)
    { s := s', outs := r.outs.tail, blocks := r.blocks ++ [b.map (s.media lba).dec], sramUe := r.sramUe || ue }

/-- NS2 block b holds a unit of a clutch. -/
def State.ns2Written (b : Nat) (s : State) : Bool := s.jnl.clutches.any fun c =>
  c.slot == b / 256 && c.records.any fun r => r.pos / 4096 == b % 256 && s.groupDurable r.group

/-- One block of an NS2 read; one that nothing has written reads as zeros (R297). -/
def ReadRun.block2 (r : ReadRun) (b : Nat) : ReadRun :=
  if !r.s.ns2Written b then { r with blocks := r.blocks ++ [some (r.s.ns2 b)] }
  else
    let (x, ue, s) := r.s.readUnit2 b (r.outs.headD .tier1)
    { s, outs := r.outs.tail, blocks := r.blocks ++ [x], sramUe := r.sramUe || ue }

/-- Write the blocks that did not fail into the buffer (R145). -/
def putBlocks (c : Cmd) (segs : Segs) (len : Nat) : Nat → List (Option Blk) → State → State
  | _, [], s => s
  | k, b :: r, s => putBlocks c segs len (k + 1) r
      (match b with | some b => s.putBuffer c segs len (4096 * k) (bvBytes 4096 b) | none => s)

/-- A READ ends: the blocks reach the buffer, and its status says what failed. Of failures that coincide an SRAM error comes
first, then the transfer's, then a block's (DESIGN CHOICE, log 145: the spec orders only the checks at the fetch). -/
def ReadRun.finish (q : Nat) (c : Cmd) (segs : Segs) (xferOk : Bool) (r : ReadRun) : State :=
  let len := 4096 * c.nblk
  let s := r.s
  if r.sramUe then (s.sramUeGather).fail q c 0 5 0 c.slba 0
  else if !xferOk then s.fail q c 0 4 0 c.slba 0
  else
    let s := putBlocks c segs len 0 r.blocks s
    let bad := (List.range r.blocks.length).filter fun i => (r.blocks.getD i none).isNone
    match bad with
    | i :: _ => s.fail q c 2 1 i (c.slba + i) bad.length
    | [] => ((s.stoCount 16 1).stoCount 32 len).finish q c 0 0 0

/-- READ of NS1 or NS2 (R140, R145, R147); `fixed` single-bit SRAM errors are corrected on the way (R25). -/
def State.read (q : Nat) (c : Cmd) (segs : Segs) (outs : List UnitOut) (xferOk : Bool) (s : State) : State :=
  match checkSegs c segs (4096 * c.nblk) with
  | .mismatch => s.fail q c 0 7 0 c.slba 0
  | .unreadable => s.fail q c 0 4 0 c.slba 1
  | .good =>
    let r : ReadRun := { s, outs }
    let step (r : ReadRun) (i : Nat) : ReadRun := if c.nsid = 2 then r.block2 (c.slba + i) else r.block (c.slba + i)
    ((List.range c.nblk).foldl step r).finish q c segs xferOk

def execReadBlocks (q : Fin 37) (tag : Half) (segs : Segs) (outs : List UnitOut) (xferOk : Bool) (fixed : Nat) (s : State) : Out :=
  .next <| match s.stoCmd q.val tag.toNat 1 with
    | some c => if s.dataUp then (s.sramFixed fixed).read q.val c segs outs xferOk else s
    | none => s

/-! ### JOURNAL-READ -/

/-- The reads of NS2 that a JOURNAL-READ makes: those that find nothing, and the state after them all. -/
def readCws (reads : List (Nat × UnitOut)) (l : List Nat) (s : State) : List Nat × State :=
  match l with
  | [] => ([], s)
  | b :: r =>
    let (x, _, s) := s.readUnit2 b (((reads.find? fun p => p.1 == b).map (·.2)).getD .tier1)
    let (l, s) := readCws reads r s
    (if x.isNone then b :: l else l, s)

/-- The answer of a JOURNAL-READ is written and it completes; what follows its last record in the buffer is undefined. -/
def State.jrAnswer (q : Nat) (c : Cmd) (segs : Segs) (nodes : BitVec 4096) (unreadable : List Nat) (badTag : List Word)
    (xferOk : Bool) (s : State) : State :=
  let len := 4096 * c.nblk
  let o := s.journalQuery c nodes unreadable badTag
  let f := s.free
  let rest := (List.range (len - o.bytes.length)).map fun i => BitVec.ofNat 8 (Config.freeNat (f * 4194304 + i))
  let s : State := { s with free := f + 1 }
  let s := s.putBuffer c segs len 0 (o.bytes ++ rest)
  if xferOk then (s.stoCount 16 1).finish q c 0 0 o.count else s.fail q c 0 4 0 c.slba 0

/-- JOURNAL-READ (R313 to R317), with what the reads of some codewords find, the others being read at tier 1, and the groups whose tag fails
(R316): NOT READY, then the scatter list, the node set, the answer. Its reads are reads of NS2 through the tiers of R173. -/
def State.journalRead (q : Nat) (c : Cmd) (segs : Segs) (nodeset : Option (BitVec 4096)) (reads : List (Nat × UnitOut))
    (badTag : List Word) (xferOk : Bool) (sram : SramRead) (s : State) : State :=
  let len := 4096 * c.nblk
  if s.keys.scrapped then s.finish q c 1 2 0
  else if !s.rb R.JNL_STAT 1 || s.roleState 3 == 0 then
    let (n, s) := s.freeNat
    s.finish q c 1 2 (n % 2 ^ 32)
  else match checkSegs c segs len with
    | .mismatch => s.fail q c 0 7 0 c.slba 0
    | .unreadable => s.fail q c 0 4 0 c.slba 1
    | .good =>
      if !c.allNodes && nodeset.isNone then s.fail q c 0 4 0 c.slba 0
      else
        let s := s.gatherRead sram
        if (sramBank sram).isSome then s.fail q c 0 5 0 c.slba 0
        else
          let (unreadable, s) := readCws reads (s.jrBlocks c (nodeset.getD 0)) s
          s.jrAnswer q c segs (nodeset.getD 0) unreadable badTag xferOk

def execReadJournal (q : Fin 37) (tag : Half) (segs : Segs) (nodeset : Option (BitVec 4096)) (reads : List (Nat × UnitOut))
    (badTag : List Word) (xferOk : Bool) (sram : SramRead) (s : State) : Out := .next <|
  match s.stoCmd q.val tag.toNat 0x20 with
  | some c => if s.dataUp then s.journalRead q.val c segs nodeset reads badTag xferOk sram else s
  | none => s

/-! ### WRITE -/

/-- A WRITE is accepted: its units are staged, and it completes (R149). -/
def State.accept (q : Nat) (c : Cmd) (data : List Blk) (s : State) : State :=
  let s := s.stageUnits c.order c.slba data (unitsOf c.slba c.nblk) false
  ((s.stoCount 24 1).stoCount 40 (4096 * c.nblk)).finish q c 0 0 0

/-- The store finds no room (R178, R181): role 1 is unassigned and the cache full, or the TLC pool has no free pane. -/
def State.noSpace (s : State) : Bool := (s.roleState 1 == 0 && s.store.cacheFull) || s.store.poolFull

/-- The data of a WRITE has reached the gather; it stays in flight and is not yet placed. -/
def State.gathered (q : Nat) (c : Cmd) (data : List Blk) (s : State) : State :=
  s.modQ q fun x => { x with
    inflight := x.inflight.map fun d => if d.tag = c.tag && !d.ended then { d with data := some data } else d }

/-- The store places a WRITE, or says why it cannot (R144, R181, R185, R192). DESIGN CHOICE (log 112): of a WRITE that ends
with WRITE FAULT the units before the first left old are new, that one and all after it old; the spec lets any be either. -/
def State.place (q : Nat) (c : Cmd) (data : List Blk) (place : Placement) (s : State) : State :=
  let us := unitsOf c.slba c.nblk
  match place with
  | .sramUe => (s.sramUeGather).fail q c 0 5 0 c.slba 0
  | .fault k =>
    let k := min k (us.length - 1)
    let s := s.stageUnits c.order c.slba data (us.take k) true
    s.fail q c 2 2 ((us.getD k (c.slba, 0)).1 - c.slba) c.slba 0
  | .gathered => s.gathered q c data
  | .stalled n => (if c.stalled then s.stallOver n.toNat else s).accept q c data
  | .placed => (if c.stalled then (let (n, s) := s.freeNat; s.stallOver n) else s).accept q c data

/-- WRITE (R149, R186): with its data in the gather it waits while staging is full, as it can be while PFAILn is low, and
while the log has no room for it (R185). Of failures that coincide the loss of two dies comes first, then the transfer's, NO
SPACE, and last what placing meets (DESIGN CHOICE, log 145). -/
def State.write (q : Nat) (c : Cmd) (segs : Segs) (data : Option (List Blk)) (place : Placement) (s : State) : State :=
  match checkSegs c segs (4096 * c.nblk) with
  | .mismatch => s.fail q c 0 7 0 c.slba 0
  | .unreadable => s.fail q c 0 4 0 c.slba 1
  | .good =>
    if s.store.die2.isSome then s.fail q c 2 2 0 c.slba 0
    else match c.data.or data with
      | none => s.fail q c 0 4 0 c.slba 0
      | some l =>
        let l := padTo c.nblk 0 l
        if s.noSpace then ((s.flag R.STO_STAT 10).post 0x47 2 q c.tag).fail q c 1 4 0 c.slba 0
        else if 8192 < s.stagedBlocks + c.nblk then s.gathered q c l
        else if s.logFull false (unitsOf c.slba c.nblk) then (s.stallCmd q c).gathered q c l
        else s.place q c l place

def execWriteBlocks (q : Fin 37) (tag : Half) (segs : Segs) (data : Option (List Blk)) (place : Placement) (fixed : Nat) (s : State) :
    Out :=
  .next <| match s.stoCmd q.val tag.toNat 2 with
    | some c => if s.dataUp then (s.sramFixed fixed).write q.val c segs data place else s
    | none => s

/-! ### Start of the store (R188) -/

/-- Step 1: a slot that was written and fails its CRC is reported, and is not used from then on. A slot whose write was cut
counts as never written, without a report (DESIGN CHOICE, log 144). -/
def State.ckptFailed (slot : Nat) (ok : Bool) (s : State) : State :=
  let c := if slot = 0 then s.store.ckptA else s.store.ckptB
  if !c.valid || (ok && !c.bad) then s
  else
    let s := (s.flag R.STO_STAT 7).post 0x45 1 0 slot
    if slot = 0 then { s with store.ckptA.bad := true } else { s with store.ckptB.bad := true }

/-- Step 4: panes that were in use and not full are closed, what they hold to be moved (R187). -/
def Store.closePanes (t : Store) : Store :=
  { t with panes := t.panes.map fun p =>
      let full := (List.range (if p.1 < pslcEnd then 512 else 1536)).all fun s => (p.2.stripe s).closed
      if p.2.opened && !full && decide (p.1 < cacheEnd || pslcEnd ≤ p.1) then (p.1, { p.2 with closed := true, evac := true })
      else p }

/-- A wipe that was committed and not finished is finished before the store is ready (R355), once PFAILn is high (R186) and its
keys can be made. -/
def State.wipeResume (s : State) : State := if s.keys.wipePend then s.wipeStore else s
def State.wipeHeld (s : State) : Bool :=
  s.keys.wipePend && !s.keys.scrapped && !(s.epochKeys && s.power.pfailn)

/-- Step 4: the die table and the journal follow, READY is set, and the health registers reload (R557, R560). -/
def State.storeUp (s : State) : State :=
  let s := s.wipeResume
  let s := (s.flag R.STO_STAT 1).showDies.showRegrowth.regrowStart.showHealth.jnlRestart
  let s := (s.wr R.HLT_EVER (BitVec.ofNat 32 s.health.ever.toNat)).wf R.HLT_CNT 7 0 s.health.otcount.toNat
  let s := s.wf R.HLT_CNT 10 8 s.health.tlrun.toNat
  s.keyShow

/-- What the store held in DRAM and logic is gone: staging, moves in progress, the map and its cache, a checkpoint being
written (R84, R187). -/
def Store.dramLost (t : Store) : Store :=
  { t with
    map := [], mapCache := [], units := [], moves := [], fresh := [], folding := false, ckptRun := none, scanBase := none }

/-- Where the codewords lie whose units' COMMIT stands in the log (R183). -/
def committedLocs : List LogRec → List Nat → List Nat
  | [], _ => []
  | r :: l, o =>
    if r.typ = 0 then committedLocs l (r.arg.toNat :: o)
    else if r.typ = 4 then o ++ committedLocs l []
    else if r.typ = 3 then committedLocs l []
    else if r.typ < 3 then committedLocs l o
    else []

/-- R188: the checkpoint is loaded and the log replayed. `aOk` and `bOk` are the slots' CRCs; `extra` is how many log
records past the durable ones are found programmed (R187). Where both slots fail, the full scan runs. -/
def execStoreReady (aOk bOk : Bool) (extra : Nat) (s : State) : Out := .next <|
  if s.rb R.STO_STAT 1 || !s.rb R.RST_STAT 4 || !s.d0up || s.power.bootHeld then s
  else
  let s := if s.keys.wipePend then s.genMissing else s
  if s.wipeHeld then s
  else
    let t := s.store
    let n := min t.log.length (t.logDurable + extra)
    let written := t.ckptA.valid || t.ckptB.valid
    let kept := committedLocs (t.log.take n) []
    let cut := (committedLocs t.log []).filter fun l => !kept.contains l
    let s : State := { s with store := { (t.programLog n).dramLost.closePanes with
      log := t.log.take n
      cutLocs := t.cutLocs ++ cut } }
    let s := (s.ckptFailed 0 aOk).ckptFailed 1 bOk
    if written && !s.store.ckptA.good && !s.store.ckptB.good then
      let (d, s) := s.freeNat
      ((s.wb R.STO_STAT 8 true).post 0x48 3 0 (d % 2 ^ 32)).storeUp
    else ({ s with store.map := s.store.rebuilt } : State).storeUp

/-- R188: the scan of every programmed codeword has ended; `unreadable` are the log pages that could not be read. -/
def execMapScanned (unreadable : List Nat) (s : State) : Out := .next <|
  if s.rb R.STO_STAT 8 then
    let m := s.store.scanned unreadable
    let c : Checkpoint := { valid := true, map := m, logPos := s.store.log.length }
    (({ s with store.map := m, store.scanBase := some c } : State).wb R.STO_STAT 8 false).showRegrowth.regrowStart
  else s

/-! ### PFAILn rises (R186) -/

/-- PFAILSEEN and PFAIL mark a fall and a rise with power held (R195); what waited is programmed (R186). -/
def execPfailnRise (us : Word) (s : State) : Out := .next <|
  if s.power.pfailn then s
  else
    let seen := s.power.pfell && s.power.phase == .run
    let s := ({ s with power.pfailn := true, power.pfell := false } : State).wb R.STO_STAT 4 false
    let s := if s.store.dieTable.isSome then s.closeOpened else s
    let s := if s.rb R.STO_STAT 1 then s.wipeResume else s
    if seen then (s.flag R.STO_STAT 5).post 0x44 1 0 us.toNat else s

end Sys2Proof.Machine
end

