-- ==== Sys2Proof/Machine/Radio.lean ====
section
/-! DEFINITION. The radio (chapter 08): staged configuration, receivers, transmitter, calibration. What a transmission
means to the MAC is in Machine/Mac.lean. -/

namespace Sys2Proof.Machine

/-! ### Chains -/

def chainCode : Chain → Nat
  | .subGhz => 0
  | .ghz24 => 1

def State.chain (c : Chain) (s : State) : ChainState :=
  match c with
  | .subGhz => s.radio.sub
  | .ghz24 => s.radio.ghz

def State.setChain (c : Chain) (x : ChainState) (s : State) : State :=
  match c with
  | .subGhz => { s with radio.sub := x }
  | .ghz24 => { s with radio.ghz := x }

/-- EN and RXEN of a chain. -/
def State.chainOn (c : Chain) (s : State) : Bool := s.rb (match c with | .subGhz => R.RFS_CTL | .ghz24 => R.RF2_CTL) 0
def State.chainRx (c : Chain) (s : State) : Bool := s.rb (match c with | .subGhz => R.RFS_CTL | .ghz24 => R.RF2_CTL) 1

def chanOf : RxChan → Chain
  | .lead _ => .subGhz
  | .ghz24 => .ghz24

/-- The key of a receiver among its chain's. -/
def keyOf : RxChan → Nat
  | .lead i => i.val
  | .ghz24 => 0

/-! ### Configuration in force (R207 to R209) -/

/-- RFS_WIN or an RFS_TYMCFGn as the radio uses it. -/
def State.inForce (a : Nat) (s : State) : Word := tget resetVal s.radio.inForce a

def State.force (a : Nat) (s : State) : State :=
  { s with radio.inForce := tset resetVal s.radio.inForce a (s.rd a) }

/-- RFS_TYMCFGn takes effect; the counters of a tympanum that leads no group read 0 (R243). -/
def State.forceLead (n : Nat) (s : State) : State :=
  let s := s.force (R.RFS_TYMCFG n)
  if bit 0 (s.rd (R.RFS_TYMCFG n)) then s else s.wr (R.RFS_TYMCNT n) 0

/-- Tympana of a group whose lead holds a configuration. -/
def groupSize (w : Word) : Nat := 2 ^ fld 2 1 w

/-- The lead whose group in force holds a tympanum. -/
def State.owner (n : Nat) (s : State) : Option Nat :=
  (List.range 16).find? fun m =>
    let w := s.inForce (R.RFS_TYMCFG m)
    bit 0 w && decide (m ≤ n) && decide (n < m + groupSize w)

/-- Lead n serves a channel. -/
def State.leadOn (n : Nat) (s : State) : Bool := decide (n < 16) && bit 0 (s.inForce (R.RFS_TYMCFG n))

/-- Half the bandwidth of a channel by its OPT, in kHz (R205). -/
def halfBand (opt : Nat) : Nat :=
  match opt with
  | 0 => 100
  | 1 => 200
  | 2 => 400
  | _ => 600

/-- The checks of R208 on the staged registers: the first that fails, and the first lead it fails for. -/
def State.applyCheck (s : State) : Option (Nat × Nat) :=
  let cfg (n : Nat) : Word := s.rd (R.RFS_TYMCFG n)
  let leads := (List.range 16).filter fun n => bit 0 (cfg n)
  let bad (k : Nat) (n : Nat) : Bool :=
    match k with
    | 1 => n % groupSize (cfg n) != 0
    | 2 => leads.any fun m => decide (m < n) && decide (n < m + groupSize (cfg m))
    | 3 => decide (4900 < (sext 9 (fld 11 3 (cfg n))).natAbs * 25 + halfBand (fld 2 1 (cfg n)))
    | _ => leads.any fun m => m != n && fld 11 1 (cfg m) == fld 11 1 (cfg n)
  [1, 2, 3, 4].findSome? fun k => (leads.find? (bad k)).map fun n => (k, n)

/-- OPT of a lead in force. -/
def State.leadOpt (n : Nat) (s : State) : Nat := fld 2 1 (s.inForce (R.RFS_TYMCFG n))

/-- The centre of a receiver's channel in kHz (R205, R226, R235); a change of RF2_CTL.CH that waits is not in force. -/
def State.chanKhz (ch : RxChan) (s : State) : Nat :=
  match ch with
  | .lead i => ((fld 19 0 (s.inForce R.RFS_WIN) : Int) + 25 * sext 9 (fld 11 3 (s.inForce (R.RFS_TYMCFG i.val)))).toNat
  | .ghz24 => 2405000 + 5000 * (s.radio.ch24.getD (BitVec.ofNat 4 (s.rf R.RF2_CTL 5 2))).toNat

/-- Data bits of an OFDM symbol by OPT code and MCS (R202): the rate in kb/s over 120 µs. -/
def rateOf (opt mcs : Nat) : Option Nat :=
  match opt, mcs with
  | 3, 0 => some 100
  | 3, 1 => some 200
  | 3, 2 => some 400
  | 3, 3 => some 800
  | 2, 0 => some 50
  | 2, 1 => some 100
  | 2, 2 => some 200
  | 2, 3 => some 400
  | 2, 4 => some 600
  | 2, 5 => some 800
  | 1, 1 => some 50
  | 1, 2 => some 100
  | 1, 3 => some 200
  | 1, 4 => some 300
  | 1, 5 => some 400
  | 1, 6 => some 600
  | 0, 2 => some 50
  | 0, 3 => some 100
  | 0, 4 => some 150
  | 0, 5 => some 200
  | 0, 6 => some 300
  | _, _ => none

/-! ### Slots, as far as the radio asks (R255, R256) -/

/-- The plan's entry for a slot, and its fields (R255). -/
def State.planAt (k : Nat) (s : State) : Word := s.mac.plan.getD k 0
def planType (w : Word) : Nat := fld 3 0 w
def planLead (w : Word) : Nat := fld 7 4 w

/-- The current slot's number and type. -/
def State.curSlot (s : State) : Nat := s.rf R.MAC_SCHED 25 13
def State.slotType (s : State) : Nat := planType (s.planAt s.curSlot)

/-! ### Receivers (R210 to R212) -/

def State.rxState (ch : RxChan) (s : State) : RxState := tget (fun _ => .searching) (s.chain (chanOf ch)).rx (keyOf ch)

def State.setRx (ch : RxChan) (v : RxState) (s : State) : State :=
  let x := s.chain (chanOf ch)
  s.setChain (chanOf ch) { x with rx := tset (fun _ => .searching) x.rx (keyOf ch) v }

/-- In DOZE a receiver is powered for the listen windows that the MAC schedules (R232): the slots in which it expects frames
(R256). DEDUCED (log 115): no other time is named. -/
def State.rxPowered (s : State) : Bool :=
  s.pstate != 2 || (s.mac.running && s.mac.inSlot && [2, 3, 4, 6, 7].contains s.slotType)

/-- The receiver of a channel runs: powered, on, enabled, not blanked, calibrating, relocking or without VDD_RF; and not in the
DOZE that follows HUSH (R91). -/
def State.rxUp (ch : RxChan) (s : State) : Bool :=
  let x := s.chain (chanOf ch)
  s.d0up && !s.power.afterHush && s.rxPowered && s.chainOn (chanOf ch) && s.chainRx (chanOf ch) && !x.blanked &&
    !x.calRunning && !x.railDown.contains .rf &&
    (match ch with
      | .lead i => s.leadOn i.val && !s.radio.relock
      | .ghz24 => true)

/-- A change of RF2_CTL.CH that waited takes effect (R226). -/
def State.ch24Now (s : State) : State := { s with radio.ch24 := none }

/-- Frames in decode on a chain. -/
def ChainState.decoding (x : ChainState) : Nat := (x.rx.filter fun p => p.2 == .decoding).length

/-- A chain's receivers are blanked; frames in decode are abandoned and counted (R224, R229). -/
def State.blank (c : Chain) (s : State) : State :=
  let x := s.chain c
  let s := s.radioCount 56 x.decoding
  let s := s.setChain c { x with rx := [], blanked := true }
  match c with
  | .subGhz => s.wb R.RFS_STAT 4 true
  | .ghz24 => s

/-- Blanking ends; groups search with fresh power averages. -/
def State.unblank (c : Chain) (s : State) : State :=
  let s := s.setChain c { s.chain c with rx := [], blanked := false }
  match c with
  | .subGhz => s.wb R.RFS_STAT 4 false
  | .ghz24 => s

/-! ### Calibration (R227 to R231) -/

/-- RFS_CAL shows the sub-GHz chain's calibration. -/
def State.calShow (s : State) : State :=
  let x := s.radio.sub
  let pend := x.pendRx || x.pendTx
  let st := if x.calForced then 3 else if x.calRunning then 2 else if pend then 1 else 0
  let s := ((s.wf R.RFS_CAL 9 8 st).wb R.RFS_CAL 10 x.pendRx).wb R.RFS_CAL 11 x.pendTx
  s.wf R.RFS_CAL 15 12 x.waited

/-- A pending calibration starts: its chain is blanked. -/
def State.calStart (c : Chain) (s : State) : State :=
  let s := s.blank c
  let x := s.chain c
  let s := (s.setChain c { x with
    calRunning := true, runRx := x.pendRx, runTx := x.pendTx, pendRx := false, pendTx := false }).calShow
  if c = .ghz24 then s.ch24Now else s

/-- A calibration of the chain is pending and could start now: none runs, nothing is sent, and the chain has its rail (R55,
R91, R229). -/
def State.calCan (c : Chain) (s : State) : Bool :=
  let x := s.chain c
  (x.pendRx || x.pendTx) && !x.calRunning && x.tx.isNone && s.chainOn c && !s.power.afterHush && !x.railDown.contains .rf

/-- R229: a FORCED calibration starts once no frame is being sent; a pending one at once after EN rose, and with no
schedule as soon as every receiver searches too. It stays pending in the DOZE that follows HUSH (R91), and without VDD_RF
(R55). -/
def State.calPoll (c : Chain) (s : State) : State :=
  let x := s.chain c
  let idle := !x.blanked && x.rx.all fun p => p.2 == .searching
  let free := c == .ghz24 || !s.mac.running
  if !s.calCan c then s
  else if x.calForced || x.firstCal || (free && idle) then s.calStart c
  else s

/-- A request merges with one that is pending (R228). -/
def State.calRequest (c : Chain) (rx tx : Bool) (s : State) : State :=
  if !s.chainOn c then s
  else
    let x := s.chain c
    let w := if x.pendRx || x.pendTx then x.waited else 0
    ((s.setChain c { x with pendRx := x.pendRx || rx, pendTx := x.pendTx || tx, waited := w }).calShow).calPoll c

/-- R229: a pending calibration becomes FORCED. -/
def State.calForce (c : Chain) (s : State) : State :=
  let x := s.chain c
  if (x.pendRx || x.pendTx) && !x.calRunning then
    ((s.setChain c { x with calForced := true }).calShow).calPoll c
  else s

/-- The steps a calibration runs (R227). -/
def calSteps (c : Chain) (x : ChainState) : List Nat :=
  (if x.runRx then [1, 2] else []) ++ (if x.runTx then (if c = .subGhz then [3, 4, 5, 6] else [3, 4]) else [])

/-- Whether a step failed. Step 6 fails where some option meets the mask at no code. -/
def calFailed (r : CalResult) (k : Nat) : Bool :=
  r.fails.getLsbD (k - 1) || (k == 6 && (r.mask4.isNone || r.mask3.isNone || r.mask2.isNone || r.mask1.isNone))

/-- RFS_PCLAMP after a transmit calibration (R227, R231). -/
def State.calClamp (r : CalResult) (s : State) : State :=
  let fail6 := calFailed r 6
  let one (hi lo : Nat) (m : Option (BitVec 6)) (s : State) : State :=
    let v := match m with
      | none => 0
      | some c => if fail6 then s.rf R.RFS_PCLAMP hi lo else c.toNat
    s.wf R.RFS_PCLAMP hi lo (if calFailed r 5 then min v r.paCode.toNat else v)
  one 29 24 r.mask1 (one 21 16 r.mask2 (one 13 8 r.mask3 (one 5 0 r.mask4 s)))

/-- RFS_CALSTAT after a calibration of the sub-GHz chain (R239). -/
def State.calStat (x : ChainState) (r : CalResult) (first run : Nat) (s : State) : State :=
  let s := (s.wf R.RFS_CALSTAT 7 0 s.radio.temp.toNat).wf R.RFS_CALSTAT 12 10 first
  let s := s.wf R.RFS_CALSTAT 31 24 run
  let s := if x.runRx then s.wb R.RFS_CALSTAT 8 (!(calFailed r 1 || calFailed r 2)) else s
  if x.runTx then (s.wb R.RFS_CALSTAT 9 (!([3, 4, 5, 6].any (calFailed r)))).calClamp r else s

/-- The values in force of a calibration step: those last set since reset, else the factory trims (R231). -/
def State.calVal (c : Chain) (k : Nat) (s : State) : Word :=
  (tget (fun _ => none) (s.chain c).calVals k).getD (Config.trim (chainCode c) k)

/-- Steps 1 to 5 that passed set their values; one that failed leaves what was in force (R227, R231). -/
def calSets (c : Chain) (x : ChainState) (r : CalResult) : Tbl (Option Word) :=
  ((calSteps c x).filter fun k => decide (k ≤ 5) && !calFailed r k).foldl
    (fun t k => tset (fun _ => none) t k (some (r.values.getD (k - 1) 0))) x.calVals

/-- R231: a calibration finishes its steps; the health block counts failures in a row per chain (R549, R560). -/
def State.calDone (c : Chain) (r : CalResult) (s : State) : State :=
  let x := s.chain c
  let bad := (calSteps c x).filter (calFailed r)
  let first := bad.headD 0
  let run := if bad.isEmpty then 0 else min 255 (x.failRun + 1)
  let t := s.radio.temp.toNat
  let s := if c = .subGhz then s.calStat x r first run else s
  let lo := 12 + 4 * chainCode c
  let s := s.wf R.HLT_CNT (lo + 3) lo (if bad.isEmpty then 0 else min 15 (s.rf R.HLT_CNT (lo + 3) lo + 1))
  let s := if bad.isEmpty then s else s.post 0x22 2 (chainCode c) (first + 256 * run)
  let s := (s.post 0x21 0 (chainCode c)
    (b2n x.runRx + 2 * b2n x.runTx + 4 * b2n x.calForced + 256 * t)).radioCount 120 1
  let y : ChainState := { x with
    calRunning := false, runRx := false, runTx := false, calForced := false, firstCal := false, failRun := run
    calTemp := s.radio.temp, calVals := calSets c x r }
  (((s.setChain c y).unblank c).calShow).calPoll c

def execCalComplete (chain : Chain) (r : CalResult) (s : State) : Out := .next <|
  if (s.chain chain).calRunning && s.d0up then s.calDone chain r else s

/-- R229: with no schedule, a request pending for 100 ms is forced. -/
def execCalNoschedTimeout (chain : Chain) (s : State) : Out := .next <|
  if chain = .ghz24 || !s.mac.running then s.calForce chain else s

/-- R228: role 6 has not restored the results within 1 ms of LOGRDY after HUSH. -/
def execCalWakeTimeout (s : State) : Out := .next <|
  if s.radio.wakeCalWait then
    (({ s with radio.wakeCalWait := false } : State).calRequest .subGhz true true).calRequest .ghz24 true true
  else s

/-- R228: the temperature has moved by TDELTA or more since a chain's last calibration. -/
def State.tempCal (s : State) : State :=
  let td := s.rf R.RFS_CAL 6 2
  let t := s.radio.temp.toNat
  let moved (x : ChainState) : Bool :=
    td != 0 && x.calTemp != 0 && decide (td ≤ max t x.calTemp.toNat - min t x.calTemp.toNat)
  let s := if moved s.radio.sub then s.calRequest .subGhz true true else s
  if moved s.radio.ghz then s.calRequest .ghz24 true true else s

/-! ### Applying a configuration (R209) -/

/-- Leads whose staged register differs from the one in force. -/
def State.changedLeads (s : State) : List Nat :=
  (List.range 16).filter fun n => s.rd (R.RFS_TYMCFG n) != s.inForce (R.RFS_TYMCFG n)

def State.winChanged (s : State) : Bool := s.rd R.RFS_WIN != s.inForce R.RFS_WIN

/-- Groups in force that share a tympanum with lead n's, as it is or as it is staged: they stop when its change takes
effect, and change themselves (R207, R208). -/
def State.touching (n : Nat) (s : State) : List Nat :=
  let range (k : Nat) (w : Word) : List Nat := if bit 0 w then (List.range (groupSize w)).map (k + ·) else []
  let mine := range n (s.inForce (R.RFS_TYMCFG n)) ++ range n (s.rd (R.RFS_TYMCFG n))
  (List.range 16).filter fun k => (range k (s.inForce (R.RFS_TYMCFG k))).any mine.contains

/-- One of those groups is past its detection. -/
def State.leadBusy (n : Nat) (s : State) : Bool :=
  (s.touching n).any fun m => tget (fun _ => RxState.searching) s.radio.sub.rx m != .searching

/-- One lead's register takes effect: its group stops. -/
def State.applyOne (s : State) (n : Nat) : State :=
  let s := s.forceLead n
  { s with
    radio.sub.rx := tset (fun _ => RxState.searching) s.radio.sub.rx n .searching
    radio.waiting := s.radio.waiting.filter (· != n) }

/-- A lead's change takes effect, with that of every group it displaces. -/
def State.applyLead (n : Nat) (s : State) : State := ((s.touching n) ++ [n]).foldl State.applyOne s

/-- A window change relocks the receive synthesiser. -/
def State.applyWin (s : State) : State :=
  { s.force R.RFS_WIN with radio.relock := true, radio.sub.rx := [] }

/-- What waits takes effect as far as it can, a window change once every tympanum is searching; APPLYBUSY and RXLO follow. -/
def State.applyProgress (s : State) : State :=
  let searching := s.radio.sub.rx.all fun p => p.2 == .searching
  let s := if s.winChanged && s.radio.waiting.isEmpty && searching then s.applyWin else s
  (s.wb R.RFS_STAT 5 (s.radio.relock || s.winChanged || !s.radio.waiting.isEmpty)).wb R.RFS_STAT 1
    (s.chainOn .subGhz && !s.radio.relock)

/-- Reload the staged registers with what is in force (R208). -/
def State.restage (s : State) : State :=
  ((List.range 16).foldl (fun s n => s.wr (R.RFS_TYMCFG n) (s.inForce (R.RFS_TYMCFG n))) s).wr R.RFS_WIN
    (s.inForce R.RFS_WIN)

/-- GO of RFS_APPLY. -/
def State.applyGo (wait : Bool) (s : State) : State :=
  match s.applyCheck with
  | some (k, n) =>
    (((s.flag R.RFS_STAT 6).wf R.RFS_STAT 9 7 k).post 0x23 1 0 (k + 256 * n)).restage
  | none =>
    let leads := s.changedLeads
    if wait then
      let s : State := { s with radio.waiting := leads.filter fun n => s.leadBusy n }
      let now := (leads.flatMap fun n => if s.leadBusy n then [] else s.touching n ++ [n]).filter fun n => !s.leadBusy n
      (now.foldl State.applyOne s).applyProgress
    else
      let lost := if s.winChanged then s.radio.sub.decoding
        else ((leads.flatMap s.touching).eraseDups.filter fun m =>
          tget (fun _ => RxState.searching) s.radio.sub.rx m == .decoding).length
      let s := (leads.foldl (fun s n => s.applyLead n) s).radioCount 48 lost
      (if s.winChanged then s.applyWin else s).applyProgress

/-- A write of RFS_APPLY (R208, R209). -/
def State.rfsApply (w : Word) (s : State) : State :=
  if s.rb R.RFS_STAT 5 then s.flag R.RFS_STAT 0
  else if bit 0 w then (s.applyGo (bit 1 w)).calPoll .subGhz else s

/-- A write of RFS_WIN or an RFS_TYMCFGn is staged (R209). -/
def State.rfsStage (a : Nat) (w : Word) (s : State) : State :=
  if s.rb R.RFS_STAT 5 then s.flag R.RFS_STAT 0 else s.writeReg a w

def execApplyTakesEffect (lead : Fin 16) (s : State) : Out := .next <|
  if !s.rb R.RFS_STAT 5 then s
  else
    let s := if s.radio.waiting.contains lead.val && !s.leadBusy lead.val then s.applyLead lead.val else s
    s.applyProgress.calPoll .subGhz

def execRxRelockDone (s : State) : Out := .next <|
  if s.radio.relock then (({ s with radio.relock := false } : State).applyProgress).calPoll .subGhz else s

/-! ### Reception rows -/

/-- R210: a crossing of the threshold starts the qualifier. -/
def execDetectionStart (ch : RxChan) (s : State) : Out := .next <|
  if s.rxUp ch && s.rxState ch == .searching then s.setRx ch .qualifying else s

/-- R211: the qualifier passes; the gain is held from here on. -/
def execQualifierPass (ch : RxChan) (s : State) : Out := .next <|
  if s.rxUp ch && s.rxState ch == .qualifying then s.setRx ch .decoding else s

/-- R211: a crossing without a pass. -/
def execFalseDetection (ch : RxChan) (s : State) : Out := .next <|
  if s.rxState ch == .qualifying then
    let s := s.setRx ch .searching
    let s := match ch with
      | .lead i => s.count (R.RFS_TYMCNT i.val) 15 0 1
      | .ghz24 => s.count R.RF2_STAT 31 16 1
    s.calPoll (chanOf ch)
  else s

/-- A report of power, saturated at both ends (R216). -/
def satRssi (r : BitVec 16) : BitVec 16 := BitVec.ofInt 16 (max (-560) (min 40 r.toInt))

/-- A decoded frame is one of a mode of R202 and of the receiver's option, its PSDU, with the FCS of 2 octets at least, of at
most 2,047 octets (R203, R216). -/
def State.frameOk (ch : RxChan) (f : RxFrame) (s : State) : Bool :=
  let mcs := f.mode.toNat % 16
  decide (f.frame.body.length + f.frame.mic.length + 2 ≤ 2047) &&
    match ch with
    | .ghz24 => f.mode.toNat == 0x50
    | .lead i => f.mode.toNat == (4 - s.leadOpt i.val) * 16 + mcs && (rateOf (s.leadOpt i.val) mcs).isSome

/-- The SHR of a channel's frames in µs (R260). PRESUMED (log 149): 4 STF and 2 LTF symbols of 120 µs at every option, as the
worked example of R267 counts them; a preamble of 4 octets and the SFD of O-QPSK, as IEEE 802.15.4 has them. -/
def shrOf : RxChan → Nat
  | .lead _ => 720
  | .ghz24 => 160

/-- TSTAMP reads the MAC timer (R216, R255). DESIGN CHOICE (log 73): rows bring time with them, so a stamp that is up to 400 ms,
the longest frame, before the timer or past it is the frame's, and the timer goes on to one past it; any other reads the timer as
it stands. -/
def State.stampNear (t : Word) (s : State) : Bool := decide ((t - s.mac.timer).toInt.natAbs ≤ 400000)
def State.stamped (t : Word) (s : State) : Word := if s.stampNear t then t else s.mac.timer

/-- The MAC timer has come to t, if it had not passed it. -/
def State.timerTo (t : Word) (s : State) : State :=
  if 0 ≤ (t - s.mac.timer).toInt then { s with mac.timer := t } else s

/-- R203, R215: a frame's decode ends. A good frame, its report in range, is handed to the MAC hardware; a PHR that the PHY
does not have is a header error. -/
def execFrameDecoded (ch : RxChan) (r : Decode) (s : State) : Out := .next <|
  if s.rxState ch == .decoding then
    let s := s.setRx ch .searching
    let bad (s : State) : State :=
      match ch with
      | .lead i => s.count (R.RFS_TYMCNT i.val) 23 16 1
      | .ghz24 => s.radioCount 32 1
    let s := match r with
      | .ok f =>
        if s.frameOk ch f then
          let f : RxFrame := { f with ch, rssi := satRssi f.rssi, tstamp := s.stamped f.tstamp, shr := shrOf ch }
          ({ s with mac.handed := s.mac.handed ++ [f] } : State).timerTo f.tstamp
        else bad s
      | .headerError => bad s
      | .fcsFail =>
        match ch with
        | .lead i => s.count (R.RFS_TYMCNT i.val) 31 24 1
        | .ghz24 => s.radioCount 40 1
    (if ch = .ghz24 then s.ch24Now else s).calPoll (chanOf ch)
  else s

/-- R206: the gain steps by 6 dB: down at any time, up only while no frame is in decode. -/
def execAgcStep (up : Bool) (s : State) : Out := .next <|
  let n := s.radio.sub.decoding
  if !s.chainOn .subGhz || !s.d0up then s
  else if up then (if n = 0 ∧ s.radio.gain < 10 then { s with radio.gain := s.radio.gain + 1 } else s)
  else if s.radio.gain = 0 then s
  else
    let s : State := { s with radio.gain := s.radio.gain - 1 }
    if n = 0 then s else s.radioCount 64 1

/-- R219, R230: the MAC asks for an energy measurement; a channel that is not configured, or is blanked or
calibrating, is refused. DESIGN CHOICE (log 116): so is one whose receiver does not run for another reason, RXEN = 0 or a
relock of the synthesiser, which R219 does not name. -/
def State.energyStart (ch : RxChan) (s : State) : State :=
  if s.rxUp ch then
    let x := s.chain (chanOf ch)
    s.setChain (chanOf ch) { x with ed := tset (fun _ => false) x.ed (keyOf ch) true }
  else s.radioCount 112 1

def execEnergyDetect (ch : RxChan) (s : State) : Out := .next (s.energyStart ch)

/-! ### Transmitting (R220 to R223, R226) -/

/-- The refusal code of a strobe (R220). While a calibration runs every strobe is refused with CAL (R230). DESIGN CHOICE
(log 117): where several other reasons hold, the lowest code is reported; the spec gives no order. -/
def State.strobeRefused (t : TxReq) (s : State) : Option Nat :=
  let x := s.chain t.chain
  if !s.chainOn t.chain then some 1
  else if x.tx.isSome then some 2
  else if x.calRunning then some 4
  else if !t.locked then some 3
  else if !x.railDown.isEmpty then some 5
  else none

/-- A strobe finds the transmit synthesiser without lock: TXLO, or LO of the 2.4 GHz chain, reads 0 (R234, R248). -/
def State.loLost (c : Chain) (s : State) : State :=
  match c with
  | .subGhz => s.wb R.RFS_STAT 2 false
  | .ghz24 => s.wb R.RF2_STAT 1 false

/-- RFS_PCLAMP's field of an option, by its OPT code. -/
def State.clampOf (opt : Nat) (s : State) : Nat := s.rf R.RFS_PCLAMP (8 * opt + 5) (8 * opt)

/-- The power code of a frame, and whether PCLAMP or ramp mode lowered it (R221, R226). -/
def State.txPower (t : TxReq) (s : State) : Nat × Bool :=
  match t.chain with
  | .ghz24 => ((t.power.map (·.toNat)).getD (s.rf R.RF2_CTL 10 6), false)
  | .subGhz =>
    let want := min ((t.power.map (·.toNat)).getD (s.rf R.RFS_TXCFG 11 6)) (s.rf R.RFS_TXCFG 5 0)
    let p := min want (s.clampOf t.opt.toNat)
    let p := if s.rb R.RFS_STAT 10 then min p 40 else p
    (p, decide (p < want))

/-- The words of FIR and MASK in order (R222). -/
def State.txTables (s : State) : List Word :=
  ((List.range 32).map fun i => s.rd (R.RFS_FIR i)) ++ ((List.range 16).map fun i => s.rd (R.RFS_MASK i))

/-- The PA ramp of a chain in µs (R223, R226), and the time from a strobe to the first sample at the antenna. -/
def State.rampUs (c : Chain) (s : State) : Nat :=
  match c with
  | .ghz24 => 2
  | .subGhz => if s.rb R.RFS_STAT 10 then s.rf R.RFS_TXCFG 20 14 else 2
def State.strobeLead (c : Chain) (s : State) : Nat :=
  match c with
  | .ghz24 => 8
  | .subGhz => 14 + s.rampUs .subGhz

/-- SHR and PHR of an option in µs: 4 STF and 2 LTF symbols, and a PHR of 6 symbols, or 3 for option 1. -/
def headUs (opt : Nat) : Nat := if opt = 3 then 1080 else 1440

/-- A sub-GHz frame's air time in µs. -/
def airtime (opt mcs octets : Nat) : Nat :=
  match rateOf opt mcs with
  | none => 0
  | some r => headUs opt + (8 * octets + 6 + r * 120 / 1000 - 1) / (r * 120 / 1000) * 120

/-- The air time of a frame of so many octets, FCS and all; at 2.4 GHz an octet takes 32 µs, and 6 go before the PSDU. -/
def txAir (t : TxReq) (octets : Nat) : Nat :=
  match t.chain with
  | .subGhz => airtime t.opt.toNat t.mcs.toNat octets
  | .ghz24 => 32 * (octets + 6)

/-- When the frame being sent ends (MAC timer). -/
def State.txEnd (c : Chain) (t : TxReq) (s : State) : Word :=
  let x := s.chain c
  let octets := match x.txFrame with
    | some f => f.body.length + f.mic.length + x.txFcs.length
    | none => 0
  x.txStart + BitVec.ofNat 32 (s.strobeLead c + txAir t octets)

/-- A strobe that is not refused: blanking starts and the frame is sent (R223, R226). DESIGN CHOICE (log 118): TXLO reads 1
from such a strobe on, until the lock is lost, a strobe finds none, or EN falls; the spec does not say when the synthesiser
is tuned. -/
def State.strobe (t : TxReq) (s : State) : State :=
  let (p, low) := s.txPower t
  let s := s.blank t.chain
  let s := s.setChain t.chain { s.chain t.chain with tx := some t, txStart := s.mac.timer, power := BitVec.ofNat 6 p }
  match t.chain with
  | .subGhz =>
    let s := ((s.wb R.RFS_STAT 3 true).wb R.RFS_STAT 2 true).radioCount 80 1
    let s := { s with radio.txTables := s.txTables }
    if low then s.radioCount 72 1 else s
  | .ghz24 => ((s.wb R.RF2_STAT 2 true).wb R.RF2_STAT 1 true).radioCount 88 1

/-- A chain no longer sends. -/
def State.txOff (c : Chain) (s : State) : State :=
  let s := s.setChain c { s.chain c with tx := none, txFrame := none, txFcs := [] }
  match c with
  | .subGhz => s.wb R.RFS_STAT 3 false
  | .ghz24 => (s.wb R.RF2_STAT 2 false).ch24Now

/-- R223 step 7, R226: blanking ends. -/
def execBlankingEnd (chain : Chain) (s : State) : Out := .next <|
  let x := s.chain chain
  if x.blanked && x.tx.isNone && !x.calRunning then (s.unblank chain).calPoll chain else s

/-- The CRC of R222 over the tables. -/
def State.tableCrc (s : State) : Word := crc32 (s.txTables.flatMap fun w => leBytes 4 w.toNat)

/-- A write of RFS_TXCFG (R222). -/
def State.txcfgWrite (w : Word) (s : State) : State :=
  let s := s.writeReg R.RFS_TXCFG w
  if !bit 12 w then s.wb R.RFS_STAT 10 true
  else if s.tableCrc == s.rd R.RFS_TXCRC then s.wb R.RFS_STAT 10 false
  else ((s.wb R.RFS_STAT 10 true).flag R.RFS_STAT 11).post 0x23 1 0 (7 + 65536 * fld 31 16 s.tableCrc)

/-- A write of an FIR or MASK register returns the transmitter to ramp mode (R222). That the device sets MODE to 0 then is no
write of a locked field (R7). -/
def State.tableWrite (a : Nat) (w : Word) (s : State) : State :=
  let s := s.writeReg a w
  if !s.rb R.RFS_TXCFG 12 then s
  else (s.wb R.RFS_TXCFG 12 false).wb R.RFS_STAT 10 true

/-! ### RFS_CTL, RF2_CTL, RFS_CAL (R233, R238, R247) -/

/-- EN of a chain has risen or fallen. The blanking of a transmission goes on to its own end (R224). -/
def State.chainSwitch (c : Chain) (old : Bool) (s : State) : State :=
  let new := s.chainOn c
  let x := s.chain c
  if new && !old then
    (s.setChain c { x with firstCal := true }).calRequest c true true
  else if old && !new then
    let s := s.setChain c { x with
      rx := [], pendRx := false, pendTx := false, calRunning := false, calForced := false, ed := [] }
    (if x.calRunning then s.unblank c else s).calShow
  else s

/-- Receivers whose RXEN fell and that are in no frame search no more. -/
def State.rxenNow (c : Chain) (s : State) : State :=
  let x := s.chain c
  if s.chainRx c then s else s.setChain c { x with rx := x.rx.filter fun p => p.2 == .decoding }

def State.rfsCtlWrite (w : Word) (s : State) : State :=
  let old := s.chainOn .subGhz
  let s := ((s.writeReg R.RFS_CTL w).chainSwitch .subGhz old).rxenNow .subGhz
  let on := s.chainOn .subGhz
  (s.wb R.RFS_STAT 1 (on && !s.radio.relock)).wb R.RFS_STAT 2 (on && s.rb R.RFS_STAT 2)

/-- A write of RF2_CTL. DESIGN CHOICE (log 119): RF2_STAT.LO reads 1 from EN = 1 on, until a strobe finds the synthesiser
without lock; the spec gives no lock time for it. -/
def State.rf2CtlWrite (w : Word) (s : State) : State :=
  let old := s.chainOn .ghz24
  let ch := s.radio.ch24.getD (BitVec.ofNat 4 (s.rf R.RF2_CTL 5 2))
  let x := s.radio.ghz
  let s := s.writeReg R.RF2_CTL w
  let s : State := if x.decoding = 0 ∧ x.tx.isNone then s.ch24Now else { s with radio.ch24 := some ch }
  let s := (s.chainSwitch .ghz24 old).rxenNow .ghz24
  if s.chainOn .ghz24 == old then s else s.wb R.RF2_STAT 1 (s.chainOn .ghz24)

def State.rfsCalWrite (w : Word) (s : State) : State :=
  let s := s.writeReg R.RFS_CAL w
  if bit 0 w || bit 1 w then
    (s.calRequest .subGhz (bit 0 w) (bit 1 w)).calRequest .ghz24 (bit 0 w) (bit 1 w)
  else s

/-- R232: on a wake the CRC is checked before FIR mode may resume. -/
def State.firCheck (s : State) : State :=
  s.wb R.RFS_STAT 10 !(s.rb R.RFS_TXCFG 12 && s.tableCrc == s.rd R.RFS_TXCRC)

/-- R232: what HUSH takes from the radio, seen at LOGRDY of the wake; FIR mode resumes only on a matching CRC. -/
def State.radioAfterHush (s : State) : State :=
  let s := s.resetRegs fun a => (a / 65536 == 7 && (a == R.RFS_STAT || (decide (R.RFS_CAL ≤ a) && decide (a ≤ R.RFS_PCLAMP)) ||
    (decide (R.RFS_TYMCNT 0 ≤ a) && decide (a < R.RFS_FIR 0)))) || a == R.RF2_STAT
  let sub : ChainState := { railDown := s.radio.sub.railDown, firstCal := false }
  let s : State := { s with radio.sub := sub, radio.ghz := sub, radio.relock := false, radio.waiting := [], radio.wakeCalWait := true, radio.ch24 := none }
  let s := s.firCheck
  (s.wb R.RFS_STAT 1 (s.chainOn .subGhz)).wb R.RF2_STAT 1 (s.chainOn .ghz24)

/-- Both chains are without a rail, or have it again (R225, R55). -/
def State.setRail (r : RadioRail) (down : Bool) (s : State) : State :=
  let f (x : ChainState) : ChainState :=
    let l := x.railDown.filter (· != r)
    { x with railDown := if down then r :: l else l }
  { s with radio.sub := f s.radio.sub, radio.ghz := f s.radio.ghz }

/-- RAILFAIL of both chains, and its events (R225). -/
def State.railShow (s : State) (r : RadioRail) : State :=
  let d := if r = .pa then 0 else 1
  (((s.flag R.RFS_STAT 12).post 0x24 1 0 d).flag R.RF2_STAT 3).post 0x24 1 1 d

/-- D0 runs again: it shows the rails that fell meanwhile. -/
def State.railsSeen (s : State) : State :=
  s.radio.railFell.foldl State.railShow { s with radio.railFell := [] }

end Sys2Proof.Machine
end

