-- ==== Sys2Proof/Machine/Nodes.lean ====
section
/-! DEFINITION. The MAC's node table and its cache (R264 to R268), node states (R269, R270), guard times (R260), the
slot plan (R255, R267) and the admin commands on them. -/

namespace Sys2Proof.Machine

/-! ### The table and its cache -/

/-- The entry in DRAM, and as the device uses it: the cached copy where there is one (R265). -/
def State.dramNode (i : Nat) (s : State) : Node := tget (fun _ => ({} : Node)) s.mac.nodes i
def State.node (i : Nat) (s : State) : Node :=
  if s.mac.cached.contains i then tget (fun _ => ({} : Node)) s.mac.cache i else s.dramNode i

/-- The H fields of one entry with the D fields of another (R264); STATE is both, and goes by `host`. -/
def mergeNode (h d : Node) (host : Bool) : Node :=
  { d with
    extaddr := h.extaddr, short := h.short, panid := h.panid, state := if host then h.state else d.state
    flags := h.flags, keyslot := h.keyslot, seclvl := h.seclvl, cslot := h.cslot, ctym := h.ctym, cint := h.cint
    cphase := h.cphase, drift := h.drift, host := h.host }

def State.setDram (i : Nat) (n : Node) (s : State) : State :=
  { s with mac.nodes := tset (fun _ => ({} : Node)) s.mac.nodes i n }

/-- A cached entry is dropped without its D fields (R26). -/
def State.dropCached (i : Nat) (s : State) : State :=
  { s with
    mac.cache := tset (fun _ => ({} : Node)) s.mac.cache i {}
    mac.cached := s.mac.cached.filter (· != i)
    mac.written := s.mac.written.filter (· != i) }

/-- The D fields of a cached entry go back to DRAM. -/
def State.writeBack (i : Nat) (s : State) : State :=
  if s.mac.cached.contains i then
    s.setDram i (mergeNode (s.dramNode i) (s.node i) (s.mac.written.contains i))
  else s

/-- Write back and drop a cached entry. -/
def State.evict (i : Nat) (s : State) : State := (s.writeBack i).dropCached i

/-- An entry is used: it is cached, the least recently used going where 512 are (R265). -/
def State.touch (i : Nat) (s : State) : State :=
  if s.mac.cached.contains i then { s with mac.cached := i :: s.mac.cached.filter (· != i) }
  else
    let s := match s.mac.cached.getLast? with
      | some j => if 512 ≤ s.mac.cached.length then s.evict j else s
      | none => s
    { s with
      mac.cache := tset (fun _ => ({} : Node)) s.mac.cache i (s.dramNode i)
      mac.cached := i :: s.mac.cached }

/-- The device updates an entry in its cached copy. -/
def State.modNode (i : Nat) (f : Node → Node) (s : State) : State :=
  let s := s.touch i
  { s with mac.cache := tset (fun _ => ({} : Node)) s.mac.cache i (f (s.node i)) }

/-- Entries that may not be FREE. -/
def State.nodeKeys (s : State) : List Nat := ((s.mac.nodes.map (·.1)) ++ s.mac.cached).eraseDups

/-- Every cached entry is written back, as before DRAM enters self-refresh (R265). -/
def State.nodesBack (s : State) : State := s.mac.cached.foldl (fun s i => s.writeBack i) s

/-- The entry a source address names (R253). -/
def State.findNode (a : Addr) (s : State) : Option Nat :=
  s.nodeKeys.find? fun i =>
    let n := s.node i
    n.state != 0 && match a with
      | .absent => false
      | .ext _ e => n.extaddr == e
      | .short p x => x != 0xFFFF && n.short == x && n.panid == p

/-! ### Cells, plan and guard -/

def State.cseq (s : State) : Nat := s.rf R.MAC_STAT 31 16

/-- An entry names a cell. -/
def Node.hasCell (n : Node) : Bool := n.cslot != 0xFFFF && n.cint != 0xFF

/-- A node holds its cell (R269). -/
def Node.holds (n : Node) : Bool := n.hasCell && decide (1 ≤ n.state) && decide (n.state ≤ 3)

/-- A cell names a SHARED slot, or a SINGLE slot with its lead (R259). -/
def State.cellOk (n : Node) (s : State) : Bool :=
  let w := s.planAt n.cslot.toNat
  decide (n.cslot.toNat < s.mac.plan.length) &&
    (planType w == 2 || (planType w == 3 && planLead w == n.ctym.toNat))

/-- This period is one in which the node croaks. -/
def State.croaksNow (n : Node) (s : State) : Bool := s.cseq % 2 ^ n.cint.toNat == n.cphase.toNat

/-- DRIFT of an entry, in 0.1 ppm (R260). -/
def State.driftOf (n : Node) (s : State) : Nat := if n.drift = 0 then s.rf R.MAC_GUARD 19 10 else n.drift.toNat

/-- G0 + DRIFT x elapsed in 1/327,680 µs, and in µs; elapsed is in 1/32,768 s (R260). -/
def State.guardUnits (drift elapsed : Nat) (s : State) : Nat := 327680 * s.rf R.MAC_GUARD 9 0 + drift * elapsed
def State.guardFor (drift elapsed : Nat) (s : State) : Nat := s.guardUnits drift elapsed / 327680

/-- It would exceed 5,000 µs (R262). -/
def State.guardOver (drift elapsed : Nat) (s : State) : Bool := decide (5000 * 327680 < s.guardUnits drift elapsed)

/-- The RTC count when the MAC timer reads t, from what both read now. -/
def State.rtcAt (t : Word) (s : State) : Nat :=
  ((s.count64.toNat : Int) + (t - s.mac.timer).toInt * 32768 / 1000000).toNat

/-- The time from an entry's LASTCONTACT to an expected start (R260). -/
def State.elapsed (e : Expect) (s : State) : Nat := s.rtcAt e.start - e.entry.lastContact.toNat
def State.rawGuard (e : Expect) (s : State) : Nat := s.guardFor (s.driftOf e.entry) (s.elapsed e)
def State.guardWide (e : Expect) (s : State) : Bool := s.guardOver (s.driftOf e.entry) (s.elapsed e)

/-- The guard in force at a croak (R260, R262); an ADRIFT node's is 5,000 µs (R269). -/
def State.guard (e : Expect) (s : State) : Nat := if (s.node e.node).state = 2 then 5000 else min 5000 (s.rawGuard e)

/-! ### Node states -/

/-- A node's cell is freed (R259, R270). -/
def State.freeCell (i : Nat) (s : State) : State :=
  let n := s.node i
  (s.modNode i fun n => { n with state := 4, holdLeft := 0 }).post 0x13 0 i n.cslot.toNat

/-- R262: at a croak whose guard as computed exceeds 5,000 µs an ACTIVE node becomes ADRIFT. -/
def State.adriftNow (e : Expect) (s : State) : State :=
  if (s.node e.node).state == 1 && s.guardWide e && !e.judged then
    (s.modNode e.node fun n => { n with state := 2 }).post 0x11 0 e.node (s.elapsed e * 1000 / 32768)
  else s

/-- R260, R262: a contact before a croak's expected start shortens the time that its guard goes by; one after it finds the
croak judged. -/
def State.contactExpect (t : Dword) (s : State) (e : Expect) : Expect :=
  if t.toNat ≤ s.rtcAt e.start then
    let n : Node := { e.entry with lastContact := t }
    { e with entry := n }
  else { e with judged := true }

/-- A contact (R269). -/
def State.contact (i : Nat) (s : State) : State :=
  let t := s.count64
  let past := s.mac.expected.filter fun e => e.node == i && decide (s.rtcAt e.start < t.toNat)
  let s := past.foldl (fun s e => s.adriftNow e) s
  let s : State := { s with mac.expected := s.mac.expected.map fun e => if e.node = i then s.contactExpect t e else e }
  let n := s.node i
  let back := n.state == 2 || n.state == 3
  let s := s.modNode i fun n => { n with
    misses := 0, lastContact := t, state := if back then 1 else n.state, holdLeft := if back then 0 else n.holdLeft }
  if back then s.post 0x12 0 i n.state else s

/-- A croak is missed (R262, R270): at the third in a row the node is LOST, and R262 posts nothing. -/
def State.croakMissed (e : Expect) (s : State) : State :=
  let i := e.node
  let m := (s.node i).misses + 1
  let s := s.modNode i fun n => { n with
    misses := m, misstotal := if n.misstotal = 0xFFFF then n.misstotal else n.misstotal + 1 }
  if 3 ≤ m then
    ((s.modNode i fun n => { n with state := 3, holdLeft := 16 }).post 0x10 1 i s.cseq).lostMarker i s.cseq
  else s.adriftNow e

/-! ### NODE-WRITE, NODE-INVALIDATE, NODE-READ (R264, R266) -/

/-- The H fields of a buffer. -/
def nodeOf (b : BitVec 1024) : Node :=
  let f (off size : Nat) : Nat := nat64 b.toNat off size
  { extaddr := BitVec.ofNat 64 (f 0 8), short := BitVec.ofNat 16 (f 8 2), panid := BitVec.ofNat 16 (f 10 2), state := f 12 1
    flags := BitVec.ofNat 8 (f 13 1), keyslot := BitVec.ofNat 8 (f 14 1), seclvl := BitVec.ofNat 8 (f 15 1)
    cslot := BitVec.ofNat 16 (f 16 2), ctym := BitVec.ofNat 8 (f 18 1), cint := BitVec.ofNat 8 (f 19 1)
    cphase := BitVec.ofNat 8 (f 20 1), drift := BitVec.ofNat 16 (f 60 2), host := BitVec.ofNat 416 (f 76 52) }

/-- An entry's bytes as NODE-READ writes them. -/
def Node.bytes (n : Node) : List Byte :=
  bvBytes 8 n.extaddr ++ bvBytes 2 n.short ++ bvBytes 2 n.panid ++ [BitVec.ofNat 8 n.state, n.flags, n.keyslot, n.seclvl] ++
    bvBytes 2 n.cslot ++ [n.ctym, n.cint, n.cphase] ++ leBytes 3 0 ++ bvBytes 8 n.lastContact ++ bvBytes 4 n.rxfc ++
    (List.range 4).flatMap (fun k => match n.dup[k]? with
      | some p => bvBytes 4 p.fc ++ [p.seq]
      | none => leBytes 5 0) ++
    [BitVec.ofNat 8 n.dupNext, BitVec.ofNat 8 n.misses, n.rssic, n.lqi] ++ bvBytes 2 n.drift ++
    leBytes 2 n.holdLeft ++ bvBytes 4 n.rxcount ++ bvBytes 2 n.dupcount ++ bvBytes 2 n.authfail ++ bvBytes 2 n.misstotal ++
    bvBytes 2 n.offset ++ bvBytes 52 n.host

/-- The guard at one interval of a cell fits (R263). -/
def State.cellGuardOk (n : Node) (s : State) : Bool :=
  decide (1000 * s.rf R.MAC_GUARD 9 0 + s.driftOf n * 2 ^ n.cint.toNat * s.mac.plan.length ≤ 5000000)

/-- The first field of a NODE-WRITE buffer out of order, by its offset (R266). -/
def State.nodeBad (i : Nat) (b : BitVec 1024) (s : State) : Option Nat :=
  let n := nodeOf b
  let others := (s.nodeKeys.filter (· != i)).map s.dramNode |>.filter fun m => m.state != 0
  let live := n.state != 0
  let cell := n.hasCell
  firstBad [
    (0, !live || others.all fun m => m.extaddr != n.extaddr),
    (8, !live || n.short == 0xFFFF || others.all fun m => !(m.short == n.short && m.panid == n.panid)),
    (12, n.state == 0 || n.state == 1 || n.state == 4), (13, n.flags.toNat / 16 == 0), (15, decide (n.seclvl.toNat ≤ 7)),
    (16, !cell || (s.cellOk n && s.cellGuardOk n)), (18, decide (n.ctym.toNat ≤ 15)),
    (19, n.cint == 0xFF || decide (n.cint.toNat ≤ 6)), (20, n.cint == 0xFF || decide (n.cphase.toNat < 2 ^ n.cint.toNat)),
    (21, nat64 b.toNat 21 3 == 0), (60, decide (n.drift.toNat ≤ 1000))]

/-- D fields as HWRESET leaves them. -/
def State.hwReset (n : Node) (s : State) : Node :=
  mergeNode n { lastContact := s.count64 } true

/-- The DRAM wipe has ended: no access to DRAM is served before (R67). -/
def State.dramWiped (s : State) : Bool := s.rb R.RST_STAT 4

/-- An admin command on the node table, which waits for the DRAM wipe (R67). -/
def State.nodeCmd (code : Nat) (s : State) : Option Cmd := if s.dramWiped then s.admin code else none

/-- The node index of an admin command. -/
def Cmd.node (c : Cmd) : Nat := c.f 48 2

def State.nodeWrite (c : Cmd) (b : BitVec 1024) (s : State) : State :=
  let i := c.node
  match s.nodeBad i b with
  | some off => s.adminDone c 0 2 (0x2000 + off)
  | none =>
    let hw := nbit 0 (c.f 50 1)
    let held := s.mac.cached.contains i
    let new := mergeNode (nodeOf b) (s.dramNode i) true
    let s := s.setDram i (if hw then s.hwReset new else new)
    let s : State := if held && !s.mac.written.contains i then { s with mac.written := i :: s.mac.written } else s
    let s : State := if held && hw then
        { s with mac.cache := tset (fun _ => ({} : Node)) s.mac.cache i (s.hwReset (s.node i)) }
      else s
    s.adminDone c 0 0 0

def execNodeWrite (buf : Option (BitVec 1024)) (s : State) : Out := .next <|
  match s.nodeCmd 0x10 with
  | none => s
  | some c =>
    if 4095 < c.node then s.adminDone c 1 0x10 0
    else match buf with
      | none => s.adminDone c 0 4 0
      | some b => s.nodeWrite c b

def execNodeInvalidate (s : State) : Out := .next <|
  match s.nodeCmd 0x11 with
  | none => s
  | some c =>
    if c.node = 0xFFFF then (s.mac.cached.foldl (fun s i => s.evict i) s).adminDone c 0 0 0
    else if 4095 < c.node then s.adminDone c 1 0x10 0
    else (if s.mac.cached.contains c.node then s.evict c.node else s).adminDone c 0 0 0

def execNodeRead (xferOk : Bool) (s : State) : Out := .next <|
  match s.nodeCmd 0x12 with
  | none => s
  | some c =>
    if 4095 < c.node then s.adminDone c 1 0x10 0
    else if !xferOk then s.adminDone c 0 4 0
    else
      let i := c.node
      let n := mergeNode (s.dramNode i) (s.node i) (s.mac.written.contains i)
      (s.putBuffer c none 128 0 n.bytes).adminDone c 0 0 0

/-! ### SLOTMAP-WRITE (R258, R267) -/

/-- The cells of a chorus under a plan: (slot, lead) pairs of its option (R258). -/
def State.cells (plan : List Word) (opt : Nat) (s : State) : List (Nat × Nat) :=
  let leads := (List.range 16).filter fun n => s.leadOn n && s.leadOpt n == opt
  ((List.range plan.length).filter fun k => planType (plan.getD k 0) == 2).flatMap fun k => leads.map fun l => (k, l)

/-- The octets of a chorus with NCELL cells: 48 and the receipt, as the worked example of R267 has it. -/
def chorusOctets (ncell : Nat) : Nat := 48 + (ncell + 7) / 8

/-- Check k of R267 on one slot of a plan: true where it fails. DESIGN CHOICE (log 114): check 2 also refuses an MCS that is
not valid for a CHORUS slot's lead, and a LEAD, MCS or POWER other than 0 where R255 has 0 for the type; R267 names only
reserved TYPE, POWER and bits. -/
def State.planBad (plan : List Word) (k i : Nat) (s : State) : Bool :=
  let w := plan.getD i 0
  let t := planType w
  let lead := planLead w
  let needs := t == 1 || t == 3 || t == 4 || t == 6 || t == 7
  match k with
  | 2 => decide (8 ≤ t) || fld 31 17 w != 0 || (!needs && lead != 0) || (t != 1 && fld 16 8 w != 0) ||
      (t == 1 && (fld 16 11 w == 61 || fld 16 11 w == 62 || (s.leadOn lead && (rateOf (s.leadOpt lead) (fld 10 8 w)).isNone)))
  | 3 => i == 0 && t != 1
  | 4 => needs && !s.leadOn lead
  | 5 => t == 1 && decide (9800 < 1000 + airtime (s.leadOpt lead) (fld 10 8 w)
      (chorusOctets (s.cells plan (s.leadOpt lead)).length))
  | _ => (t == 6 || t == 7) && !s.isRouter

/-- The first check of R267 that fails, with its slot. -/
def State.planCheck (period : Nat) (plan : List Word) (s : State) : Option (Nat × Nat) :=
  if period < 10 ∨ 6000 < period then some (1, 0)
  else
    match [2, 3, 4, 5, 6].findSome? fun k => ((List.range period).find? fun i => s.planBad plan k i).map fun i => (k, i) with
    | some p => some p
    | none =>
      let ps := (List.range period).filter fun i => planType (plan.getD i 0) == 7
      if s.isRouter && ps.length != 1 then some (6, ps.getD 1 0) else none

/-- The next chorus boundary by the plan in force (MAC timer), and whether the schedule is in the last slot before it. -/
def State.nextBoundary (s : State) : Word :=
  if s.mac.inSlot then s.mac.slotStart + BitVec.ofNat 32 (10000 * (s.mac.plan.length - s.curSlot))
  else s.mac.nextStart + BitVec.ofNat 32 (if s.mac.nextSlot = 0 then 0 else 10000 * (s.mac.plan.length - s.mac.nextSlot))
def State.lastSlot (s : State) : Bool :=
  s.mac.running && !s.mac.plan.isEmpty &&
    (if s.mac.inSlot then decide (s.mac.plan.length ≤ s.curSlot + 1) else s.mac.nextSlot == 0)

/-- A plan is completed (R259): it takes effect at the first boundary at least 2 ms on. DESIGN CHOICE (log 148): where no
plan is in force there is no boundary yet, and the first slot starts with those 2 ms over. -/
def State.planDone (l : List Word) (late : Bool) (s : State) : State :=
  let ready := s.mac.timer + 2000
  let b := s.nextBoundary
  let m : Mac := { s.mac with
    nextPlan := some l
    planFrom := if late && s.lastSlot && decide (0 ≤ (b - ready).toInt) then b + 1 else ready
    nextStart := if s.mac.running && s.mac.plan.isEmpty then ready else s.mac.nextStart }
  { s with mac := m }

/-- SLOTMAP-WRITE; `late`: it completes less than 2 ms before the next chorus boundary, as it can in the last slot of a
period (R259), whatever the MAC timer has been shown since. -/
def execPlanWrite (segs : Segs) (plan : Option (List Word)) (late : Bool) (s : State) : Out := .next <|
  match s.nodeCmd 0x13 with
  | none => s
  | some c =>
    let p := c.f 48 2
    if p < 10 ∨ 6000 < p then s.adminDone c 1 0x11 65536
    else match checkSegs c segs (4 * p) with
      | .mismatch => s.adminDone c 0 7 0
      | .unreadable => s.adminDone c 0 4 0
      | .good =>
        match plan with
        | none => s.adminDone c 0 4 0
        | some l =>
          let l := padTo p 0 l
          match s.planCheck p l with
          | some (k, i) => s.adminDone c 1 0x11 (65536 * k + i)
          | none => (s.planDone l late).adminDone c 0 0 0

end Sys2Proof.Machine
end

