-- ==== Sys2Proof/Machine/Mac.lean ====
section
/-! DEFINITION. The MAC (chapter 09): what becomes of a received frame, the schedule of slots and chorus periods, the
parent link of a router, delivery to queue 34. -/

namespace Sys2Proof.Machine

/-! ### Common -/

/-- The MAC and the radio serve frames: D0 runs, and this is not the DOZE after a wake from HUSH (R91). -/
def State.macUp (s : State) : Bool := s.d0up && !s.power.afterHush && !s.mac.lost

def State.macEn (s : State) : Bool := s.rb R.MAC_CTL 0

/-- The difference of two MAC timer values, signed. -/
def tdiff (a b : Word) : Int := (a - b).toInt

/-- The slot that starts next, and when by the schedule (MAC timer). -/
def State.upSlot (s : State) : Nat :=
  if s.mac.inSlot then (s.curSlot + 1) % max 1 s.mac.plan.length else s.mac.nextSlot
def State.upStart (s : State) : Word := if s.mac.inSlot then s.mac.slotStart + 10000 else s.mac.nextStart

/-- When a frame started (R260). -/
def startOf (f : RxFrame) : Word := f.tstamp - BitVec.ofNat 32 f.shr

/-- R218. -/
def lqiOf (evmq : Byte) : Nat := min 255 ((evmq.toNat - 20) * 17 / 8)

/-- R216: RSSIC of an RSSI in units of 0.25 dB. -/
def rssicOf (rssi : BitVec 16) : Nat := (min 255 (max 0 (rssi.toInt / 2 + 280))).toNat

/-- A key slot is exhausted: nothing is sent under it, which is posted once (R280). -/
def State.keyExh (k : Nat) (s : State) : State :=
  let s := s.flag R.MAC_STAT 1
  if s.mac.keyexhPosted.contains k then s
  else ({ s with mac.keyexhPosted := k :: s.mac.keyexhPosted } : State).post 0x17 2 k 0

/-- Take the next frame counter of a key slot (R336); none where it is empty, not a network slot, or exhausted. -/
def State.takeFc (k : Nat) (s : State) : Option Word × State :=
  let x := s.slot k
  if !netSlot k || x.state == 0 then (none, s)
  else if x.txfc == 0xFFFFFFFF then (none, s.keyExh k)
  else (some x.txfc, s.setSlot k { x with txfc := x.txfc + 1 })

/-! ### Reception (R252, R253) -/

/-- The frame is addressed to the device (R252); a beacon without a destination counts by its source PAN. -/
def State.addressed (f : MacFrame) (s : State) : Bool :=
  let mine (p : Half) : Bool := p.toNat == s.rf R.MAC_CTL 31 16 || p == 0xFFFF
  match f.dst with
  | .short p a => mine p && (a == Config.ownShort || a == 0xFFFF)
  | .ext p e => mine p && e == Config.serial
  | .absent =>
    f.kind == .beacon && match f.src with
      | .absent => false
      | .short p _ => mine p
      | .ext p _ => mine p

/-- A frame is dropped and counted in AUTHFAIL, of the device and of its node (R252, R253). -/
def State.authFail (i : Option Nat) (s : State) : State :=
  let s := s.count (R.MAC_CNT 1) 31 16 1
  match i with
  | none => s
  | some i => s.modNode i fun n => { n with authfail := if n.authfail = 0xFFFF then n.authfail else n.authfail + 1 }

/-- CCM* verification of a frame under its node's key (R253, R335): the clear octets. -/
def State.verify (i : Nat) (f : MacFrame) (s : State) : Option (List Byte) :=
  let n := s.node i
  let k := n.keyslot.toNat
  if netSlot k && (s.slot k).state != 0 then
    Config.ccmOpen (s.slotKey k) n.extaddr f.fc f.secLevel f.body f.mic
  else none

/-- Pair k of an entry's DUP; one never written reads 0 (R264). -/
def Node.pair (n : Node) (k : Nat) : DupPair := n.dup.getD k { fc := 0, seq := 0, secured := false, time := 0 }

/-- A frame repeats a pair of DUP (R281). -/
def isDuplicate (n : Node) (f : RxFrame) : Bool :=
  if f.frame.secured then
    (List.range 4).any fun k => (n.pair k).fc == f.frame.fc && (n.pair k).seq == f.frame.seq
  else
    n.dup.any fun p => !p.secured && p.seq == f.frame.seq && decide ((f.tstamp - p.time).toNat ≤ 500000)

/-- The pair of an accepted frame replaces the one at DUPNEXT (R281). -/
def Node.stored (n : Node) (f : RxFrame) : Node :=
  let p : DupPair := {
    fc := if f.frame.secured then f.frame.fc else 0, seq := f.frame.seq, secured := f.frame.secured, time := f.tstamp }
  { n with
    dup := (padTo 4 { fc := 0, seq := 0, secured := true, time := 0 } n.dup).set n.dupNext p
    dupNext := (n.dupNext + 1) % 4
    rxfc := if f.frame.secured then f.frame.fc else n.rxfc }

/-- The croaks that the slot of number k, starting at t, expects (R261, R268). -/
def State.expectAt (k : Nat) (t : Word) (s : State) : List Expect :=
  (s.nodeKeys.filter fun i =>
    let n := s.node i
    n.holds && n.cslot.toNat == k && s.cellOk n && s.croaksNow n).map fun i =>
      { node := i, entry := s.node i, slot := t, start := t + BitVec.ofNat 32 (10 * s.rf R.MAC_GUARD 28 20), cseq := s.cseq }

/-- Where a frame is its node's croak, which one, and its offset from the expected start (R260). A window may reach out of its
slot (R263): the croaks of the slot before are still expected, and those of the next slot already; none is in slot 0, so that
the next slot's are of this period. -/
def State.croakOffset (i : Nat) (f : RxFrame) (s : State) : Option (Expect × Int) :=
  let onLead (e : Expect) : Bool := match f.ch with | .lead l => l.val == e.entry.ctym.toNat | .ghz24 => false
  let hit (e : Expect) : Bool :=
    e.node == i && onLead e && decide ((tdiff (startOf f) e.start).natAbs ≤ s.guard e)
  if s.mac.running then
    ((s.mac.expected ++ s.expectAt s.upSlot s.upStart).find? hit).map fun e => (e, tdiff (startOf f) e.start)
  else none

/-- A croak is heard (R258, R262): in the period that runs, or, at the end of a window past the last slot, in the one before. -/
def State.croakHeard (e : Expect) (s : State) : State :=
  let cell := (e.entry.cslot.toNat, e.entry.ctym.toNat)
  let s : State := if e.cseq = s.cseq then
      { s with mac.croaked := e.node :: s.mac.croaked.filter (· != e.node), mac.heard := cell :: s.mac.heard }
    else { s with mac.receipt := cell :: s.mac.receipt }
  s.adriftNow e

/-- Whether a frame with AR is acknowledged: 0 no, 1 yes, 2 no and counted in ACKSUPP (R276). -/
def State.ackRule (f : RxFrame) (router : Bool) (s : State) : Nat :=
  if !f.frame.ar || !s.macEn then 0
  else match f.ch with
    | .ghz24 => 1
    | .lead _ =>
      match s.slotType with
      | 0 | 3 | 4 => 1
      | 2 => 2
      | _ => if router then 1 else 2

/-- The Time Correction header IE of an Enh-Ack: the correction in its low 12 bits (log 120). -/
def timeCorrection (c : Half) : List Byte := leBytes 2 0x0F02 ++ leBytes 2 (c.toNat % 4096)

/-- A frame as it goes out under a key slot: secured with the slot's key at its level (R276, R282, R335). -/
def State.sealFrame (k : Nat) (f : MacFrame) (s : State) : MacFrame :=
  let r := Config.ccmSeal (s.slotKey k) Config.serial f.fc f.secLevel f.body
  { f with body := r.1, mic := r.2 }

/-- The acknowledgement of a frame (R276): an Imm-Ack, or an Enh-Ack of the frame's own security with key slot k. -/
def State.ackFrame (k : Nat) (f : MacFrame) (correction : Half) (fc : Word) (s : State) : MacFrame :=
  let enh := f.version == 2
  let sec := enh && f.secured
  let a : MacFrame := {
    version := if enh then 2 else 0, kind := .ack, dst := .absent, src := .absent, seq := f.seq, ar := false, secured := sec
    secLevel := if sec then f.secLevel else 0, fc, body := if enh then timeCorrection correction else [], mic := [], chorus := none }
  if sec then s.sealFrame k a else a

/-- An acknowledgement is made ready (R276, R278); its key's counter is spent, or it is skipped,
or late and not sent (R279). It goes out on the channel, and with the option and MCS, of the frame it answers (DESIGN CHOICE, log 120: the spec names none). -/
def State.ackPrepare (i : Option Nat) (offset : Half) (f : RxFrame) (s : State) : State × Bool :=
  let enh := f.frame.version == 2
  let sec := enh && f.frame.secured
  let k := match i with | some i => (s.node i).keyslot.toNat | none => 0xFFFF
  let due (fc : Word) (s : State) : State × Bool :=
    let a : AckDue := {
      chain := chanOf f.ch, ch := f.ch, mcs := BitVec.ofNat 3 (f.mode.toNat % 16), node := i.getD 0xFFFF, seq := f.frame.seq, enh
      secured := sec, correction := offset, fc, frame := s.ackFrame k f.frame offset fc }
    ({ s with mac.acks := s.mac.acks ++ [a] }, true)
  if s.mac.late then (s.count (R.MAC_CNT 0) 31 24 1, false)
  else if sec then
    match s.takeFc k with
    | (some fc, s) => due fc (s.preempt true)
    | (none, s) => (s.count (R.MAC_CNT 0) 23 16 1, false)
  else due 0 s

/-- Acknowledge a frame where R276 has it; whether it is acknowledged. -/
def State.ackFor (i : Option Nat) (offset : Half) (f : RxFrame) (s : State) : State × Bool :=
  match s.ackRule f (match i with | some i => (s.node i).flags.getLsbD 2 | none => false) with
  | 1 => s.ackPrepare i offset f
  | 2 => (s.count (R.MAC_CNT 2) 31 24 1, false)
  | _ => (s, false)

/-- The TYM byte of a report (R216). -/
def tymOf : RxChan → Nat
  | .lead i => i.val
  | .ghz24 => 0x80

/-- The entries a delivery takes (R286). -/
def nentOf (len : Nat) : Nat := 1 + (len - 32 + 62) / 63

/-- A frame goes to the RX ring: kept for it, or, being too long for it, counted (R286). -/
def State.deliver (node flags : Nat) (octets : List Byte) (f : RxFrame) (s : State) : State :=
  let q := s.q 34
  let n := nentOf octets.length
  if !q.exists' then s
  else if q.cqsize - 1 < n then s.radioCount 96 1
  else
    let head := [BitVec.ofNat 8 n, BitVec.ofNat 8 flags] ++ leBytes 2 node ++ leBytes 2 octets.length ++ leBytes 2 0 ++
      [0, f.evmq] ++ bvBytes 2 f.rssi ++ [BitVec.ofNat 8 (lqiOf f.evmq), f.mode, BitVec.ofNat 8 (tymOf f.ch), 0] ++
      bvBytes 2 f.cfo ++ leBytes 2 s.cseq ++ bvBytes 4 f.tstamp ++ bvBytes 4 (if f.frame.secured then f.frame.fc else 0)
    { s with hri.deliveries := s.hri.deliveries ++ [⟨head, octets⟩] }

/-- What every accepted frame brings: counters, the producer MAC_RXFRAME, the wake (R85). -/
def State.rxAccepted (f : RxFrame) (s : State) : State :=
  let s := s.radioCount (if chanOf f.ch = .subGhz then 16 else 24) 1
  (s.raise 116 0).wake .rxframe

/-! ### The parent link (R271, R272) -/

/-- The time from the parent's last chorus to the expected start of one, and the guard it leaves (R271). -/
def State.parentElapsed (start : Word) (s : State) : Nat := s.rtcAt start - s.mac.parentLast.toNat
def State.parentGuard (start : Word) (s : State) : Nat :=
  if s.pstate272 = 3 then 5000 else s.guardFor (s.driftOf (s.node s.pnode)) (s.parentElapsed start)
def State.parentGuardOver (start : Word) (s : State) : Bool :=
  s.guardOver (s.driftOf (s.node s.pnode)) (s.parentElapsed start)

/-- The slot of the plan that expects the parent's chorus. -/
def State.pchorusSlot (s : State) : Option Nat :=
  (List.range s.mac.plan.length).find? fun k => planType (s.planAt k) == 7

/-- The option of the parent's channel, by the configuration of before the scan (R272). -/
def State.parentOpt (s : State) : Nat :=
  match s.pchorusSlot with
  | some k =>
    let l := planLead (s.planAt k)
    if s.mac.scanSaved.isEmpty then s.leadOpt l else fld 2 1 (tget (fun _ => 0) s.mac.scanSaved l)
  | none => 0

/-- The OFFSET codes of the raster that fit R205 for an option. -/
def scanOffsets (opt : Nat) : List Nat :=
  let m := (4900 - halfBand opt) / 25
  (List.range (2 * m + 1)).map fun k => (512 + k - m) % 512

/-- One tympanum takes a configuration at once. -/
def State.setLead (n : Nat) (w : Word) (s : State) : State := (s.wr (R.RFS_TYMCFG n) w).forceLead n

/-- All groups change at once; frames in decode are abandoned (R209). -/
def State.setLeads (f : Nat → Word) (s : State) : State :=
  let s := (List.range 16).foldl (fun s n => s.setLead n (f n)) (s.radioCount 48 s.radio.sub.decoding)
  { s with radio.sub.rx := [], radio.waiting := [] }

/-- Step k of a scan (R272). -/
def State.scanSet (s : State) : State :=
  let opt := s.parentOpt
  let size := 2 ^ opt
  let g := 16 / size
  let offs := scanOffsets opt
  let steps := (offs.length + g - 1) / g
  let l := (offs.drop (s.mac.scanStep % steps * g)).take g
  s.setLeads fun n =>
    match n % size, l[n / size]? with
    | 0, some o => BitVec.ofNat 32 (1 + 2 * opt + 8 * o)
    | _, _ => 0

/-- SCANNING is entered. -/
def State.scanStart (s : State) : State :=
  let saved : Tbl Word := (List.range 16).map fun n => (n, s.inForce (R.RFS_TYMCFG n))
  let s := { s with mac.scanSaved := saved, mac.scanStep := 0 }
  ((s.wf R.MAC_STAT 4 2 4).post 0x15 2 s.pnode 0).scanSet

/-- The configuration of before the scan. -/
def State.scanEnd (s : State) : State :=
  let f (n : Nat) : Word := tget (fun _ => 0) s.mac.scanSaved n
  { s.setLeads f with mac.scanSaved := [] }

/-- How far a time lies from the start of own slot q, of whichever period that is nearest (µs). -/
def State.fromSlot (q : Nat) (t : Word) (s : State) : Int :=
  let d := tdiff t s.upStart + 10000 * ((s.upSlot : Int) - q)
  let p : Int := 10000 * max 1 s.mac.plan.length
  (d + p / 2) % p - p / 2

/-- The schedule is realigned so that own slot q starts at t (R271): shifted where that is near, else begun anew with the slot
after q. -/
def State.realign (q : Nat) (t : Word) (s : State) : State :=
  let d := s.fromSlot q t
  if d.natAbs ≤ 5000 then
    { s with mac.slotStart := s.mac.slotStart + BitVec.ofInt 32 d, mac.nextStart := s.mac.nextStart + BitVec.ofInt 32 d }
  else
    let m : Mac := { s.mac with
      inSlot := false, expected := [], nextSlot := (q + 1) % max 1 s.mac.plan.length, nextStart := t + 10000, chorusDue := none }
    { s with mac := m }

/-- The parent's chorus, whose PCHORUS slot is p, is heard: the schedule is realigned, own slot 0 ROFF slots after the parent's,
and the link is SYNCED (R271, R272, R293). DEDUCED (log 133): which of the parent's slots its chorus is in follows from p and
ROFF when the link is found. -/
def State.parentSynced (p : Nat) (f : RxFrame) (ie : ChorusIE) (s : State) : State :=
  let old := s.pstate272
  let s := if old = 4 then s.scanEnd else s
  let n := max 1 s.mac.plan.length
  let roff := s.rf R.MAC_PARENT 24 12
  let s : State := if 3 ≤ old then { s with mac.parentSlot := (p + roff) % n } else s
  let q := (s.mac.parentSlot + n - roff % n) % n
  let t := startOf f - 1000
  let due := s.upSlot == p || (s.mac.inSlot && s.curSlot == p)
  let near := decide ((s.fromSlot q t).natAbs ≤ 5000)
  let s := s.realign q t
  let missed := s.mac.parentMissed
  let s : State := { s with
    mac.parentHeard := q == p && due && near
    mac.parentLast := s.count64
    mac.parentMissed := 0
    mac.depth := BitVec.ofNat 8 (min 15 (ie.depth.toNat + 1)) }
  let s := (s.wf R.MAC_STAT 4 2 1).wf R.MAC_STAT 15 8 0
  if 3 ≤ old then s.post 0x16 0 s.pnode missed else s

/-- A chorus of the parent, on the PCHORUS slot's channel in its window or, while ADRIFT, at any time; while SCANNING on any
channel. -/
def State.parentChorus (i : Nat) (f : RxFrame) (s : State) : State :=
  match f.frame.chorus, s.pchorusSlot with
  | some ie, some p =>
    let d := s.fromSlot p (startOf f - 1000)
    let inWindow := decide (d.natAbs ≤ min 5000 (s.parentGuard (startOf f - BitVec.ofInt 32 d)))
    let onLead := match f.ch with | .lead l => l.val == planLead (s.planAt p) | .ghz24 => false
    let ok := s.pstate272 == 4 || (onLead && (s.pstate272 == 3 || inWindow))
    if s.mac.running && s.isRouter && i == s.pnode && ok then s.parentSynced p f ie else s
  | _, _ => s

/-- A parent chorus is missed (R272). -/
def State.parentMiss (s : State) : State :=
  let n := s.rf R.MAC_STAT 15 8
  let st := s.pstate272
  if st = 4 ∨ st = 0 then s
  else
    let s := ({ s with mac.parentMissed := s.mac.parentMissed + 1 } : State).wf R.MAC_STAT 15 8 (min 255 (n + 1))
    if st = 3 then s
    else if 3 ≤ n + 1 ∨ s.parentGuardOver (s.mac.slotStart + 1000) = true then (s.wf R.MAC_STAT 4 2 3).post 0x14 1 s.pnode (min 255 (n + 1))
    else s.wf R.MAC_STAT 4 2 2

def execParentAdriftExpiry (s : State) : Out := .next <|
  if s.pstate272 = 3 ∧ s.mac.running then s.scanStart else s

/-! ### An accepted frame -/

/-- A frame of a known node is accepted: contact, croak, counters, acknowledgement, journal, delivery (R253). The Time
Correction of an Enh-Ack is the croak's offset in a SINGLE cell (R260). DESIGN CHOICE (log 121): 0 where R260 gives none, as
for a frame that is no croak in a SINGLE slot, or a duplicate. -/
def State.acceptKnown (i : Nat) (clear : List Byte) (f : RxFrame) (s : State) : State :=
  let n := s.node i
  let off := s.croakOffset i f
  let s := match off with
    | some p => s.croakHeard p.1
    | none => s
  let s := s.contact i
  let s := s.modNode i fun n =>
    let n := n.stored f
    { n with
      rxcount := n.rxcount + 1, rssic := BitVec.ofNat 8 (rssicOf f.rssi), lqi := BitVec.ofNat 8 (lqiOf f.evmq)
      offset := match off with | some p => BitVec.ofInt 16 p.2 | none => n.offset }
  let corr : Half := match off with
    | some p => if planType (s.planAt p.1.entry.cslot.toNat) = 3 then BitVec.ofInt 16 p.2 else 0
    | none => 0
  let (s, acked) := s.ackFor (some i) corr f
  let flags := b2n f.frame.secured + 2 * b2n acked + 4 * b2n off.isSome
  let s := s.append {
    nodef := BitVec.ofNat 16 (i + 0x2000 * flags), length := clear.length, tick := 0
    rssi := BitVec.ofNat 8 (rssicOf f.rssi), evm := f.evmq, mode := f.mode, tym := BitVec.ofNat 8 (tymOf f.ch)
    fc := if f.frame.secured then f.frame.fc else 0, payload := clear }
  let s := if n.flags.getLsbD 1 then s.deliver i flags clear f else s
  (s.parentChorus i f).rxAccepted f

/-- A duplicate is acknowledged again and counted, and nothing else (R281). -/
def State.duplicate (i : Nat) (f : RxFrame) (s : State) : State :=
  let s := s.count (R.MAC_CNT 1) 15 0 1
  let s := s.modNode i fun n => { n with dupcount := if n.dupcount = 0xFFFF then n.dupcount else n.dupcount + 1 }
  (s.ackFor (some i) 0 f).1

/-- A frame of a known node (R253, R281). -/
def State.rxKnown (i : Nat) (f : RxFrame) (s : State) : State :=
  let s := s.touch i
  let n := s.node i
  if f.frame.secured then
    if f.frame.secLevel.toNat < n.seclvl.toNat then s.authFail (some i)
    else
      let s := if f.frame.ar then s.preempt true else (s.preempt false).ctxNote 1
      match s.verify i f.frame with
      | none => s.authFail (some i)
      | some clear =>
        if isDuplicate n f then s.duplicate i f
        else if f.frame.fc.toNat ≤ n.rxfc.toNat then s.authFail (some i)
        else s.acceptKnown i clear f
  else if !n.flags.getLsbD 0 then s.authFail (some i)
  else if isDuplicate n f then s.duplicate i f
  else s.acceptKnown i f.frame.body f

/-- A frame of an unknown source (R253). -/
def State.rxUnknown (f : RxFrame) (s : State) : State :=
  if f.frame.secured then s.authFail none
  else if !s.rb R.MAC_CTL 2 then s
  else
    let (s, acked) := s.ackFor none 0 f
    (s.deliver 0xFFFF (8 + 2 * b2n acked) f.frame.body f).rxAccepted f

/-! ### Completing a SEND (R283, R284) -/

/-- A SEND leaves the MAC, with its completion unless that was given up (R285). -/
def State.sendDone (x : SendOp) (typ code : Nat) (extra : Nat) (s : State) : State :=
  let s : State := { s with mac.sends := s.mac.sends.filter fun y => y.tag != x.tag || y.reply != x.reply }
  if !x.reply then s
  else match findTag x.tag.toNat (s.q 33).inflight with
    | some c =>
      let r := x.measures % 256 + 256 * (x.transmissions % 256) + extra
      if typ = 0 then s.finish 33 c 0 code r else s.declined 33 c typ code r
    | none => s

/-- The key slot a SEND is secured with (R282). -/
def State.sendKey (node : Nat) (s : State) : Nat :=
  if node = 0xFFFF then s.rf R.MAC_CTL 15 8 else (s.node node).keyslot.toNat

/-- A loaded network slot: CCM* uses no other (R332, R336). -/
def State.ccmSlot (k : Nat) (s : State) : Bool := netSlot k && (s.slot k).state != 0

/-- Whether an acknowledgement answers a SEND that waits: it starts 1,000 µs after the frame's end, or 192 µs at 2.4 GHz, within
20 µs (R275). -/
def State.ackAnswers (f : RxFrame) (x : SendOp) (s : State) : Bool :=
  let onChain := (x.chain == 0x80) == (chanOf f.ch == .ghz24)
  let gap : Int := if x.chain = 0x80 then 192 else 1000
  let k := s.sendKey x.node
  x.waitAck && onChain && x.frame.seq == f.frame.seq && decide ((tdiff (startOf f) x.endAt - gap).natAbs ≤ 20) &&
    (!f.frame.secured || (s.ccmSlot k &&
      (Config.ccmOpen (s.slotKey k) (s.node x.node).extaddr f.frame.fc f.frame.secLevel f.frame.body f.frame.mic).isSome))

def State.rxAck (f : RxFrame) (s : State) : State :=
  let s := if f.frame.secured && s.mac.sends.any (·.waitAck) then (s.preempt false).ctxNote 1 else s
  match s.mac.sends.find? fun x => s.ackAnswers f x with
  | some x => s.sendDone x 0 0 (65536 * rssicOf f.rssi)
  | none => s

/-- MAC RX FRAME: the frame as the radio handed it over (R215, R252, R253). -/
def State.macRx (f : RxFrame) (s : State) : State :=
  match f.frame.kind with
  | .ack => if f.frame.version = 3 then s.authFail none else s.rxAck f
  | .multipurpose => s.authFail none
  | .fragment => s.authFail none
  | .other => if f.frame.version = 3 then s.authFail none else s
  | .beacon | .data | .command =>
    if f.frame.version = 3 then s.authFail none
    else if !s.addressed f.frame then s
    else match s.findNode f.frame.src with
      | some i => s.rxKnown i f
      | none => s.rxUnknown f

/-- What the MAC's reads of the node-table cache find: an entry that cannot be corrected is discarded, and refetched from
DRAM as it is used (R26). -/
def State.cacheRead (x : SramRead) (s : State) : State :=
  let s := s.sramFixed x.corrected
  match x.lost with
  | some (.nodeCache i) => (s.dropCached i.val).sramUeFree 3
  | _ => s

/-- The frame the MAC handles next: one that needs an acknowledgement passes every other (R278), else the oldest. -/
def nextHanded (l : List RxFrame) : Option RxFrame := (l.find? fun f => f.frame.ar).or l.head?

/-- The MAC handles a frame that the radio has handed over, once the DRAM wipe has ended (R67); `late`: an acknowledgement
due for it is not ready by its deadline (R278, R279). -/
def execHandleFrame (late : Bool) (sram : SramRead) (s : State) : Out := .next <|
  match nextHanded s.mac.handed with
  | none => s
  | some f =>
    if s.macUp && s.dramWiped then
      let s : State := { s with mac.handed := s.mac.handed.erase f, mac.late := late }
      { (s.cacheRead sram).macRx f with mac.late := false }
    else s

/-! ### The schedule (R255 to R259) -/

/-- A plan takes effect at a boundary (R259): the first at least 2 ms after its completion. -/
def State.planSwitch (s : State) : State :=
  match s.mac.nextPlan with
  | none => s
  | some l =>
    if tdiff s.mac.slotStart s.mac.planFrom < 0 then s
    else
      let s := { s with mac.plan := l, mac.nextPlan := none }
      let s := (s.wf R.MAC_SCHED 12 0 l.length).post 0x18 0 0 l.length
      (s.nodeKeys.filter fun i => (s.node i).holds && !s.cellOk (s.node i)).foldl (fun s i => s.freeCell i) s

/-- R270: LOST holds count down. -/
def State.holdsDown (s : State) : State :=
  (s.nodeKeys.filter fun i => (s.node i).state == 3).foldl (fun s i =>
    let s := s.modNode i fun n => { n with holdLeft := n.holdLeft - 1 }
    if (s.node i).holdLeft = 0 then s.freeCell i else s) s

/-- R229: a chorus boundary passes while a calibration is pending. -/
def State.calBoundary (s : State) : State :=
  let x := s.radio.sub
  if (x.pendRx || x.pendTx) && !x.calRunning && !x.calForced then
    let s := ({ s with radio.sub := { x with waited := min 4 (x.waited + 1) } } : State).calShow
    if 4 ≤ x.waited + 1 then s.calForce .subGhz else s
  else s

/-- The start of slot 0: a chorus boundary. -/
def State.boundary (s : State) : State :=
  let s := s.planSwitch
  let s := if s.mac.started then s.wf R.MAC_STAT 31 16 (s.cseq + 1) else s
  let s := { s with
    mac.started := true, mac.receipt := s.mac.heard, mac.heard := [], mac.croaked := []
    mac.periodTime := BitVec.ofNat 64 (s.rtcAt s.mac.slotStart) }
  let scanning := s.pstate272 == 4
  let s := if scanning then
      ({ s with mac.scanStep := s.mac.scanStep + 1, mac.parentMissed := s.mac.parentMissed + 1 } : State).scanSet
    else s.holdsDown
  s.calBoundary.raise 114 0

/-- The receipt bytes of a list of cells: those whose owner's croak was heard in the period before (R258). -/
def State.receiptBytes (cells : List (Nat × Nat)) (s : State) : List Byte :=
  let v := (cells.zip (List.range cells.length)).foldl (fun v p => if s.mac.receipt.contains p.1 then v + 2 ^ p.2 else v) 0
  leBytes ((cells.length + 7) / 8) v

/-- The content of the chorus IE (R257): Basfort's vendor identifier, VER 1, the fields. -/
def chorusContent (c : ChorusIE) : List Byte :=
  [0x5C, 0xB4, 0x09, 0x01] ++ bvBytes 2 c.cseq ++ bvBytes 2 c.period ++ bvBytes 8 c.time ++ [c.flags, c.depth] ++
    bvBytes 2 c.ncell ++ c.receipt

/-- The octets of a chorus before it is secured: the MHR of an Enhanced Beacon of version 0b10 with the device's PAN and
extended address as source and a 5-octet security header, the Header Termination 1 IE, and one Vendor Specific Payload IE
(R257). PRESUMED (log 122): the fields that R257 leaves to the standard are laid out as IEEE 802.15.4-2020 has them. -/
def chorusOctetsOf (seq : Byte) (pan : Half) (fc : Word) (c : ChorusIE) : List Byte :=
  let ie := chorusContent c
  leBytes 2 0xE208 ++ [seq] ++ bvBytes 2 pan ++ bvBytes 8 Config.serial ++ [0x05] ++ bvBytes 4 fc ++ leBytes 2 0x3F00 ++
    leBytes 2 (ie.length + 0x9000) ++ ie

/-- The chorus of a CHORUS slot, secured with the key in CHKEY at level 5, if that key can secure it (R257, R280). -/
def State.chorusReady (w : Word) (s : State) : State :=
  if s.pstate272 = 4 then s
  else
    let k := s.rf R.MAC_CTL 15 8
    match s.takeFc k with
    | (none, s) => s
    | (some fc, s) =>
      let s := (s.preempt false).ctxNote 1
      let cells := s.cells s.mac.plan (s.leadOpt (planLead w))
      let ie : ChorusIE := {
        cseq := BitVec.ofNat 16 s.cseq, period := BitVec.ofNat 16 s.mac.plan.length, time := s.mac.periodTime
        flags := BitVec.ofNat 8 (b2n s.isRouter + 2 * b2n (s.mac.nextPlan.isSome && decide (0 ≤ tdiff s.nextBoundary s.mac.planFrom)))
        depth := if s.isRouter then s.mac.depth else 0, ncell := BitVec.ofNat 16 cells.length, receipt := s.receiptBytes cells }
      let (n, s) := s.freeNat
      let seq : Byte := BitVec.ofNat 8 n
      let pan : Half := BitVec.ofNat 16 (s.rf R.MAC_CTL 31 16)
      let sealed := Config.ccmSeal (s.slotKey k) Config.serial fc 5 (chorusOctetsOf seq pan fc ie)
      let f : MacFrame := {
        version := 2, kind := .beacon, dst := .absent, src := .ext pan Config.serial, seq, ar := false, secured := true
        secLevel := 5, fc, body := sealed.1, mic := sealed.2, chorus := some ie }
      { s with mac.chorusDue := some f }

/-- Before each slot role 5 prefetches the entries of the nodes that croak in the next 16 slots (R265). -/
def State.prefetch (s : State) : State :=
  let p := s.mac.plan.length
  let soon (i : Nat) : Bool :=
    let n := s.node i
    let later := if n.cslot.toNat < s.curSlot then 1 else 0
    n.holds && s.cellOk n && decide ((n.cslot.toNat + p - s.curSlot) % p < 16) &&
      (s.cseq + later) % 65536 % 2 ^ n.cint.toNat == n.cphase.toNat
  if s.roleState 5 = 0 then s else (s.nodeKeys.filter soon).foldl (fun s i => s.touch i) s

/-- A slot starts (R256). -/
def State.slotBegin (s : State) : State :=
  let k := s.mac.nextSlot
  let s := s.timerTo s.mac.nextStart
  let s := { s with mac.slotStart := s.mac.nextStart, mac.inSlot := true }
  let s := s.wf R.MAC_SCHED 25 13 k
  let s := (if k = 0 then s.boundary else s).prefetch
  let before := s.mac.expected.filter fun e => decide (tdiff s.mac.slotStart e.slot ≤ 10000)
  let s : State := { s with mac.expected := before ++ s.expectAt k s.mac.slotStart }
  let w := s.planAt k
  let s := if planType w = 1 then s.chorusReady w
    else if planType w = 5 && s.calCan .subGhz then s.calStart .subGhz
    else s
  s.raise 115 0

def execSlotStart (s : State) : Out := .next <|
  if s.macUp && s.mac.running && !s.mac.inSlot && !(s.mac.plan.isEmpty && s.mac.nextPlan.isNone) then s.slotBegin else s

/-- A slot ends (R261, R270, R272). -/
def State.slotOver (s : State) : State :=
  let k := s.curSlot
  let missed (e : Expect) : Bool :=
    e.slot == s.mac.slotStart && ((s.node e.node).state == 1 || (s.node e.node).state == 2) && !s.mac.croaked.contains e.node
  let s := if s.pstate272 = 4 then s else (s.mac.expected.filter missed).foldl (fun s e => s.croakMissed e) s
  let s : State := if planType (s.planAt k) = 7 ∧ s.isRouter then
      (if s.mac.parentHeard then { s with mac.parentHeard := false } else s.parentMiss)
    else s
  let s := s.timerTo (s.mac.slotStart + 10000)
  { s with
    mac.inSlot := false
    mac.expected := s.mac.expected.map fun e => { e with judged := true }
    mac.nextStart := s.mac.slotStart + 10000
    mac.nextSlot := if s.mac.plan.length = 0 then 0 else (k + 1) % s.mac.plan.length
    mac.chorusDue := none }

def execSlotEnd (s : State) : Out := .next (if s.macUp && s.mac.running && s.mac.inSlot then s.slotOver else s)

/-! ### MAC registers -/

/-- The schedule starts (R288): a root at slot 0, a router in SCANNING. -/
def State.macStart (s : State) : State :=
  let s := { s with
    mac.running := true
    mac.started := false
    mac.nextSlot := 0
    mac.nextStart :=
      if s.mac.plan.isEmpty && s.mac.nextPlan.isSome && decide (0 ≤ tdiff s.mac.planFrom s.mac.timer) then s.mac.planFrom
      else s.mac.timer
    mac.inSlot := false
    mac.expected := []
    mac.croaked := []
    mac.heard := []
    mac.parentHeard := false
    mac.parentMissed := 0 }
  if s.isRouter then s.scanStart else s.wf R.MAC_STAT 4 2 0

/-- The schedule stops (R288): SENDs not on the air complete with MAC STOPPED. -/
def State.macStop (s : State) : State :=
  let s := { s with mac.running := false, mac.inSlot := false, mac.acks := [], mac.chorusDue := none }
  let s := s.wf R.MAC_STAT 4 2 0
  ((s.mac.sends.filter fun x => !x.onAir).foldl (fun s x => s.sendDone x 1 8 0) s).calPoll .subGhz

/-- A write of MAC_CTL: ROLE is fixed while EN is 1. DESIGN CHOICE (log 123): a write that leaves ROLE at its value then sets
no BADVAL. -/
def State.macCtlWrite (w : Word) (s : State) : State :=
  let old := s.macEn
  let role := s.isRouter
  let s := s.writeReg R.MAC_CTL w
  let s := if old && bit 1 w != role then (s.wb R.MAC_CTL 1 role).flag R.MAC_STAT 0 else s
  if s.macEn && !old then s.macStart else if old && !s.macEn then s.macStop else s

/-- A write of MAC_LBT (R292). -/
def State.macLbtWrite (w : Word) (s : State) : State :=
  let s' := s.writeReg R.MAC_LBT w
  if s'.rf R.MAC_LBT 15 12 < s'.rf R.MAC_LBT 11 8 then s.flag R.MAC_STAT 0 else s'

/-! ### Delivery (R110, R286) -/

/-- The entries of a delivery, phase bits clear. -/
def deliveryEntries (d : Delivery) (time : Word) : List (List Byte) :=
  let first := d.head ++ bvBytes 4 time ++ padTo 32 0 d.octets
  let rest := d.octets.drop 32
  first :: (List.range ((rest.length + 62) / 63)).map fun k =>
    let l := padTo 63 0 (rest.drop (63 * k))
    l.take 8 ++ [0] ++ l.drop 8

/-- R110: a record's entries go to the RX ring, the later ones first and the first one last; one whose write errs counts as
written (R130). The tail then moves past them all. -/
def State.putEntries (es : List (List Byte)) (s : State) : State :=
  let q := s.q 34
  let bad (k : Nat) : Bool := s.hri.badAddrs.contains (q.cqbase + (q.cqtail + k) % q.cqsize * 64)
  let put (s : State) (k : Nat) : State :=
    let p := (q.cqtail + k) % q.cqsize
    let phase := if p < q.cqtail then !q.phase else q.phase
    if bad k then (s.flag R.HRI_STAT 5).post 4 2 34 1
    else s.hostWrite (q.cqbase + p * 64) (withPhase phase (es.getD k []))
  let s := ((List.range es.length).reverse).foldl put s
  let t := (q.cqtail + es.length) % q.cqsize
  s.modQ 34 fun q => { q with cqtail := t, phase := if t < q.cqtail then !q.phase else q.phase }

/-- A delivery is written (R110). A gather word that cannot be corrected spoils its record, which is then not returned to the
host (R26); no entry of R286 says so (DESIGN CHOICE, log 113). -/
def execDeliverRx (sram : SramRead) (s : State) : Out := .next <|
  match s.hri.deliveries with
  | [] => s
  | d :: r =>
    let es := deliveryEntries d s.time32
    let q := s.q 34
    if !q.exists' || s.hri.d3hot || !s.d0up || decide (q.room < es.length) then s
    else
      let s := ({ s with hri.deliveries := r } : State).gatherRead sram
      if (sramBank sram).isSome then s
      else es.foldl (fun s _ => s.ringWritten 34 false) (s.putEntries es)

end Sys2Proof.Machine
end

