-- ==== Sys2Proof/Machine/Send.lean ====
section
/-! DEFINITION. SEND on queue 33 (R273 to R275, R282 to R285), and what starts and ends a transmission on either chain:
strobes, ramps, falling rails, a lost synthesiser lock. -/

namespace Sys2Proof.Machine

/-! ### The SEND entry (R282) -/

def Cmd.sendNode (c : Cmd) : Nat := c.f 4 2
def Cmd.sendChain (c : Cmd) : Nat := c.f 6 1
def Cmd.sendLen (c : Cmd) : Nat := c.f 16 2
def Cmd.sec (c : Cmd) : Bool := nbit 2 (c.f 1 1)

/-- The first field out of order. -/
def State.sendBad (c : Cmd) (s : State) : Option Nat :=
  let ghz := c.sendChain == 0x80
  let mcs := c.f 18 1
  let pw := c.f 19 1
  firstBad [
    (1, c.f 1 1 / 8 == 0 && decide (c.dptrKind ≤ 1)), (4, decide (c.sendNode ≤ 4095) || c.sendNode == 0xFFFF),
    (6, ghz || decide (c.sendChain ≤ 15)), (7, decide (c.f 7 1 ≤ 1)), c.dptrOk ((c.sendLen + 3) / 4 * 4),
    (18, if ghz then mcs == 0 else (rateOf (s.leadOpt c.sendChain) mcs).isSome),
    (19, pw == 0xFF || decide (pw ≤ (if ghz then 30 else 60))), c.zero 20 8, c.sgOk, c.zero 32 32]

/-- Octets of MIC and FCS a frame gains: the FCS of 2 octets, or 4 where the PSDU is longer than 127, and the MIC of
its security level. -/
def micLen (level : BitVec 3) : Nat :=
  match level.toNat % 4 with
  | 1 => 4
  | 2 => 8
  | 3 => 16
  | _ => 0

/-- A node's SINGLE cell (R256). -/
def State.singleCell (i : Nat) (s : State) : Bool :=
  let n := s.node i
  n.holds && s.cellOk n && planType (s.planAt n.cslot.toNat) == 3

/-- A SEND can be scheduled (R284): NOT SCHEDULED where not. -/
def State.schedulable (c : Cmd) (s : State) : Bool :=
  if c.sendChain = 0x80 then true
  else if c.f 7 1 = 1 then
    (c.sendNode != 0xFFFF && s.singleCell c.sendNode) ||
      (s.isRouter && c.sendNode == s.pnode && s.mac.plan.any fun w => planType w == 6)
  else s.mac.plan.any fun w => planType w == 4 && planLead w == c.sendChain

/-- A backoff in units of 320 µs: a random number, hence a free value (R274). -/
def State.newBackoff (be : Nat) (s : State) : Nat × State :=
  let (n, s) := s.freeNat
  (n % 2 ^ be, s)

/-- A checked SEND enters the MAC. One that the device secures spends its frame counter when it is first sent (R336). -/
def State.sendStart (c : Cmd) (f : MacFrame) (s : State) : State :=
  let be := s.rf R.MAC_LBT 11 8
  let (n, s) := s.newBackoff be
  let x : SendOp := {
    tag := BitVec.ofNat 16 c.tag, node := c.sendNode, chain := BitVec.ofNat 8 c.sendChain, timing := c.f 7 1
    frame := f
    mcs := BitVec.ofNat 8 (c.f 18 1), power := BitVec.ofNat 8 (c.f 19 1), sec := c.sec, be, backoff := n }
  let s : State := { s with mac.sends := s.mac.sends ++ [x] }
  s.modQ 33 fun q => { q with
    inflight := q.inflight.map fun d => if d.tag = c.tag && !d.ended then { d with started := true } else d }

/-- A SEND asks to be secured, and its frame has no auxiliary security header with the counter field at 0 (R282). -/
def Cmd.headerBad (c : Cmd) (f : MacFrame) : Bool := c.sec && (!f.secured || f.fc != 0)

/-- Whether a key slot can secure a frame; an exhausted one says so (R280, R336). -/
def State.keyReady (k : Nat) (s : State) : Bool × State :=
  if !s.ccmSlot k then (false, s)
  else if (s.slot k).txfc == 0xFFFFFFFF then (false, s.keyExh k)
  else (true, s)

/-- SEND (R282, R284). DESIGN CHOICE (log 150): a frame to be secured whose security header is missing, or whose counter field is
not 0, gives INVALID FIELD at FLAGS; R282 gives it no status. -/
def State.send (c : Cmd) (segs : Segs) (frame : Option MacFrame) (sram : SramRead) (s : State) : State :=
  let fcs := if 125 < c.sendLen then 4 else 2
  if !s.macEn then s.declined 33 c 1 8 0
  else match checkSegs c segs ((c.sendLen + 3) / 4 * 4) with
    | .mismatch => s.fail 33 c 0 7 0 noLba 0
    | .unreadable => s.fail 33 c 0 4 0 noLba 1
    | .good =>
      match frame with
      | none => s.fail 33 c 0 4 0 noLba 0
      | some f =>
        let s := s.gatherRead sram
        if (sramBank sram).isSome then s.fail 33 c 0 5 0 noLba 0
        else if 2047 < c.sendLen + fcs + (if c.sec then micLen f.secLevel else 0) then s.fail 33 c 1 7 0 noLba 0
        else if !s.schedulable c then s.fail 33 c 1 6 0 noLba 0
        else if c.headerBad f then s.fail 33 c 0 2 1 noLba 0
        else if c.sec then
          match s.keyReady (s.sendKey c.sendNode) with
          | (false, s) => s.declined 33 c 1 5 0
          | (true, s) => s.sendStart c f
        else s.sendStart c f

/-- An earlier SEND to the same NODE has not entered the MAC yet: sends to one NODE leave in fetch order (R283). -/
def State.sendBehind (c : Cmd) (s : State) : Bool :=
  ((s.q 33).inflight.takeWhile fun d => d.tag != c.tag || d.started || d.ended).any fun d =>
    d.sendNode == c.sendNode && !d.started && !d.ended

def execSendFrame (tag : Half) (segs : Segs) (frame : Option MacFrame) (sram : SramRead) (s : State) : Out := .next <|
  match (s.q 33).inflight.find? fun c => c.tag == tag.toNat && !c.started && !c.ended with
  | some c => if s.macUp && s.dramWiped && !s.sendBehind c then s.send c segs frame sram else s
  | none => s

/-! ### Listen before talk (R274) -/

/-- Replace a SEND in progress. -/
def State.modSend (tag : Half) (f : SendOp → SendOp) (s : State) : State :=
  { s with mac.sends := s.mac.sends.map fun x => if x.tag = tag ∧ x.reply then f x else x }

def State.sendOp (tag : Half) (s : State) : Option SendOp := s.mac.sends.find? fun x => x.tag == tag && x.reply

/-- The channel of a SEND. -/
def SendOp.chan (x : SendOp) : RxChan := if x.chain = 0x80 then .ghz24 else .lead (Fin.ofNat 16 x.chain.toNat)

/-- A SEND waits for its first or next transmission, with no earlier SEND to its node before it (R283). -/
def State.sendWaits (x : SendOp) (s : State) : Bool :=
  let before := s.mac.sends.takeWhile fun y => y.tag != x.tag
  !s.txHeld x.node && !x.onAir && !x.waitAck && !before.any fun y => y.node == x.node && y.reply

/-- A backoff counts in the present slot: always at 2.4 GHz, else in a CONTENTION slot of the lead. -/
def State.contends (x : SendOp) (s : State) : Bool :=
  x.chain == 0x80 || (s.mac.inSlot && s.slotType == 4 && planLead (s.planAt s.curSlot) == x.chain.toNat)

/-- R274: the backoff is over. With `fits` false the rest does not end before the slot does, and nothing is counted. -/
def execLbtBackoffExpiry (tag : Half) (fits : Bool) (s : State) : Out := .next <|
  match s.sendOp tag with
  | none => s
  | some x =>
    if s.macUp && s.sendWaits x && !x.measuring && !x.ready && (x.timing == 0 || x.chain == 0x80) && s.contends x && fits &&
        s.rxUp x.chan then
      (s.energyStart x.chan).modSend tag fun x => { x with measuring := true }
    else s

/-- The energy measured is below MAC_LBT.EDTH. -/
def State.edClear (rssi : BitVec 16) (s : State) : Bool :=
  decide (rssi.toInt < 4 * ((s.rf R.MAC_LBT 7 0 : Int) - 140))

/-- A SEND's measurement is over (R274). -/
def State.measured (x : SendOp) (rssi : BitVec 16) (s : State) : State :=
  let y : SendOp := { x with measuring := false, attempts := x.attempts + 1, measures := x.measures + 1 }
  if s.edClear rssi then s.modSend x.tag fun _ => { y with ready := true }
  else if s.rf R.MAC_LBT 18 16 ≤ y.attempts then (s.count (R.MAC_CNT 2) 15 0 1).sendDone y 1 1 0
  else
    let be := min (x.be + 1) (s.rf R.MAC_LBT 15 12)
    let (n, s) := s.newBackoff be
    s.modSend x.tag fun _ => { y with be, backoff := n }

/-- R219: a measurement ends and is reported to the MAC, in the range of R216. -/
def execEnergyDetectDone (ch : RxChan) (rssi : BitVec 16) (s : State) : Out := .next <|
  let x := s.chain (chanOf ch)
  if tget (fun _ => false) x.ed (keyOf ch) then
    let r := satRssi rssi
    let s := s.setChain (chanOf ch) { x with
      ed := tset (fun _ => false) x.ed (keyOf ch) false
      edResult := tset (fun _ => none) x.edResult (keyOf ch) (some r) }
    match s.mac.sends.find? fun y => y.measuring && y.chan == ch with
    | some y => s.measured y r
    | none => s
  else s

/-! ### Strobes (R220, R223, R256, R279) -/

/-- The acknowledgement due on a chain leaves. -/
def State.ackGone (c : Chain) (s : State) : State :=
  { s with mac.acks := s.mac.acks.eraseP fun a => a.chain == c }

/-- A channel and MCS of R201 and R202. DESIGN CHOICE (log 151): the transmitter is not strobed for another, as on a lead that an
APPLY has disabled or given another option since; a SEND waits and an acknowledgement is skipped. -/
def State.chanOk (ch : RxChan) (mcs : Nat) (s : State) : Bool :=
  match ch with
  | .ghz24 => true
  | .lead i => s.leadOn i.val && (rateOf (s.leadOpt i.val) mcs).isSome && decide (779000 ≤ s.chanKhz ch) &&
      decide (s.chanKhz ch ≤ 960000)

/-- The request of a transmission on a receiver's channel: frequency and option are the channel's (R220, R256). -/
def State.onChannel (who : TxWho) (ch : RxChan) (mcs : Nat) (power : Option (BitVec 6)) (locked : Bool) (s : State) : Option TxReq :=
  if s.chanOk ch mcs then some {
    chain := chanOf ch, who, khz := s.chanKhz ch
    opt := match ch with | .lead i => BitVec.ofNat 2 (s.leadOpt i.val) | .ghz24 => 0
    mcs := BitVec.ofNat 3 mcs, power, locked }
  else none

/-- A sub-GHz transmission of the MAC's slots: no SHARED slot is running (R256). -/
def State.slotAllowsTx (s : State) : Bool := !(s.mac.running && s.mac.inSlot && s.slotType == 2)

/-- The acknowledgement due on a chain (R278). -/
def State.ackDue (c : Chain) (s : State) : Option AckDue := s.mac.acks.find? fun a => a.chain == c

/-- The channel a SEND may strobe on now (R256, R274): at 2.4 GHz once its channel was free; with TIMING 0 in a CONTENTION
slot of its lead, once free; a router's croak to its parent in an UPLINK slot, on the slot's lead; with TIMING 1 in its
node's SINGLE cell, a repeat in another such slot (R275). -/
def State.sendChannel (x : SendOp) (s : State) : Option RxChan :=
  let slotLead := planLead (s.planAt s.curSlot)
  if x.chain = 0x80 then (if x.ready then some .ghz24 else none)
  else if x.timing = 0 then (if x.ready && s.contends x then some x.chan else none)
  else if x.lastSlot = some s.mac.slotStart then none
  else if s.isRouter && x.node == s.pnode && s.mac.inSlot && s.slotType == 6 then some (.lead (Fin.ofNat 16 slotLead))
  else if s.mac.inSlot && x.node != 0xFFFF && s.singleCell x.node && (s.node x.node).cslot.toNat == s.curSlot &&
      s.croaksNow (s.node x.node) then some x.chan
  else none

/-- Whether the MAC may strobe for a transmission now, and the request it makes; no SEND starts while an acknowledgement is due
(R279); `locked`: the transmit synthesiser is locked
at its frequency. -/
def State.strobeReq (who : TxWho) (c : Chain) (locked : Bool) (s : State) : Option TxReq :=
  match who with
  | .chorus =>
    let w := s.planAt s.curSlot
    let p := fld 16 11 w
    if c == .subGhz && s.mac.chorusDue.isSome && s.mac.inSlot && s.slotType == 1 then
      s.onChannel who (.lead (Fin.ofNat 16 (planLead w))) (fld 10 8 w) (if p = 63 then none else some (BitVec.ofNat 6 p)) locked
    else none
  | .ack => (s.ackDue c).bind fun a => s.onChannel who a.ch a.mcs.toNat none locked
  | .croak tag | .send tag =>
    match s.sendOp tag with
    | none => none
    | some x =>
      if s.sendWaits x && (s.ackDue c).isNone && ((x.chain == 0x80) == (c == .ghz24)) then
        (s.sendChannel x).bind fun ch =>
          s.onChannel who ch x.mcs.toNat (if x.power = 0xFF then none else some (BitVec.ofNat 6 x.power.toNat)) locked
      else none

/-- A strobe is refused (R220): the SEND completes with REFUSED, an acknowledgement is skipped, a chorus is not sent. -/
def State.strobeFail (t : TxReq) (why : Nat) (s : State) : State :=
  let s := if why = 3 then s.loLost t.chain else s
  match t.who with
  | .chorus => { s with mac.chorusDue := none }
  | .ack => (s.ackGone t.chain).count (R.MAC_CNT 0) 23 16 1
  | .croak tag | .send tag =>
    match s.sendOp tag with
    | some x => s.sendDone x 1 3 (why * 2 ^ 24)
    | none => s

/-- A SEND that the device secures is secured at its first strobe, with its slot's key and next counter; none where the slot can
secure nothing (R280, R335, R336). A repeat goes out as it was secured then. -/
def State.sendSeal (x : SendOp) (s : State) : Option MacFrame × State :=
  match x.sealed with
  | some f => (some f, s)
  | none =>
    if !x.sec then (some x.frame, s)
    else
      let k := s.sendKey x.node
      match s.takeFc k with
      | (none, s) => (none, s)
      | (some fc, s) =>
        let f := s.sealFrame k { x.frame with fc }
        (some f, ((s.preempt false).ctxNote 1).modSend x.tag fun y => { y with sealed := some f })

/-- The FCS of a frame (R282). PRESUMED (log 152): the CRCs of IEEE 802.15.4, of 2 octets, or of 4 for a PSDU longer than 127. -/
def crc16Bit (c : BitVec 16) : BitVec 16 := if c.getLsbD 0 then (c >>> 1) ^^^ 0x8408 else c >>> 1
def crc16 (l : List Byte) : BitVec 16 :=
  l.foldl (fun c b => (List.range 8).foldl (fun c _ => crc16Bit c) (c ^^^ b.setWidth 16)) 0
def fcsOf (l : List Byte) : List Byte := if 125 < l.length then bvBytes 4 (crc32 l) else bvBytes 2 (crc16 l)

/-- A strobe is taken (R223): the frame goes out with its FCS (R282). -/
def State.strobeSend (t : TxReq) (f : Option MacFrame) (s : State) : State :=
  let fcs := match f with
    | some f => fcsOf (f.body ++ f.mic)
    | none => []
  let s := s.strobe t
  s.setChain t.chain { s.chain t.chain with txFrame := f, txFcs := fcs }

def State.strobeGo (t : TxReq) (s : State) : State :=
  match t.who with
  | .chorus => { s.strobeSend t s.mac.chorusDue with mac.chorusDue := none }
  | .ack => s.strobeSend t ((s.ackDue t.chain).map (·.frame))
  | .croak tag | .send tag =>
    match s.sendOp tag with
    | none => s
    | some x =>
      match s.sendSeal x with
      | (none, s) => s.sendDone x 1 5 0
      | (some f, s) =>
        (s.strobeSend t (some f)).modSend tag fun x => { x with
          onAir := true, ready := false, transmissions := x.transmissions + 1
          lastSlot := if x.timing = 1 then some s.mac.slotStart else none }

/-- An acknowledgement due whose channel the radio no longer has is skipped. -/
def State.ackSkip (c : Chain) (s : State) : State :=
  if (s.ackDue c).isSome then (s.ackGone c).count (R.MAC_CNT 0) 23 16 1 else s

/-- A start strobe. A chorus is committed from the start of its slot and displaces an acknowledgement, which is skipped
(R279). An acknowledgement that falls due in a SHARED slot is not sent (R256), and counted in ACKSKIP: DESIGN CHOICE (log 124). -/
def execStartStrobe (who : TxWho) (chain : Chain) (locked : Bool) (s : State) : Out := .next <|
  if !s.macUp || !s.macEn then s
  else match s.strobeReq who chain locked with
    | none => if who = .ack then s.ackSkip chain else s
    | some t =>
      if who = .ack && t.chain == .subGhz && (!s.slotAllowsTx || s.mac.chorusDue.isSome) then (s.ackGone .subGhz).count (R.MAC_CNT 0) 23 16 1
      else match s.strobeRefused t with
        | some why => s.strobeFail t why
        | none => s.strobeGo t

/-! ### The end of a transmission -/

/-- The SEND of a transmission, also one given up (R285). -/
def State.onAirOp (tag : Half) (s : State) : Option SendOp := s.mac.sends.find? fun x => x.tag == tag && x.onAir

/-- A SEND's frame has been sent, its last sample at `e`. With EN = 0 no acknowledgement is waited for (R288). -/
def State.sendSent (tag : Half) (e : Word) (s : State) : State :=
  match s.onAirOp tag with
  | none => s
  | some x =>
    if !x.reply then { s with mac.sends := s.mac.sends.filter fun y => y != x }
    else if x.frame.ar && !s.macEn then s.sendDone x 1 8 0
    else if x.frame.ar then s.modSend tag fun x => { x with onAir := false, waitAck := true, endAt := e }
    else s.sendDone x 0 0 0

/-- R223, R226: the PA ramp down ends. -/
def State.rampDown (c : Chain) (t : TxReq) (s : State) : State :=
  let e := s.txEnd c t
  let s := (s.timerTo (e + BitVec.ofNat 32 (s.rampUs c))).txOff c
  let s := match t.who with
    | .chorus => s
    | .ack => (s.ackGone c).count (R.MAC_CNT 0) 15 0 1
    | .croak tag | .send tag => s.sendSent tag e
  (s.raise 117 0).calPoll c

def execTxRampDownEnd (chain : Chain) (s : State) : Out := .next <|
  match (s.chain chain).tx with
  | some t => s.rampDown chain t
  | none => s

/-- R225: a transmission is abandoned; a SEND completes with ABANDONED. Blanking goes on to its end. -/
def State.txAbandon (c : Chain) (why : Nat) (s : State) : State :=
  match (s.chain c).tx with
  | none => s
  | some t =>
    let s := (s.txOff c).post 0x20 1 (chainCode c) why
    let s := match t.who with
      | .chorus => s
      | .ack => s.ackGone c
      | .croak tag | .send tag =>
        match s.onAirOp tag with
        | some x => s.sendDone x 1 4 0
        | none => s
    s.calPoll c

/-- Without VDD_RF a chain stops (R55, R225): frames in decode and measurements end, a running calibration waits again. What
earlier calibrations set is kept. -/
def State.rfStops (s : State) (c : Chain) : State :=
  let x := s.chain c
  let s := if x.calRunning then s.unblank c else s
  let y := s.chain c
  let s := (s.setChain c { y with
    rx := [], ed := [], calRunning := false, pendRx := x.pendRx || (x.calRunning && x.runRx)
    pendTx := x.pendTx || (x.calRunning && x.runTx), runRx := false, runTx := false }).calShow
  if c = .ghz24 then s.ch24Now else s

/-- R225, R55: a radio rail falls; both chains hang on both rails. -/
def State.railFall (r : RadioRail) (s : State) : State :=
  let d := if r = .pa then 0 else 1
  let s := ((s.txAbandon .subGhz d).txAbandon .ghz24 d).setRail r true
  let s : State := if r = .rf then [Chain.subGhz, Chain.ghz24].foldl State.rfStops s else s
  s.railShow r

/-- A radio rail falls, in whatever state the device is (R55, R225). DESIGN CHOICE (log 153): a fall while D0 is down is shown
when D0 runs again; its registers and events are on D0. -/
def execRadioRailFall (rail : RadioRail) (s : State) : Out := .next <|
  if s.radio.sub.railDown.contains rail then s
  else if s.d0up then s.railFall rail
  else
    let s := s.setRail rail true
    { s with radio.railFell := s.radio.railFell.filter (· != rail) ++ [rail] }

/-- R225: the sub-GHz transmit synthesiser loses lock during a frame. -/
def execTxSynthLockLoss (s : State) : Out := .next <|
  if s.radio.sub.tx.isSome then (s.txAbandon .subGhz 2).wb R.RFS_STAT 2 false else s.wb R.RFS_STAT 2 false

/-- R275: no acknowledgement came in its window; the SEND is repeated, or completes with NO ACK. -/
def execAckWaitTimeout (tag : Half) (s : State) : Out := .next <|
  match s.sendOp tag with
  | none => s
  | some x =>
    if !x.waitAck then s
    else if s.rf R.MAC_LBT 21 19 < x.transmissions then
      (s.count (R.MAC_CNT 2) 23 16 1).sendDone x 1 2 0
    else
      let be := s.rf R.MAC_LBT 11 8
      let (n, s) := s.newBackoff be
      s.modSend tag fun x => { x with waitAck := false, attempts := 0, be, backoff := n }

end Sys2Proof.Machine
end

