-- ==== Sys2Proof/Machine/Power.lean ====
section
/-! DEFINITION. Reset (R44, R62 to R67), bring-up (R75, R403), power states and wakes (R76 to R92), the watchdog
(R68, R69), the crystal, and the supply of the lehr (R481). -/

namespace Sys2Proof.Machine

/-! ### What a reset clears (R64) -/

/-- Registers a device reset keeps: those held in the lehr, and NWT_BASK.RETIRED (R425). -/
def resetKept (a : Nat) : Bool :=
  a == R.RST_CAUSE || a == R.RST_STRAP || a / 65536 == 15 || lehrHeldPio a || a == R.NWT_BASK

/-- Status bits that show a pin, a strap or a stored fact, given their values again after a reset. -/
def State.showFixed (s : State) : State :=
  let s := (s.wb R.RST_STAT 1 !s.lehr.xtalOk).wb R.STO_STAT 4 !s.power.pfailn
  let s := (s.wb R.HLT_STAT 2 !s.power.replacen).wf R.SMB_STAT 8 2 (0x58 + s.rf R.RST_STRAP 2 0)
  s.keyShow.cflShow

/-- Everything a device reset clears, cuts or abandons. DESIGN CHOICE (log 110): a die's run of timeouts and its tier 3 failures
(R189) stay. -/
def State.cut (s : State) : State :=
  let s := s.flashCut.jnlCut.keysCut.lehrCut
  let s := s.resetRegs fun a => !resetKept a
  let sub : ChainState := { railDown := s.radio.sub.railDown }
  let radio : Radio := { sub, ghz := sub, railFell := s.radio.railFell }
  let p : Pio := { gpioExt := s.pio.gpioExt, encA := s.pio.encA, encB := s.pio.encB, inhSince := s.pio.inhSince }
  let w : Power := {
    phase := .held, holds := s.power.holds, straps := s.power.straps, strapped := s.power.strapped
    pfailn := s.power.pfailn, seqerr := s.power.seqerr, replacen := s.power.replacen, fromPor := s.power.fromPor }
  let h : Health := { s.health with known := 0, excursion := false, toProgram := [] }
  let s : State := { s with
    hri := { hostMem := s.hri.hostMem, badAddrs := s.hri.badAddrs, undefBufs := s.hri.undefBufs }
    radio := radio
    mac := {}
    newts := []
    gather := []
    roles := {}
    pio := p
    power := w
    svc := {}
    link := { errors := s.link.errors }
    health := h
    cycLatch := []
    store := { s.store.dramLost with counters := s.store.savedCounters, since := s.count64 } }
  s.showFixed

/-- A device reset by a source of R62; `c` is its bit of RST_CAUSE. Under power-on reset or in backup only nothing
is left to reset. -/
def State.deviceReset (c : Nat) (s : State) : State :=
  if s.power.phase == .run || s.power.phase == .held then s.cut.flag R.RST_CAUSE c else s

/-- Nothing holds the device in reset. PERSTn holds it while PERSTMODE is 0 (R62). -/
def State.released (s : State) : Bool :=
  let h := s.power.holds
  !h.porn && !h.sysrstn && h.brownout.isEmpty && !h.clockFail && h.sequence.isEmpty && h.sequenceRf.isEmpty &&
    !(h.perstn && !s.rb R.RST_CTL 0)

/-- A reset ends once nothing holds it; bring-up starts with no ready bit set (R75, R88). -/
def State.leaveReset (s : State) : State :=
  if s.power.phase == .held && s.released then ({ s with power.phase := .run } : State).ready 0 else s

/-- R45, R64: power-on reset. -/
def State.powerOnReset (s : State) : State :=
  let s := s.cut.resetRegs fun a => a / 65536 != 15 && a != R.PIO_CMPBAK
  let w : Power := { s.power with
    phase := .por, straps := 0, strapped := false, replacen := true, fromPor := true }
  ({ s with power := w } : State).showFixed

/-- PORn falls. In backup only with VDDIO_33 absent nothing is powered. -/
def execPornAssert (s : State) : Out := .next <|
  let s : State := { s with power.holds := { s.power.holds with porn := true } }
  if s.power.phase == .backup && !s.lehr.fromMain then s else s.powerOnReset

/-- R75 step 2: PORn rises. -/
def execPornRelease (s : State) : Out := .next <|
  let w : Power := { s.power with holds := { s.power.holds with porn := false } }
  let s' : State := { s with power := w }
  if s.power.phase == .por then
    let s := s'.wb R.RST_CAUSE 6 s.power.seqerr
    ({ s with power.phase := .held, power.seqerr := false } : State).leaveReset
  else s'

def execSysrstnAssert (s : State) : Out := .next <|
  ({ s with power.holds := { s.power.holds with sysrstn := true } } : State).deviceReset 1

def execSysrstnRelease (s : State) : Out := .next <|
  ({ s with power.holds := { s.power.holds with sysrstn := false } } : State).leaveReset

/-- R52: a supply sequence that breaks R51. `rails` and `radio` have not yet passed their thresholds: until all have, all but
the lehr is held in reset. -/
def execSequenceError (rails : List Rail) (radio : List RadioRail) (s : State) : Out := .next <|
  let h : Holds := { s.power.holds with sequence := rails, sequenceRf := radio }
  let s : State := { s with power.seqerr := true, power.holds := h }
  if s.power.phase == .run || s.power.phase == .held then s.cut.leaveReset else s

/-- R54: a rail below its threshold. -/
def execBrownout (rail : Rail) (s : State) : Out := .next <|
  let l := s.power.holds.brownout
  let l := if l.contains rail then l else rail :: l
  ({ s with power.holds := { s.power.holds with brownout := l } } : State).deviceReset 3

/-- The rail is above its threshold again, or has passed it for the first time (R52, R54). -/
def execBrownoutRailRecover (rail : Rail) (s : State) : Out := .next <|
  let h : Holds := { s.power.holds with
    brownout := s.power.holds.brownout.filter (· != rail), sequence := s.power.holds.sequence.filter (· != rail) }
  ({ s with power.holds := h } : State).leaveReset

/-- R52, R55: a radio rail is above its threshold again, or for the first time: its chains resume, pending calibrations with
them, and a reset held for the rail may end. -/
def execRadioRailRecover (rail : RadioRail) (s : State) : Out := .next <|
  let h : Holds := { s.power.holds with sequenceRf := s.power.holds.sequenceRf.filter (· != rail) }
  let s : State := { s.setRail rail false with power.holds := h }
  (if s.d0up then (s.calPoll .subGhz).calPoll .ghz24 else s).leaveReset

/-- R57: CK_REF fails while it is in use. -/
def State.refFail (s : State) : State :=
  ({ s with power.holds := { s.power.holds with clockFail := true } } : State).deviceReset 4

def execClockFail (s : State) : Out := .next <|
  if s.power.phase == .run && s.power.ckref then s.refFail else s

/-- A PLL is locked. -/
def State.locked (p : Pll) (s : State) : Bool :=
  match p with
  | .d1 => s.power.d1Locked
  | .d0 => s.power.d0Locked
  | .island i => s.power.islands.getLsbD i.val

/-- R61: a PLL loses lock in service. -/
def execPllLockLoss (p : Pll) (s : State) : Out := .next <|
  if s.power.phase == .run && s.locked p then s.refFail else s

/-! ### Host-link reset (R65, R101) -/

/-- R31: a side of a crossing resets or is gated; how many transfers were in flight is open, and which of the
crossings given lost the last. -/
def State.cdcLoss (doms : List Nat) (s : State) : State :=
  let (n, s) := s.freeNat
  if n = 0 then s
  else
    let (k, s) := s.freeNat
    (s.wf R.CLK_CDCLOST 15 0 (min 0xFFFF (s.rf R.CLK_CDCLOST 15 0 + n))).wf R.CLK_CDCLOST 19 16
      (doms.getD (k % doms.length) 0)

/-- PERSTn falls: device reset or host-link reset by PERSTMODE. A link parked in L1.2 or L2/L3 Ready stays so (R78, R79). -/
def execPerstnAssert (s : State) : Out := .next <|
  let mode := s.rb R.RST_CTL 0
  let s : State := { s with power.holds := { s.power.holds with perstn := true } }
  if s.power.phase == .run && mode then
    let s := (s.hostLinkReset.cdcLoss [11]).flag R.RST_CAUSE 5
    if s.hri.link == .up then { s with hri.link := .down } else s
  else s.deviceReset 5

/-- PERSTn rises: the link trains anew. -/
def execPerstnRelease (s : State) : Out := .next <|
  let s : State := { s with power.holds := { s.power.holds with perstn := false }, hri.link := .down }
  if s.power.phase == .run then s.wake .perst else s.leaveReset

def execFunctionLevelReset (s : State) : Out := .next <|
  if s.d0up && s.pstate != 3 then s.hostLinkReset.cdcLoss [11] else s

/-! ### Bring-up (R75) -/

/-- R41, R43: the straps are sampled: all six after PORn, STRAP_SVCBOOT after any reset. -/
def execStrapSample (straps : BitVec 6) (s : State) : Out := .next <|
  if s.power.phase != .run && s.power.phase != .held then s
  else
    let s :=
      if s.power.strapped then s
      else
        let bad := straps.toNat / 16 = 3
        let safe := if bad then 2 else straps.toNat / 16
        let s := s.wr R.RST_STRAP (BitVec.ofNat 32 (straps.toNat + 64 * b2n bad))
        let s := (List.range 36).foldl (fun s k => s.wf (R.PIO_OUT k) 1 0 safe) s
        ({ s with power.straps := straps, power.strapped := true } : State).showFixed
    if s.power.phase != .run || s.power.sampled then s
    else
      let b := straps.getLsbD 3
      let s : State := { s with
        power.sampled := true, power.bootHeld := b, power.straps := bput 3 b s.power.straps }
      (s.wb R.RST_STRAP 3 b).wb R.SVC_STAT 1 b

/-- R57, R90: CK_REF is qualified, at bring-up or in a wake from HUSH, or again after it failed. The MAC timer, which
it clocks, restarts. -/
def execCkrefQualified (s : State) : Out := .next <|
  let h := s.power.holds
  if s.power.phase == .held && h.clockFail then
    ({ s with power.holds := { h with clockFail := false } } : State).leaveReset
  else if s.power.phase == .run && s.power.sampled && !s.power.ckref && s.pstate != 3 &&
      (s.power.waking != .fromHush || s.power.settled) then
    { s with power.ckref := true, mac.timer := 0, mac.timerFrac := 0 }
  else s

/-- The ready bits, RGRDY lowest. -/
def State.readyBits (s : State) : Nat := s.rf R.PWR_STAT 6 3

/-- R61, R75, R89, R90: a PLL locks. -/
def execPllLock (p : Pll) (s : State) : Out := .next <|
  if s.power.phase != .run || !s.power.ckref then s
  else
    match p with
    | .d1 =>
      let s : State := { s with power.d1Locked := true }
      if s.readyBits = 0 then s.ready 1 else s
    | .d0 =>
      if s.power.d1Locked && s.readyBits % 2 == 1 then
        let s : State := { s with power.d0Locked := true }
        if s.readyBits = 1 && s.power.waking != .fromDoze then s.ready 3 else s
      else s
    | .island i =>
      if s.readyBits % 2 = 1 then
        let s : State := { s with power.islands := bput i.val true s.power.islands }
        if s.power.waking == .fromDoze && s.readyBits == 1 && s.power.islands.toNat % 8 == 7 then s.ready 3 else s
      else s

/-- R90 step 3. -/
def execTcxoSettleExpiry (s : State) : Out := .next <|
  if s.power.waking == .fromHush then { s with power.settled := true } else s

/-- The first address of a newt's image in the gather (R82), as an offset of the gather. -/
def State.imageBank (n : Nat) (s : State) : Nat := (s.rf R.PWR_CTL 7 3 + n / 4) * 262144 + n % 4 * 65536

/-- R88 step 3: MEMRDY. In a wake what lost power is zeroed. -/
def execMemrdySet (s : State) : Out := .next <|
  if s.power.phase != .run || s.readyBits != 3 then s
  else
    let s' := s.ready 7
    if s.power.waking == .no then s'
    else { s' with gather := tclear (fun a => !s.bankKept (a / 262144)) s.gather }

def execSramWipeDone (s : State) : Out := .next <|
  if s.power.phase == .run && s.rb R.PWR_STAT 5 && s.power.waking == .no then s.wb R.RST_STAT 3 true else s

/-- R75 step 12; after HUSH it follows the return to RUN (R90). -/
def execDramTrainingDone (s : State) : Out := .next <|
  if s.d0up && decide (s.pstate ≤ 1) && !s.power.dramOn then { s with power.dramOn := true } else s

/-! ### Boot (R403) -/

/-- A slot holds no image: it is erased (R418), so its newt has none to refuse (R22). -/
def State.slotErased (n : Nat) (s : State) : Bool :=
  s.imageReadable (slotBase n) && (s.flashBytes (slotBase n) 256).all (· == 0xFF)

/-- A newt's image is refused at boot (R403, R419). -/
def State.park (n why : Nat) (s : State) : State :=
  ((s.setParked n).flag R.RST_STAT 6).post 0x63 2 n (why + 256)

/-- One newt's image at boot: loaded, refused, or not there. -/
def State.bootNewt (s : State) (n : Nat) : State :=
  if s.retired n then s.setParked n
  else if s.keys.lc = 4 ∨ s.slotErased n then s.setRun n 3
  else match s.imageFault n with
    | some why => s.park n why
    | none => (s.loadImage n n).setRun n 3

/-- The default holders of a role (R21). -/
def defaultHolders (r : Nat) : List Nat :=
  if r < 8 then [r] else if r < 16 then [] else if r < 32 then [8, 9, 10] else [12, 13, 14]

/-- R21, R403: a role goes to its default holder, else to the lowest newt of its class whose image names it. -/
def State.bootRole (s : State) (r : Nat) : State :=
  let fits (n : Nat) : Bool := newtProcess n == roleProcess r && s.run n == 3 && s.named n r
  if s.keys.lc = 4 ∨ (s.keys.lc = 0 ∧ 16 ≤ r) then s
  else match (defaultHolders r ++ List.range 16).find? fits with
    | some n => s.setHeld r n
    | none => s

/-- R551: TLRUN after a power-on reset. -/
def State.tlrunUpdate (s : State) : State :=
  if !s.power.fromPor then s
  else
    let old := s.health.tlrun.toNat
    let v := if s.rb R.LEHR_CTL 3 then 0
      else if s.rb R.LEHR_STAT 1 then min 7 (old + 1)
      else if s.rb R.LEHR_STAT 9 then 0 else old
    ({ s with health.tlrun := BitVec.ofNat 3 v, power.fromPor := false } : State).wf R.HLT_CNT 10 8 v

/-- The end of boot: images, keys, roles, BOOTDONE, and what is posted then. It waits for a key that waits for the ledger (R334,
R338). -/
def State.boot (s : State) : State :=
  let s := s.markerScan.keysBoot
  if s.keysMissing then s
  else
  let s := (List.range 16).foldl State.bootNewt s
  let s := (List.range 64).foldl State.bootRole s
  let s := (List.range 16).foldl (fun s n => if s.holdsAny n then s.startNewt n 0 0 0 0 else s) s
  let s := (s.wb R.RST_STAT 5 true).spares.tlrunUpdate.lehrPosts
  let c := s.rf R.PIO_CMPBAK 3 0
  if c = 0 then s else s.post 0x54 1 0 c

def execBootComplete (s : State) : Out := .next <|
  if s.d0up && s.rb R.GLB_STAT 3 && s.rb R.RST_STAT 3 && s.power.dramOn && !s.rb R.RST_STAT 5 && !s.power.bootHeld
  then s.boot else s

/-! ### Watchdog (R68, R69) -/

/-- The watchdog counts: enabled, booted, role 7 held, in RUN or IDLE. -/
def State.wdtActive (s : State) : Bool :=
  s.power.phase == .run && s.rb R.RST_STAT 5 && s.rb R.RST_WDT_CTL 0 && s.roleState 7 != 0 && decide (s.pstate ≤ 1)

/-- A watchdog period expires, or a wrong kick counts as if one had. DESIGN CHOICE (log 27): the first-stage state stays where
RST_WDT_CTL.EN falls to 0 or role 7 becomes unassigned in the second period. -/
def State.wdtExpiry (s : State) : State :=
  if s.power.wdtStage then (s.deviceReset 2).leaveReset
  else (({ s with power.wdtStage := true } : State).flag R.RST_STAT 2).post 3 3 0 (s.rf R.RST_WDT_CTL 19 4)

def execWatchdogWarn (s : State) : Out := .next <|
  if s.wdtActive && !s.power.wdtStage then s.wdtExpiry else s

def execWatchdogReset (s : State) : Out := .next <|
  if s.wdtActive && s.power.wdtStage then s.wdtExpiry else s

/-- A write of RST_WDT_KICK. A wrong or out-of-order value leaves the value expected next as it was: DESIGN CHOICE
(log 108), R69 says only that it counts as an expiry. -/
def State.kick (w : Word) (s : State) : State :=
  if fld 15 0 w = (if s.power.wdtKey then 0x5A5A else 0xA5A5) then
    { s with power.wdtKey := !s.power.wdtKey, power.wdtStage := false }
  else if s.wdtActive then s.wdtExpiry else s

/-- A write of RST_CTL (R73); SWRST resets the device, with its master's code in RST_CAUSE. -/
def State.rstCtlWrite (m : Master) (w : Word) (s : State) : State :=
  let s := s.writeReg R.RST_CTL w
  if !bit 1 w then s
  else if fld 31 16 w ≠ 0x5253 then s.flag R.RST_STAT 0
  else ((s.deviceReset 7).wf R.RST_CAUSE 9 8 (masterCode m)).leaveReset

/-! ### Crystal (R59) and the lehr's supply (R481) -/

/-- The crystal stops. With CK_AO stopped the count stops with it, and the time is lost; else CK_AO drives the prescaler. -/
def execXtalFail (s : State) : Out := .next <|
  let s : State := { s with lehr.xtalOk := false }
  if s.lehr.ckAo then s.wb R.RST_STAT 1 true else { s with lehr.lostPost := true, lehr.lostWhy := 1 }

def execXtalRecover (s : State) : Out := .next <|
  let s : State := { s with lehr.xtalOk := true }
  if s.lehr.ckAo then s.wb R.RST_STAT 1 false else s

/-- VDDIO_33 is lost: the lehr passes to VBAK and every other part stops (R54, R92, R481). -/
def execVddio33Fall (s : State) : Out := .next <|
  let t := if s.power.phase == .backup then s else s.cut
  let l : Lehr := { t.lehr with
    fromMain := false, fromBak := true, charging := false, qualifying := false, ckAo := false
    bakSince := if s.lehr.fromMain then t.lehr.sec else t.lehr.bakSince
    lostPost := t.lehr.lostPost || !t.lehr.xtalOk
    lostWhy := if t.lehr.xtalOk then t.lehr.lostWhy else 1 }
  { t with lehr := l, power.phase := .backup, power.strapped := false, power.replacen := true }

def execVddio33Rise (s : State) : Out := .next <|
  if s.power.phase == .backup && !s.lehr.fromMain then { s with lehr.qualifying := true } else s

/-- VDDIO_33 has stayed up: its path closes and VBAK's opens; R482 is applied and BAKUSED set. With PORn low the
device is then in power-on reset, else it waits for PORn in backup only (R92). -/
def execVddio33PathClose (s : State) : Out := .next <|
  if !s.lehr.qualifying then s
  else
    let s := if s.lehr.alive then s else s.lehrFresh
    let s := (s.wb R.LEHR_STAT 9 true).wb R.LEHR_STAT 1 (s.lehr.lostPost || s.rb R.LEHR_STAT 1)
    let l : Lehr := { s.lehr with fromMain := true, fromBak := false, qualifying := false, ckAo := true, usedBak := true, chargeWait := true }
    let s := ({ s with lehr := l } : State).wb R.RST_STAT 1 !s.lehr.xtalOk
    if s.power.holds.porn then s.powerOnReset else s

def execChargerResume (s : State) : Out := .next ({ s with lehr.chargeWait := false } : State).chargeNow

/-! ### RUN, IDLE, DOZE, HUSH (R76 to R84) -/

/-- No storage command is outstanding (R78). -/
def State.storageIdle (s : State) : Bool :=
  s.hri.queues.all fun p => p.1 == 0 || 33 ≤ p.1 || (p.2.inflight.isEmpty && (p.2.frozen || p.2.waiting == 0))

/-- A radio chain is at work: transmitting, receiving a frame, calibrating or measuring energy. -/
def ChainState.atWork (c : ChainState) : Bool :=
  c.tx.isSome || c.calRunning || c.rx.any (fun p => p.2 == .decoding) || c.ed.any (·.2)

/-- The store works on its own: staged units, a fold, a checkpoint. -/
def Store.atWork (t : Store) : Bool := !t.units.isEmpty || t.folding || !t.moves.isEmpty || t.ckptRun.isSome

/-- The store starts (R75 step 16, R188): it loads its map and replays its log, or scans the media. -/
def State.storeStarts (s : State) : Bool := (!s.rb R.STO_STAT 1 && !s.power.bootHeld) || s.rb R.STO_STAT 8

/-- Every unit of the data class is idle (R77): no storage command, no newt of islands A to C RUNNING, no start and no work of
the store's own, no journal group to commit, no radio chain at work beyond its listening. -/
def State.dataIdle (s : State) : Bool :=
  s.storageIdle && ((List.range 12).all fun n => s.run n != 0) && !s.store.atWork && !s.storeStarts && s.jnl.committed.isEmpty &&
    !s.radio.sub.atWork && !s.radio.ghz.atWork

def execIdleEntry (s : State) : Out := .next <|
  if s.d0up && s.pstate == 0 && s.rb R.PWR_CTL 0 && s.dataIdle then s.wf R.PWR_STAT 2 0 1 else s

/-- R78 but for the journal, no move in progress (chapter 13) and no life-cycle transition (R354). -/
def State.dozeBut (s : State) : Bool :=
  s.rb R.PWR_CTL 1 && s.rd R.PWR_VETOD == 0 && (s.hri.link == .l12 || s.hri.link == .l2l3) &&
    s.storageIdle && s.programmed &&
    ((List.range 12).all fun n => (s.newt n).mbx.isEmpty) && (s.roles.wires.all fun w => 12 ≤ w.1) &&
    s.radio.sub.tx.isNone && s.radio.ghz.tx.isNone && s.roles.move.isNone && !s.keys.wipePend

/-- R78: DOZE may be entered. -/
def State.dozeOk (s : State) : Bool := s.dozeBut && s.jnl.groupStart.isNone && s.jnl.committed.isEmpty

/-- Step 2 of R81: the instruction memory of newt n is copied to its image bank. -/
def State.saveImage (s : State) (n : Nat) : State :=
  let b := s.imageBank n
  let g := tclear (fun a => decide (b ≤ a) && decide (a < b + 65536)) s.gather
  let put (g : Tbl Byte) (p : Nat × BitVec 128) : Tbl Byte :=
    ((leBytes 16 p.2.toNat).zipIdx).foldl (fun g q => tset (fun _ => 0) g (b + 16 * p.1 + q.2) q.1) g
  { s with gather := ((s.newt n).imem.foldl put g) }

/-- The words a newt's image bank holds. -/
def State.bankWords (n : Nat) (s : State) : Tbl (BitVec 128) :=
  let b := s.imageBank n
  (s.gather.filter fun p => decide (b ≤ p.1) && decide (p.1 < b + 65536)).foldl (fun t p =>
    let k := (p.1 - b) / 16
    let v : BitVec 128 := tget (fun _ => 0) t k
    tset (fun _ => 0) t k (v ||| BitVec.ofNat 128 (p.2.toNat * 256 ^ ((p.1 - b) % 16)))) []

/-- A newt of islands A to C loses its state (R84, R539); the header of its image stays known. -/
def State.gateNewt (s : State) (n : Nat) : State :=
  let x := s.newt n
  let y : Newt := { image := x.image, selfStopped := x.selfStopped }
  (s.sampleClear n).setNewt n y

/-- R81: DOZE is entered, to its commit point and past it; folding is halted (R178), log records in the DRAM buffer have been
programmed (R78), and the map cache is lost, its dirty lines written back (R84, R174). -/
def State.dozeEnter (s : State) : State :=
  let s := ((List.range 12).foldl State.saveImage s).nodesBack.programLog
  let s := (List.range 12).foldl State.gateNewt s
  let s := s.resetRegs fun a => (List.range 12).any fun n => (List.range 8).any fun k => a == R.PMC_CNT n k
  let s : State := { s with
    store.mapCache := []
    power.wdtStage := false, power.islands := s.power.islands &&& 0x8, power.wakeToRun := false }
  ((s.cdcLoss [6, 7, 8]).ready 0).wf R.PWR_STAT 2 0 2

/-- R80: an entry is abandoned. -/
def State.abortEntry (s : State) : State := s.count R.PWR_STAT 23 16 1

/-- PWM k is at a steady level: it does not toggle (R79). -/
def State.pwmSteady (k : Nat) (s : State) : Bool :=
  s.pad k != .pwm || s.rf (R.PIO_PWMDUTY k) 31 16 == 0 || decide (32768 ≤ s.rf (R.PIO_PWMDUTY k) 31 16)

/-- R79, with the PERSTMODE that HUSH requires (R84). -/
def State.hushOk (s : State) : Bool :=
  s.pstate == 2 && s.dozeOk && s.rb R.PWR_CTL 2 && s.rb R.RST_CTL 0 &&
    s.rd R.PWR_VETOH0 == 0 && s.rd R.PWR_VETOH1 == 0 && (s.hri.link == .l2l3 || s.power.holds.perstn) &&
    (List.range 12).all fun k => s.pwmSteady k

/-- What the retention latch of output k captures (R47): the level it drives. A PWM that does not toggle drives the level of
its duty, 0 % or 100 %. -/
def State.padLatch (k : Nat) (s : State) : Pad :=
  match s.pad k with
  | .pwm => if s.rf (R.PIO_PWMDUTY k) 31 16 = 0 then .low else .high
  | p => p

/-- What roles 4 and 5 may have saved of the MAC's tables: nothing, unless both are held and some bank is retained (R84).
Before the first RUN after HUSH it is what the bank has kept since. -/
def State.macSave (s : State) : Option (Tbl Node × List Word) :=
  if s.rd R.PWR_RETSEL = 0 then none
  else if s.mac.lost then s.mac.saved
  else if s.roleState 4 != 0 && s.roleState 5 != 0 then some (s.mac.nodes, s.mac.plan) else none

/-- What role 6 may have saved of the calibration results, likewise (R84, R228). -/
def State.calSave (s : State) : Option CalSave :=
  if s.rd R.PWR_RETSEL = 0 then none
  else if s.power.afterHush then s.radio.calSaved
  else if s.roleState 6 != 0 then some {
    sub := s.radio.sub.calVals, ghz := s.radio.ghz.calVals, subTemp := s.radio.sub.calTemp, ghzTemp := s.radio.ghz.calTemp
    clamp := s.rd R.RFS_PCLAMP }
  else none

/-- R392, R398: HUSH halts a newt of island D between two words: its loads in flight complete and every result lands (R371);
one that a refused or failing gather access stops is not halted but faults. -/
def State.haltNewt (s : State) (n : Nat) : State :=
  if 2 ≤ s.run n then s
  else
    let x := s.newt n
    match x.gath.find? (·.bad) with
    | some g => s.newtFault n g.cause 0 g.pc
    | none =>
      let y : Newt := { landAll x with gath := [], wasWaiting := s.run n == 1 }
      ((s.setNewt n y).setRun n 2).wr (R.NWT_FPC n) (BitVec.ofNat 32 (x.pc % 65536))

/-- It resumes at the next word, or goes on waiting (R392). -/
def State.resumeNewt (s : State) (n : Nat) : State :=
  if s.run n ≠ 2 then s else (s.setRun n (if (s.newt n).wasWaiting then 1 else 0)).wr (R.NWT_FPC n) 0

/-- HUSH is entered from DOZE: island D halted, pads latched, D0 unpowered, DRAM and PCIe lost (R81, R84). -/
def State.hushEnter (s : State) : State :=
  let pads : Tbl Pad := (List.range 36).foldl (fun t k => tset (fun _ => Pad.off) t k (s.padLatch k)) []
  let s := [12, 13, 14, 15].foldl State.haltNewt s
  let s := (s.nodesBack.flashCut.markerScan).hostLinkReset
  let s : State := { s with
    pio.latched := pads
    pio.adc := none
    mac.saved := s.macSave
    radio.calSaved := s.calSave
    mac.lost := true
    mac.nodes := []
    mac.plan := []
    mac.cache := []
    mac.cached := []
    mac.written := []
    mac.running := false
    mac.inSlot := false
    mac.acks := []
    mac.handed := []
    store := s.store.dramLost
    link.held := [] }
  let w : Power := { s.power with
    d0run := false, dramOn := false, ckref := false, d1Locked := false, d0Locked := false, islands := 0
    settled := false, wakeToRun := false }
  let s : State := { s with power := w }
  let s := (((s.wb R.PIO_STAT 3 false).wb R.RST_STAT 4 false).wb R.STO_STAT 1 false).wr R.STO_HEALTH (resetVal R.STO_HEALTH)
  let s := s.resetRegs fun a => a / 65536 == 6 && a != R.JNL_CTL
  (((s.wb R.GLB_STAT 3 false).cdcLoss [2, 3, 4, 9, 10, 11, 12, 13]).ready 0).wf R.PWR_STAT 2 0 3

/-! ### Wakes (R85 to R91) -/

/-- An entry into DOZE or HUSH can be under way: its conditions hold in the state it leaves (R77). -/
def State.canEnter (s : State) : Bool := (s.d0up && decide (s.pstate ≤ 1) && s.dozeOk) || s.hushOk

/-- R80, R85: a wake cause arrives; `entering`: during an entry, before its commit point. It then abandons the entry, and
acts in the state that was being left. -/
def execWakeArrives (c : WakeSrc) (entering : Bool) (s : State) : Out := .next <|
  if entering && s.canEnter && s.wakeEnabled c then s.abortEntry.wake c else s.wake c

/-- R86: the first byte after a START is an address and its direction; the matcher knows seven bits. -/
def execSmbusHushMatch (addr : BitVec 7) (s : State) : Out := .next <|
  if s.pstate = 3 ∧ addr.toNat = 0x58 + s.rf R.RST_STRAP 2 0 then s.wake .smb else s

/-- R83: instruction memories are reloaded; those of `bad`, with an uncorrectable word in their image bank (R26), come from
code flash, or their newts stay parked and lose their roles (R402). -/
def execImageReloadDone (bad : List (Fin 12)) (s : State) : Out := .next <|
  if s.power.waking != .fromDoze || s.readyBits != 7 then s
  else
    let s := (List.range 12).foldl (fun s n => s.modNewt n fun x => { x with imem := s.bankWords n }) s
    let s := bad.foldl (fun s b =>
      let n := b.val
      let s := s.sramUe (s.imageBank n / 262144) 2
      match s.imageFault n with
      | none => (s.loadImage n n).flag R.PWR_STAT 9
      | some why =>
        let held := (List.range 64).filter fun r => s.holds n r
        held.foldl (fun s r => s.unassign r 2) ((s.modNewt n fun x => { x with imem := [], image := none }).park n why)) s
    ({ s with power.settled := true } : State).spares

/-- What the MAC has from the first RUN after HUSH on (R84, R91): the tables that roles 4 and 5 saved, where they did, a free
choice; else nothing, until the host writes them. -/
def State.macRebuild (s : State) : State :=
  if !s.mac.lost then s
  else
    let (had, s) := s.freeBool
    match (if had then s.mac.saved else none) with
    | some (nodes, plan) => { s with mac.lost := false, mac.saved := none, mac.nodes := nodes, mac.plan := plan }
    | none => ({ s with mac := { timer := s.mac.timer, timerFrac := s.mac.timerFrac } } : State).resetRegs fun a => a / 65536 == 9

/-- R91: the MAC has what roles 4 and 5 rebuild, and its schedule starts anew. The node table lies in DRAM, so nothing
reaches it before the DRAM wipe has ended (R67). -/
def State.macResume (s : State) : State :=
  if !s.mac.lost || !s.dramWiped || s.power.afterHush then s
  else
    let s := s.macRebuild
    if s.macEn then s.macStart else s

/-- R84, R228: role 6 restores the calibration results where it saved them, a free choice; the calibration that waits then
does not run. -/
def State.calRestore (s : State) : State :=
  match s.radio.calSaved with
  | none => s
  | some c =>
    let (had, s) := s.freeBool
    if !had then { s with radio.calSaved := none }
    else
      let back (x : ChainState) (v : Tbl (Option Word)) (t : Byte) : ChainState :=
        { x with calVals := v, calTemp := t, pendRx := false, pendTx := false, calForced := false, waited := 0 }
      let r : Radio := { s.radio with
        sub := back s.radio.sub c.sub c.subTemp, ghz := back s.radio.ghz c.ghz c.ghzTemp, calSaved := none, wakeCalWait := false }
      (({ s with radio := r } : State).wr R.RFS_PCLAMP c.clamp).calShow

/-- R91: at the first RUN after HUSH the radio and the MAC resume. -/
def State.macAfterHush (s : State) : State :=
  let s := ({ s with power.afterHush := false } : State).calRestore.macResume
  (s.calPoll .subGhz).calPoll .ghz24

/-- R89 steps 7 and 8: the device is in RUN again. -/
def State.dozeWakeEnd (s : State) : State :=
  let s : State := { s with power.waking := .no, power.settled := false, power.wakeToRun := false }
  let s := ((s.ready 15).wf R.PWR_STAT 2 0 0).firCheck
  let s := (List.range 12).foldl (fun s n => if s.running n && s.holdsAny n then s.startNewt n 0x10 0 0 0 else s) s
  let s := (List.range 12).foldl (fun s n => (List.range 16).foldl (fun s _ => s.placeOne n) s) s
  let s := if s.power.afterHush then s.macAfterHush else s
  s.raise 119 0

/-- Step 15 of R75; the sequence stops after step 12 while boot is held. After HUSH the MAC resumes with it. -/
def execDramWipeDone (s : State) : Out := .next <|
  if s.d0up && s.power.dramOn && !s.power.bootHeld then (s.wb R.RST_STAT 4 true).macResume else s

/-- R90 step 8: D0's logic runs again, island D's newts resume and the pads leave retention. -/
def State.hushWakeLogic (s : State) : State :=
  let s : State := { s with power.d0run := true, power.afterHush := true, pio.latched := [] }
  let s := [12, 13, 14, 15].foldl State.resumeNewt ((s.ready 15).radioAfterHush.spAfterHush)
  s.raise 119 0

/-- R88 step 4: LOGRDY. -/
def execLogrdyRelease (s : State) : Out := .next <|
  if s.power.phase != .run || s.readyBits != 7 then s
  else
    match s.power.waking with
    | .no => (({ s with power.d0run := true } : State).ready 15).railsSeen
    | .fromDoze => if s.power.settled then s.dozeWakeEnd else s
    | .fromHush => s.hushWakeLogic.railsSeen

/-- R16, R90 steps 9 to 11: the die link is up; a wake from HUSH has reached DOZE, and goes on if a cause needs RUN. -/
def State.linkTrained (s : State) : State :=
  let s := s.wb R.GLB_STAT 3 true
  if s.power.waking == .fromHush then
    let s := ({ s with power.waking := .no } : State).wf R.PWR_STAT 2 0 2
    if s.power.wakeToRun then s.startDozeWake else s
  else s

/-! ### Die link and SRAM (R12, R13, R25, R26) -/

/-- The receivers in a frame: leads, and 16 for the 2.4 GHz decoder. -/
def State.inFrame (s : State) : List RxChan :=
  ((List.finRange 16).map RxChan.lead ++ [RxChan.ghz24]).filter fun c => s.rxState c == .decoding

/-- Receiver c loses the frame it is decoding: it counts as a receive error. -/
def State.smpDrop (s : State) (c : RxChan) : State :=
  let (hit, s) := s.freeBool
  if !hit then s
  else
    let s := s.setRx c .searching
    match c with
    | .lead i => s.count (R.RFS_TYMCNT i.val) 31 24 1
    | .ghz24 => (s.radioCount 40 1).ch24Now

/-- R13: a sample block is discarded; every frame being decoded from it is dropped and counted as a receive error. Which
receivers the block served is open: a free choice for each. -/
def State.smpLost (s : State) : State := ((s.inFrame.foldl State.smpDrop s).calPoll .subGhz).calPoll .ghz24

/-- R25, R26: the scrubber corrects a word, or finds one it cannot correct. -/
def execSramScrub (site : SramSite) (uncorrectable : Bool) (s : State) : Out := .next <|
  if !s.d0up then s
  else if !uncorrectable then s.sramFixed 1
  else
    let down (n cause d : Nat) : State :=
      let t := s.sramUe n d
      if s.newtGated n || !s.running n then t else t.newtFault n cause 0 (s.newt n).pc
    match site with
    | .imem n => down n.val 8 0
    | .dmem n => down n.val 9 1
    | .gather b => s.sramUe b.val 2
    | .nodeCache i => (s.dropCached i.val).sramUeFree 3
    | .mapClean => s.sramUeFree 3
    | .mapDirty first =>
      if s.lineDirty first then (s.sramUeFree 3).mapRebuild (first / 16 * 16) 16 else s.sramUeFree 3
    | .staging first lost => (s.sramUeFree 4).stagingLost first lost

end Sys2Proof.Machine
end

