-- ==== Sys2Proof/Machine/Health.lean ====
section
/-! DEFINITION. Health (chapter 20): the causes of R549 and their evaluation, REPLACEn, the temperature, role 7's
self-tests, the health log and its page. -/

namespace Sys2Proof.Machine

/-! ### Sources -/

/-- CFL_WEAR (R519): exhausted sectors, and the most erases of a sector that is not device-reserved. -/
def State.cflWear (s : State) : Word :=
  let l := (List.range 142).map s.sector
  let exh := (l.filter (·.exhausted)).length
  let most := ((List.range 142).filter fun k => !sectorReserved k).foldl (fun m k => max m (s.sector k).erases) 0
  BitVec.ofNat 32 (exh % 256 + 256 * (most % 1048576))

/-- Consecutive failed calibrations of a chain, as the health block counts them (R560). -/
def State.calRuns (c : Nat) (s : State) : Nat := s.rf R.HLT_CNT (15 + 4 * c) (12 + 4 * c)

/-- The classes without a basking newt: bit 0 data, bit 1 process (R416). -/
def State.bare (s : State) : Nat :=
  let no (p : Bool) : Bool := !((List.range 16).any fun n => newtProcess n == p && s.basking n)
  b2n (no false) + 2 * b2n (no true)

/-- Whether a cause holds, and the DETAIL it is raised with (R549). Causes 0 and 6 hold for life. -/
def State.causeNow (bit' : Nat) (s : State) : Bool × Nat :=
  let thr := s.rd R.HLT_THR
  let life := s.rb R.HLT_CAUSE bit' || s.health.logged.getLsbD bit'
  match bit' with
  | 0 => (s.rb R.STO_STAT 2 || life, s.rf R.STO_STAT 18 16 + 256 * b2n (s.rb R.STO_STAT 9))
  | 1 => let v := s.rf R.STO_HEALTH 9 0; (decide (v < 20), v)
  | 2 => (s.bare != 0, s.bare - 1)
  | 3 =>
    let c := if fld 3 0 thr ≤ s.calRuns 0 then 0 else 1
    (decide (fld 3 0 thr ≤ s.calRuns 0) || decide (fld 3 0 thr ≤ s.calRuns 1), s.calRuns c + 16 * c)
  | 4 => let v := fld 7 0 s.cflWear; (decide (fld 27 24 thr ≤ v), v)
  | 5 => let v := s.health.tlrun.toNat; (decide (fld 6 4 thr ≤ v), v)
  | _ => let v := s.health.otcount.toNat; (decide (fld 15 8 thr ≤ v) || life, v)

/-- A cause's source is known (R553): by BOOTDONE, or when the store is ready. -/
def State.causeKnown (bit' : Nat) (s : State) : Bool :=
  if bit' ≤ 1 then s.rb R.STO_STAT 1 else s.rb R.RST_STAT 5

/-! ### Evaluation (R550, R553) -/

/-- REPLACEn follows HLT_CAUSE once every cause is known. -/
def State.replace (s : State) : State :=
  if s.rb R.HLT_STAT 1 then
    let low := s.rd R.HLT_CAUSE != 0
    ({ s with power.replacen := !low } : State).wb R.HLT_STAT 2 low
  else s

/-- A health log entry is due (R555). -/
def State.healthEntry (bit' : Nat) (raised : Bool) (detail : Nat) (s : State) : State :=
  let e : HealthEntry := {
    time := s.count64, cause := bit', raised, untimed := s.rb R.LEHR_STAT 1, detail := BitVec.ofNat 32 detail }
  { s with health.toProgram := s.health.toProgram ++ [e] }

/-- A cause is raised: bit, EVER, event and entry. -/
def State.raiseCause (bit' d : Nat) (s : State) : State :=
  let s : State := { s with health.ever := bput bit' true s.health.ever }
  let s := (s.wb R.HLT_CAUSE bit' true).wb R.HLT_EVER bit' true
  (s.post 0x70 2 bit' d).healthEntry bit' true d

/-- A cause is cleared. -/
def State.clearCause (bit' : Nat) (s : State) : State :=
  ((s.wb R.HLT_CAUSE bit' false).post 0x71 0 bit' 0).healthEntry bit' false 0

/-- One evaluation. The first after a reset compares with what the log last recorded; a cause that still holds is
re-reported, with DETAIL bit 31 and without an entry. -/
def State.evaluate (bit' : Nat) (s : State) : State :=
  let (now, d) := s.causeNow bit'
  let old := if s.health.known.getLsbD bit' then s.rb R.HLT_CAUSE bit' else s.health.logged.getLsbD bit'
  let first := !s.health.known.getLsbD bit'
  let s : State := { s with health.known := bput bit' true s.health.known }
  let s := match old, now with
    | false, true => s.raiseCause bit' d
    | true, false => s.clearCause bit'
    | true, true => if first then (s.wb R.HLT_CAUSE bit' true).post 0x70 2 bit' (d + 2147483648) else s
    | false, false => s
  s.replace

/-- R550: a cause is evaluated after its source changed, or at its first turn after a reset. -/
def execHealthEvaluate (bit : Fin 7) (s : State) : Out := .next <|
  if s.d0up && s.causeKnown bit.val then s.evaluate bit.val else s

/-- R553: 10 ms after the last source is known. -/
def execHltReady (s : State) : Out := .next <|
  if s.d0up && s.health.known == 0x7F then (s.wb R.HLT_STAT 1 true).replace else s

/-- R555: the oldest entry that waits is programmed, or its program fails. It waits while nothing is programmed (R186). -/
def execHealthLogProgram (ok : Bool) (s : State) : Out := .next <|
  match s.health.toProgram with
  | [] => s
  | e :: rest =>
    let s : State := { s with health.toProgram := rest }
    if !s.d0up || !s.rb R.STO_STAT 1 || !s.power.pfailn then { s with health.toProgram := e :: rest }
    else if !ok then s.flag R.HLT_STAT 3
    else { s with
      health.log := (e :: s.health.log).take 30
      health.total := min 0xFFFFFFFF (s.health.total + 1)
      health.logged := bput e.cause e.raised s.health.logged }

/-- HLT writes come from the host, SMBus, the service port, and newts with a role of 0 to 15 (chapter 20). -/
def State.hltMayWrite (m : Master) (s : State) : Bool :=
  match m with
  | .newt n => s.basfort n.val
  | _ => true

/-! ### Temperature (R228, R552) -/

/-- An excursion starts at TJ and ends 5 °C below it. -/
def State.excursion (code : Nat) (s : State) : State :=
  let tj := s.rf R.HLT_THR 23 16
  if !s.health.excursion && decide (tj ≤ code) then
    let n := min 255 (s.health.otcount.toNat + 1)
    let s : State := { s with health.excursion := true, health.otcount := BitVec.ofNat 8 n }
    (s.wf R.HLT_CNT 7 0 n).post 0x72 1 0 (code + 256 * n)
  else if s.health.excursion && decide (code + 5 ≤ tj) then { s with health.excursion := false }
  else s

/-- R228: the die temperature is read, once a second. -/
def execTempSample (code : Byte) (s : State) : Out := .next <|
  if !s.d0up then s
  else
    let s : State := { s with radio.temp := code }
    ((s.wf R.RFS_CALSTAT 23 16 code.toNat).tempCal).excursion code.toNat

/-! ### Self-tests (R554) -/

/-- The newt of a class that was tested longest ago, the lowest of equals; retired newts are left out. -/
def State.oldest (process : Bool) (s : State) : Option Nat :=
  let l := (List.range 16).filter fun n => newtProcess n == process && !s.retired n
  l.foldl (fun o n =>
    let t := tget (fun _ => (0 : Nat)) s.roles.tested n
    match o with
    | none => some n
    | some m => if t < tget (fun _ => (0 : Nat)) s.roles.tested m then some n else o) none

/-- A newt's turn has come, whether it is tested or skipped: the next period takes the next-oldest. -/
def State.turn (n : Nat) (s : State) : State :=
  let k := s.roles.testSerial + 1
  { s with roles.tested := tset (fun _ => 0) s.roles.tested n k, roles.testSerial := k }

/-- Role 7 starts a test of a newt: at once if it is basking, else its roles leave first. -/
def State.selfTest (n : Nat) (s : State) : State :=
  if s.roles.rotating.isSome || s.incoming n || !(s.basking n || s.holdsAny n || s.run n == 4) then
    (s.count R.HLT_STAT 15 8 1).post 0x73 0 n 1
  else (({ s with roles.rotating := some n } : State).rotate).nwtBusy.spares

/-- STPER hours have passed for a class. -/
def execSelftestPeriod (process : Bool) (s : State) : Out := .next <|
  if s.dataUp && s.roleState 7 != 0 && s.rf R.HLT_CTL 15 8 != 0 && s.rb R.HLT_CTL (if process then 2 else 1) then
    match s.oldest process with
    | some n => (s.turn n).selfTest n
    | none => s
  else s

/-- A newt that faulted is tested, once its roles are gone. -/
def execFaultedNewtTest (n : Fin 16) (s : State) : Out := .next <|
  if s.dataUp && s.roleState 7 != 0 && s.run n.val == 4 && !s.holdsAny n.val then s.selfTest n.val else s

/-! ### Log page 0x02 (R555) -/

def HealthEntry.bytes (e : HealthEntry) : List Byte :=
  leBytes 8 e.time.toNat ++ leBytes 1 e.cause ++ leBytes 1 (b2n e.raised) ++ leBytes 1 (b2n e.untimed) ++ leBytes 1 0 ++
    leBytes 4 e.detail.toNat

/-- The 512 bytes of the page. -/
def State.healthPage (s : State) : List Byte :=
  let l := (s.health.log.flatMap HealthEntry.bytes)
  padTo 512 0 (leBytes 4 (s.rd R.HLT_CAUSE).toNat ++ leBytes 4 (s.rd R.HLT_EVER).toNat ++
    leBytes 4 s.health.total ++ leBytes 1 s.health.log.length ++ leBytes 1 (s.rf R.HLT_CNT 10 8) ++
    leBytes 1 (s.rf R.HLT_CNT 7 0) ++ leBytes 1 (s.calRuns 0 + 16 * s.calRuns 1) ++
    leBytes 2 (s.rf R.STO_HEALTH 9 0) ++ leBytes 2 (s.rf R.STO_HEALTH 19 10) ++ leBytes 12 0 ++ l)

end Sys2Proof.Machine
end

