-- ==== Sys2Proof/Machine/Hri.lean ====
section
/-! DEFINITION. The Host Ring Interface (chapter 05): doorbells, fetching with its checks (R107, R125, R142, R581), the
context table, the admin commands that act on queues, log pages (R165 to R168, R548), interrupts. -/

namespace Sys2Proof.Machine

/-! ### Doorbells (R104, R108, R111) -/

/-- The host reaches BAR2. -/
def State.bar2Up (s : State) : Bool := s.d0up && !s.hri.d3hot

/-- R108: a stray doorbell of a ring. -/
def State.strayDoorbell (ring value : Nat) (s : State) : State :=
  if s.rb R.HRI_STAT 4 then s else (s.flag R.HRI_STAT 4).post 6 1 ring (value % 2 ^ 32)

/-- R104, R108, R130: a tail for a submission ring; a repeated index has no effect, but any write of the admin doorbell
lets a failed entry read be repeated. -/
def State.submit (n value : Nat) (s : State) : State :=
  let q := s.q n
  let i := value % 65536
  if n = 34 ∨ n = 35 ∨ !q.exists' ∨ q.sqsize ≤ i then s.strayDoorbell (2 * n) value
  else if i = q.sqtail ∧ !(n == 0 && q.stuck) then s
  else (s.setQ n { q with sqtail := i, stuck := q.stuck && n != 0 }).busyRun

/-- R108, R111: a head for a device-written ring; a repeated index has no effect. -/
def State.consume (n value : Nat) (s : State) : State :=
  let q := s.q n
  let i := value % 65536
  if !q.exists' ∨ q.cqsize ≤ i ∨ q.used < (i + q.cqsize - q.cqhead) % q.cqsize then s.strayDoorbell (2 * n + 1) value
  else if i = q.cqhead then s
  else s.setQ n { q with cqhead := i }

/-! ### Doorbell writes in BAR2 (R104) -/

/-- What a write of `size` bytes at a BAR2 offset writes to a doorbell of 8 bytes: its offset and its value. A write of the
lower half is whole, one of the upper half alone has no effect (R104). DESIGN CHOICE (log 139): a byte, a halfword, any other
size, and an access that starts elsewhere than at the doorbell's first byte are no doorbell write and are ignored. -/
def doorbellAt (off size : Nat) (data : Dword) : Option (Nat × Nat) :=
  if off % 8 = 0 ∧ size = 8 then some (off, data.toNat)
  else if off % 8 = 0 ∧ size = 4 then some (off, data.toNat % 2 ^ 32)
  else none

/-! ### Context entries (R120, R122, R123) -/

/-- The kind code of a queue number (R103). -/
def kindOf (n : Nat) : Nat :=
  if n = 0 then 1 else if n ≤ 32 then 2 else n - 30

/-- Storage queues. -/
def isStorage (n : Nat) : Bool := decide (1 ≤ n) && decide (n ≤ 32)

/-- Queues with no submission ring. -/
def noSub (n : Nat) : Bool := n == 34 || n == 35

/-- Bytes of an entry of a device-written ring (R103). -/
def cqEntry (n : Nat) : Nat := if n = 34 then 64 else 16

/-- A ring's base: aligned, and the ring ends below 2^64 (R106, R580). -/
def baseOk (base entries size : Nat) : Bool := base % 4096 == 0 && decide (base + entries * size ≤ 2 ^ 64)

/-- The tuning fields of an entry by offset, and whether each is in range. -/
def tuningOk (n : Nat) (e : Entry) : List (Nat × Bool) :=
  [(1, decide (ent e 1 1 < 2)), (6, decide (ent e 6 1 ≤ 63)),
    (7, !isStorage n || (decide (1 ≤ ent e 7 1) && decide (ent e 7 1 ≤ 16))),
    (24, decide (ent e 24 2 ≤ 255)), (28, ent e 28 36 == 0)]

/-- The least offset among fields out of order. -/
def leastBad (l : List (Nat × Bool)) : Option Nat :=
  ((l.filter fun p => !p.2).map (·.1)).min?

/-- The first field of a context entry that fails R120. -/
def ctxBad (n : Nat) (e : Entry) : Option Nat :=
  let sq := ent e 2 2
  let cq := ent e 4 2
  leastBad ([
    (0, ent e 0 1 == kindOf n),
    (2, if noSub n then sq == 0 else decide (2 ≤ sq) && decide (sq ≤ 4096)),
    (4, decide ((if n = 35 then 16 else 2) ≤ cq) && decide (cq ≤ 4096)),
    (8, noSub n || baseOk (ent e 8 8) sq 64), (16, baseOk (ent e 16 8) cq (cqEntry n))] ++ tuningOk n e)

/-- The queue a checked context entry creates. -/
def queueOf (e : Entry) : Queue :=
  { exists' := true
    kind := BitVec.ofNat 8 (ent e 0 1), ien := nbit 0 (ent e 1 1), sqsize := ent e 2 2, cqsize := ent e 4 2
    vector := ent e 6 1, weight := ent e 7 1, sqbase := ent e 8 8, cqbase := ent e 16 8
    cthresh := ent e 24 2, ctime := ent e 26 2 }

/-- A queue exists (R122); what was held for the event ring is written. -/
def State.newQueue (n : Nat) (e : Entry) (s : State) : State :=
  let s := s.setQ n (queueOf e)
  if n = 35 then s.drainEvents else s

/-- R101: a completion that waited for D0 is written, and the queue it announces exists (R122) or is as just created
(R160). -/
def State.releaseOne (s : State) (c : Compl) : State :=
  let s := match c.reset with
    | some n => s.freshQueue n
    | none => s
  let s := s.release c
  match c.create with
  | some (n, e) => s.newQueue n e
  | none => s

/-- R101: on return to D0 what waited is written: completions, events, pending messages. -/
def execPciPowerStateChange (d3hot : Bool) (s : State) : Out := .next <|
  let s : State := { s with hri.d3hot := d3hot }
  if d3hot then s
  else
    let l := s.hri.deferred
    let s := l.foldl State.releaseOne ({ s with hri.deferred := [] } : State)
    ((List.range 37).foldl (fun s n => s.dropDone n) s).drainEvents.sendPending

/-- R78, R79: the link's state as host and partner negotiate it; step 14 of R75 does not come while boot is held. `faults`:
the host addresses whose writes it now answers with an error (R130). -/
def execPcieLinkChange (l : LinkState) (faults : List Nat) (s : State) : Out := .next <|
  let s : State := { s with hri.badAddrs := faults }
  if s.power.bootHeld then s else { s with hri.link := l }

/-- R122: CREATE-QUEUE. -/
def execCreateQueue (ctx : Option Entry) (s : State) : Out := .next <|
  match s.admin 1 with
  | none => s
  | some c =>
    let n := c.f 48 2
    if n = 0 ∨ (s.q n).exists' then s.adminDone c 0 8 0
    else if 36 < n then s.adminDone c 0 0x0A 0
    else match ctx with
      | none => s.adminDone c 0 4 0
      | some e =>
        match ctxBad n e with
        | some off => s.adminDone c 0 2 (0x1000 + off)
        | none =>
          let s := s.complete { queue := 0, tag := c.tag, typ := 0, code := 0, frz := false, result := 0, create := some (n, e) }
          let s := s.retire 0 c.tag
          if s.hri.d3hot then s else s.newQueue n e

/-- R131: context entry 0 is read; queue 0 exists, or ADMFAIL. -/
def State.ctxZero (e : Option Entry) (s : State) : State :=
  let s : State := { s with hri.ctxWait := false }
  match e with
  | none => s.flag R.HRI_STAT 2
  | some e =>
    if (ctxBad 0 e).isSome then s.flag R.HRI_STAT 2
    else (s.setQ 0 (queueOf e)).wb R.HRI_STAT 1 true

/-- The fields of a refetched entry that offend, by offset (R123): changed geometry, tuning out of range. -/
def ctxOffends (n : Nat) (q : Queue) (e : Entry) : Option Nat :=
  leastBad ([
    (0, ent e 0 1 == q.kind.toNat), (2, ent e 2 2 == q.sqsize), (4, ent e 4 2 == q.cqsize),
    (8, noSub n || ent e 8 8 == q.sqbase), (16, ent e 16 8 == q.cqbase)] ++ tuningOk n e)

/-- The tuning fields an entry may change; each that is out of range keeps its value (R123). A timer without IEN or CTIME
stops (R126). -/
def retune (n : Nat) (e : Entry) (q : Queue) : Queue :=
  let ien := if ent e 1 1 < 2 then nbit 0 (ent e 1 1) else q.ien
  { q with
    ien
    vector := if ent e 6 1 ≤ 63 then ent e 6 1 else q.vector
    weight := if !isStorage n || (decide (1 ≤ ent e 7 1) && decide (ent e 7 1 ≤ 16)) then ent e 7 1 else q.weight
    cthresh := if ent e 24 2 ≤ 255 then ent e 24 2 else q.cthresh
    ctime := ent e 26 2
    timer := q.timer && ien && ent e 26 2 != 0 }

/-- CTXBAD with its event (R123, R129). -/
def State.ctxBadPost (n detail : Nat) (s : State) : State := (s.flag R.HRI_STAT 3).post 5 1 n detail

/-- One entry is refetched. -/
def State.refetch (s : State) (p : Nat × Option Entry) : State :=
  match p.2 with
  | none => s.ctxBadPost p.1 0xFFFFFFFF
  | some e =>
    let off := ctxOffends p.1 (s.q p.1) e
    let s := s.modQ p.1 (retune p.1 e)
    match off with
    | some o => s.ctxBadPost p.1 o
    | none => s

/-- The queues an invalidation names, in ascending order. -/
def State.ctxNamed (v : Nat) (s : State) : List Nat :=
  (List.range 37).filter fun n => (s.q n).exists' && (v == 0xFFFF || v == n)

/-- R123: the entries that a write of the context-invalidate doorbell names are refetched; `reads` are what the reads
return, in ascending queue order. -/
def State.ctxInvalidate (v : Nat) (reads : List (Option Entry)) (s : State) : State :=
  let l := s.ctxNamed (v % 65536)
  (l.zip (padTo l.length none reads)).foldl State.refetch s

/-- An access of the host to BAR2: a read returns 0, a doorbell write goes to its ring or is a context invalidation, any other
write is ignored (R104, R105). -/
def State.bar2Access (off size : Nat) (data : Option Dword) (reads : List (Option Entry)) (s : State) : State :=
  if !s.bar2Up then s
  else match data with
    | none => s.answer .host 0
    | some d =>
      match doorbellAt off size d with
      | none => s
      | some (o, v) =>
        let r := o / 8
        if o = 0x1000 then s.ctxInvalidate v reads
        else if 74 ≤ r then s
        else if r % 2 = 0 then s.submit (r / 2) v else s.consume (r / 2) v

/-- A doorbell write whose row carries no context entries; should it be a context invalidation, what the device reads is the
host's, a free value. -/
def State.doorbell (off size : Nat) (data : Option Dword) (s : State) : State :=
  if (data.bind (doorbellAt off size)).any (fun p => p.1 == 0x1000) then
    let f := s.free
    ({ s with free := f + 1 } : State).bar2Access off size data (Config.ctxReads f)
  else s.bar2Access off size data []

def execSubmissionBell (off size : Nat) (data : Option Dword) (s : State) : Out := .next (s.doorbell off size data)

def execCompletionBell (off size : Nat) (data : Option Dword) (s : State) : Out := .next (s.doorbell off size data)

/-- R123: the context-invalidate doorbell is written. An access elsewhere in BAR2 is that access. -/
def execContextBell (off size : Nat) (data : Option Dword) (reads : List (Option Entry)) (s : State) : Out :=
  .next (s.bar2Access off size data reads)

/-! ### Fetching (R107, R114, R115, R125) -/

/-- Storage commands in flight (R115). -/
def State.stoInflight (s : State) : Nat := ((List.range 33).map fun n => if n = 0 then 0 else (s.q n).inflight.length).sum

/-- What a ring's fetch engine needs: entries waiting, a completion slot to reserve, and fewer commands in flight than the
submission ring holds (R107, R115). -/
def State.ringPends (n : Nat) (s : State) : Bool :=
  let q := s.q n
  q.exists' && !noSub n && !q.frozen && q.deleting.isNone && !q.stuck && decide (0 < q.waiting) &&
    decide (q.inflight.length < q.room) && decide (q.inflight.length < q.sqsize - 1)

/-- The radio TX ring stands at a SEND to the parent that is held (R273): one fetched, and neither on the air nor sent. -/
def State.sendHeld (s : State) : Bool :=
  (s.q 33).inflight.any fun c =>
    !c.ended && s.txHeld (c.f 4 2) && !s.mac.sends.any fun x => x.tag == BitVec.ofNat 16 c.tag && (x.onAir || x.waitAck)

/-- What else holds off a queue (R115, R273, R283, R447). -/
def State.fetchOk (n : Nat) (s : State) : Bool :=
  s.ringPends n &&
    (if isStorage n then decide (s.stoInflight < 1024)
     else if n = 33 then s.macUp && decide ((s.q 33).inflight.length < 16) && !s.sendHeld
     else if n = 36 then decide (s.hri.setpoints.length < 64)
     else true)

/-- The storage queue whose turn it is: the one being served while its round's weight lasts, else the next in
ascending order (R125). -/
def State.rrTurn (s : State) : Option Nat :=
  if 0 < s.hri.rrLeft && s.fetchOk s.hri.rrQueue then some s.hri.rrQueue
  else
    let l := (List.range 33).filter fun n => isStorage n && s.fetchOk n
    match l.find? fun n => decide (s.hri.rrQueue < n) with
    | some n => some n
    | none => l.head?

/-- Whether the next fetch may be from queue n (R125): every ring waits for the admin ring, and a storage ring for its turn.
Commands are accepted once boot is done (R75 step 13). -/
def State.fetchTurn (n : Nat) (s : State) : Bool :=
  s.rb R.HRI_CTL 0 && s.rb R.RST_STAT 5 && s.bar2Up && decide (s.pstate ≤ 1) && s.fetchOk n &&
    (n == 0 || !s.fetchOk 0) && (!isStorage n || s.rrTurn == some n)

/-- The round advances. It ends when the queue served has had its share, or has nothing more, and no queue after it has
pending commands; the next round starts at the lowest number (R125). -/
def State.rrServe (n : Nat) (s : State) : State :=
  if !isStorage n then s
  else
    let left := if 0 < s.hri.rrLeft && s.hri.rrQueue == n then s.hri.rrLeft - 1 else (s.q n).weight - 1
    let served := decide (left = 0) || !s.ringPends n
    let last := (List.range 33).all fun m => decide (m ≤ n) || !s.ringPends m
    if served && last then { s with hri.rrQueue := 0, hri.rrLeft := 0 }
    else { s with hri.rrQueue := n, hri.rrLeft := left }

/-- R130: a submission-entry read failed. -/
def State.fetchFailed (n : Nat) (s : State) : State :=
  let s := (s.flag R.HRI_STAT 5).post 4 2 n 0
  let t := s.time32
  s.modQ n fun q =>
    if n = 0 then { q with stuck := true }
    else { q with frozen := true, frzTag := 0, frzHead := q.sqhead, frzTime := t }

/-- A command is in flight. -/
def State.enter (n : Nat) (c : Cmd) (s : State) : State :=
  s.modQ n fun q => { q with inflight := q.inflight ++ [c] }

/-- The tag is that of a command in flight on the queue (R114). -/
def State.tagUsed (n : Nat) (c : Cmd) (s : State) : Bool := (findTag c.tag (s.q n).inflight).isSome

/-- The admin opcodes defined (R121, R266, R320, R345). -/
def adminOps : List Nat :=
  [1, 2, 3, 4, 0x10, 0x11, 0x12, 0x13, 0x20, 0x21, 0x22, 0x30, 0x31, 0x32, 0x34, 0x35, 0x36, 0x37, 0x38, 0x39, 0x3A, 0x3B]

/-- The DPTR kinds an admin command may carry. -/
def adminDptr (op : Nat) : List Nat :=
  if op = 4 ∨ op = 0x13 then [0, 1]
  else if op = 0x10 ∨ op = 0x12 then [1]
  else if 0x30 ≤ op then keyDptr op
  else [2]

/-- The bytes an admin command moves. -/
def adminLen (c : Cmd) : Nat :=
  let op := c.opcode
  if op = 4 then c.f 52 4
  else if op = 0x10 ∨ op = 0x12 then 128
  else if op = 0x13 then 4 * c.f 48 2
  else if 0x30 ≤ op then keyLen op (c.f 50 1)
  else 0

/-- SPEC of an admin command, by offset. -/
def adminSpec (c : Cmd) : List (Nat × Bool) :=
  let op := c.opcode
  if op = 4 then
    [c.zero 49 1, (50, c.f 48 1 == 1 || c.f 50 2 == 0),
      (52, c.f 52 4 % 4 == 0 && decide (4 ≤ c.f 52 4) && decide (c.f 52 4 ≤ 4096)), c.zero 56 8]
  else if op = 0x10 then [(50, decide (c.f 50 1 ≤ 1)), c.zero 51 13]
  else if op < 0x20 then [c.zero 50 14]
  else if op < 0x30 then jnlBadField c
  else keyFields op (c.f 48 16)

/-- The first field of an admin entry out of order (R113, R581). -/
def adminBad (c : Cmd) : Option Nat :=
  firstBad ([
    (1, c.f 1 1 / 4 == 0 && (adminDptr c.opcode).contains c.dptrKind), c.zero 4 4, c.dptrOk (adminLen c), c.zero 16 8,
    c.zero 24 4, c.sgOk, c.zero 32 16] ++ adminSpec c)

/-- R581: an admin command at its fetch. -/
def State.fetchAdmin (c : Cmd) (s : State) : State :=
  let no (code result : Nat) : State :=
    s.complete { queue := 0, tag := c.tag, typ := 0, code, frz := false, result }
  if !adminOps.contains c.opcode then no 1 0
  else match adminBad c with
    | some off => no 2 off
    | none => if s.tagUsed 0 c then no 3 0 else s.enter 0 c

/-- Step 6 of R142, for the commands that ask the store: NOT READY. JOURNAL-READ asks role 3 when it starts. -/
def State.notReady (c : Cmd) (s : State) : Bool :=
  c.opcode != 0x20 && (s.keys.scrapped || !(if c.nsid = 1 then s.ns1Ready else s.rb R.STO_STAT 1))

/-- RESULT of NOT READY: the estimate in ms, a free value; 0 for a store that never will be. -/
def State.readyEstimate (s : State) : Nat × State :=
  if s.keys.scrapped then (0, s)
  else
    let (n, s) := s.freeNat
    (n % 2 ^ 32, s)

/-- R142: a storage command at its fetch, as far as the scatter list. -/
def State.fetchSto (n : Nat) (c : Cmd) (s : State) : State :=
  if !([1, 2, 3, 4, 0x20].contains c.opcode) then s.failed n c 0 1 0 noLba 0
  else match (if c.opcode = 0x20 then jrBadField c else stoBadField c) with
    | some off => s.failed n c 0 2 off noLba 0
    | none =>
      if !(if c.opcode = 0x20 then c.nsid == 2 else stoNsOk c) then s.failed n c 0 6 0 noLba 0
      else if s.tagUsed n c then s.failed n c 0 3 0 noLba 0
      else match (if c.opcode = 0x20 then none else stoRange c) with
        | some code => s.failed n c 1 code 0 c.slba 0
        | none =>
          if s.notReady c then
            let (ms, s) := s.readyEstimate
            s.complete { queue := n, tag := c.tag, typ := 1, code := 2, frz := false, result := ms }
          else s.enter n (if c.opcode = 3 then { c with waits := s.flushCover n c.order } else c)

/-- A SEND or SETPOINT entry at its fetch (R284, R448). -/
def State.fetchOther (n : Nat) (c : Cmd) (s : State) : State :=
  if c.opcode ≠ 1 then s.failed n c 0 1 0 noLba 0
  else match (if n = 33 then s.sendBad c else spBadField c) with
    | some off => s.failed n c 0 2 off noLba 0
    | none => if s.tagUsed n c then s.failed n c 0 3 0 noLba 0 else s.enter n c

/-- An entry has been read: the head advances and the entry is checked. -/
def State.fetched (n : Nat) (e : Entry) (s : State) : State :=
  let q := s.q n
  let c : Cmd := { entry := e, sqidx := q.sqhead, order := s.hri.order }
  let s := (s.setQ n { q with sqhead := (q.sqhead + 1) % q.sqsize }).rrServe n
  let s : State := { s with hri.order := s.hri.order + 1 }
  let s := s.busyRun
  if n = 0 then s.fetchAdmin c
  else if isStorage n then s.fetchSto n c
  else s.fetchOther n c

def execEntryFetch (q : Fin 37) (entry : Option Entry) (s : State) : Out := .next <|
  if !s.fetchTurn q.val then s
  else match entry with
    | none => s.fetchFailed q.val
    | some e => s.fetched q.val e

/-! ### Interrupts (R126, R127) and the event ring (R128) -/

/-- A coalescing timer reaches CTIME: the ring signals and clears count and timer (R126, R127). -/
def execCoalesceTimerExpiry (q : Fin 37) (s : State) : Out := .next <|
  let x := s.q q.val
  if s.d0up && x.exists' && x.timer && x.ien && x.ctime != 0 then
    (s.setQ q.val { x with count := 0, timer := false }).signal x.vector
  else s

/-- R127: the host unmasks a vector; a pending message is sent. -/
def execMsixUnmask (v : Fin 64) (s : State) : Out := .next <|
  if !s.bar2Up then s else (s.setVec v.val { s.vec v.val with masked := false }).sendPending

/-! ### The function's configuration and the MSI-X table (R99, R100, R102, R127) -/

/-- What the function's configuration identifies it by (R99, R579): Vendor and Device ID, class code, subsystem. -/
def pciVendor : Nat := 0x1FD7
def pciDevice : Nat := 0x8400
def pciClass : Nat := 0x018000

/-- The Device Serial Number capability (R99, R343). -/
def pciSerial : Dword := Config.serial

/-- The bits of a base address word that the host writes: the BAR's size fixes the low ones (R100). -/
def barMask (off : Nat) : Word :=
  match off with
  | 0x10 => 0xFF000000
  | 0x18 => 0xFFFF0000
  | 0x20 => 0xFFFFF000
  | 0x14 => 0xFFFFFFFF
  | 0x1C => 0xFFFFFFFF
  | 0x24 => 0xFFFFFFFF
  | _ => 0

/-- The words of the configuration header: Vendor and Device ID, class code and revision, subsystem (R99, R579); the base
addresses, whose low word reads as 64-bit and non-prefetchable (R100). -/
def State.pciWord (off : Nat) (s : State) : Word :=
  match off with
  | 0x00 => BitVec.ofNat 32 (pciDevice * 65536 + pciVendor)
  | 0x08 => BitVec.ofNat 32 (pciClass * 256 + s.rf R.GLB_CAP0 11 8)
  | 0x2C => BitVec.ofNat 32 pciVendor
  | _ =>
    if barMask off = 0 then 0
    else (tget (fun _ => 0) s.hri.bars off) ||| (if off % 8 = 0 then 4 else 0)

/-- A write of a base address word. -/
def State.barWrite (off : Nat) (w : Word) (s : State) : State :=
  if barMask off = 0 then s else { s with hri.bars := tset (fun _ => 0) s.hri.bars off (w &&& barMask off) }

/-- A write of a register of Advanced Error Reporting: the two status registers clear where 1 is written, the masks, the
severities and the control word take what is written. -/
def State.aerWrite (o : Nat) (w : Word) (s : State) : State :=
  let v := if o = 4 ∨ o = 0x10 then s.aerWord o &&& ~~~w else w
  if o % 4 = 0 ∧ 4 ≤ o ∧ o ≤ 0x18 then { s with hri.aer := tset aerReset s.hri.aer o v } else s

/-- The bits of Link Control that an endpoint without L0s writes: ASPM L1, read completion boundary, common clock, extended
synch, clock power management. -/
def linkCtlMask : Half := 0x01CA

/-- What a read of a word of BAR4 gives: the MSI-X table, and from 0x800 on the Pending Bit Array (R100). -/
def State.bar4View (a : Nat) (s : State) : Word :=
  if a < 1024 then
    let x := s.vec (a / 16)
    match a / 4 % 4 with
    | 0 => x.addr.extractLsb' 0 32
    | 1 => x.addr.extractLsb' 32 32
    | 2 => x.data
    | _ => if x.masked then 1 else 0
  else if a = 0x800 ∨ a = 0x804 then
    BitVec.ofNat 32 (((List.range 32).map fun k => if (s.vec (k + 8 * (a - 0x800))).pending then 2 ^ k else 0).sum)
  else 0

/-- A write of a word of BAR4: an entry of the MSI-X table; the Pending Bit Array and the rest are read only. -/
def State.bar4Word (a : Nat) (w : Word) (s : State) : State :=
  if 1024 ≤ a then s
  else
    let v := a / 16
    let x := s.vec v
    match a / 4 % 4 with
    | 0 => s.setVec v { x with addr := x.addr &&& 0xFFFFFFFF00000000 ||| BitVec.setWidth 64 (w &&& 0xFFFFFFFC) }
    | 1 => s.setVec v { x with addr := x.addr &&& 0xFFFFFFFF ||| BitVec.setWidth 64 w <<< 32 }
    | 2 => s.setVec v { x with data := w }
    | _ => (s.setVec v { x with masked := bit 0 w }).sendPending

/-- A write of BAR4: whole words, one or two. -/
def State.bar4Write (a size : Nat) (data : Dword) (s : State) : State :=
  if a % 4 = 0 ∧ size = 4 then s.bar4Word a (data.extractLsb' 0 32)
  else if a % 8 = 0 ∧ size = 8 then (s.bar4Word a (data.extractLsb' 0 32)).bar4Word (a + 4) (data.extractLsb' 32 32)
  else s

/-- The MSI-X Message Control word: Enable and Function Mask. -/
def State.msixControl (w : Half) (s : State) : State :=
  ({ s with hri.msixEnable := w.getLsbD 15, hri.funcMask := w.getLsbD 14 } : State).sendPending

/-- Device Control: Max_Payload_Size up to 512 B and Max_Read_Request_Size up to 4,096 B are supported; a size above is
kept as it was. -/
def State.devCtlWrite (w : Half) (s : State) : State :=
  let old := s.hri.devCtl
  let pick (ok : Bool) (mask : Half) : Half := if ok then w &&& mask else old &&& mask
  let mps := pick (decide (w.toNat / 32 % 8 ≤ 2)) 0x00E0
  let mrrs := pick (decide (w.toNat / 4096 % 8 ≤ 5)) 0x7000
  { s with hri.devCtl := (w &&& 0x0F1F) ||| mps ||| mrrs }

/-- A configuration request writes a register. -/
def State.configWrite (sp : Space) (addr : Nat) (data : Dword) (s : State) : State :=
  let w : Half := data.extractLsb' 0 16
  let v : Word := data.extractLsb' 0 32
  match sp with
  | .msixControl => s.msixControl w
  | .deviceControl => s.devCtlWrite w
  | .deviceControl2 => { s with hri.devCtl2 := w }
  | .config => s.barWrite addr v
  | .linkControl => { s with hri.linkCtl := w &&& linkCtlMask }
  | .l1pm => { s with hri.l1pm := v }
  | .ltr => { s with hri.ltr := v }
  | .aer => s.aerWrite addr v
  | _ => s

/-- What a configuration request reads. -/
def State.configView (sp : Space) (addr : Nat) (s : State) : Word :=
  match sp with
  | .msixControl => (if s.hri.msixEnable then 0x8000 else 0) ||| (if s.hri.funcMask then 0x4000 else 0) ||| 63
  | .deviceControl => s.hri.devCtl.setWidth 32
  | .deviceControl2 => s.hri.devCtl2.setWidth 32
  | .config => s.pciWord addr
  | .linkControl => s.hri.linkCtl.setWidth 32
  | .l1pm => s.hri.l1pm
  | .ltr => s.hri.ltr
  | .aer => s.aerWord addr
  | _ => 0

/-- An access of the host outside BAR0. A configuration request that comes before BOOTDONE is answered with Configuration
Request Retry Status, and does nothing (R75, step 13). -/
def State.hostSpace (sp : Space) (addr size : Nat) (data : Dword) (s : State) : State :=
  let config (f : State → State) : State :=
    if s.rb R.RST_STAT 5 then f s else { s with hri.retried := s.hri.retried + 1 }
  if !s.d0up then s
  else match sp with
    | .bar0 => s
    | .bar4 => if s.bar2Up then s.bar4Write addr size data else s
    | .readOf .bar4 =>
      if s.bar2Up then (touched addr size).foldl (fun s w => s.answer .host (laneMask addr size w (s.bar4View w))) s else s
    | .readOf sp => config fun s => s.answer .host (s.configView sp addr)
    | sp => config fun s => s.configWrite sp addr data

/-- R128: space has returned in the event ring. -/
def execEventRingDrain (s : State) : Out := .next s.drainEvents

/-! ### DELETE-QUEUE and QUEUE-RESET (R124, R159 to R164) -/

/-- The queue with a submission ring is deleted once its last completion is written. -/
def State.deleteRing (n : Nat) (c : Cmd) (s : State) : State :=
  let s := s.modQ n fun q => { q with deleting := some (BitVec.ofNat 16 c.tag) }
  let s := s.modQ 0 fun q => { q with
    inflight := q.inflight.map fun d => if d.tag = c.tag then { d with started := true } else d }
  s.dropDone n

/-- R124. DESIGN CHOICE (log 50): a second DELETE-QUEUE of a queue whose DELETE-QUEUE still waits answers QUEUE ABSENT, as R159
has it for a QUEUE-RESET. -/
def execDeleteQueue (s : State) : Out := .next <|
  match s.admin 2 with
  | none => s
  | some c =>
    let n := c.f 48 2
    if n = 0 ∨ 36 < n then s.adminDone c 0 0x0A 0
    else if !(s.q n).exists' || (s.q n).deleting.isSome then s.adminDone c 0 9 0
    else if n = 34 then (s.dropDeliveries34.setQ 34 {}).adminDone c 0 0 0
    else if n = 35 then (s.setQ 35 {}).adminDone c 0 0 0
    else s.deleteRing n c

def execQueueReset (s : State) : Out := .next <|
  match s.admin 3 with
  | none => s
  | some c =>
    let n := c.f 48 2
    if n = 0 ∨ n = 34 ∨ n = 35 ∨ 36 < n then s.adminDone c 0 0x0A 0
    else if !(s.q n).exists' || (s.q n).deleting.isSome then s.adminDone c 0 9 0
    else
      let s := if s.hri.d3hot then s.abandonQueue n else s.resetQueue n
      let s := s.complete { queue := 0, tag := c.tag, typ := 0, code := 0, frz := false, result := 0, reset := some n }
      s.retire 0 c.tag

/-! ### GET-LOG-PAGE (R165) -/

/-- The 32 bytes of an error-log entry (R167). -/
def ErrEntry.bytes (e : ErrEntry) : List Byte :=
  leBytes 2 e.tag.toNat ++ leBytes 2 e.status.toNat ++ [e.opcode, 0] ++ leBytes 2 e.sqidx.toNat ++
    leBytes 8 e.lba.toNat ++ leBytes 4 e.nsid.toNat ++ leBytes 4 e.result.toNat ++ leBytes 4 e.time.toNat ++
    leBytes 4 e.detail.toNat

/-- Page 0x01 (R166). -/
def Queue.errorPage (n : Nat) (q : Queue) : List Byte :=
  let st := if !q.frozen then 0 else if q.inflight.isEmpty then 2 else 1
  let frz (v : Nat) : Nat := if q.frozen then v else 0
  padTo 544 0 (leBytes 2 n ++ leBytes 1 st ++ leBytes 1 q.errors.length ++ leBytes 2 (frz q.frzTag.toNat) ++
    leBytes 2 q.inflight.length ++ leBytes 2 (frz q.frzHead) ++ leBytes 2 q.errLost ++ leBytes 4 (frz q.frzTime.toNat) ++
    leBytes 16 0 ++ q.errors.flatMap ErrEntry.bytes)

/-- STATE of a namespace (R168). -/
def State.nsState (ready : Bool) (s : State) : Nat :=
  if !ready then 0 else if s.store.dieTable.isSome then 2 else 1

/-- One entry of page 0x03 (R168). -/
def nsEntry (id blocks attr state used : Nat) : List Byte :=
  padTo 64 0 (leBytes 4 id ++ leBytes 4 4096 ++ leBytes 8 blocks ++ leBytes 4 32 ++ leBytes 4 1024 ++
    leBytes 1 attr ++ leBytes 1 state ++ leBytes 6 0 ++ leBytes 8 used)

/-- DESIGN CHOICE (log 140): STATE of the namespaces in SCRAPPED, where every command of theirs answers NOT READY (R354),
follows the store as in any other state. -/
def State.nsPage (s : State) : List Byte :=
  nsEntry 1 ns1Blocks 3 (s.nsState s.ns1Ready) s.ns1Used ++
    nsEntry 2 ns2Blocks 4 (s.nsState (s.rb R.STO_STAT 1)) (256 * s.jnl.clutches.length)

/-- Pages 0x04 and 0x05 (R548): the counters stand by offset, 16 to 120. -/
def State.counterPage (page : Nat) (counter : Nat → Nat) (s : State) : List Byte :=
  leBytes 8 page ++ leBytes 8 s.store.since.toNat ++ (List.range 14).flatMap fun k => leBytes 8 (counter (16 + 8 * k))

/-- The bytes of a page other than 0x01. -/
def State.logPage (page : Nat) (s : State) : List Byte :=
  match page with
  | 2 => s.healthPage
  | 3 => s.nsPage
  | 4 => s.counterPage 4 fun o => tget (fun _ => (0 : Nat)) s.store.counters o
  | _ => s.counterPage 5 fun o => (tget (fun _ => (0 : Dword)) s.radio.counters o).toNat

/-- The page goes to the host's buffer, the rest of which is filled with 0. -/
def State.pageOut (c : Cmd) (segs : Segs) (xferOk : Bool) (l : List Byte) (s : State) : State :=
  let len := c.f 52 4
  match checkSegs c segs len with
  | .mismatch => s.adminDone c 0 7 0
  | .unreadable => s.adminDone c 0 4 0
  | .good =>
    if xferOk then (s.putBuffer c segs len 0 (padTo len 0 l)).adminDone c 0 0 l.length
    else s.adminDone c 0 4 0

def execGetLogPage (segs : Segs) (xferOk : Bool) (s : State) : Out := .next <|
  match s.admin 4 with
  | none => s
  | some c =>
    let page := c.f 48 1
    let n := c.f 50 2
    if page = 0 ∨ 5 < page then s.adminDone c 0 0x0B 0
    else if page = 1 then
      if n = 0 ∨ n = 34 ∨ n = 35 ∨ 36 < n then s.adminDone c 0 0x0A 0
      else if !(s.q n).exists' then s.adminDone c 0 9 0
      else s.pageOut c segs xferOk ((s.q n).errorPage n)
    else s.pageOut c segs xferOk (s.logPage page)

/-! ### HRI_CTL (R131 to R133) -/

/-- A write of HRI_CTL: 0 to 1 starts, the read of context entry 0 following; 1 to 0 stops. -/
def State.hriCtlWrite (w : Word) (s : State) : State :=
  let old := s.rb R.HRI_CTL 0
  if !old && bit 0 w then { s.writeReg R.HRI_CTL w with hri.ctxWait := true }
  else if old && !bit 0 w then s.hriStop
  else s

end Sys2Proof.Machine
end

