-- ==== Sys2Proof/Machine/Bus.lean ====
section
/-! DEFINITION. Register accesses (R3 to R16): which master reaches which block, what a write does beyond its field
types, what a read answers and what it does; the commands that are register writes and reads. -/

namespace Sys2Proof.Machine

/-! ### Reaching a block -/

/-- The blocks on D1, by their numbers in the block map (chapter 01). -/
def onD1 (a : Nat) : Bool := [1, 3, 7, 8, 11, 13, 15, 16, 17, 20].contains (a / 65536)

/-- Masters on D1: the SMBus target and the service port. -/
def masterOnD1 : Master → Bool
  | .smbus | .svc => true
  | _ => false

/-- The access crosses the die link. -/
def crosses (m : Master) (a : Nat) : Bool := onD1 a != masterOnD1 m

/-- D1 is powered: not in HUSH, and in its wake from the closing of the switches on (R86, R90). -/
def State.d1Up (s : State) : Bool := s.power.phase == .run && s.pstate != 3

/-- The master can issue an access: host and newts while D0 runs (the host outside D3hot), the others while D1 does. -/
def State.masterUp (m : Master) (s : State) : Bool :=
  match m with
  | .host => s.bar2Up
  | .newt _ => s.d0up
  | .smbus => s.d1Up
  | .svc => s.power.phase == .run && !s.hushed

/-! ### Writes with an effect beyond their field types -/

/-- PWR_CTL but for REQ (R93): HUSHEN stays where RST_CTL.PERSTMODE is 0. -/
def State.pwrCtlWrite (w : Word) (s : State) : State :=
  if bit 2 w && !s.rb R.RST_CTL 0 then (s.writeReg R.PWR_CTL (putBit 2 (s.rb R.PWR_CTL 2) w)).flag R.PWR_STAT 7
  else s.writeReg R.PWR_CTL w

/-- RFS (chapter 08). -/
def State.rfsWrite (a : Nat) (w : Word) (s : State) : State :=
  let o := a - 0x070000
  if a = R.RFS_CTL then s.rfsCtlWrite w
  else if a = R.RFS_APPLY then s.rfsApply w
  else if a = R.RFS_TXCFG then s.txcfgWrite w
  else if a = R.RFS_CAL then s.rfsCalWrite w
  else if a = R.RFS_WIN ∨ (0x100 ≤ o ∧ o < 0x180 ∧ o % 8 = 0) then s.rfsStage a w
  else if 0x400 ≤ o ∧ o < 0x4C0 then s.tableWrite a w
  else s.writeReg a w

/-- PIO (chapter 14). -/
def State.pioWrite (m : Master) (a : Nat) (w : Word) (s : State) : State :=
  let o := a - 0x0D0000
  if a = R.PIO_ADCSEQ then s.adcSeqWrite w
  else if 0x100 ≤ o ∧ o < 0x140 ∧ o % 16 = 0 then s.cmpWrite ((o - 0x100) / 16) w
  else if 0x200 ≤ o ∧ o < 0x2C0 ∧ o % 16 = 0 then s.pwmCfgWrite ((o - 0x200) / 16) w
  else if 0x200 ≤ o ∧ o < 0x2C0 ∧ o % 16 = 4 then s.pwmDutyWrite m ((o - 0x200) / 16) w
  else if 0x300 ≤ o ∧ o < 0x390 then s.outWrite ((o - 0x300) / 4) w
  else if 0x400 ≤ o ∧ o < 0x460 then s.gpioCfgWrite ((o - 0x400) / 4) w
  else if a = R.PIO_GPIOOUT then s.gpioOutWrite m w
  else s.writeReg a w

/-- EVM_SWEV raises the SW producers its bits name, all in one cycle (R461, R466). -/
def State.swevWrite (w : Word) (s : State) : State :=
  s.raiseTogether (((List.range 8).filter fun k => bit k w).map (· + 120))

/-- LEHR (chapter 16). -/
def State.lehrWrite (m : Master) (a : Nat) (w : Word) (s : State) : State :=
  if a = R.LEHR_CTL then s.lehrCtlWrite w
  else if a = R.LEHR_CNT0 then s.countStage m w
  else if a = R.LEHR_CNT1 then s.countCommit m w
  else if a = R.LEHR_CAL0 then s.calStage m w
  else if a = R.LEHR_CAL1 then s.calCommit m w
  else if a = R.LEHR_ALM1 then s.alarmCommit w
  else if a = R.LEHR_PER then s.perWrite w
  else if a = R.LEHR_CHG then s.chgWrite w
  else s.writeReg a w

/-- CFL (chapter 17): the window is read only (R503). -/
def State.cflBlockWrite (m : Master) (a : Nat) (w : Word) (s : State) : State :=
  if 0x108000 ≤ a then s.flag R.CFL_STAT 0
  else if R.CFL_UNLOCK ≤ a ∧ a < R.CFL_APBASE ∧ a % 4 = 0 then s.cflWrite m ((a - R.CFL_UNLOCK) / 4) w
  else if a = R.CFL_CTL then s.cflCtl w
  else if a = R.CFL_WP then s.cflWp w
  else s.writeReg a w

/-- PMC (chapter 19): the writer rule of R542, then CLR of PMC_SCTLn. -/
def State.pmcBlockWrite (m : Master) (a : Nat) (w : Word) (s : State) : State :=
  let o := a - 0x120000
  if !s.pmcMayWrite m then s.flag R.PMC_STAT 0
  else if 0x1000 ≤ o ∧ o < 0x2000 ∧ o % 256 = 12 then s.sctlWrite ((o - 0x1000) / 256) w
  else s.writeReg a w

/-- CLK_CDCLOST.CLR (R33). -/
def State.cdcWrite (w : Word) (s : State) : State := if bit 31 w then s.wr R.CLK_CDCLOST 0xF0000 else s

/-- SMB_STAT: writing 1 to ALERT releases SMBALERTn (R564). -/
def State.smbStatWrite (w : Word) (s : State) : State :=
  let s := s.writeReg R.SMB_STAT w
  if bit 1 w then { s with power.alertn := true } else s

/-- RST (chapter 03). -/
def State.rstWrite (m : Master) (a : Nat) (w : Word) (s : State) : State :=
  if a = R.RST_CTL then s.rstCtlWrite m w
  else if a = R.RST_WDT_KICK then s.kick w
  else s.writeReg a w

/-- MAC (chapter 09). -/
def State.macWrite (a : Nat) (w : Word) (s : State) : State :=
  if a = R.MAC_CTL then s.macCtlWrite w
  else if a = R.MAC_LBT then s.macLbtWrite w
  else s.writeReg a w

/-- HRI (R133, R135). -/
def State.hriWrite (a : Nat) (w : Word) (s : State) : State :=
  if a = R.HRI_CTL then s.hriCtlWrite w
  else if (a = R.HRI_QCTL ∨ a = R.HRI_QCTH) ∧ s.rb R.HRI_CTL 0 then s.flag R.HRI_STAT 0
  else s.writeReg a w

/-- A write of a word at an aligned offset arrives at its block; PWR_CTL.REQ apart. -/
def State.blockWrite (m : Master) (a : Nat) (w : Word) (s : State) : State :=
  match a / 65536 with
  | 1 => if a = R.PWR_CTL then s.pwrCtlWrite w else s.writeReg a w
  | 2 => if a = R.CLK_CDCLOST then s.cdcWrite w else s
  | 3 => s.rstWrite m a w
  | 4 => s.hriWrite a w
  | 5 => if a = R.STO_CTL then s.stoCtlWrite w else s.writeReg a w
  | 6 => if a = R.JNL_CTL then s.jnlCtlWrite w else s.writeReg a w
  | 7 => s.rfsWrite a w
  | 8 => if a = R.RF2_CTL then s.rf2CtlWrite w else s.writeReg a w
  | 9 => s.macWrite a w
  | 12 => if a = R.NWT_MOVE then s.nwtMove m w else s.writeReg a w
  | 13 => s.pioWrite m a w
  | 14 => if a = R.EVM_SWEV then s.swevWrite w else s.writeReg a w
  | 15 => s.lehrWrite m a w
  | 16 => s.cflBlockWrite m a w
  | 18 => s.pmcBlockWrite m a w
  | 19 => if s.hltMayWrite m then s.writeReg a w else s.flag R.HLT_STAT 0
  | 20 => if a = R.SMB_STAT then s.smbStatWrite w else s.writeReg a w
  | _ => s.writeReg a w

/-! ### Reads -/

/-- Bits from a predicate on their numbers. -/
def bitsOf (n : Nat) (f : Nat → Bool) : Nat := (List.range n).foldl (fun v k => v + b2n (f k) * 2 ^ k) 0

/-- CFL_SECSTAT of the sector CFL_SECSEL names (R518). -/
def State.secStat (s : State) : Word :=
  let k := s.rf R.CFL_SECSEL 7 0
  let x := s.sector k
  let st := if sectorReserved k then 3 else if x.exhausted then 2 else if x.eintr then 1 else 0
  BitVec.ofNat 32 (st + 4 * (x.erases % 1048576))

/-- What a PIO register reads as: FLICK, the levels of the GPIO inputs, NOW of a held PWM (R439, R442, R451). -/
def State.pioView (a : Nat) (s : State) : Word :=
  let o := a - 0x0D0000
  if a = R.PIO_STAT then putBit 1 ((List.range 4).any fun n => s.rb (R.PIO_CMP n) 21) (s.rd a)
  else if a = R.PIO_GPIOIN then BitVec.ofNat 32 (bitsOf 24 s.gpioLevel)
  else if 0x200 ≤ o ∧ o < 0x2C0 ∧ o % 16 = 4 then
    let k := (o - 0x200) / 16
    if s.pwmHeld k then putFld 31 16 (s.safeDuty k) (s.rd a) else s.rd a
  else s.rd a

/-- What an HRI register reads as (R136, R137). -/
def State.hriView (a : Nat) (s : State) : Word :=
  let ex (k : Nat) : Bool := (s.q k).exists'
  let fz (k : Nat) : Bool := (s.q k).frozen
  if a = R.HRI_INFL then BitVec.ofNat 32 s.stoInflight
  else if a = R.HRI_QEX0 then BitVec.ofNat 32 (bitsOf 32 ex)
  else if a = R.HRI_QEX1 then BitVec.ofNat 32 (bitsOf 5 fun k => ex (32 + k))
  else if a = R.HRI_QFRZ0 then BitVec.ofNat 32 (bitsOf 32 fz)
  else if a = R.HRI_QFRZ1 then BitVec.ofNat 32 (bitsOf 5 fun k => fz (32 + k))
  else s.rd a

/-- What an NWT register reads as (R398, R399, R425): a newt whose island is gated is OFF and gives no address; island D's
newts are kept in HUSH, HALTED. -/
def State.nwtView (a : Nat) (s : State) : Word :=
  let o := a - 0x0C0000
  if a = R.NWT_BASK then putFld 15 0 (bitsOf 16 fun n => s.basking n) (s.rd a)
  else if 0x400 ≤ o ∧ o < 0x460 ∧ s.newtGated ((o - 0x400) / 8) then
    (if o % 8 = 0 then putFld 2 0 6 (s.rd a) else if o % 8 = 4 then 0 else s.rd a)
  else s.rd a

/-- The four time words by offset. -/
def timeWordAt (a : Nat) : Option TimeWord :=
  if a = R.LEHR_CNT0 then some .cnt0
  else if a = R.LEHR_CNT1 then some .cnt1
  else if a = R.LEHR_CAL0 then some .cal0
  else if a = R.LEHR_CAL1 then some .cal1
  else none

/-- What a newt's island keeps of the PMC window (R539): PMC_CYCLn, the programmable counters and the sampling buffer. -/
def pmcOfIsland (a : Nat) : Option Nat :=
  let o := a - 0x120000
  let k := o % 256
  if 0x1000 ≤ o ∧ o < 0x2000 ∧ (k < 4 ∨ (0x30 ≤ k ∧ k < 0x50)) then some ((o - 0x1000) / 256)
  else if 0x8000 ≤ o ∧ o < 0xC000 then some ((o - 0x8000) / 1024)
  else none

/-- They lie behind a held crossing while the island is gated: an access is refused with an error response (R32). -/
def State.refusedAt (a : Nat) (s : State) : Bool := (pmcOfIsland a).any s.newtGated

/-- A read in the PMC window (R541, R544). -/
def State.pmcRead (m : Master) (a : Nat) (s : State) : Option Word × State :=
  let may := match m with | .newt n => s.pmcMayRead n.val | _ => true
  let o := a - 0x120000
  if !may then (some 0, s.flag R.PMC_STAT 1)
  else if s.refusedAt a then (none, s)
  else
    let v := (s.pmcView m a).getD (if (regDef a).isNone then 0 else s.rd a)
    (some v, if 0x1000 ≤ o ∧ o < 0x2000 ∧ o % 256 = 0 then s.cyclLatch m ((o - 0x1000) / 256) else s)

/-- The read of a defined register, or in the windows of PMC and CFL. -/
def State.blockRead (m : Master) (a : Nat) (ecc : Ecc) (s : State) : Option Word × State :=
  match a / 65536 with
  | 4 => (some (s.hriView a), s)
  | 6 => (some (if a = R.JNL_STAT then s.jnlStat else s.rd a), s)
  | 12 =>
    (some (s.nwtView a),
      if a = R.NWT_STAT ∧ s.rf R.NWT_STAT 23 16 = 0 then { s with roles.bdropArmed := true } else s)
  | 13 =>
    let v := s.pioView a
    if R.PIO_ADCRES 0 ≤ a ∧ a < R.PIO_ADCRES 0 + 64 then (some v, s.adcResRead ((a - R.PIO_ADCRES 0) / 4)) else (some v, s)
  | 15 =>
    match timeWordAt a with
    | some t =>
      let (v, s) := s.timeRead m t
      (some v, s)
    | none => (some (if a = R.LEHR_STAT then s.lehrStat else s.rd a), s)
  | 16 =>
    if 0x108000 ≤ a then s.flashRead (s.rf R.CFL_APBASE 7 0 * 32768 + (a - 0x108000)) ecc
    else (some (if a = R.CFL_SECSTAT then s.secStat else if a = R.CFL_WEAR then s.cflWear else s.rd a), s)
  | 18 => s.pmcRead m a
  | _ => (some (s.rd a), s)

/-- The read of an aligned word by a master: its value, none where it ends with an error response, and what it does.
Where no register is defined, and outside the windows of PMC and CFL, it returns 0 (R5). -/
def State.busRead (m : Master) (a : Nat) (ecc : Ecc) (s : State) : Option Word × State :=
  if (regDef a).isNone && a / 65536 != 18 && decide (a < 0x108000 ∨ 0x110000 ≤ a) then (some 0, s)
  else s.blockRead m a ecc

/-! ### Register requests of newts (R383) -/

/-- The register at `a` lies in the read window over the line that is being programmed: a read of it is held until the
program ends (R504). -/
def State.lineBusy (s : State) (a : Nat) : Bool :=
  decide (0x108000 ≤ a) && decide (a < 0x110000) &&
    s.flash.programming == some ((s.rf R.CFL_APBASE 7 0 * 32768 + (a - 0x108000)) / 16)

/-- An access of `size` bytes from `a` on crosses the die link, in its first byte or its last. -/
def crossesIn (m : Master) (a size : Nat) : Bool := crosses m a || crosses m (a + (size - 1))

/-- An access must wait: it crosses a die link that is down (R16), or an earlier one of its master waits (R11). DESIGN CHOICE
(log 17): one that touches a block of either die (R4) waits as a whole. -/
def State.mustWait (m : Master) (a size : Nat) (s : State) : Bool :=
  (crossesIn m a size && !s.rb R.GLB_STAT 3) || s.link.held.any (·.master == m)

/-- The oldest register request of newt n completes; `err`: with an error response. A request across the die link
waits for the link (R16), any for an earlier access of that newt that is held (R11), a load of a line being programmed for the program (R504). `wr` is how a store arrives at its
block. -/
def State.regDoneBy (wr : Nat → Word → State → State) (n : Fin 16) (err : Bool) (s : State) : State :=
  match (s.newt n.val).regq with
  | [] => s
  | r :: rest =>
    if !err && (s.mustWait (.newt n) r.addr 4 || (!r.store && s.lineBusy r.addr)) then s
    else
      let s := (s.modNewt n.val fun x => { x with regq := rest }).closeReg n.val
      let fault (s : State) : State := if s.run n.val ≤ 1 then s.newtFault n.val 3 0 r.pc else s
      if err || s.refusedAt r.addr then fault s
      else if r.store then wr r.addr r.data s
      else match s.busRead (.newt n) r.addr .clean with
        | (some v, s) => s.setPort n.val 0x104 v
        | (none, s) => fault s

/-- PWR_CTL.REQ stored while DOZE is being entered (R80, R93): a request for RUN ends the entry, one for HUSH is refused. -/
def State.entryReq (req : Nat) (s : State) : State :=
  match req with
  | 1 => { s.wake .req with power.wakeToRun := true }
  | 3 => s.flag R.PWR_STAT 8
  | _ => s

/-- A newt's store during the entry. -/
def State.entryStore (n : Fin 16) (a : Nat) (w : Word) (s : State) : State :=
  let s := s.blockWrite (.newt n) a w
  if a = R.PWR_CTL then s.entryReq (fld 9 8 w) else s

/-- A newt's pending register requests all complete (R81). -/
def State.regDrain (s : State) (n : Fin 16) : State :=
  ((s.newt n.val).regq).foldl (fun s _ => s.regDoneBy (State.entryStore n) n false) s

/-- The newts of islands A to C are halted and their register requests done (R81). -/
def State.drained (s : State) : State :=
  ((List.finRange 16).filter fun n => decide (n.val < 12)).foldl State.regDrain s

/-- DOZE is entered where its conditions still hold once those requests are done (R80, R81). -/
def State.dozeNow (s : State) : State :=
  let s := ({ s with power.wakeToRun := false } : State).drained
  if s.d0up && decide (s.pstate ≤ 1) && s.dozeOk && !s.power.wakeToRun then s.dozeEnter
  else if s.power.phase == .run then ({ s with power.wakeToRun := false } : State).abortEntry else s

/-- HUSH is entered where its conditions still hold once the register requests of island D's newts are done (R80, R392). -/
def State.hushNow (s : State) : State :=
  let s := ((List.finRange 16).filter fun n => decide (12 ≤ n.val)).foldl State.regDrain s
  if s.hushOk then s.hushEnter else if s.d0up && s.pstate == 2 then s.abortEntry else s

/-- R307: the conditions of DOZE hold but for uncommitted journal records: the open group is committed. -/
def State.journalFirst (s : State) : State := if s.dozeBut then s.commitGroup else s

/-- A CK_RTC cycle with no command: the clocks go on, and an open journal group is committed once the conditions of DOZE hold
but for it (R307), in DOZE as its commit falls due (R85). -/
def State.idleTick (s : State) : State :=
  let s := if s.d0up && s.jnl.groupStart.isSome && s.dozeBut then s.commitGroup.wake .jnlCommit else s
  s.clockTick

/-! ### PWR_CTL.REQ (R93) -/

def State.pwrReq (req : Nat) (s : State) : State :=
  match req with
  | 1 => s.wake .req
  | 2 =>
    if !s.dozeOk then s.journalFirst.flag R.PWR_STAT 8
    else if s.pstate = 2 then s
    else if s.pstate ≤ 1 then s.dozeNow
    else s.flag R.PWR_STAT 8
  | 3 => if s.pstate = 2 && s.hushOk then s.hushNow else s.flag R.PWR_STAT 8
  | _ => s

/-- A write of a word arrives at its block. -/
def State.busWrite (m : Master) (a : Nat) (w : Word) (s : State) : State :=
  let s := s.blockWrite m a w
  if a = R.PWR_CTL then s.pwrReq (fld 9 8 w) else s

/-- A newt's oldest register request completes; a store reaches its block as any master's does (R3, R85, R93). -/
def State.regDone (n : Fin 16) (err : Bool) (s : State) : State := s.regDoneBy (State.busWrite (.newt n)) n err

/-! ### Accesses of masters -/

/-- R4: a host's write that is no whole aligned word: BADVAL in each block it touches. -/
def State.badWrite (a size : Nat) (s : State) : State :=
  let s := s.badval a
  if (a + size - 1) / 65536 = a / 65536 then s else s.badval (a + size - 1)

/-- The read of one register's word by an access of `size` bytes from `a` on: its bytes go to the master, or an error
response does. -/
def State.readWord (m : Master) (a size : Nat) (ecc : Ecc) (s : State) (w : Nat) : State :=
  match s.busRead m w ecc with
  | (some v, s) => s.answer m (laneMask a size w v)
  | (none, s) => s.accessError m

/-- A read reaches its block: every register it touches is read in full (R4). -/
def State.readNow (m : Master) (a size : Nat) (ecc : Ecc) (s : State) : State :=
  (touched a size).foldl (State.readWord m a size ecc) s

/-- A write reaches its block: a whole aligned word, or one that changes nothing (R4). -/
def State.writeNow (m : Master) (a size : Nat) (w : Word) (s : State) : State :=
  if s.refusedAt a then s.accessError m
  else if size = 4 ∧ a % 4 = 0 then s.busWrite m a w else s.badWrite a size

/-- A read must wait, for the line being programmed too (R504). -/
def State.readWaits (m : Master) (a size : Nat) (s : State) : Bool :=
  s.mustWait m a size || (touched a size).any s.lineBusy

/-- What holds an access that is held, its master's earlier ones apart. -/
def State.blocked (s : State) (h : HeldAccess) : Bool :=
  (crossesIn h.master h.addr h.size && !s.rb R.GLB_STAT 3) || (!h.write && (touched h.addr h.size).any s.lineBusy)

/-- A write by a master. -/
def State.writeAccess (m : Master) (a size : Nat) (w : Word) (s : State) : State :=
  if !s.masterUp m || decide (0x150000 ≤ a) then s
  else if s.mustWait m a size then { s with link.held := s.link.held ++ [⟨m, true, a, size, w⟩] }
  else s.writeNow m a size w

/-- A write of an aligned word by a master. -/
def State.access (m : Master) (a : Nat) (w : Word) (s : State) : State := s.writeAccess m a 4 w

/-- A read of some bytes by a master. Of the masters, only the host reads other than whole aligned words (R4); a read of 64
bits is two (R4). -/
def State.readAccess (m : Master) (a size : Nat) (ecc : Ecc) (s : State) : State :=
  if !s.masterUp m || (!(m == .host) && !(size == 4 && a % 4 == 0)) then s
  else if s.readWaits m a size then { s with link.held := s.link.held ++ [⟨m, false, a, size, 0⟩] }
  else s.readNow m a size ecc

/-- A write of BAR0 as its master issues it: the host writes any bytes, 64 bits as two accesses, the lower first. -/
def State.bar0Write (m : Master) (addr size : Nat) (data : Dword) (s : State) : State :=
  let lo : Word := data.extractLsb' 0 32
  if addr % 4 = 0 ∧ size = 4 then s.access m addr lo
  else if !(m == .host) || size == 0 then s
  else if addr % 4 = 0 ∧ size = 8 then (s.access m addr lo).access m (addr + 4) (data.extractLsb' 32 32)
  else s.writeAccess m addr size lo

def execRegisterStore (m : Master) (space : Space) (addr size : Nat) (data : Dword) (s : State) : Out := .next <|
  match space with
  | .bar0 => s.bar0Write m addr size data
  | .readOf .bar0 => if m == .host && decide (addr + size ≤ 0x1000000) then s.readAccess m addr size .clean else s
  | sp => if m == .host then s.hostSpace sp addr size data else s

/-- A held access is served. -/
def State.serveHeld (h : HeldAccess) (s : State) : State :=
  if h.write then s.writeNow h.master h.addr h.size h.data else s.readNow h.master h.addr h.size .clean

/-- The first held access that can be served, and the rest: one that is still blocked waits, and so do the later ones of
its master (R11). -/
def nextHeld (blocked : HeldAccess → Bool) : List Master → List HeldAccess → Option (HeldAccess × List HeldAccess)
  | _, [] => none
  | wait, h :: r =>
    if wait.contains h.master || blocked h then
      (nextHeld blocked (h.master :: wait) r).map fun p => (p.1, h :: p.2)
    else some (h, r)

/-- Held accesses are served in order, as far as they can be. -/
def serveAll : Nat → State → State
  | 0, s => s
  | k + 1, s =>
    match nextHeld s.blocked [] s.link.held with
    | none => s
    | some (h, r) => serveAll k (({ s with link.held := r } : State).serveHeld h)

/-- Every held access that nothing holds any more is served. -/
def State.serveFree (s : State) : State := serveAll s.link.held.length s

/-- R16: the die link is up and held accesses are served in order. -/
def execDieLinkTrained (s : State) : Out := .next <|
  if s.d0up && s.rb R.PWR_STAT 6 && !s.rb R.GLB_STAT 3 then s.linkTrained.serveFree else s

/-- R16: the oldest held access has waited 100 µs for the link; what only waited behind it is served. -/
def execDieLinkHoldTimeout (s : State) : Out := .next <|
  match s.link.held with
  | [] => s
  | h :: r =>
    if s.rb R.GLB_STAT 3 then s else (({ s with link.held := r } : State).accessError h.master).serveFree

/-- A program or erase ends (step 7 of R505); reads of the line that was being programmed are served (R504). -/
def execFlashOpDone (s : State) : Out := .next s.flashDone.serveFree

def execProgramTimeout (s : State) : Out := .next s.programFailed.serveFree

/-- R13: a register access fails after four repeats: its master sees an error response, a newt a bus error. -/
def State.flitLost (src : Master) (s : State) : State :=
  let s := (s.flag R.GLB_STAT 1).post 1 2 0 0
  match src with
  | .newt n =>
    match (s.newt n.val).regq with
    | r :: _ => if crosses src r.addr then s.regDone n true else s
    | [] => s
  | m => s.accessError m

/-- R12: a flit is repeated; `fails` says that the repeat fails too. The fourth failure ends it (R13). -/
def execDieLinkFlitRepeat (ch : LinkChan) (src : Master) (fails : Bool) (s : State) : Out := .next <|
  if !s.rb R.GLB_STAT 3 then s
  else
    let s := s.count R.GLB_STAT 15 8 1
    match ch with
    | .reg =>
      let n := s.link.regRetries + 1
      if !fails then { s with link.regRetries := 0 }
      else if n < 4 then { s with link.regRetries := n }
      else ({ s with link.regRetries := 0 } : State).flitLost src
    | .smp =>
      let n := s.link.smpRetries + 1
      if !fails then { s with link.smpRetries := 0 }
      else if n < 4 then { s with link.smpRetries := n }
      else ({ s with link.smpRetries := 0 } : State).smpLost

/-- R383: a register request of a newt completes. -/
def execRegisterLoadComplete (n : Fin 16) (err : Bool) (s : State) : Out := .next <|
  if s.d0up && !s.newtGated n.val then s.regDone n err else s

/-- R77, R80, R81: DOZE is due in IDLE. A broken condition abandons the entry. -/
def execDozeEntry (s : State) : Out := .next <|
  if s.d0up && s.pstate == 1 && s.rb R.PWR_CTL 1 then (if s.dozeOk then s.dozeNow else s.journalFirst.abortEntry) else s

/-- R77, R80, R81: HUSH is due in DOZE. -/
def execHushEntry (s : State) : Out := .next <|
  if s.hushOk then s.hushNow
  else if s.d0up && s.pstate == 2 && s.rb R.PWR_CTL 2 then s.abortEntry else s

/-- R131: HRI_CTL.EN is written 1, and context entry 0 is read once boot is done. -/
def execHriEnable (m : Master) (ctx0 : Option Entry) (s : State) : Out := .next <|
  let s := if s.rb R.HRI_CTL 0 then s else s.access m R.HRI_CTL 1
  if s.hri.ctxWait && s.rb R.RST_STAT 5 && s.d0up then s.ctxZero ctx0 else s

def execHriDisable (m : Master) (s : State) : Out := .next (s.access m R.HRI_CTL 0)

/-! ### Commands that are a write of one register -/

def execCdclostClear (m : Master) (w : Word) (s : State) : Out := .next (s.access m R.CLK_CDCLOST w)
def execWatchdogKick (m : Master) (w : Word) (s : State) : Out := .next (s.access m R.RST_WDT_KICK w)
def execSoftwareReset (m : Master) (w : Word) (s : State) : Out := .next (s.access m R.RST_CTL w)
def execPwrReqRun (m : Master) (w : Word) (s : State) : Out := .next (s.access m R.PWR_CTL w)
def execPwrReqDoze (m : Master) (w : Word) (s : State) : Out := .next (s.access m R.PWR_CTL w)
def execPwrReqHush (m : Master) (w : Word) (s : State) : Out := .next (s.access m R.PWR_CTL w)
def execStoRetire (m : Master) (w : Word) (s : State) : Out := .next (s.access m R.STO_CTL w)
def execRfsApply (m : Master) (w : Word) (s : State) : Out := .next (s.access m R.RFS_APPLY w)
def execTxcfgModeWrite (m : Master) (w : Word) (s : State) : Out := .next (s.access m R.RFS_TXCFG w)

/-- FIR registers are numbered 0 to 31 and MASK registers 32 to 47. -/
def execFirTableWrite (m : Master) (k : Fin 48) (w : Word) (s : State) : Out :=
  .next (s.access m (if k.val < 32 then R.RFS_FIR k.val else R.RFS_MASK (k.val - 32)) w)

def execRfsCtlEn (m : Master) (w : Word) (s : State) : Out := .next (s.access m R.RFS_CTL w)
def execRf2CtlEn (m : Master) (w : Word) (s : State) : Out := .next (s.access m R.RF2_CTL w)
def execRf2ChChange (m : Master) (w : Word) (s : State) : Out := .next (s.access m R.RF2_CTL w)
def execCalReqrx (m : Master) (w : Word) (s : State) : Out := .next (s.access m R.RFS_CAL w)
def execCalReqtx (m : Master) (w : Word) (s : State) : Out := .next (s.access m R.RFS_CAL w)
def execMacEnable (m : Master) (w : Word) (s : State) : Out := .next (s.access m R.MAC_CTL w)
def execJournalStop (m : Master) (w : Word) (s : State) : Out := .next (s.access m R.JNL_CTL w)
def execRoleMove (m : Master) (w : Word) (s : State) : Out := .next (s.access m R.NWT_MOVE w)
def execRoleCommit (m : Master) (w : Word) (s : State) : Out := .next (s.access m R.NWT_MOVE w)
def execTokenTake (m : Master) (w : Word) (s : State) : Out := .next (s.access m R.NWT_MOVE w)
def execTokenRelease (m : Master) (w : Word) (s : State) : Out := .next (s.access m R.NWT_MOVE w)
def execRoleUnassign (m : Master) (w : Word) (s : State) : Out := .next (s.access m R.NWT_MOVE w)
def execNewtBoot (m : Master) (w : Word) (s : State) : Out := .next (s.access m R.NWT_MOVE w)
def execNewtTest (m : Master) (w : Word) (s : State) : Out := .next (s.access m R.NWT_MOVE w)
def execComparatorDisable (m : Master) (n : Fin 4) (w : Word) (s : State) : Out := .next (s.access m (R.PIO_CMP n.val) w)
def execFlickClear (m : Master) (n : Fin 4) (w : Word) (s : State) : Out := .next (s.access m (R.PIO_CMP n.val) w)
def execPwmEnable (m : Master) (k : Fin 12) (w : Word) (s : State) : Out := .next (s.access m (R.PIO_PWMCFG k.val) w)
def execGpioOutWrite (m : Master) (w : Word) (s : State) : Out := .next (s.access m R.PIO_GPIOOUT w)
def execGpioCfgWrite (m : Master) (k : Fin 24) (w : Word) (s : State) : Out := .next (s.access m (R.PIO_GPIOCFG k.val) w)
def execSwEvent (m : Master) (w : Word) (s : State) : Out := .next (s.access m R.EVM_SWEV w)
def execCountStage (m : Master) (w : Word) (s : State) : Out := .next (s.access m R.LEHR_CNT0 w)
def execCountCommit (m : Master) (w : Word) (s : State) : Out := .next (s.access m R.LEHR_CNT1 w)
def execCalendarStage (m : Master) (w : Word) (s : State) : Out := .next (s.access m R.LEHR_CAL0 w)
def execCalendarCommit (m : Master) (w : Word) (s : State) : Out := .next (s.access m R.LEHR_CAL1 w)
def execDstBegin (m : Master) (w : Word) (s : State) : Out := .next (s.access m R.LEHR_CTL w)
def execDstEnd (m : Master) (w : Word) (s : State) : Out := .next (s.access m R.LEHR_CTL w)
def execPrilockBlow (m : Master) (w : Word) (s : State) : Out := .next (s.access m R.LEHR_CTL w)
def execAlarmCommit (m : Master) (w : Word) (s : State) : Out := .next (s.access m R.LEHR_ALM1 w)
def execPeriodicRestart (m : Master) (w : Word) (s : State) : Out := .next (s.access m R.LEHR_PER w)
def execCflUnlock (m : Master) (w : Word) (s : State) : Out := .next (s.access m R.CFL_UNLOCK w)

/-- The register of a step of the command sequence. -/
def cflRegAt : CflReg → Nat
  | .cmd => R.CFL_CMD
  | .addr => R.CFL_ADDR
  | .data i => R.CFL_DATA i.val

def execCflSequenceWrite (m : Master) (reg : CflReg) (w : Word) (s : State) : Out := .next (s.access m (cflRegAt reg) w)
def execEraseSuspend (m : Master) (w : Word) (s : State) : Out := .next (s.access m R.CFL_CTL w)
def execEraseResume (m : Master) (w : Word) (s : State) : Out := .next (s.access m R.CFL_CTL w)
def execPmcSampleClear (m : Master) (n : Fin 16) (w : Word) (s : State) : Out := .next (s.access m (R.PMC_SCTL n.val) w)
def execSmbAlertClear (m : Master) (w : Word) (s : State) : Out := .next (s.access m R.SMB_STAT w)

/-! ### Commands that are a read of one register, or a trigger -/

def execReadAdcResult (m : Master) (slot : Fin 16) (byte : Fin 4) (size : Nat) (s : State) : Out :=
  .next (s.readAccess m (R.PIO_ADCRES slot.val + byte.val) size .clean)

/-- The register of a time word. -/
def timeWordReg : TimeWord → Nat
  | .cnt0 => R.LEHR_CNT0
  | .cnt1 => R.LEHR_CNT1
  | .cal0 => R.LEHR_CAL0
  | .cal1 => R.LEHR_CAL1

def execReadTimeWord (m : Master) (which : TimeWord) (byte : Fin 4) (size : Nat) (s : State) : Out :=
  .next (s.readAccess m (timeWordReg which + byte.val) size .clean)

/-- The read of some bytes of the CFL window from offset `off` of the window on. -/
def execReadFlashWindow (m : Master) (off size : Nat) (ecc : Ecc) (s : State) : Out :=
  .next (s.readAccess m (0x108000 + off) size ecc)

def execReadPmcCycl (m : Master) (n : Fin 16) (byte : Fin 4) (size : Nat) (s : State) : Out :=
  .next (s.readAccess m (R.PMC_CYCL n.val + byte.val) size .clean)

/-- R430: a write of GO, a trigger of the task input in its mode, a period start of PWM0 in its mode. -/
def execAdcTrigger (src : AdcSrc) (s : State) : Out := .next <|
  match src with
  | .go m w => s.access m R.PIO_ADCSEQ w
  | .task hop => if s.evmUp && s.rf R.PIO_ADCSEQ 2 1 == 1 then s.adcTrigger (hop + 1) else s
  | .pwm0 => if s.rf R.PIO_ADCSEQ 2 1 = 2 then s.adcTrigger 0 else s

/-- R456, R458: producer p raises an event. -/
def execEventRaise (p : Fin 128) (hop : Nat) (s : State) : Out := .next (s.raise p.val hop)

end Sys2Proof.Machine
end

