-- ==== Sys2Proof/Machine/Smb.lean ====
section
/-! DEFINITION. The SMBus target (R564, R565, R572, R573). -/

namespace Sys2Proof.Machine

/-- The 7-bit target address (R564). -/
def State.smbAddr (s : State) : Nat := s.rf R.SMB_STAT 8 2

/-- R565: the Alert Response Address is read; without ALERT the device does not answer. -/
def execAlertResponse (s : State) : Out := .next <|
  if s.masterUp .smbus && s.rb R.SMB_STAT 1 then
    let s := s.answer .smbus (BitVec.ofNat 32 s.smbAddr)
    ({ s with power.alertn := true } : State).wb R.SMB_STAT 1 false
  else s

/-- R573, REGWR at its stop: count 7, all seven bytes, an aligned offset, and a PEC that matches if one was sent. -/
def execSmbRegwr (count : Byte) (bytes : List Byte) (pec : Option Byte) (s : State) : Out := .next <|
  let a := leNat (bytes.take 3)
  let code := crc8 ([BitVec.ofNat 8 (2 * s.smbAddr), 1, count] ++ bytes)
  if count = 7 ∧ bytes.length = 7 ∧ (pec.all fun p => p == code) ∧ a % 4 = 0 then
    s.access .smbus a (BitVec.ofNat 32 (leNat (bytes.drop 3)))
  else s

/-- STATUS, the word, and the PEC of a REGRD go to the bus master. -/
def State.regrdAnswer (count : Byte) (bytes : List Byte) (status : Nat) (v : Word) (s : State) : State :=
  let a := 2 * s.smbAddr
  let code := crc8 ([BitVec.ofNat 8 a, 2, count] ++ bytes ++ [BitVec.ofNat 8 (a + 1), 5, BitVec.ofNat 8 status] ++ bvBytes 4 v)
  ((s.answer .smbus (BitVec.ofNat 32 status)).answer .smbus v).answer .smbus (code.setWidth 32)

/-- R573, REGRD: a process call with count 3. One that would have to wait, for the die link, behind a held REGWR (R11) or for the
line being programmed (R504), ends within its time limit with STATUS 1 (log 18). -/
def execSmbRegrd (count : Byte) (bytes : List Byte) (s : State) : Out := .next <|
  let a := leNat bytes
  if !s.masterUp .smbus || !(count == 3) || bytes.length != 3 then s
  else if a % 4 ≠ 0 then s.regrdAnswer count bytes 2 0
  else if decide (0x150000 ≤ a) || s.readWaits .smbus a 4 then s.regrdAnswer count bytes 1 0
  else match s.busRead .smbus a .clean with
    | (some v, s) => s.regrdAnswer count bytes 0 v
    | (none, s) => s.regrdAnswer count bytes 1 0

/-- R572: the target releases the bus and drops a transaction it was in. Transactions are single commands here, so
none is ever half done. -/
def execSmbBusTimeout (s : State) : Out := .next s

end Sys2Proof.Machine
end

