-- ==== Sys2Proof/Machine/Svc.lean ====
section
/-! DEFINITION. The service port (chapter 18): frames, sequence numbers, sessions, and the resident loader's commands. -/

namespace Sys2Proof.Machine

/-! ### Frames out (R522, R525) -/

/-- A frame with its CRC; LEN is given, since a sealed payload's header is authenticated before it is sealed. -/
def frameHeader (typ flags seq len : Nat) : List Byte :=
  [0x4B, 0x53, BitVec.ofNat 8 typ, BitVec.ofNat 8 flags] ++ leBytes 2 seq ++ leBytes 2 len

def frameOf (header payload : List Byte) : List Byte :=
  header ++ payload ++ leBytes 4 (crc32 (header ++ payload)).toNat

/-- A response is stored and SVC_ATTN rises (R521). -/
def State.svcOffer (l : List Byte) (s : State) : State :=
  ({ s with svc.response := l, svc.stored := true } : State).flag R.SVC_STAT 4

/-- NAK (R524): the SEQ it expects is free where none is held. -/
def State.svcNak (seq reason : Nat) (s : State) : State :=
  let (e, s) : Nat × State := match s.svc.heldSeq with
    | some h => ((h + 1).toNat, s)
    | none => s.freeNat
  (s.svcOffer (frameOf (frameHeader 3 0 seq 4) ([BitVec.ofNat 8 reason, 0] ++ leBytes 2 (e % 65536)))).count R.SVC_CNT 31 24 1

/-- An ACK's frame: in clear, or sealed under its session with the slot's next counter, as the command found it, since it may
have closed the session (R337, R525). -/
def State.svcSeal (seq : Nat) (pay : List Byte) (s : State) : List Byte × State :=
  match s.svc.session with
  | none => (frameOf (frameHeader 2 0 seq pay.length) pay, s)
  | some (slot, key) =>
    let k := 252 + slot.toNat
    let ctr := s.svc.sealCtr
    let h := frameHeader 2 (1 + 2 * slot.toNat) seq (28 + pay.length)
    let (ct, tag) := Config.gcmSeal key (gcmNonce ctr) h pay
    let s := if (s.slot k).state = 0 || (s.slot k).key != key then s else s.setSlot k { s.slot k with counter := ctr + 1 }
    (frameOf h (bvBytes 12 (gcmNonce ctr) ++ ct ++ bvBytes 16 tag), s)

/-- A command ends: its ACK is stored and kept for a repeat. A device reset that it caused leaves no reply. -/
def State.svcReply (status : Nat) (result : List Byte) (s : State) : State :=
  match s.svc.exec, s.svc.heldSeq with
  | some _, some seq =>
    let (l, s) := s.svcSeal seq.toNat (leBytes 2 status ++ result)
    let s : State := { s with
      svc.exec := none, svc.session := none, svc.started := false, svc.waitFlash := false, svc.heldResponse := l }
    (s.svcOffer l).wb R.SVC_STAT 3 false
  | _, _ => s

/-! ### Frames in (R523, R524, R526) -/

/-- The command codes of R529. -/
def svcCodes : List Nat := [1, 2, 3, 4, 0x10, 0x11, 0x12, 0x20, 0x30, 0x40]

/-- A little-endian argument at payload byte `off`; bytes that were not sent read as 0. -/
def arg (p : List Byte) (off size : Nat) : Nat := leNat ((p.drop off).take size)

/-- The bytes of input a KEYCMD's opcode takes from the frame (R345). -/
def keyInput (op form : Nat) : Nat :=
  match op with
  | 0x30 => keyLen 0x30 form
  | 0x34 | 0x36 => 64
  | 0x39 => 32
  | _ => 0

/-- Lengths, counts, alignment and reserved bytes are in order (BADARG where not). -/
def argsOk (p : List Byte) : Bool :=
  let n := p.length
  arg p 1 3 == 0 &&
    match arg p 0 1 with
    | 3 => n == 12 && arg p 4 4 % 4 == 0 && decide (1 ≤ arg p 8 4) && decide (arg p 8 4 ≤ 64)
    | 4 => decide (12 ≤ n) && arg p 4 4 % 4 == 0 && decide (1 ≤ arg p 8 4) && decide (arg p 8 4 ≤ 64) && n == 12 + 4 * arg p 8 4
    | 0x10 => n == 12 && arg p 4 4 % 16 == 0 && arg p 8 4 % 16 == 0 && decide (16 ≤ arg p 8 4) &&
        decide (arg p 8 4 ≤ 4096) && decide (arg p 4 4 + arg p 8 4 ≤ 0x800000)
    | 0x11 => decide (24 ≤ n) && decide (n ≤ 4104) && (n - 8) % 16 == 0 && arg p 4 4 % 16 == 0 &&
        decide (arg p 4 4 + (n - 8) ≤ 0x800000)
    | 0x12 => n == 6 && decide (arg p 4 2 ≤ 141)
    | 0x20 => n == 8
    | 0x30 => decide (24 ≤ n) && arg p 5 3 == 0 && decide (0x30 ≤ arg p 4 1) && decide (arg p 4 1 ≤ 0x3F) &&
        decide (keyInput (arg p 4 1) (arg p 10 1) ≤ n - 24)
    | _ => decide (n ≤ 4)

/-- SCRAPPED serves only what R528 names. -/
def scrapServes (p : List Byte) : Bool :=
  match arg p 0 1 with
  | 1 | 2 | 3 => true
  | 0x30 => [0x38, 0x39, 0x32].contains (arg p 4 1)
  | _ => false

/-- The admin ring's key commands not yet ended. -/
def State.adminKeys (s : State) : Nat :=
  ((s.q 0).inflight.filter fun c => decide (0x30 ≤ c.opcode) && decide (c.opcode ≤ 0x3F) && !c.started && !c.ended).length

/-- A CMD is accepted as new and starts; one that no loader command answers ends at once (R529, R530). -/
def State.svcAccept (seq : Half) (crc : Word) (p : List Byte) (session : Option (BitVec 2 × BitVec 256)) (s : State) : State :=
  let s : State := { s with
    svc.heldSeq := some seq, svc.heldCrc := crc, svc.stored := false, svc.response := []
    svc.exec := some p, svc.session := session, svc.started := false, svc.waitFlash := false
    svc.ahead := s.adminKeys
    svc.sealCtr := (session.map fun x => (s.slot (252 + x.1.toNat)).counter).getD 0 }
  let s := (((s.wb R.SVC_STAT 4 false).wb R.SVC_STAT 2 true).wb R.SVC_STAT 3 true).wf R.SVC_STAT 31 16 seq.toNat
  if !svcCodes.contains (arg p 0 1) || p.isEmpty then s.svcReply 1 []
  else if !argsOk p then s.svcReply 2 []
  else if s.keys.scrapped && !scrapServes p then s.svcReply 3 []
  else s

/-- The session a frame names, with its key, where it is open. -/
def State.svcSession (flags : Nat) (s : State) : Option (BitVec 2 × BitVec 256) :=
  let slot := flags / 2 % 4
  let x := s.slot (252 + slot)
  if x.state = 1 && !ctrSpent x.counter then some (BitVec.ofNat 2 slot, x.key) else none

/-- What a frame's payload says, and the session it came under; none where ENC fails (R525, R526). -/
def State.svcOpen (h p : List Byte) (s : State) : Option (List Byte × Option (BitVec 2 × BitVec 256)) :=
  let flags := arg h 3 1
  if flags % 2 = 0 then some (p, none)
  else match s.svcSession flags with
    | none => none
    | some (slot, key) =>
      let n := p.length
      if n < 28 then none
      else
        (Config.gcmOpen key (BitVec.ofNat 96 (leNat (p.take 12))) h ((p.drop 12).take (n - 28))
          (BitVec.ofNat 128 (leNat (p.drop (n - 16))))).map fun t => (t, some (slot, key))

/-- ENCREQ asks for ENC, and the frame has none (R526). -/
def State.encMissing (t : List Byte) (enc : Bool) (s : State) : Bool :=
  s.rb R.SVC_CTL 0 && !enc && !(arg t 0 1 == 1 || arg t 0 1 == 2 || (arg t 0 1 == 0x30 && arg t 4 1 == 0x36))

/-- A new CMD passes the ENC rules, or is answered with NAK AUTH. -/
def State.svcNew (seq : Half) (crc : Word) (o : Option (List Byte × Option (BitVec 2 × BitVec 256))) (s : State) : State :=
  match o with
  | none => s.svcNak seq.toNat 5
  | some (t, ses) => if s.encMissing t ses.isSome then s.svcNak seq.toNat 5 else s.svcAccept seq crc t ses

/-- R524: the cases of a CMD whose CRC checks. -/
def State.svcCmd (h p : List Byte) (crc : Word) (s : State) : State :=
  let seq : Half := BitVec.ofNat 16 (arg h 4 2)
  let o := s.svcOpen h p
  if o.any (fun t => arg t.1 0 1 == 1 && !t.1.isEmpty) then s.svcNew seq crc o
  else match s.svc.heldSeq with
    | none => s.svcNak seq.toNat 3
    | some held =>
      if seq = held + 1 then s.svcNew seq crc o
      else if seq = held then
        if crc = s.svc.heldCrc then (s.svcOffer s.svc.heldResponse).count R.SVC_CNT 23 16 1
        else s.svcNak seq.toNat 4
      else s.svcNak seq.toNat 3

/-- The bytes after the kind byte of a WRITE (R523). DESIGN CHOICE (log 163): FLAGS bits 7:3 are not looked at. -/
def State.svcFrame (l : List Byte) (s : State) : State :=
  let h := l.take 8
  let len := arg h 6 2
  if l.length < 8 ∨ l.length < 12 + len ∨ h.take 3 ≠ [0x4B, 0x53, 1] then s.count R.SVC_CNT 7 0 1
  else if s.svc.exec.isSome then s.count R.SVC_CNT 15 8 1
  else
    let p := (l.drop 8).take len
    let crc : Word := BitVec.ofNat 32 (arg l (8 + len) 4)
    if 4160 < len then s.svcNak (arg h 4 2) 2
    else if crc ≠ crc32 (h ++ p) then s.svcNak (arg h 4 2) 1
    else s.svcCmd h p crc

/-- The loader sees the port: D1 runs, from step 5 of R75 on, and PORTOFF is 0 (R527). -/
def State.portUp (s : State) : Bool := s.masterUp .svc && s.power.ckref && !s.rb R.SVC_CTL 1

def execSpiWriteTransaction (bytes : List Byte) (s : State) : Out := .next <|
  if s.portUp then
    match bytes with
    | b :: l => if b = 0x4B then s.svcFrame l else s
    | [] => s
  else s

/-- What a READ drives on SVC_SDO after its kind byte: the status byte, the stored response, then 0xFF (R521). DESIGN CHOICE
(log 163): 0xFF after a response too. -/
def State.svcReadBytes (clocked : Nat) (s : State) : List Byte :=
  let l : List Byte := if s.svc.stored then 1 :: s.svc.response else [0]
  (List.range clocked).map fun i => l.getD i 0xFF

/-- R521: `clocked` bytes follow the kind byte; SVC_ATTN falls where status byte and response went out in full. -/
def execSpiReadTransaction (clocked : Nat) (s : State) : Out := .next <|
  if s.portUp then
    let v := (s.svcReadBytes clocked).foldl (fun s b => s.answer .svc (b.setWidth 32)) s
    if s.svc.stored && decide (s.svc.response.length < clocked) then v.wb R.SVC_STAT 4 false else v
  else s

/-! ### The loader's commands (R529) -/

/-- The command that executes, if it has the code. -/
def State.svcRun (code : Nat) (s : State) : Option (List Byte) :=
  if s.masterUp .svc then s.svc.exec.filter fun p => arg p 0 1 == code else none

/-- HELLO: the loader's version is a free value. -/
def execSvcHello (s : State) : Out := .next <|
  match s.svcRun 1 with
  | none => s
  | some _ =>
    let (v, s) := s.freeNat
    s.svcReply 0 (bvBytes 8 Config.serial ++ bvBytes 4 (s.rd R.GLB_CAP0) ++ bvBytes 4 (s.rd R.KEY_LCS) ++
      leBytes 4 v ++ leBytes 2 4160)

def execSvcInfo (s : State) : Out := .next <|
  match s.svcRun 2 with
  | none => s
  | some _ =>
    s.svcReply 0 (bvBytes 4 (s.rd R.RST_CAUSE) ++ bvBytes 4 (s.rd R.RST_STAT) ++ bvBytes 4 (s.rd R.HLT_CAUSE) ++
      bvBytes 4 (s.rd R.CFL_STAT) ++ bvBytes 4 (s.nwtView R.NWT_BASK) ++
      (List.range 16).flatMap fun n => bvBytes 4 (s.nwtView (R.NWT_CST n)))

/-- An access of the port ends with an error response: no such block, or the die link is down (R13, R16). -/
def State.svcError (a : Nat) (s : State) : Bool :=
  decide (0x150000 ≤ a) || (crosses .svc a && !s.rb R.GLB_STAT 3)

/-- Read `k` words from an offset on; the words, and the index of one that failed. -/
def svcReads : Nat → Nat → State → List Byte × Bool × State
  | 0, _, s => ([], true, s)
  | k + 1, a, s =>
    if s.svcError a then ([], false, s)
    else match s.busRead .svc a .clean with
      | (none, s) => ([], false, s)
      | (some v, s) =>
        let (l, ok, s) := svcReads k (a + 4) s
        (bvBytes 4 v ++ l, ok, s)

/-- A read of a line being programmed is held, and the command with it (R504). -/
def execSvcRegrd (s : State) : Out := .next <|
  match (s.svcRun 3).filter fun p => !(touched (arg p 4 4) (4 * arg p 8 4)).any s.lineBusy with
  | none => s
  | some p =>
    let (l, ok, s) := svcReads (arg p 8 4) (arg p 4 4) s
    if ok then s.svcReply 0 l else s.svcReply 7 (BitVec.ofNat 8 (l.length / 4) :: l)

/-- Write words from an offset on; the index of one that failed. A reset that a word causes ends the command. -/
def svcWrites : Nat → Nat → List Byte → State → Option Nat × State
  | 0, _, _, s => (none, s)
  | k + 1, a, l, s =>
    if s.svcError a || s.refusedAt a then (some 0, s)
    else
      let s := s.busWrite .svc a (BitVec.ofNat 32 (leNat (l.take 4)))
      if s.svc.exec.isNone then (none, s)
      else
        let (r, s) := svcWrites k (a + 4) (l.drop 4) s
        (r.map (· + 1), s)

def execSvcRegwr (s : State) : Out := .next <|
  match s.svcRun 4 with
  | none => s
  | some p =>
    match svcWrites (arg p 8 4) (arg p 4 4) (p.drop 12) s with
    | (none, s) => s.svcReply 0 []
    | (some i, s) => s.svcReply 7 [BitVec.ofNat 8 i]

/-- Read `k` words of flash; `ecc` is what the first meets. -/
def flashReads : Nat → Nat → Ecc → State → Option (List Byte) × State
  | 0, _, _, s => (some [], s)
  | k + 1, a, ecc, s =>
    match s.flashRead a ecc with
    | (none, s) => (none, s)
    | (some v, s) =>
      let (l, s) := flashReads k (a + 4) .clean s
      (l.map (bvBytes 4 v ++ ·), s)

/-- The line of flash being programmed lies in the range (R504). -/
def State.programmingIn (a n : Nat) (s : State) : Bool :=
  s.flash.programming.any fun l => decide (a / 16 ≤ l) && decide (l < (a + n) / 16)

def execSvcFlrd (ecc : Ecc) (s : State) : Out := .next <|
  match (s.svcRun 0x10).filter fun p => !s.programmingIn (arg p 4 4) (arg p 8 4) with
  | none => s
  | some p =>
    match flashReads (arg p 8 4 / 4) (arg p 4 4) ecc s with
    | (some l, s) => s.svcReply 0 l
    | (none, s) => s.svcReply 5 [10]

/-- R531: a sector of the image slot of a newt that needs it. -/
def State.slotBusy (k : Nat) (s : State) : Bool :=
  let n := (k - 18) / 2
  decide (18 ≤ k) && decide (k ≤ 49) && (s.holdsAny n || s.incoming n || s.roles.persists.any fun x => x.2 == n)

/-- The controller is claimed or busy: the command waits (R531). -/
def State.svcFlashWait (s : State) : Bool := s.flash.owner.isSome || s.flashBusy

/-- Lines of 16 bytes. -/
def linesOf : Nat → List Byte → List (List Byte)
  | 0, _ => []
  | k + 1, l => l.take 16 :: linesOf k (l.drop 16)

/-- Program lines in ascending order, of which the first `ok` succeed; RES of the first that does not. -/
def svcProgram : Nat → Nat → List (List Byte) → State → Nat × State
  | _, _, [], s => (0, s)
  | a, ok, l :: r, s =>
    match s.programCheck a with
    | some res => (res, s.cflResult res)
    | none =>
      match ok with
      | 0 => (9, (s.startProgram a l).programFailed)
      | k + 1 => svcProgram (a + 16) k r (s.startProgram a l).flashDone

def execSvcFlprog (okLines : Nat) (s : State) : Out := .next <|
  match s.svcRun 0x11 with
  | none => s
  | some p =>
    let a := arg p 4 4
    let n := p.length - 8
    if s.slotBusy (sectorOf a) || s.slotBusy (sectorOf (a + n - 1)) then s.svcReply 4 []
    else if s.svcFlashWait then { s with svc.waitFlash := true }
    else match svcProgram a okLines (linesOf (n / 16) (p.drop 8)) s with
      | (0, s) => s.svcReply 0 []
      | (res, s) => s.svcReply 5 [BitVec.ofNat 8 res]

def execSvcFlerase (ok : Bool) (s : State) : Out := .next <|
  match s.svcRun 0x12 with
  | none => s
  | some p =>
    let k := arg p 4 2
    if s.slotBusy k then s.svcReply 4 []
    else if s.svcFlashWait then { s with svc.waitFlash := true }
    else match s.eraseCheck (sectorBase k) with
      | some res => (s.cflResult res).svcReply 5 [BitVec.ofNat 8 res]
      | none =>
        let s := s.startErase k (some .svc)
        if ok then s.flashDone.svcReply 0 [] else s.eraseFailed.svcReply 5 [8]

/-- R531: 1,000 ms have passed. -/
def execSvcFlashWaitTimeout (s : State) : Out := .next <|
  if s.svc.waitFlash then s.svcReply 6 [] else s

/-- NEWTOP ends: NWT_STAT, and NEWT where RES is not 0. -/
def State.newtopReply (s : State) : State :=
  s.svcReply (if s.rf R.NWT_STAT 5 2 = 0 then 0 else 9) (bvBytes 4 (s.rd R.NWT_STAT))

/-- NWT_MOVE is written for the tool; a BOOT or TEST is answered once it has finished. -/
def execSvcNewtop (s : State) : Out := .next <|
  match s.svcRun 0x20 with
  | none => s
  | some p =>
    if s.svc.started then (if s.roles.boot.isSome || s.roles.test.isSome then s else s.newtopReply)
    else if s.svcError R.NWT_MOVE then s.svcReply 7 [0]
    else
      let s := s.busWrite .svc R.NWT_MOVE (BitVec.ofNat 32 (arg p 4 4))
      let long := arg p 5 1 / 16 % 8 == 4 || arg p 5 1 / 16 % 8 == 5
      if long && s.rf R.NWT_STAT 5 2 == 0 then { s with svc.started := true } else s.newtopReply

/-- A KEYCMD's completion: STATUS and RESULT, then the buffer. -/
def State.keycmdReply (typ code result : Nat) (out : List Byte) (s : State) : State :=
  s.svcReply (if typ = 0 ∧ code = 0 then 0 else 8) (leBytes 2 (code * 2 + typ * 256) ++ leBytes 4 result ++ out)

/-- KEYCMD executes as from the admin ring (R345), after the key commands of the admin ring that came before it (R349). DESIGN
CHOICE (log 78): a wiping transition takes two rows, and stops after step 4 between them. -/
def execSvcKeycmd (fuseOk : Bool) (s : State) : Out := .next <|
  match s.svcRun 0x30 with
  | none => s
  | some p =>
    let op := arg p 4 1
    let spec := arg p 8 16
    let buf := p.drop 24
    if !adminOps.contains op then s.keycmdReply 0 1 0 []
    else match firstBad (keyFields op spec) with
      | some off => s.keycmdReply 0 2 off []
      | none =>
        if 0 < min s.svc.ahead s.adminKeys then s
        else
          let s := s.wipeGoOn
          let r := s.keyRun {
            op, spec, dptr := if buf.isEmpty then 2 else 1, buf := some buf, svc := true, fuseOk
            midway := true, resumed := s.svc.started }
          if !r.wait then r.s.keycmdReply r.typ r.code r.result r.out
          else if r.s.keys.wipePend then { r.s with svc.started := true }
          else r.s

/-- RELEASE resumes a held boot (R528). -/
def execSvcRelease (s : State) : Out := .next <|
  match s.svcRun 0x40 with
  | none => s
  | some _ =>
    if s.power.bootHeld then (({ s with power.bootHeld := false } : State).wb R.SVC_STAT 1 false).svcReply 0 []
    else s.svcReply 3 []

end Sys2Proof.Machine
end

