-- ==== Sys2Proof/Machine/Forms.lean ====
section
/-! DEFINITION. Short forms of the commands that carry what the device may find on the way: the same command where it finds
nothing amiss, or in its usual width. Each is the full command at fixed operands, and its meaning that command's. -/

namespace Sys2Proof

/-- A write of BAR0 (R3, R4). -/
abbrev Instr.registerWrite (m : Master) (addr size : Nat) (data : Dword) : Instr := .registerStore m .bar0 addr size data

/-- A sequence error after which every rail has passed its threshold (R52). -/
abbrev Instr.supplySequenceError : Instr := .sequenceError [] []

/-- A wake cause outside an entry (R85). -/
abbrev Instr.wakeCause (c : WakeSrc) : Instr := .wakeArrives c false

/-- A write of the lower half of a queue's submission doorbell, ring 2q (R104). -/
abbrev Instr.submissionDoorbell (q : Fin 37) (value : Dword) : Instr := .submissionBell (16 * q.val) 4 (some value)

/-- A write of the lower half of a queue's completion doorbell, ring 2q + 1 (R104). -/
abbrev Instr.completionDoorbell (q : Fin 37) (value : Dword) : Instr := .completionBell (16 * q.val + 8) 4 (some value)

/-- A write of the lower half of the context-invalidate doorbell (R104). -/
abbrev Instr.contextInvalidate (value : Dword) (reads : List (Option Entry)) : Instr :=
  .contextBell 0x1000 4 (some value) reads

/-- A READ that meets no SRAM error to correct (R25). -/
abbrev Instr.read (q : Fin 37) (tag : Half) (segs : Segs) (outs : List UnitOut) (xferOk : Bool) : Instr :=
  .readBlocks q tag segs outs xferOk 0

/-- A WRITE that meets no SRAM error to correct (R25). -/
abbrev Instr.write (q : Fin 37) (tag : Half) (segs : Segs) (data : Option (List Blk)) (place : Placement) : Instr :=
  .writeBlocks q tag segs data place 0

/-- Folding starts before a first unit is copied (R176). -/
abbrev Instr.foldStart : Instr := .foldBegin []

/-- A fold whose two wordlines verify, or neither (R177). -/
abbrev Instr.foldRelease (lba target : Nat) (verified : Bool) : Instr := .releaseFold lba target verified verified

/-- A scan that can read every log page (R188). -/
abbrev Instr.mapScanDone : Instr := .mapScanned []

/-- A strobe of the sub-GHz chain, its synthesiser locked (R220). -/
abbrev Instr.txStartStrobe (who : TxWho) : Instr := .startStrobe who .subGhz true

/-- A frame handled without an SRAM error (R26, R253). -/
abbrev Instr.macRxFrame (late : Bool) : Instr := .handleFrame late ⟨0, none⟩

/-- A SEND whose gather reads meet no error (R26). -/
abbrev Instr.send (tag : Half) (segs : Segs) (frame : Option MacFrame) : Instr := .sendFrame tag segs frame ⟨0, none⟩

/-- A plan written at least 2 ms before the next boundary (R259). -/
abbrev Instr.slotmapWrite (segs : Segs) (plan : Option (List Word)) : Instr := .planWrite segs plan false

/-- A delivery whose gather reads meet no error (R26). -/
abbrev Instr.rxDelivery : Instr := .deliverRx ⟨0, none⟩

/-- An expiry of the commit timer without an SRAM error (R26, R307). -/
abbrev Instr.commitTimerExpiry : Instr := .commitTimer ⟨0, none⟩

/-- A JOURNAL-READ in which every seal and SRAM word is good (R26, R315). -/
abbrev Instr.journalRead (q : Fin 37) (tag : Half) (segs : Segs) (nodeset : Option (BitVec 4096))
    (unreadable : List (Nat × UnitOut)) (xferOk : Bool) : Instr :=
  .readJournal q tag segs nodeset unreadable [] xferOk ⟨0, none⟩

/-- An LC-ADVANCE that no loss of power interrupts (R355). -/
abbrev Instr.lcAdvance (token : Option (BitVec 512)) (fuseOk : Bool) : Instr := .lifeCycleAdvance token fuseOk false

/-- A whole-word read of PIO_ADCRESn (R4). -/
abbrev Instr.adcResultRead (m : Master) (slot : Fin 16) : Instr := .readAdcResult m slot 0 4

/-- A whole-word read of a time word (R4). -/
abbrev Instr.timeWordRead (m : Master) (which : TimeWord) : Instr := .readTimeWord m which 0 4

/-- A read of four bytes of the flash window (R4). -/
abbrev Instr.flashWindowRead (m : Master) (off : Nat) (ecc : Ecc) : Instr := .readFlashWindow m off 4 ecc

/-- A whole-word read of PMC_CYCLn (R4). -/
abbrev Instr.pmcCyclRead (m : Master) (n : Fin 16) : Instr := .readPmcCycl m n 0 4

/-- A link state in which the host answers every write (R130). -/
abbrev Instr.pcieLinkStateChange (l : LinkState) : Instr := .pcieLinkChange l []

namespace Machine

/-- A write of BAR0 (R3, R4). -/
abbrev execRegisterWrite (m : Master) (addr size : Nat) (data : Dword) (s : State) : Out :=
  execRegisterStore m .bar0 addr size data s

/-- A sequence error after which every rail has passed its threshold (R52). -/
abbrev execSupplySequenceError (s : State) : Out := execSequenceError [] [] s

/-- A wake cause outside an entry (R85). -/
abbrev execWakeCause (c : WakeSrc) (s : State) : Out := execWakeArrives c false s

/-- A write of the lower half of a queue's submission doorbell, ring 2q (R104). -/
abbrev execSubmissionDoorbell (q : Fin 37) (value : Dword) (s : State) : Out :=
  execSubmissionBell (16 * q.val) 4 (some value) s

/-- A write of the lower half of a queue's completion doorbell, ring 2q + 1 (R104). -/
abbrev execCompletionDoorbell (q : Fin 37) (value : Dword) (s : State) : Out :=
  execCompletionBell (16 * q.val + 8) 4 (some value) s

/-- A write of the lower half of the context-invalidate doorbell (R104). -/
abbrev execContextInvalidate (value : Dword) (reads : List (Option Entry)) (s : State) : Out :=
  execContextBell 0x1000 4 (some value) reads s

/-- A READ that meets no SRAM error to correct (R25). -/
abbrev execRead (q : Fin 37) (tag : Half) (segs : Segs) (outs : List UnitOut) (xferOk : Bool) (s : State) : Out :=
  execReadBlocks q tag segs outs xferOk 0 s

/-- A WRITE that meets no SRAM error to correct (R25). -/
abbrev execWrite (q : Fin 37) (tag : Half) (segs : Segs) (data : Option (List Blk)) (place : Placement) (s : State) : Out :=
  execWriteBlocks q tag segs data place 0 s

/-- Folding starts before a first unit is copied (R176). -/
abbrev execFoldStart (s : State) : Out := execFoldBegin [] s

/-- A fold whose two wordlines verify, or neither (R177). -/
abbrev execFoldRelease (lba target : Nat) (verified : Bool) (s : State) : Out :=
  execReleaseFold lba target verified verified s

/-- A scan that can read every log page (R188). -/
abbrev execMapScanDone (s : State) : Out := execMapScanned [] s

/-- A strobe of the sub-GHz chain, its synthesiser locked (R220). -/
abbrev execTxStartStrobe (who : TxWho) (s : State) : Out := execStartStrobe who .subGhz true s

/-- A frame handled without an SRAM error (R26, R253). -/
abbrev execMacRxFrame (late : Bool) (s : State) : Out := execHandleFrame late ⟨0, none⟩ s

/-- A SEND whose gather reads meet no error (R26). -/
abbrev execSend (tag : Half) (segs : Segs) (frame : Option MacFrame) (s : State) : Out :=
  execSendFrame tag segs frame ⟨0, none⟩ s

/-- A plan written at least 2 ms before the next boundary (R259). -/
abbrev execSlotmapWrite (segs : Segs) (plan : Option (List Word)) (s : State) : Out := execPlanWrite segs plan false s

/-- A delivery whose gather reads meet no error (R26). -/
abbrev execRxDelivery (s : State) : Out := execDeliverRx ⟨0, none⟩ s

/-- An expiry of the commit timer without an SRAM error (R26, R307). -/
abbrev execCommitTimerExpiry (s : State) : Out := execCommitTimer ⟨0, none⟩ s

/-- A JOURNAL-READ in which every seal and SRAM word is good (R26, R315). -/
abbrev execJournalRead (q : Fin 37) (tag : Half) (segs : Segs) (nodeset : Option (BitVec 4096))
    (unreadable : List (Nat × UnitOut)) (xferOk : Bool) (s : State) : Out :=
  execReadJournal q tag segs nodeset unreadable [] xferOk ⟨0, none⟩ s

/-- An LC-ADVANCE that no loss of power interrupts (R355). -/
abbrev execLcAdvance (token : Option (BitVec 512)) (fuseOk : Bool) (s : State) : Out :=
  execLifeCycleAdvance token fuseOk false s

/-- A whole-word read of PIO_ADCRESn (R4). -/
abbrev execAdcResultRead (m : Master) (slot : Fin 16) (s : State) : Out := execReadAdcResult m slot 0 4 s

/-- A whole-word read of a time word (R4). -/
abbrev execTimeWordRead (m : Master) (which : TimeWord) (s : State) : Out := execReadTimeWord m which 0 4 s

/-- A read of four bytes of the flash window (R4). -/
abbrev execFlashWindowRead (m : Master) (off : Nat) (ecc : Ecc) (s : State) : Out := execReadFlashWindow m off 4 ecc s

/-- A whole-word read of PMC_CYCLn (R4). -/
abbrev execPmcCyclRead (m : Master) (n : Fin 16) (s : State) : Out := execReadPmcCycl m n 0 4 s

/-- A link state in which the host answers every write (R130). -/
abbrev execPcieLinkStateChange (l : LinkState) (s : State) : Out := execPcieLinkChange l [] s

end Machine

end Sys2Proof
end

