-- ==== Sys2Proof/Machine/Dispatch.lean ====
section
/-! DEFINITION. One arm for each command of the opcode table: the call of its meaning. -/

namespace Sys2Proof.Machine

/-- The effect of one command on everything but the queue of waiting commands. -/
def exec (i : Instr) (s : State) : Host.Outcome State Fault Refusal :=
  match i with
  | .registerStore m space addr size data => Sys2Proof.Machine.execRegisterStore m space addr size data s
  | .dieLinkFlitRepeat ch src fails => Sys2Proof.Machine.execDieLinkFlitRepeat ch src fails s
  | .dieLinkTrained => Sys2Proof.Machine.execDieLinkTrained s
  | .dieLinkHoldTimeout => Sys2Proof.Machine.execDieLinkHoldTimeout s
  | .sramScrub site uncorrectable => Sys2Proof.Machine.execSramScrub site uncorrectable s
  | .cdclostClear m w => Sys2Proof.Machine.execCdclostClear m w s
  | .strapSample straps => Sys2Proof.Machine.execStrapSample straps s
  | .pornAssert => Sys2Proof.Machine.execPornAssert s
  | .pornRelease => Sys2Proof.Machine.execPornRelease s
  | .sysrstnAssert => Sys2Proof.Machine.execSysrstnAssert s
  | .sequenceError rails radio => Sys2Proof.Machine.execSequenceError rails radio s
  | .vddio33Fall => Sys2Proof.Machine.execVddio33Fall s
  | .vddio33Rise => Sys2Proof.Machine.execVddio33Rise s
  | .vddio33PathClose => Sys2Proof.Machine.execVddio33PathClose s
  | .chargerResume => Sys2Proof.Machine.execChargerResume s
  | .brownout rail => Sys2Proof.Machine.execBrownout rail s
  | .radioRailFall rail => Sys2Proof.Machine.execRadioRailFall rail s
  | .radioRailRecover rail => Sys2Proof.Machine.execRadioRailRecover rail s
  | .ckrefQualified => Sys2Proof.Machine.execCkrefQualified s
  | .clockFail => Sys2Proof.Machine.execClockFail s
  | .pllLock p => Sys2Proof.Machine.execPllLock p s
  | .pllLockLoss p => Sys2Proof.Machine.execPllLockLoss p s
  | .xtalFail => Sys2Proof.Machine.execXtalFail s
  | .xtalRecover => Sys2Proof.Machine.execXtalRecover s
  | .watchdogWarn => Sys2Proof.Machine.execWatchdogWarn s
  | .watchdogReset => Sys2Proof.Machine.execWatchdogReset s
  | .watchdogKick m w => Sys2Proof.Machine.execWatchdogKick m w s
  | .softwareReset m w => Sys2Proof.Machine.execSoftwareReset m w s
  | .perstnAssert => Sys2Proof.Machine.execPerstnAssert s
  | .perstnRelease => Sys2Proof.Machine.execPerstnRelease s
  | .sramWipeDone => Sys2Proof.Machine.execSramWipeDone s
  | .dramTrainingDone => Sys2Proof.Machine.execDramTrainingDone s
  | .dramWipeDone => Sys2Proof.Machine.execDramWipeDone s
  | .memrdySet => Sys2Proof.Machine.execMemrdySet s
  | .logrdyRelease => Sys2Proof.Machine.execLogrdyRelease s
  | .bootComplete => Sys2Proof.Machine.execBootComplete s
  | .idleEntry => Sys2Proof.Machine.execIdleEntry s
  | .dozeEntry => Sys2Proof.Machine.execDozeEntry s
  | .hushEntry => Sys2Proof.Machine.execHushEntry s
  | .pwrReqRun m w => Sys2Proof.Machine.execPwrReqRun m w s
  | .pwrReqDoze m w => Sys2Proof.Machine.execPwrReqDoze m w s
  | .pwrReqHush m w => Sys2Proof.Machine.execPwrReqHush m w s
  | .wakeArrives c entering => Sys2Proof.Machine.execWakeArrives c entering s
  | .tcxoSettleExpiry => Sys2Proof.Machine.execTcxoSettleExpiry s
  | .imageReloadDone bad => Sys2Proof.Machine.execImageReloadDone bad s
  | .smbusHushMatch addr => Sys2Proof.Machine.execSmbusHushMatch addr s
  | .functionLevelReset => Sys2Proof.Machine.execFunctionLevelReset s
  | .pciPowerStateChange d3hot => Sys2Proof.Machine.execPciPowerStateChange d3hot s
  | .submissionBell off size data => Sys2Proof.Machine.execSubmissionBell off size data s
  | .completionBell off size data => Sys2Proof.Machine.execCompletionBell off size data s
  | .contextBell off size data reads => Sys2Proof.Machine.execContextBell off size data reads s
  | .entryFetch q entry => Sys2Proof.Machine.execEntryFetch q entry s
  | .coalesceTimerExpiry q => Sys2Proof.Machine.execCoalesceTimerExpiry q s
  | .msixUnmask v => Sys2Proof.Machine.execMsixUnmask v s
  | .eventRingDrain => Sys2Proof.Machine.execEventRingDrain s
  | .createQueue ctx => Sys2Proof.Machine.execCreateQueue ctx s
  | .deleteQueue => Sys2Proof.Machine.execDeleteQueue s
  | .queueReset => Sys2Proof.Machine.execQueueReset s
  | .getLogPage segs xferOk => Sys2Proof.Machine.execGetLogPage segs xferOk s
  | .hriEnable m ctx0 => Sys2Proof.Machine.execHriEnable m ctx0 s
  | .hriDisable m => Sys2Proof.Machine.execHriDisable m s
  | .readBlocks q tag segs outs xferOk fixed => Sys2Proof.Machine.execReadBlocks q tag segs outs xferOk fixed s
  | .writeBlocks q tag segs data place fixed => Sys2Proof.Machine.execWriteBlocks q tag segs data place fixed s
  | .trim q tag => Sys2Proof.Machine.execTrim q tag s
  | .flush q tag => Sys2Proof.Machine.execFlush q tag s
  | .flushComplete q tag => Sys2Proof.Machine.execFlushComplete q tag s
  | .unitCommit unit locs => Sys2Proof.Machine.execUnitCommit unit locs s
  | .foldBegin moves => Sys2Proof.Machine.execFoldBegin moves s
  | .releaseFold lba target verified next => Sys2Proof.Machine.execReleaseFold lba target verified next s
  | .gcStart moves => Sys2Proof.Machine.execGcStart moves s
  | .scanRefresh die block => Sys2Proof.Machine.execScanRefresh die block s
  | .blockRetire die block repl => Sys2Proof.Machine.execBlockRetire die block repl s
  | .mapRebuild first cacheLine => Sys2Proof.Machine.execMapRebuild first cacheLine s
  | .checkpointStart => Sys2Proof.Machine.execCheckpointStart s
  | .checkpointDone => Sys2Proof.Machine.execCheckpointDone s
  | .storeReady aOk bOk extra => Sys2Proof.Machine.execStoreReady aOk bOk extra s
  | .mapScanned unreadable => Sys2Proof.Machine.execMapScanned unreadable s
  | .nandTimeout die => Sys2Proof.Machine.execNandTimeout die s
  | .stoRetire m w => Sys2Proof.Machine.execStoRetire m w s
  | .regrowthDone secs => Sys2Proof.Machine.execRegrowthDone secs s
  | .pfailnFall => Sys2Proof.Machine.execPfailnFall s
  | .pfailnRise us => Sys2Proof.Machine.execPfailnRise us s
  | .rfsApply m w => Sys2Proof.Machine.execRfsApply m w s
  | .applyTakesEffect lead => Sys2Proof.Machine.execApplyTakesEffect lead s
  | .rxRelockDone => Sys2Proof.Machine.execRxRelockDone s
  | .detectionStart ch => Sys2Proof.Machine.execDetectionStart ch s
  | .qualifierPass ch => Sys2Proof.Machine.execQualifierPass ch s
  | .falseDetection ch => Sys2Proof.Machine.execFalseDetection ch s
  | .frameDecoded ch r => Sys2Proof.Machine.execFrameDecoded ch r s
  | .agcStep up => Sys2Proof.Machine.execAgcStep up s
  | .energyDetect ch => Sys2Proof.Machine.execEnergyDetect ch s
  | .energyDetectDone ch rssi => Sys2Proof.Machine.execEnergyDetectDone ch rssi s
  | .startStrobe who chain locked => Sys2Proof.Machine.execStartStrobe who chain locked s
  | .txRampDownEnd chain => Sys2Proof.Machine.execTxRampDownEnd chain s
  | .blankingEnd chain => Sys2Proof.Machine.execBlankingEnd chain s
  | .txcfgModeWrite m w => Sys2Proof.Machine.execTxcfgModeWrite m w s
  | .firTableWrite m k w => Sys2Proof.Machine.execFirTableWrite m k w s
  | .rfsCtlEn m w => Sys2Proof.Machine.execRfsCtlEn m w s
  | .rf2CtlEn m w => Sys2Proof.Machine.execRf2CtlEn m w s
  | .rf2ChChange m w => Sys2Proof.Machine.execRf2ChChange m w s
  | .calReqrx m w => Sys2Proof.Machine.execCalReqrx m w s
  | .calReqtx m w => Sys2Proof.Machine.execCalReqtx m w s
  | .tempSample code => Sys2Proof.Machine.execTempSample code s
  | .calWakeTimeout => Sys2Proof.Machine.execCalWakeTimeout s
  | .calNoschedTimeout chain => Sys2Proof.Machine.execCalNoschedTimeout chain s
  | .calComplete chain r => Sys2Proof.Machine.execCalComplete chain r s
  | .handleFrame late sram => Sys2Proof.Machine.execHandleFrame late sram s
  | .slotStart => Sys2Proof.Machine.execSlotStart s
  | .slotEnd => Sys2Proof.Machine.execSlotEnd s
  | .parentAdriftExpiry => Sys2Proof.Machine.execParentAdriftExpiry s
  | .ackWaitTimeout tag => Sys2Proof.Machine.execAckWaitTimeout tag s
  | .lbtBackoffExpiry tag fits => Sys2Proof.Machine.execLbtBackoffExpiry tag fits s
  | .sendFrame tag segs frame sram => Sys2Proof.Machine.execSendFrame tag segs frame sram s
  | .nodeWrite buf => Sys2Proof.Machine.execNodeWrite buf s
  | .nodeInvalidate => Sys2Proof.Machine.execNodeInvalidate s
  | .nodeRead xferOk => Sys2Proof.Machine.execNodeRead xferOk s
  | .planWrite segs plan late => Sys2Proof.Machine.execPlanWrite segs plan late s
  | .deliverRx sram => Sys2Proof.Machine.execDeliverRx sram s
  | .macEnable m w => Sys2Proof.Machine.execMacEnable m w s
  | .commitTimer sram => Sys2Proof.Machine.execCommitTimer sram s
  | .groupDurable => Sys2Proof.Machine.execGroupDurable s
  | .journalStop m w => Sys2Proof.Machine.execJournalStop m w s
  | .journalIndexReady ms => Sys2Proof.Machine.execJournalIndexReady ms s
  | .readJournal q tag segs nodeset unreadable badTag xferOk sram => Sys2Proof.Machine.execReadJournal q tag segs nodeset unreadable badTag xferOk sram s
  | .jnlPin => Sys2Proof.Machine.execJnlPin s
  | .jnlUnpin => Sys2Proof.Machine.execJnlUnpin s
  | .jnlSeal => Sys2Proof.Machine.execJnlSeal s
  | .keyLoad buf => Sys2Proof.Machine.execKeyLoad buf s
  | .keyClear => Sys2Proof.Machine.execKeyClear s
  | .keyStat xferOk => Sys2Proof.Machine.execKeyStat xferOk s
  | .keyEnroll pub fuseOk => Sys2Proof.Machine.execKeyEnroll pub fuseOk s
  | .keyRevoke token fuseOk => Sys2Proof.Machine.execKeyRevoke token fuseOk s
  | .sessionOpen toolpub => Sys2Proof.Machine.execSessionOpen toolpub s
  | .sessionClose => Sys2Proof.Machine.execSessionClose s
  | .idCert xferOk => Sys2Proof.Machine.execIdCert xferOk s
  | .idAttest nonce => Sys2Proof.Machine.execIdAttest nonce s
  | .lcChallenge xferOk => Sys2Proof.Machine.execLcChallenge xferOk s
  | .lifeCycleAdvance token fuseOk midway => Sys2Proof.Machine.execLifeCycleAdvance token fuseOk midway s
  | .ledgerRecord journal ok => Sys2Proof.Machine.execLedgerRecord journal ok s
  | .rngHealthFail => Sys2Proof.Machine.execRngHealthFail s
  | .newtWordExecute n stall sram => Sys2Proof.Machine.execNewtWordExecute n stall sram s
  | .registerLoadComplete n err => Sys2Proof.Machine.execRegisterLoadComplete n err s
  | .mailboxOpComplete n => Sys2Proof.Machine.execMailboxOpComplete n s
  | .waitEnd n cycles => Sys2Proof.Machine.execWaitEnd n cycles s
  | .newtTimerExpiry n => Sys2Proof.Machine.execNewtTimerExpiry n s
  | .messageArrive => Sys2Proof.Machine.execMessageArrive s
  | .heldMessagePlace n => Sys2Proof.Machine.execHeldMessagePlace n s
  | .roleMove m w => Sys2Proof.Machine.execRoleMove m w s
  | .moveImageLoaded => Sys2Proof.Machine.execMoveImageLoaded s
  | .roleCommit m w => Sys2Proof.Machine.execRoleCommit m w s
  | .handoverTimeout => Sys2Proof.Machine.execHandoverTimeout s
  | .persistCopyDone => Sys2Proof.Machine.execPersistCopyDone s
  | .tokenTake m w => Sys2Proof.Machine.execTokenTake m w s
  | .tokenRelease m w => Sys2Proof.Machine.execTokenRelease m w s
  | .roleUnassign m w => Sys2Proof.Machine.execRoleUnassign m w s
  | .newtBoot m w => Sys2Proof.Machine.execNewtBoot m w s
  | .newtBootDone => Sys2Proof.Machine.execNewtBootDone s
  | .newtTest m w => Sys2Proof.Machine.execNewtTest m w s
  | .newtTestDone failed => Sys2Proof.Machine.execNewtTestDone failed s
  | .fholdExpiry role => Sys2Proof.Machine.execFholdExpiry role s
  | .adcTrigger src => Sys2Proof.Machine.execAdcTrigger src s
  | .adcTimerExpiry => Sys2Proof.Machine.execAdcTimerExpiry s
  | .adcConversionDone vin vref settled => Sys2Proof.Machine.execAdcConversionDone vin vref settled s
  | .readAdcResult m slot byte size => Sys2Proof.Machine.execReadAdcResult m slot byte size s
  | .comparatorTrip n => Sys2Proof.Machine.execComparatorTrip n s
  | .comparatorRelease n => Sys2Proof.Machine.execComparatorRelease n s
  | .comparatorDisable m n w => Sys2Proof.Machine.execComparatorDisable m n w s
  | .comparatorArmExpiry n => Sys2Proof.Machine.execComparatorArmExpiry n s
  | .flickClear m n w => Sys2Proof.Machine.execFlickClear m n w s
  | .pwmPeriodStart k => Sys2Proof.Machine.execPwmPeriodStart k s
  | .pwmEnable m k w => Sys2Proof.Machine.execPwmEnable m k w s
  | .gpioInputEdge k level => Sys2Proof.Machine.execGpioInputEdge k level s
  | .gpioOutWrite m w => Sys2Proof.Machine.execGpioOutWrite m w s
  | .gpioCfgWrite m k w => Sys2Proof.Machine.execGpioCfgWrite m k w s
  | .encoderEdge e a b cycles => Sys2Proof.Machine.execEncoderEdge e a b cycles s
  | .encoderIndex e => Sys2Proof.Machine.execEncoderIndex e s
  | .setpoint tag => Sys2Proof.Machine.execSetpoint tag s
  | .setpointApply tag => Sys2Proof.Machine.execSetpointApply tag s
  | .eventRaise p hop => Sys2Proof.Machine.execEventRaise p hop s
  | .swEvent m w => Sys2Proof.Machine.execSwEvent m w s
  | .rtcSecond => Sys2Proof.Machine.execRtcSecond s
  | .trimIntervalEnd => Sys2Proof.Machine.execTrimIntervalEnd s
  | .readTimeWord m which byte size => Sys2Proof.Machine.execReadTimeWord m which byte size s
  | .shadowTimeout m => Sys2Proof.Machine.execShadowTimeout m s
  | .countStage m w => Sys2Proof.Machine.execCountStage m w s
  | .countCommit m w => Sys2Proof.Machine.execCountCommit m w s
  | .calendarStage m w => Sys2Proof.Machine.execCalendarStage m w s
  | .calendarCommit m w => Sys2Proof.Machine.execCalendarCommit m w s
  | .dstBegin m w => Sys2Proof.Machine.execDstBegin m w s
  | .dstEnd m w => Sys2Proof.Machine.execDstEnd m w s
  | .alarmCommit m w => Sys2Proof.Machine.execAlarmCommit m w s
  | .alarmFire => Sys2Proof.Machine.execAlarmFire s
  | .periodicRestart m w => Sys2Proof.Machine.execPeriodicRestart m w s
  | .periodicFire => Sys2Proof.Machine.execPeriodicFire s
  | .vaoLoss => Sys2Proof.Machine.execVaoLoss s
  | .lehrRestart => Sys2Proof.Machine.execLehrRestart s
  | .prilockBlow m w => Sys2Proof.Machine.execPrilockBlow m w s
  | .vbakCheck mv => Sys2Proof.Machine.execVbakCheck mv s
  | .cflUnlock m w => Sys2Proof.Machine.execCflUnlock m w s
  | .cflSequenceWrite m reg w => Sys2Proof.Machine.execCflSequenceWrite m reg w s
  | .cflSequenceTimeout => Sys2Proof.Machine.execCflSequenceTimeout s
  | .programLine => Sys2Proof.Machine.execProgramLine s
  | .eraseSector => Sys2Proof.Machine.execEraseSector s
  | .flashOpDone => Sys2Proof.Machine.execFlashOpDone s
  | .programTimeout => Sys2Proof.Machine.execProgramTimeout s
  | .eraseTimeout => Sys2Proof.Machine.execEraseTimeout s
  | .eraseSuspend m w => Sys2Proof.Machine.execEraseSuspend m w s
  | .eraseResume m w => Sys2Proof.Machine.execEraseResume m w s
  | .readFlashWindow m off size ecc => Sys2Proof.Machine.execReadFlashWindow m off size ecc s
  | .spiWriteTransaction bytes => Sys2Proof.Machine.execSpiWriteTransaction bytes s
  | .spiReadTransaction clocked => Sys2Proof.Machine.execSpiReadTransaction clocked s
  | .svcHello => Sys2Proof.Machine.execSvcHello s
  | .svcInfo => Sys2Proof.Machine.execSvcInfo s
  | .svcRegrd => Sys2Proof.Machine.execSvcRegrd s
  | .svcRegwr => Sys2Proof.Machine.execSvcRegwr s
  | .svcFlrd ecc => Sys2Proof.Machine.execSvcFlrd ecc s
  | .svcFlprog okLines => Sys2Proof.Machine.execSvcFlprog okLines s
  | .svcFlerase ok => Sys2Proof.Machine.execSvcFlerase ok s
  | .svcFlashWaitTimeout => Sys2Proof.Machine.execSvcFlashWaitTimeout s
  | .svcNewtop => Sys2Proof.Machine.execSvcNewtop s
  | .svcKeycmd fuseOk => Sys2Proof.Machine.execSvcKeycmd fuseOk s
  | .svcRelease => Sys2Proof.Machine.execSvcRelease s
  | .readPmcCycl m n byte size => Sys2Proof.Machine.execReadPmcCycl m n byte size s
  | .pmcSampleClear m n w => Sys2Proof.Machine.execPmcSampleClear m n w s
  | .healthEvaluate bit => Sys2Proof.Machine.execHealthEvaluate bit s
  | .hltReady => Sys2Proof.Machine.execHltReady s
  | .selftestPeriod process => Sys2Proof.Machine.execSelftestPeriod process s
  | .faultedNewtTest n => Sys2Proof.Machine.execFaultedNewtTest n s
  | .healthLogProgram ok => Sys2Proof.Machine.execHealthLogProgram ok s
  | .smbAlertClear m w => Sys2Proof.Machine.execSmbAlertClear m w s
  | .alertResponse => Sys2Proof.Machine.execAlertResponse s
  | .smbRegwr count bytes pec => Sys2Proof.Machine.execSmbRegwr count bytes pec s
  | .smbRegrd count bytes => Sys2Proof.Machine.execSmbRegrd count bytes s
  | .smbBusTimeout => Sys2Proof.Machine.execSmbBusTimeout s
  | .sysrstnRelease => Sys2Proof.Machine.execSysrstnRelease s
  | .brownoutRailRecover rail => Sys2Proof.Machine.execBrownoutRailRecover rail s
  | .txSynthLockLoss => Sys2Proof.Machine.execTxSynthLockLoss s
  | .pcieLinkChange l faults => Sys2Proof.Machine.execPcieLinkChange l faults s

end Sys2Proof.Machine
end

