-- ==== Sys2Proof/Machine/Step.lean ====
section
/-! DEFINITION. One step: the oldest waiting command takes effect; with none waiting, one CK_RTC cycle passes. -/

namespace Sys2Proof.Machine

/-- Take the command at the front of the queue and run it. On an empty queue one CK_RTC cycle passes: the lehr's count and the
MAC timer go on, the things that move with no command (R255, R471, R472). DESIGN CHOICE (log 2). -/
def step (s : State) : Host.Outcome State Fault Refusal :=
  match s.pending with
  | [] => .next s.idleTick
  | c :: r => exec c { s with pending := r }

/-- Put the command that a table word spells at the front of the queue; s where the word spells none. -/
def State.withFetchWord (s : State) (nbits w : Nat) : State :=
  match decodeTableWord nbits w with
  | some c => { s with pending := c :: s.pending }
  | none => s

end Sys2Proof.Machine
end

