-- ==== Sys2Proof/Machine/Pins.lean ====
section
/-! DEFINITION. The levels of the balls that follow the state and have no register of their own (R44, R206, R223, R226,
R227, R553, R565): each is a function of the state. The process pads are `State.pad` of Machine/Events.lean. -/

namespace Sys2Proof.Machine

/-- A level as a driven pad. -/
def drive (high : Bool) : Pad := if high then .high else .low

/-- An open-drain ball: low, or released. -/
def openDrain (low : Bool) : Pad := if low then .low else .released 0

/-- A ball of the front-end controls: low in reset and in HUSH, high impedance in backup only, else as the chain drives it
(R44). -/
def State.frontEnd (high : Bool) (s : State) : Pad :=
  match s.power.phase with
  | .backup => .off
  | .por | .held => .low
  | .run => drive (s.d0up && s.pstate != 3 && high)

/-- SG_FEM_TXEN or RF24_FEM_TXEN: high from 2 µs after the strobe to 2 µs after the ramp down (R223, R226); low throughout a
calibration (R227). -/
def State.femTxen (c : Chain) (s : State) : Pad :=
  let x := s.chain c
  s.frontEnd (x.tx.isSome && !x.calRunning)

/-- SG_FEM_RXEN or RF24_FEM_RXEN: high while the chain may receive, low while it transmits (R223) or calibrates (R227). -/
def State.femRxen (c : Chain) (s : State) : Pad :=
  let x := s.chain c
  s.frontEnd (s.chainOn c && s.chainRx c && s.rxPowered && !s.power.afterHush && x.tx.isNone && !x.calRunning)

/-- SG_FEM_BYP: high on the lowest step of the gain (R206). -/
def State.femByp (s : State) : Pad := s.frontEnd (s.chainOn .subGhz && s.radio.gain == 0)

/-- SG_FEM_ANTSEL follows RFS_TXCFG.ANT (R223). -/
def State.femAntsel (s : State) : Pad := s.frontEnd (s.rb R.RFS_TXCFG 13)

/-- CLKREQn: released in reset, in DOZE, where it is watched for the wake, and in HUSH (R44); in RUN and IDLE as PCI Express
has it, PRESUMED (log 125): low unless the link is in L1.2 or L2/L3 Ready. -/
def State.clkreqn (s : State) : Pad :=
  match s.power.phase with
  | .backup => .off
  | .por | .held => .released 0
  | .run => openDrain (s.d0up && decide (s.pstate ≤ 1) && s.hri.link != .l12 && s.hri.link != .l2l3)

/-- SVC_SDO: driven only while SVC_CSn is low (R520, R574), which is within a transaction of one command; high impedance
otherwise, also in reset and in HUSH (R44). -/
def State.svcSdo (s : State) : Pad := if s.power.phase == .backup then .off else .released 0

/-- TDO: high impedance in reset and in HUSH (R44), else as IEEE 1149.1 has it: driven only while data is shifted, which no
command does. -/
def State.tdo (s : State) : Pad := if s.power.phase == .backup then .off else .released 0

/-- What the device puts on an encoder input: the 50 kΩ pull-down in reset, nothing in backup only (R44). PIO_ENCCFGn
configures no pull, so the other states leave the input floating. -/
def State.encoderInput (s : State) : Pad :=
  match s.power.phase with
  | .backup => .off
  | .por | .held => .released 1
  | .run => .released 0

/-- FLICKn is low for as long as an inhibit is active, also in reset and in HUSH (R44, R434); it is not driven in backup only
(R433). -/
def State.flickn (s : State) : Pad :=
  if s.power.phase == .backup then .off
  else openDrain ((List.range 4).any fun n => s.rb (R.PIO_CMP n) 21)

/-- SVC_ATTN: SVC_STAT.ATTN with the service port up, low in reset and in HUSH (R44). -/
def State.svcAttn (s : State) : Pad :=
  match s.power.phase with
  | .backup => .off
  | .por | .held => .low
  | .run => drive (!s.hushed && s.rb R.SVC_STAT 4)

/-- SMBALERTn (R85, R565): held in HUSH, released in reset. -/
def State.smbalertn (s : State) : Pad :=
  match s.power.phase with
  | .backup => .off
  | .por | .held => .released 0
  | .run => openDrain (!s.power.alertn)

/-- REPLACEn (R553): its latch in the lehr keeps the level through HUSH and every reset but a power-on reset. -/
def State.replacen (s : State) : Pad :=
  if s.power.phase == .backup then .off else openDrain (!s.power.replacen)

end Sys2Proof.Machine
end

