-- ==== Sys2Proof/WellFormed.lean ====
section
/-! DEFINITION. The ranges of operands that their types leave open: what the outside can send or the hardware find. -/

namespace Sys2Proof

/-- A frame's octets as a receiver can hand them over: a PSDU of at most 2,047 octets, its FCS of two or four among them
(R203, R215). -/
def MacFrame.wf (f : MacFrame) : Bool :=
  decide (f.body.length + f.mic.length + 2 ≤ 2047) && decide (f.mic.length ≤ 16)

/-- MODE as R216 codes it for a receiver, whose PHY has no other (R202). -/
def modeWf (ch : RxChan) (mode : Byte) : Bool :=
  match ch with
  | .ghz24 => mode == 0x50
  | .lead _ => decide (1 ≤ mode.toNat / 16) && decide (mode.toNat / 16 ≤ 4) && decide (mode.toNat % 16 ≤ 6)

/-- A received frame's octets, MODE and RSSI (R203, R216). -/
def RxFrame.wf (f : RxFrame) : Bool :=
  f.frame.wf && modeWf f.ch f.mode && decide (-560 ≤ f.rssi.toInt) && decide (f.rssi.toInt ≤ 40)

/-- A decode's result names the receiver that made it. -/
def Decode.wf (ch : RxChan) : Decode → Bool
  | .ok f => decide (f.ch = ch) && f.wf
  | _ => true

/-- Segments hold at least one entry (R118). -/
def Segs.wf (l : Segs) : Bool := l.all fun gs => gs.all fun g => !g.isEmpty && decide (g.length ≤ 256)

/-- A NAND location as a map entry can name it: DIE 0 to 4, BLOCK 0 to 5,503, PAGE 0 to 1,535 (R169, R174). -/
def locWf (l : Nat) : Bool :=
  decide (l / 2 ^ 26 < 5) && decide (l / 8192 % 8192 < 5504) && decide (l / 4 % 2048 < 1536)

/-- A unit that is moved: an NS1 block, or one of the journal or the metadata by its ADDR (R170, R191). -/
def unitWf (u : Nat) : Bool := decide (u < 93750000) || (decide (2 ^ 27 ≤ u) && decide (u < 2 ^ 29))

/-- Moves of units to locations. -/
def movesWf (l : List (Nat × Nat)) : Bool := l.all fun m => unitWf m.1 && locWf m.2

/-- An access of 1 to 8 bytes that ends below `top` (R4). -/
def accessWf (addr size top : Nat) : Bool :=
  decide (addr + size ≤ top) && decide (1 ≤ size) && decide (size ≤ 8)

/-- A space, or the read of one. -/
def Space.wf : Space → Bool
  | .readOf (.readOf _) => false
  | _ => true

/-- Only the host reaches the spaces beside BAR0 (R100). -/
def spaceWf (m : Master) (space : Space) : Bool := space == .bar0 || (m == .host && space.wf)

/-- Operands in range; every operand not named here has the range of its type. -/
def Instr.wf : Instr → Bool
  | .registerStore m space addr size _ => spaceWf m space && accessWf addr size 0x1000000
  | .submissionBell off size _ => accessWf off size 0x10000
  | .completionBell off size _ => accessWf off size 0x10000
  | .sramScrub (.mapDirty first) _ => decide (first < 93750000)
  | .contextBell off size _ reads => accessWf off size 0x10000 && decide (reads.length ≤ 37)
  | .getLogPage segs _ => segs.wf
  | .readBlocks _ _ segs outs _ _ => segs.wf && decide (outs.length ≤ 1024)
  | .writeBlocks _ _ segs data _ _ => segs.wf && data.all fun l => decide (l.length ≤ 1024)
  | .unitCommit _ locs => decide (locs.length ≤ 32) && locs.all locWf
  | .foldBegin moves => movesWf moves
  | .releaseFold lba target _ _ => unitWf lba && locWf target
  | .gcStart moves => movesWf moves
  | .scanRefresh _ block => decide (block < 5504)
  | .blockRetire _ block repl => decide (block < 5504) && repl.all fun b => decide (b < 5504)
  | .mapRebuild first _ => decide (first < 93750000)
  | .frameDecoded ch r => r.wf ch
  | .sendFrame _ segs frame _ => segs.wf && frame.all MacFrame.wf
  | .planWrite segs plan _ => segs.wf && plan.all fun l => decide (l.length ≤ 6000)
  | .readJournal _ _ segs _ reads _ _ _ => segs.wf && reads.all fun c => decide (c.1 < 3906250)
  | .adcConversionDone _ vref _ => decide (900000 ≤ vref ∧ vref ≤ 1100000)
  | .readAdcResult _ _ byte size => accessWf byte.val size 8
  | .readTimeWord _ _ byte size => accessWf byte.val size 8
  | .readPmcCycl _ _ byte size => accessWf byte.val size 8
  | .eventRaise _ hop => decide (hop < 16)
  | .readFlashWindow _ off size _ => accessWf off size 32768
  | .spiWriteTransaction bytes => decide (1 ≤ bytes.length)
  | .svcFlprog okLines => decide (okLines ≤ 256)
  | .smbRegwr _ bytes _ => decide (bytes.length ≤ 255)
  | .smbRegrd _ bytes => decide (bytes.length ≤ 255)
  | .adcTrigger (.task hop) => decide (hop < 16)
  | _ => true

end Sys2Proof
end

