-- ==== Sys2Proof/Safety.lean ====
section
/-! DEFINITION. What a sound state is, and the words the statements use: the canonical form of the tables behind the
registers and memories, the parts of a state, what each command may change, what a device reset leaves. -/

namespace Sys2Proof.Machine

/-- A read of one byte of the gather, of what the device has written to host memory, of code flash. -/
def State.gatherByte (s : State) (a : Nat) : Byte := tget (fun _ => 0) s.gather a
def State.hostByte (s : State) (a : Nat) : Option Byte := tfind a s.hri.hostMem

/-- Host memory as the device wrote it is listed by rising address, once each. -/
def hostMemWf (m : List Host.Cell) : Bool := tsorted m

/-- The registers, the gather and the flash array are in canonical form, host memory is in order. -/
def State.memWf (s : State) : Bool :=
  twf resetVal s.regs && twf (fun _ => (0 : Byte)) s.gather && twf (fun _ => (0xFF : Byte)) s.flash.bytes &&
    hostMemWf s.hri.hostMem

/-- The queue holds commands the outside can send. -/
def State.queueWf (s : State) : Bool := s.pending.all Instr.wf

/-- A command completes: exec answers a next state, of which `p` holds. -/
def Answers (c : Instr) (s : State) (p : State → Prop) : Prop := ∃ t, exec c s = .next t ∧ p t

/-- A master's access of a register arrives: its side is up, and nothing makes it wait: the die
link is up where it crosses it (R16), and no earlier access of its master waits (R11). -/
def State.reaches (s : State) (m : Master) (a : Nat) : Bool := s.masterUp m && !s.mustWait m a 4

/-- The address that byte j of a buffer has, its ranges one after another. -/
def bufAddr : List (Nat × Nat) → Nat → Option Nat
  | [], _ => none
  | (a, n) :: r, j => if j < n then some (a + j) else bufAddr r (j - n)

/-- The moves of a word that do something: nul destinations apart (R363 to R365). -/
def movesOf (w : BitVec 128) : List Move' :=
  ((decodeSlots 0 (slots w)).filterMap (·.2)).filter fun m => m.dst != 0x3FF

/-- Every slot of a word decodes. -/
def wordLegal (w : BitVec 128) : Bool := (decodeSlots 0 (slots w)).all fun d => d.2.isSome

/-- A newt is about to run word w with no result in flight, the redirect p due after it. -/
abbrev State.atWord (s : State) (n : Nat) (w : BitVec 128) (p : Option Redirect) : Prop :=
  s.run n = 0 ∧ s.d0up = true ∧ s.newtGated n = false ∧ (s.newt n).gath = [] ∧ (s.newt n).landing = [] ∧
    (s.newt n).pend0 = p ∧ (s.newt n).pc < 0x10000 ∧ tget (fun _ => 0) (s.newt n).imem ((s.newt n).pc / 16) = w

/-- The value a move reads, a byte of a newt's data memory, what a stopped newt shows of its fault (R398). -/
def State.moveVal (s : State) (n : Nat) (m : Move') : Word := (s.source n m).v
def Newt.byte (x : Newt) (a : Nat) : Byte := tget (fun _ => 0) x.dmem a
def State.faultOf (s : State) (n : Nat) : Nat × Nat × Nat × Nat :=
  (s.run n, s.rf (R.NWT_CST n) 6 3, s.rf (R.NWT_CST n) 8 7, s.rf (R.NWT_FPC n) 15 0)

/-- What a shadow set holds for a time word (R473). -/
def Shadow.word (x : Shadow) : TimeWord → Word
  | .cnt0 => x.cnt0
  | .cnt1 => x.cnt1
  | .cal0 => x.cal0
  | .cal1 => x.cal1

/-- What the tool sends for a CMD with header h and payload p: the kind byte, the frame, its CRC, bytes after it. -/
def cmdFrame (h p r : List Byte) : List Byte := 0x4B :: (h ++ p ++ leBytes 4 (crc32 (h ++ p)).toNat ++ r)

/-- The key request that a KEYCMD's payload carries (R345, R529). -/
def keycmdReq (p : List Byte) (fuseOk resumed : Bool) : KeyReq :=
  { op := arg p 4 1, spec := arg p 8 16, dptr := if (p.drop 24).isEmpty then 2 else 1, buf := some (p.drop 24)
    svc := true, fuseOk, midway := true, resumed }

/-! ### Frames -/

/-- The parts of a state apart from its registers and its queue. -/
inductive Part where
  | hri | store | radio | mac | jnl | keys | newts | gather | roles | pio | lehr | power | flash | svc | link | health
  | cycLatch | answers | free
  deriving DecidableEq, Repr

/-- A part has not changed. -/
def Part.same (s t : State) : Part → Prop
  | .hri => t.hri = s.hri
  | .store => t.store = s.store
  | .radio => t.radio = s.radio
  | .mac => t.mac = s.mac
  | .jnl => t.jnl = s.jnl
  | .keys => t.keys = s.keys
  | .newts => t.newts = s.newts
  | .gather => t.gather = s.gather
  | .roles => t.roles = s.roles
  | .pio => t.pio = s.pio
  | .lehr => t.lehr = s.lehr
  | .power => t.power = s.power
  | .flash => t.flash = s.flash
  | .svc => t.svc = s.svc
  | .link => t.link = s.link
  | .health => t.health = s.health
  | .cycLatch => t.cycLatch = s.cycLatch
  | .answers => t.answers = s.answers
  | .free => t.free = s.free

/-- A set of registers, by their offsets: one, those of an array, of an array of two indices, every one that holds a
BADVAL bit (R4), all. -/
abbrev RegSet : Type := Nat → Prop
def one (r : Nat) : RegSet := fun a => a = r
def each (f : Nat → Nat) : RegSet := fun a => ∃ n, a = f n
def each2 (f : Nat → Nat → Nat) : RegSet := fun a => ∃ n k, a = f n k
def badvalReg : RegSet := fun a => ∃ b i, badvalOf b = some (a, i)
def anyReg : RegSet := fun _ => True

/-- The registers that an event can change through the matrix (R456 to R463): channels, merges and time stamps, task
inputs of process I/O, what newts count of it (R540), and the event ring's own status. -/
def matrixRegs : List RegSet :=
  [each R.EVM_CCTL, each R.EVM_MERGED, one R.EVM_STAT, each R.EVM_TS, each R.PIO_ENCCAP, each R.PIO_PWMCFG,
    each R.PIO_PWMDUTY, one R.PIO_STAT, each2 R.PMC_CNT, each R.PMC_OVF, one R.HRI_STAT]

/-- The registers that a wake cause can change (R84, R87). -/
def wakeRegs : List RegSet := [one R.PWR_STAT, one R.PWR_WAKEST, one R.SMB_STAT]

/-- Every part but the read answers and the counter of free values. -/
def allParts : List Part :=
  [.hri, .store, .radio, .mac, .jnl, .keys, .newts, .gather, .roles, .pio, .lehr, .power, .flash, .svc, .link, .health,
    .cycLatch]

/-- What a command may change: parts of the state, and registers. A command that may reset the device, or write
whatever register an operand names, may change any register. -/
def touches : Instr → List Part × List RegSet
  | .registerStore _ _ _ _ _ | .dieLinkTrained | .dieLinkHoldTimeout | .flashOpDone | .programTimeout =>
    (allParts ++ [.answers, .free], [anyReg])
  | .dieLinkFlitRepeat _ _ _ | .hushEntry | .pwrReqRun _ _ | .pwrReqDoze _ _ | .pwrReqHush _ _ |
    .registerLoadComplete _ _ | .smbRegwr _ _ _ | .perstnAssert | .dozeEntry | .svcRegwr | .svcNewtop =>
    (allParts ++ [.free], [anyReg])
  | .sramScrub _ _ =>
    ([.hri, .store, .mac, .jnl, .keys, .newts, .roles, .pio, .power, .free], wakeRegs ++ [one R.GLB_STAT,
      one R.HRI_STAT, one R.STO_RGLEFT, one R.JNL_STAT, one R.JNL_CLSEQ, one R.JNL_OLDEST, one R.JNL_PINS,
      one R.JNL_LOST, one R.CIP_STAT, each R.NWT_ROLE, one R.NWT_STAT, each R.NWT_CST, each R.NWT_FPC,
      each2 R.EVM_CMASK, one R.CFL_STAT, each R.PMC_OVF, each R.PMC_SCTL, each2 R.PMC_CNT, one R.HLT_STAT])
  | .cdclostClear _ _ =>
    ([.hri, .link], [one R.CLK_CDCLOST])
  | .strapSample _ =>
    ([.power], [one R.RST_STAT, one R.RST_STRAP, one R.STO_STAT, one R.KEY_LCS, one R.KEY_STAT, each R.PIO_OUT,
      one R.CFL_STAT, one R.SVC_STAT, one R.HLT_STAT, one R.SMB_STAT])
  | .pornAssert | .vddio33Fall | .sysrstnAssert | .brownout _ | .clockFail | .pllLockLoss _ | .sequenceError _ _ |
    .vddio33PathClose | .watchdogWarn | .watchdogReset | .watchdogKick _ _ | .softwareReset _ _ =>
    (allParts, [anyReg])
  | .pornRelease =>
    ([.power], [one R.PWR_STAT, one R.RST_CAUSE])
  | .vddio33Rise | .chargerResume | .trimIntervalEnd | .shadowTimeout _ | .vaoLoss =>
    ([.lehr], [])
  | .radioRailFall _ | .txSynthLockLoss =>
    ([.hri, .radio, .mac], [one R.HRI_STAT, one R.RFS_STAT, one R.RFS_CAL, one R.RF2_STAT])
  | .radioRailRecover _ =>
    ([.radio, .power], [one R.PWR_STAT, one R.RFS_STAT, one R.RFS_CAL])
  | .ckrefQualified =>
    ([.mac, .power], [one R.PWR_STAT])
  | .pllLock _ | .sysrstnRelease | .brownoutRailRecover _ =>
    ([.power], [one R.PWR_STAT])
  | .xtalFail | .xtalRecover =>
    ([.lehr], [one R.RST_STAT])
  | .perstnRelease =>
    ([.hri, .power], wakeRegs)
  | .sramWipeDone =>
    ([], [one R.RST_STAT])
  | .dramTrainingDone | .tcxoSettleExpiry =>
    ([.power], [])
  | .dramWipeDone =>
    ([.hri, .radio, .mac, .free], [anyReg])
  | .memrdySet =>
    ([.gather], [one R.PWR_STAT])
  | .logrdyRelease =>
    ([.hri, .radio, .mac, .newts, .roles, .pio, .power, .free], [anyReg])
  | .bootComplete =>
    ([.hri, .keys, .newts, .roles, .lehr, .power, .flash, .health, .free], [one R.PWR_STAT, one R.RST_STAT,
      one R.HRI_STAT, one R.CIP_STAT, one R.KEY_LCS, one R.KEY_STAT, each R.NWT_ROLE, each R.NWT_CST,
      each R.NWT_FPC, one R.CFL_STAT, one R.HLT_CNT])
  | .idleEntry =>
    ([], [one R.PWR_STAT])
  | .wakeArrives _ _ | .smbusHushMatch _ =>
    ([.power], wakeRegs)
  | .imageReloadDone _ =>
    ([.hri, .newts, .roles, .pio, .power], [one R.GLB_STAT, one R.PWR_STAT, one R.RST_STAT, one R.HRI_STAT,
      each R.NWT_ROLE, each R.NWT_CST, each R.NWT_FPC])
  | .functionLevelReset =>
    ([.hri, .store, .radio, .mac, .newts, .roles, .pio, .svc, .free], [anyReg])
  | .pciPowerStateChange _ | .eventRingDrain | .createQueue _ | .getLogPage _ _ | .nodeRead _ =>
    ([.hri], [one R.HRI_STAT])
  | .submissionBell _ _ _ | .completionBell _ _ _ =>
    ([.hri, .answers, .free], [one R.PWR_STAT, one R.HRI_STAT])
  | .contextBell _ _ _ _ =>
    ([.hri, .answers], [one R.PWR_STAT, one R.HRI_STAT])
  | .entryFetch _ _ =>
    ([.hri, .free], [one R.PWR_STAT, one R.HRI_STAT])
  | .coalesceTimerExpiry _ | .msixUnmask _ | .flush _ _ | .pcieLinkChange _ _ =>
    ([.hri], [])
  | .deleteQueue =>
    ([.hri, .radio], [one R.HRI_STAT])
  | .queueReset =>
    ([.hri, .store, .mac, .free], [one R.HRI_STAT, one R.STO_RGLEFT])
  | .hriEnable _ _ | .hriDisable _ =>
    ([.hri, .store, .radio, .mac, .newts, .roles, .pio, .svc, .link, .free], matrixRegs ++ [one R.HRI_CTL,
      one R.STO_RGLEFT, one R.PIO_GPIOOUT, each R.PIO_SP, one R.PIO_SPNEW])
  | .readBlocks _ _ _ _ _ _ | .readJournal _ _ _ _ _ _ _ _ =>
    ([.hri, .store, .free], [one R.GLB_STAT, one R.PWR_VETOD, one R.HRI_STAT, one R.STO_STAT, one R.STO_RGTOTAL,
      one R.STO_RGLEFT])
  | .writeBlocks _ _ _ _ _ _ =>
    ([.hri, .store, .free], [one R.GLB_STAT, one R.HRI_STAT, one R.STO_STAT])
  | .trim _ _ =>
    ([.hri, .store, .free], [one R.HRI_STAT, one R.STO_STAT, one R.STO_RGLEFT])
  | .flushComplete _ _ =>
    ([.hri, .store], [one R.HRI_STAT])
  | .unitCommit _ _ =>
    ([.store], [one R.STO_RGLEFT, one R.STO_HEALTH])
  | .foldBegin _ =>
    ([.store], [one R.STO_HEALTH])
  | .releaseFold _ _ _ _ | .checkpointStart | .checkpointDone =>
    ([.store], [one R.STO_RGLEFT])
  | .gcStart _ =>
    ([.store], [one R.PWR_VETOD, one R.STO_RGTOTAL, one R.STO_RGLEFT, one R.STO_HEALTH])
  | .scanRefresh _ _ =>
    ([.store], [])
  | .blockRetire _ _ _ =>
    ([.hri, .store], [one R.PWR_VETOD, one R.HRI_STAT, one R.STO_STAT, one R.STO_RGTOTAL, one R.STO_RGLEFT,
      one R.STO_HEALTH])
  | .mapRebuild _ _ =>
    ([.hri, .store, .free], [one R.GLB_STAT, one R.HRI_STAT])
  | .storeReady _ _ _ =>
    ([.hri, .store, .jnl, .keys, .free], [one R.PWR_VETOD, one R.HRI_STAT, one R.STO_STAT, one R.STO_RGTOTAL,
      one R.STO_RGLEFT, one R.STO_HEALTH, one R.JNL_CSEQ, one R.JNL_CLSEQ, one R.JNL_OLDEST, one R.JNL_PINS,
      one R.CIP_STAT, one R.KEY_LCS, one R.KEY_STAT, one R.HLT_EVER, one R.HLT_CNT])
  | .mapScanned _ =>
    ([.store], [one R.PWR_VETOD, one R.STO_STAT, one R.STO_RGTOTAL, one R.STO_RGLEFT])
  | .nandTimeout _ =>
    ([.hri, .store], [one R.PWR_VETOD, one R.HRI_STAT, one R.STO_STAT, one R.STO_RGTOTAL, one R.STO_RGLEFT])
  | .stoRetire _ _ =>
    ([.hri, .store, .link], [one R.PWR_VETOD, one R.HRI_STAT, one R.STO_STAT, one R.STO_CTL, one R.STO_RGTOTAL,
      one R.STO_RGLEFT])
  | .regrowthDone _ =>
    ([.hri, .store], [one R.PWR_VETOD, one R.HRI_STAT, one R.STO_STAT])
  | .pfailnFall =>
    ([.power], [one R.STO_STAT])
  | .pfailnRise _ =>
    ([.hri, .store, .jnl, .keys, .power, .free], [one R.HRI_STAT, one R.STO_STAT, one R.STO_RGTOTAL, one R.STO_RGLEFT,
      one R.JNL_OLDEST, one R.JNL_PINS, one R.CIP_STAT, one R.KEY_LCS, one R.KEY_STAT])
  | .rfsApply _ _ =>
    ([.hri, .radio, .link], [one R.HRI_STAT, one R.RFS_STAT, one R.RFS_WIN, one R.RFS_CAL, each R.RFS_TYMCFG,
      each R.RFS_TYMCNT])
  | .applyTakesEffect _ =>
    ([.radio], [one R.RFS_STAT, one R.RFS_CAL, each R.RFS_TYMCNT])
  | .rxRelockDone | .blankingEnd _ | .calWakeTimeout | .calNoschedTimeout _ =>
    ([.radio], [one R.RFS_STAT, one R.RFS_CAL])
  | .detectionStart _ | .qualifierPass _ | .agcStep _ | .energyDetect _ =>
    ([.radio], [])
  | .falseDetection _ =>
    ([.radio], [one R.RFS_STAT, one R.RFS_CAL, each R.RFS_TYMCNT, one R.RF2_STAT])
  | .frameDecoded _ _ =>
    ([.radio, .mac], [one R.RFS_STAT, one R.RFS_CAL, each R.RFS_TYMCNT])
  | .energyDetectDone _ _ =>
    ([.hri, .radio, .mac, .free], [one R.HRI_STAT, each R.MAC_CNT])
  | .startStrobe _ _ _ =>
    ([.hri, .radio, .mac, .keys, .power, .free], [one R.HRI_STAT, one R.RFS_STAT, one R.RF2_STAT, one R.MAC_STAT,
      each R.MAC_CNT, one R.CIP_STAT, one R.CIP_CNT])
  | .txRampDownEnd _ =>
    ([.hri, .radio, .mac, .newts, .roles, .pio], matrixRegs ++ [one R.RFS_STAT, one R.RFS_CAL, one R.RF2_STAT,
      each R.MAC_CNT])
  | .txcfgModeWrite _ _ =>
    ([.hri, .link], [one R.HRI_STAT, one R.RFS_STAT, one R.RFS_TXCFG])
  | .firTableWrite _ _ _ =>
    ([.hri, .link], [one R.RFS_STAT, one R.RFS_TXCFG, each R.RFS_FIR, each R.RFS_MASK, badvalReg])
  | .rfsCtlEn _ _ =>
    ([.hri, .radio, .link], [one R.RFS_CTL, one R.RFS_STAT, one R.RFS_CAL])
  | .rf2CtlEn _ _ | .rf2ChChange _ _ =>
    ([.hri, .radio, .link], [one R.RFS_STAT, one R.RFS_CAL, one R.RF2_CTL, one R.RF2_STAT])
  | .calReqrx _ _ | .calReqtx _ _ =>
    ([.hri, .radio, .link], [one R.RFS_STAT, one R.RFS_CAL])
  | .tempSample _ =>
    ([.hri, .radio, .health], [one R.HRI_STAT, one R.RFS_STAT, one R.RFS_CAL, one R.RFS_CALSTAT, one R.HLT_CNT])
  | .calComplete _ _ =>
    ([.hri, .radio], [one R.HRI_STAT, one R.RFS_STAT, one R.RFS_CAL, one R.RFS_CALSTAT, one R.RFS_PCLAMP,
      one R.HLT_CNT])
  | .handleFrame _ _ =>
    ([.hri, .store, .radio, .mac, .jnl, .keys, .newts, .roles, .pio, .power, .free], matrixRegs ++ wakeRegs ++
      [one R.GLB_STAT, one R.STO_RGLEFT, one R.JNL_STAT, one R.JNL_CLSEQ, one R.JNL_OLDEST, one R.JNL_PINS,
      one R.JNL_LOST, each R.RFS_TYMCFG, each R.RFS_TYMCNT, one R.MAC_STAT, each R.MAC_CNT, one R.CIP_STAT,
      one R.CIP_CNT])
  | .slotStart =>
    ([.hri, .radio, .mac, .keys, .newts, .roles, .pio, .free], matrixRegs ++ [one R.RFS_STAT, one R.RFS_CAL,
      each R.RFS_TYMCFG, each R.RFS_TYMCNT, one R.MAC_STAT, one R.MAC_SCHED, one R.CIP_STAT, one R.CIP_CNT])
  | .slotEnd =>
    ([.hri, .store, .mac, .jnl, .keys], [one R.HRI_STAT, one R.STO_RGLEFT, one R.JNL_STAT, one R.JNL_CLSEQ,
      one R.JNL_OLDEST, one R.JNL_PINS, one R.JNL_LOST, one R.MAC_STAT, one R.CIP_STAT])
  | .parentAdriftExpiry =>
    ([.hri, .radio, .mac], [one R.HRI_STAT, each R.RFS_TYMCFG, each R.RFS_TYMCNT, one R.MAC_STAT])
  | .ackWaitTimeout _ =>
    ([.hri, .mac, .free], [one R.HRI_STAT, each R.MAC_CNT])
  | .lbtBackoffExpiry _ _ =>
    ([.radio, .mac], [])
  | .sendFrame _ _ _ _ =>
    ([.hri, .mac, .power, .free], [one R.GLB_STAT, one R.HRI_STAT, one R.MAC_STAT])
  | .nodeWrite _ | .nodeInvalidate | .planWrite _ _ _ =>
    ([.hri, .mac], [one R.HRI_STAT])
  | .deliverRx _ =>
    ([.hri], [one R.GLB_STAT, one R.HRI_STAT])
  | .macEnable _ _ =>
    ([.hri, .radio, .mac, .link], [one R.HRI_STAT, one R.RFS_STAT, one R.RFS_CAL, each R.RFS_TYMCFG,
      each R.RFS_TYMCNT, one R.MAC_CTL, one R.MAC_STAT])
  | .commitTimer _ =>
    ([.hri, .store, .jnl, .keys, .power, .free], wakeRegs ++ [one R.GLB_STAT, one R.HRI_STAT, one R.STO_RGLEFT,
      one R.JNL_STAT, one R.JNL_CLSEQ, one R.JNL_OLDEST, one R.JNL_PINS, one R.JNL_LOST, one R.CIP_STAT])
  | .groupDurable =>
    ([.hri, .store, .jnl, .newts, .roles, .pio], matrixRegs ++ [one R.JNL_CSEQ])
  | .journalStop _ _ =>
    ([.hri, .jnl, .keys, .link], [one R.HRI_STAT, one R.JNL_CTL, one R.JNL_STAT, one R.CIP_STAT])
  | .journalIndexReady _ =>
    ([.hri], [one R.HRI_STAT, one R.JNL_STAT])
  | .jnlPin | .jnlUnpin =>
    ([.hri, .jnl], [one R.HRI_STAT, one R.JNL_CLSEQ, one R.JNL_OLDEST, one R.JNL_PINS])
  | .jnlSeal =>
    ([.hri, .jnl, .keys], [one R.HRI_STAT, one R.CIP_STAT])
  | .keyLoad _ | .keyClear | .keyStat _ | .keyEnroll _ _ | .keyRevoke _ _ | .sessionOpen _ | .sessionClose | .idCert _ |
    .idAttest _ | .lcChallenge _ | .lifeCycleAdvance _ _ _ =>
    ([.hri, .store, .radio, .mac, .jnl, .keys, .newts, .roles, .pio, .svc, .free], matrixRegs ++ [one R.HRI_CTL,
      one R.STO_RGTOTAL, one R.STO_RGLEFT, one R.JNL_OLDEST, one R.JNL_PINS, one R.CIP_STAT, one R.KEY_LCS,
      one R.KEY_STAT, one R.PIO_GPIOOUT, each R.PIO_SP, one R.PIO_SPNEW])
  | .ledgerRecord _ _ =>
    ([.keys], [one R.CIP_STAT])
  | .rngHealthFail =>
    ([], [one R.CIP_STAT])
  | .newtWordExecute _ _ _ =>
    ([.hri, .newts, .gather, .roles, .pio, .power], matrixRegs ++ wakeRegs ++ [one R.GLB_STAT, each R.NWT_ROLE,
      one R.NWT_STAT, each R.NWT_CST, each R.NWT_FPC, each2 R.EVM_CMASK, one R.CFL_STAT, each R.PMC_SCTL,
      one R.HLT_STAT])
  | .mailboxOpComplete _ =>
    ([.newts, .roles], [each R.PMC_OVF, each R.PMC_SCTL, each2 R.PMC_CNT])
  | .waitEnd _ _ =>
    ([.hri, .newts, .roles, .pio, .power], wakeRegs ++ [one R.HRI_STAT, each R.NWT_ROLE, one R.NWT_STAT,
      each R.NWT_CST, each R.NWT_FPC, each2 R.EVM_CMASK, one R.CFL_STAT, each R.PMC_OVF, each R.PMC_SCTL,
      each2 R.PMC_CNT, one R.HLT_STAT])
  | .newtTimerExpiry _ =>
    ([.newts], [each R.PMC_OVF, each2 R.PMC_CNT])
  | .messageArrive | .heldMessagePlace _ =>
    ([.hri, .newts, .roles, .power], wakeRegs ++ [one R.HRI_STAT, one R.NWT_STAT, each R.PMC_OVF, each2 R.PMC_CNT])
  | .roleMove _ _ | .roleCommit _ _ | .tokenTake _ _ | .tokenRelease _ _ | .roleUnassign _ _ | .newtBoot _ _ |
    .newtTest _ _ =>
    ([.hri, .newts, .roles, .pio, .power, .link], wakeRegs ++ [one R.HRI_STAT, each R.NWT_ROLE, one R.NWT_STAT,
      each R.NWT_CST, each R.NWT_FPC, each2 R.EVM_CMASK, one R.CFL_STAT, each R.PMC_OVF, each2 R.PMC_CNT,
      one R.HLT_STAT])
  | .moveImageLoaded | .handoverTimeout =>
    ([.hri, .newts, .roles, .pio, .power], wakeRegs ++ [one R.HRI_STAT, each R.NWT_ROLE, one R.NWT_STAT,
      each R.NWT_CST, each R.NWT_FPC, each2 R.EVM_CMASK, one R.CFL_STAT, each R.PMC_OVF, each2 R.PMC_CNT,
      one R.HLT_STAT])
  | .persistCopyDone =>
    ([.roles, .flash], [one R.CFL_STAT])
  | .newtBootDone =>
    ([.hri, .newts, .roles, .pio], [one R.HRI_STAT, each R.NWT_ROLE, one R.NWT_STAT, each R.NWT_CST, each R.NWT_FPC,
      one R.HLT_STAT])
  | .newtTestDone _ =>
    ([.hri, .newts, .roles, .pio], [one R.HRI_STAT, each R.NWT_ROLE, one R.NWT_STAT, one R.NWT_BASK, each R.NWT_CST,
      each R.NWT_FPC, one R.HLT_STAT])
  | .fholdExpiry _ =>
    ([.hri, .roles, .pio], [one R.HRI_STAT])
  | .adcTrigger _ =>
    ([.hri, .pio, .link], [one R.HRI_STAT, one R.PIO_STAT, one R.PIO_ADCSEQ])
  | .adcTimerExpiry =>
    ([.hri, .pio], [one R.HRI_STAT, one R.PIO_STAT])
  | .adcConversionDone _ _ _ =>
    ([.hri, .newts, .roles, .pio, .free], matrixRegs ++ [each R.PIO_ADCRES])
  | .readAdcResult _ _ _ _ | .readTimeWord _ _ _ _ | .readFlashWindow _ _ _ _ | .readPmcCycl _ _ _ _ =>
    ([.hri, .roles, .lehr, .flash, .link, .cycLatch, .answers], [each R.PIO_ADCRES, one R.CFL_STAT, one R.CFL_ECC,
      one R.PMC_STAT])
  | .comparatorTrip _ =>
    ([.hri, .newts, .roles, .pio, .power], matrixRegs ++ wakeRegs ++ [each R.PIO_CMP, one R.PIO_CMPBAK])
  | .comparatorRelease _ =>
    ([.hri, .newts, .roles, .pio], matrixRegs ++ [each R.PIO_CMP])
  | .comparatorDisable _ _ _ | .flickClear _ _ _ =>
    ([.hri, .pio, .link], [one R.HRI_STAT, one R.PIO_STAT, each R.PIO_CMP, badvalReg])
  | .comparatorArmExpiry _ =>
    ([.pio], [])
  | .pwmPeriodStart _ | .eventRaise _ _ =>
    ([.hri, .newts, .roles, .pio], matrixRegs)
  | .pwmEnable _ _ _ =>
    ([.hri, .newts, .roles, .pio, .link], matrixRegs ++ [badvalReg])
  | .gpioInputEdge _ _ =>
    ([.hri, .newts, .roles, .pio, .power], matrixRegs ++ wakeRegs)
  | .gpioOutWrite _ _ =>
    ([.hri, .roles, .link], [one R.NWT_STAT, one R.PIO_GPIOOUT])
  | .gpioCfgWrite _ _ _ =>
    ([.hri, .roles, .pio, .link], [one R.HRI_STAT, one R.PIO_STAT, each R.PIO_GPIOCFG, badvalReg])
  | .encoderEdge _ _ _ _ =>
    ([.hri, .newts, .roles, .pio], matrixRegs ++ [each R.PIO_ENCPOS, each R.PIO_ENCPER])
  | .encoderIndex _ =>
    ([.hri, .newts, .roles, .pio], matrixRegs ++ [each R.PIO_ENCPOS])
  | .setpoint _ | .setpointApply _ =>
    ([.hri, .newts, .roles, .pio], matrixRegs ++ [one R.PIO_GPIOOUT, each R.PIO_SP, one R.PIO_SPNEW])
  | .swEvent _ _ =>
    ([.hri, .newts, .roles, .pio, .link], matrixRegs)
  | .rtcSecond =>
    ([.hri, .mac, .newts, .roles, .pio, .lehr], matrixRegs)
  | .countStage _ _ | .calendarStage _ _ =>
    ([.hri, .lehr, .link], [])
  | .countCommit _ _ | .calendarCommit _ _ =>
    ([.hri, .jnl, .keys, .newts, .roles, .pio, .lehr, .link], matrixRegs ++ [one R.CIP_STAT, one R.PIO_GPIOOUT,
      each R.PIO_SP, one R.PIO_SPNEW, one R.LEHR_STAT])
  | .dstBegin _ _ | .dstEnd _ _ | .prilockBlow _ _ =>
    ([.hri, .keys, .lehr, .link], [one R.LEHR_STAT, one R.LEHR_CTL, one R.LEHR_OFS, one R.LEHR_CHG])
  | .alarmCommit _ _ =>
    ([.hri, .lehr, .link], [one R.LEHR_STAT, one R.LEHR_ALM1])
  | .alarmFire =>
    ([.hri, .newts, .roles, .pio, .power], matrixRegs ++ wakeRegs ++ [one R.LEHR_STAT, one R.LEHR_ALM1])
  | .periodicRestart _ _ =>
    ([.hri, .lehr, .link], [one R.LEHR_STAT, one R.LEHR_PER])
  | .periodicFire =>
    ([.hri, .newts, .roles, .pio, .lehr, .power], matrixRegs ++ wakeRegs ++ [one R.LEHR_STAT])
  | .lehrRestart =>
    ([.lehr], [anyReg])
  | .vbakCheck _ =>
    ([.hri], [one R.HRI_STAT, one R.LEHR_STAT])
  | .cflUnlock _ _ | .cflSequenceWrite _ _ _ =>
    ([.hri, .flash, .link], [one R.CFL_STAT])
  | .cflSequenceTimeout | .programLine | .eraseSector | .eraseTimeout =>
    ([.flash], [one R.CFL_STAT])
  | .eraseSuspend _ _ | .eraseResume _ _ =>
    ([.hri, .flash, .link], [one R.CFL_STAT, one R.CFL_CTL])
  | .spiWriteTransaction _ =>
    ([.keys, .svc, .free], [one R.SVC_STAT, one R.SVC_CNT])
  | .spiReadTransaction _ =>
    ([.answers], [one R.SVC_STAT])
  | .svcHello =>
    ([.keys, .svc, .free], [one R.SVC_STAT])
  | .svcInfo | .svcFlashWaitTimeout =>
    ([.keys, .svc], [one R.SVC_STAT])
  | .svcRegrd =>
    ([.keys, .roles, .lehr, .flash, .svc, .cycLatch], [each R.PIO_ADCRES, one R.CFL_STAT, one R.CFL_ECC,
      one R.SVC_STAT, one R.PMC_STAT])
  | .svcFlrd _ =>
    ([.keys, .flash, .svc], [one R.CFL_STAT, one R.CFL_ECC, one R.SVC_STAT])
  | .svcFlprog _ | .svcFlerase _ =>
    ([.keys, .flash, .svc], [one R.CFL_STAT, one R.SVC_STAT])
  | .svcKeycmd _ =>
    ([.hri, .store, .radio, .mac, .jnl, .keys, .newts, .roles, .pio, .svc, .free], matrixRegs ++ [one R.HRI_CTL,
      one R.STO_RGTOTAL, one R.STO_RGLEFT, one R.JNL_OLDEST, one R.JNL_PINS, one R.CIP_STAT, one R.KEY_LCS,
      one R.KEY_STAT, one R.PIO_GPIOOUT, each R.PIO_SP, one R.PIO_SPNEW, one R.SVC_STAT])
  | .svcRelease =>
    ([.keys, .power, .svc], [one R.SVC_STAT])
  | .pmcSampleClear _ _ _ =>
    ([.hri, .newts, .link], [one R.PMC_STAT, each R.PMC_SCTL, badvalReg])
  | .healthEvaluate _ =>
    ([.hri, .power, .health], [one R.HRI_STAT, one R.HLT_STAT, one R.HLT_CAUSE, one R.HLT_EVER])
  | .hltReady =>
    ([.power], [one R.HLT_STAT])
  | .selftestPeriod _ | .faultedNewtTest _ =>
    ([.hri, .roles], [one R.HRI_STAT, each R.NWT_ROLE, one R.NWT_STAT, one R.HLT_STAT])
  | .healthLogProgram _ =>
    ([.health], [one R.HLT_STAT])
  | .smbAlertClear _ _ =>
    ([.hri, .power, .link], [one R.SMB_STAT])
  | .alertResponse =>
    ([.power, .answers], [one R.SMB_STAT])
  | .smbRegrd _ _ =>
    ([.roles, .lehr, .flash, .cycLatch, .answers], [each R.PIO_ADCRES, one R.CFL_STAT, one R.CFL_ECC, one R.PMC_STAT])
  | .smbBusTimeout =>
    ([], [])

/-- `t` is `s` but for the parts and registers that the command may change. -/
def Frame (c : Instr) (s t : State) : Prop :=
  (∀ p, p ∉ (touches c).1 → p.same s t) ∧ ∀ a, (∀ r ∈ (touches c).2, ¬ r a) → t.rd a = s.rd a

/-! ### Registers by their field types alone -/

/-- Registers a write of which does more than its field types say. -/
def specialRegs : List Nat :=
  [R.PWR_CTL, R.CLK_CDCLOST, R.RST_CTL, R.RST_WDT_KICK, R.HRI_CTL, R.STO_CTL, R.JNL_CTL, R.RFS_CTL, R.RFS_WIN,
    R.RFS_APPLY, R.RFS_TXCFG, R.RFS_CAL, R.RF2_CTL, R.MAC_CTL, R.MAC_LBT, R.NWT_MOVE, R.PIO_ADCSEQ, R.PIO_GPIOOUT,
    R.EVM_SWEV, R.LEHR_CTL, R.LEHR_CNT0, R.LEHR_CNT1, R.LEHR_CAL0, R.LEHR_CAL1, R.LEHR_ALM1, R.LEHR_PER, R.LEHR_CHG,
    R.CFL_CTL, R.CFL_UNLOCK, R.CFL_CMD, R.CFL_ADDR, R.CFL_WP, R.SMB_STAT] ++
  (List.range 4).map R.CFL_DATA ++ (List.range 16).map R.RFS_TYMCFG ++ (List.range 32).map R.RFS_FIR ++
  (List.range 16).map R.RFS_MASK ++ (List.range 4).map R.PIO_CMP ++ (List.range 12).map R.PIO_PWMCFG ++
  (List.range 12).map R.PIO_PWMDUTY ++ (List.range 36).map R.PIO_OUT ++ (List.range 24).map R.PIO_GPIOCFG ++
  (List.range 16).map R.PMC_SCTL

/-- The block that holds a register takes writes of it from this master now (R32, R135, R542, R550). -/
def State.takesWrite (s : State) (m : Master) (a : Nat) : Bool :=
  !s.refusedAt a && (a / 65536 != 18 || s.pmcMayWrite m) && (a / 65536 != 19 || s.hltMayWrite m) &&
    ((a != R.HRI_QCTL && a != R.HRI_QCTH) || !s.rb R.HRI_CTL 0)

/-- The LOCK bit over a register reads 1 (R7). -/
def State.lockedAt (s : State) (a : Nat) : Bool := s.rb (lockOf a).1 (lockOf a).2

/-- The BADVAL bit of the block that holds an offset reads 1 (R4). -/
def State.badvalSet (s : State) (a : Nat) : Bool := (badvalOf (a / 65536)).any fun p => s.rb p.1 p.2

/-! ### The map and the NAND -/

/-- What the map names is there: every entry names a codeword of the cache or the TLC pool, in a pane in use, that is no
parity member; the entry of an unwritten block names none; blocks that stand for others are blocks of the NAND, and those of
the metadata region's panes are its own (R171, R174, R180). -/
def Store.mapSound (t : Store) : Bool :=
  let named (l : Nat) : Bool :=
    let n := t.paneOf l
    (t.cell l).isSome && (decide (n < cacheEnd) || decide (pslcEnd ≤ n)) && (t.pane n).opened && !t.parityAt l
  let own (n d : Nat) : Bool := t.paneOf (locAt d (t.blockIn n d) 0 0) == n
  t.map.all (fun p => named p.2.toNat) && (t.cell 0xFFFFFFFF).isNone &&
    t.panes.all (fun p => p.2.replaced.all fun q => decide (q.2 < 8192)) &&
    t.blocks.all (fun p => p.2.pane.all fun n => decide (n < 8192)) &&
    (List.range 64).all fun i => (List.range 5).all (own (checkpointPane + i))

/-- The content of a codeword at a location. -/
def Store.dataAt (t : Store) (l : Nat) : Option Blk := (t.cell l).map (·.data)

/-! ### Reset -/

/-- Registers that show a pin, a strap or a stored fact, or say why the reset came. -/
def resetShown (a : Nat) : Bool :=
  [R.RST_CAUSE, R.RST_STAT, R.STO_STAT, R.HLT_STAT, R.SMB_STAT, R.KEY_LCS, R.KEY_STAT, R.CFL_STAT].contains a

/-- R62 to R65: `t` is what a device reset makes of `s`. The lehr's registers and time stay, host memory is the
host's, what the NAND holds (codewords, log, checkpoints, die table) stays; the map in DRAM, queues, volatile buffers,
newts, roles and sessions go. -/
structure DeviceReset (s t : State) : Prop where
  regs : ∀ a, resetKept a = false → resetShown a = false → t.rd a = resetVal a
  hri : t.hri = { hostMem := s.hri.hostMem, badAddrs := s.hri.badAddrs, undefBufs := s.hri.undefBufs }
  mac : t.mac = {}
  newts : t.newts = []
  gather : t.gather = []
  roles : t.roles = {}
  svc : t.svc = {}
  units : t.store.units = []
  nand : t.store.cells = s.store.cells ∧ t.store.log = s.store.log ∧ t.store.ckptA = s.store.ckptA ∧
    t.store.ckptB = s.store.ckptB ∧ t.store.dieTable = s.store.dieTable
  dram : t.store.map = []
  time : t.lehr.sec = s.lehr.sec ∧ t.lehr.frac = s.lehr.frac
  link : t.link.held = []

end Sys2Proof.Machine
end

