-- ==== Sys2Proof/Certificates/Slice0/Obligations.lean ====
section
/-! DEFINITION. The statements for the provers. Each is about every state that meets its hypotheses. `Answers c s p`
says that the command completes, and what holds of the state it leaves; what it leaves alone is said once for all
commands by FrameOfEveryCommand. -/

open Sys2Proof Sys2Proof.Machine

/-- O1. With a command at the front of its queue the device runs exactly that command, on the state whose queue is the
rest. (The queue is the form the model gives to the order of arrival of R10 and R581; assumption log 1.) -/
def Obligations.StepRunsTheFrontCommand : Prop :=
  ∀ (c : Instr) (s : State), step { s with pending := c :: s.pending } = exec c s

/-- O2. On an empty queue a step answers a next state. Where an open journal group is all that keeps the device from
DOZE its group is committed first, which in DOZE is a cause of a wake (R85, R307); with no such group that part
changes nothing. Then one cycle of CK_RTC passes, in which only the lehr, the MAC timer, what a new second raises
(matrix, setpoints, events) and the registers these reach may differ: memory of newts aside, the store, radio,
journal, keys, code flash, power, service port, the rest of the MAC and the queue of commands stay. While the lehr
counts and TRIM adds nothing in that cycle, the fraction advances by one cycle of 32,768 (R471), modulo a second.
The MAC timer, which counts µs from CK_REF (R255), stands without CK_REF; with it, and no schedule running, it goes
on by the cycle's 15,625/512 µs. The tick on an empty queue is the model's choice (assumption log 2), as is that the
timer waits for the slot rows while a schedule runs (log 73). -/
def Obligations.IdleStepIsOneClockCycle : Prop :=
  ∀ s : State, s.pending = [] → ∃ t u : State, step s = .next t ∧ t.pending = [] ∧
    ((s.d0up = false ∨ s.jnl.groupStart = none ∨ s.dozeBut = false) → u = s) ∧
    ((s.d0up = true ∧ s.jnl.groupStart ≠ none ∧ s.dozeBut = true) → u = s.commitGroup.wake .jnlCommit) ∧
    t.store = u.store ∧ t.radio = u.radio ∧ t.jnl = u.jnl ∧ t.keys = u.keys ∧ t.gather = u.gather ∧
    t.power = u.power ∧ t.flash = u.flash ∧ t.svc = u.svc ∧
    t.mac = { u.mac with timer := t.mac.timer, timerFrac := t.mac.timerFrac, nextStart := t.mac.nextStart,
                         planFrom := t.mac.planFrom } ∧
    (u.power.ckref = false → t.mac = u.mac) ∧
    (u.power.ckref = true → u.mac.running = false →
      t.mac.timer = u.mac.timer + BitVec.ofNat 32 ((u.mac.timerFrac + 15625) / 512) ∧
        t.mac.timerFrac = (u.mac.timerFrac + 15625) % 512) ∧
    (u.counting = false → t = { u with mac := t.mac }) ∧
    (u.counting = true → trimAdd u.lehr.trim u.lehr.trimCycle 1 = 1 →
      t.lehr.frac = u.lehr.frac + 1 ∧ (u.lehr.frac.toNat = 32767 → t.lehr.sec = u.lehr.sec + 1) ∧
        (u.lehr.frac.toNat < 32767 → t.lehr.sec = u.lehr.sec))

/-- O3. At reset no command waits, no queue exists, no newt, role move, session or transfer is under way, the device is
in power-on reset with PORn low, and every register reads its At reset value: among them RST_CAUSE = PORn alone,
RST_WDT_CTL PERIOD 2,000 and EN, PWR_TMR 20/100/60, CLK_CDCLOST LASTDOM 0xF, NWT_ROLEn CLASS process from role 32 on
with INCOMING 0x1F, GLB_CAP0 and GLB_CAP1 (part numbers), RFS_WIN 868,000 kHz. -/
def Obligations.ResetLeavesTheStatedValues : Prop :=
  State.reset.pending = [] ∧ State.reset.hri.queues = [] ∧ State.reset.newts = [] ∧ State.reset.roles = {} ∧
    State.reset.svc = {} ∧ State.reset.power.phase = .por ∧ State.reset.power.holds.porn = true ∧
    (∀ a, State.reset.rd a = resetVal a) ∧
    State.reset.rd R.RST_CAUSE = 1 ∧ State.reset.rf R.RST_WDT_CTL 19 4 = 2000 ∧ State.reset.rb R.RST_WDT_CTL 0 = true ∧
    State.reset.rf R.PWR_TMR 7 0 = 20 ∧ State.reset.rf R.PWR_TMR 19 8 = 100 ∧ State.reset.rf R.PWR_TMR 31 20 = 60 ∧
    State.reset.rf R.CLK_CDCLOST 19 16 = 15 ∧ State.reset.rf R.RFS_WIN 19 0 = 868000 ∧
    (∀ r < 64, State.reset.rb (R.NWT_ROLE r) 7 = decide (32 ≤ r) ∧ State.reset.rf (R.NWT_ROLE r) 20 16 = 31 ∧
      State.reset.roleState r = 0)

/-- O4. At reset the registers, the gather, the code flash and host memory as written by the device are in canonical
form, and the queue holds no command. -/
def Obligations.ResetIsSound : Prop :=
  State.reset.memWf = true ∧ State.reset.queueWf = true

/-- O5. From every state whose register table, gather, code flash and host-memory list are in canonical form (addresses
strictly rising, no entry equal to what an unlisted one reads as; host memory: each address once), whatever command
stands in front and also on an empty queue, a step answers a next state (it neither faults nor refuses) and that
state is in canonical form again. So equal memories stay equal data on every run. The form is the model's own
(assumption log 7). -/
def Obligations.EveryStepKeepsCanonicalForm : Prop :=
  ∀ s : State, s.memWf = true → ∃ t, step s = .next t ∧ t.memWf = true

/-- O6. For every command with whatever operands, in every state: exec answers a next state (no refusal, no fault), and
the commands that wait are the same before and after. -/
def Obligations.EveryCommandAnswersAndLeavesTheQueue : Prop :=
  ∀ (c : Instr) (s : State), Answers c s fun t => t.pending = s.pending

/-- O7. For every command and every state, the next state differs from the state before only in the parts and registers
that the table `touches` names for that command: every other register reads as before, and every other part (host
rings and host memory, store, radio, MAC, journal, keys, newts, gather, roles, process I/O, lehr, power and pins,
code flash, service port, die link, health, cycle latches, read answers) is the same. A register array stands for
the registers of that array only. -/
def Obligations.CommandsChangeOnlyWhatTheyTouch : Prop :=
  ∀ (c : Instr) (s : State), Answers c s (Frame c s)

/-- O8. From every state a step answers a next state in which the life-cycle steps are at least as many as before, a
scrapped device stays scrapped, an enrolled customer image key stays enrolled, a revoked one stays revoked, and the
charger lock of R484 stays blown. (Fuses are one-way: R331, R354, R484.) -/
def Obligations.FusesAndLifeCycleOnlyAdvance : Prop :=
  ∀ s : State, ∃ t, step s = .next t ∧
    s.keys.steps ≤ t.keys.steps ∧ (s.keys.scrapped = true → t.keys.scrapped = true) ∧
    (∀ i, s.keys.enrolled.getLsbD i = true → t.keys.enrolled.getLsbD i = true) ∧
    (∀ i, s.keys.revoked.getLsbD i = true → t.keys.revoked.getLsbD i = true) ∧
    (s.keys.chgLock = true → t.keys.chgLock = true)

/-- O9. For every register whose write has no effect beyond its field types, written as a whole aligned word by a master
that reaches it and whose writes the block takes: (1) where every field is given a legal encoding and the register
is not locked, each bit becomes: RW or RWL, the bit written; W1C, 0 where 1 is written, else kept; any other, kept
(RO, WO and reserved bits ignore the write, R6, R7). (2) Where the block's LOCK is 1 and the write would change an
RWL bit, BADVAL of the block is set, and every RWL bit keeps its value. (3) Where a field would take a reserved
encoding, BADVAL is set and that field keeps its old value (R8). -/
def Obligations.RegisterWritesFollowTheFieldTypes : Prop :=
  ∀ s : State,
    (∀ (m : Master) (a : Nat) (d : Dword) (r : RegDef), regDef a = some r → a % 4 = 0 →
      specialRegs.contains a = false → s.reaches m a = true → s.takesWrite m a = true →
      (∀ l ∈ r.legal, l.ok (d.setWidth 32) = true) → s.lockedAt a = false ∨ r.rwl = 0 →
      Answers (.registerStore m .bar0 a 4 d) s fun t =>
        ∀ i, i < 32 → bit i (t.rd a) =
          (if bit i r.w1c then bit i (s.rd a) && !d.getLsbD i
           else if bit i r.rw || bit i r.rwl then d.getLsbD i else bit i (s.rd a))) ∧
    (∀ (m : Master) (a : Nat) (d : Dword) (r : RegDef), regDef a = some r → a % 4 = 0 →
      specialRegs.contains a = false → s.reaches m a = true → s.takesWrite m a = true →
      (∀ l ∈ r.legal, l.ok (d.setWidth 32) = true) → s.lockedAt a = true →
      d.setWidth 32 &&& r.rwl ≠ s.rd a &&& r.rwl → Answers (.registerStore m .bar0 a 4 d) s fun t =>
        t.badvalSet a = true ∧
          ∀ i, bit i r.rwl = true → bit i r.w1c = false → bit i (t.rd a) = bit i (s.rd a))

/-- O10. A 64-bit write is two 32-bit writes, lower address first (R4). A host's write of one to three bytes, or of a
word that is not aligned, changes no register but for BADVAL, which is set in the block of its first byte and in
that of its last (R4). A write, whole or not, that must cross a die link that is down is held, oldest first (R16),
and so is a later one of a master whose earlier access is held (R11). A write of the counters of a newt while its
island is gated ends with an error response (R32). -/
def Obligations.AccessesThatNameNoWholeWord : Prop :=
  ∀ s : State,
    (∀ (a : Nat) (d : Dword), a % 4 = 0 → s.masterUp .host = true →
      Answers (.registerStore .host .bar0 a 8 d) s fun t =>
        t = (s.access .host a (d.setWidth 32)).access .host (a + 4) (d.extractLsb' 32 32)) ∧
    (∀ (a n : Nat) (d : Dword), s.masterUp .host = true → s.mustWait .host a n = false →
      s.refusedAt a = false → 1 ≤ n → n ≤ 4 → n < 4 ∨ a % 4 ≠ 0 → (badvalOf (a / 65536)).isSome = true →
      Answers (.registerStore .host .bar0 a n d) s fun t =>
        t.badvalSet a = true ∧
          ((badvalOf ((a + n - 1) / 65536)).isSome = true → t.badvalSet (a + n - 1) = true) ∧
          ∀ b, (∀ x i, badvalOf x ≠ some (b, i)) → t.rd b = s.rd b) ∧
    (∀ (a n : Nat) (d : Dword), 1 ≤ n → n ≤ 4 → a < 0x150000 → s.masterUp .host = true →
      s.mustWait .host a n = true → Answers (.registerStore .host .bar0 a n d) s fun t =>
        t = { s with link.held := s.link.held ++ [⟨.host, true, a, n, d.setWidth 32⟩] }) ∧
    (∀ (m : Master) (a : Nat) (d : Dword), a % 4 = 0 → s.reaches m a = true → s.refusedAt a = true →
      Answers (.registerStore m .bar0 a 4 d) s fun t => t = s.accessError m) ∧
    (∀ (m : Master) (a : Nat) (d : Dword), a % 4 = 0 → a < 0x150000 → s.masterUp m = true →
      crosses m a = true → s.rb R.GLB_STAT 3 = false → Answers (.registerStore m .bar0 a 4 d) s fun t =>
        t = { s with link.held := s.link.held ++ [⟨m, true, a, 4, d.setWidth 32⟩] })

/-- O11. SYSRSTn, a brown-out of whichever rail, a failing CK_REF, a PLL losing lock, PERSTn with PERSTMODE 0, and a
broken supply sequence each leave what a device reset leaves (DeviceReset: every register but the lehr's, the stored
and the shown ones at its At reset value, rings, newts, roles, MAC, gather, service port and staged writes gone, the
map in DRAM lost, what the NAND holds and the time kept), hold the device in reset, and set the cause's bit of
RST_CAUSE: SYSRSTn 1, brown-out 3, REFFAIL 4, PERST 5; a broken sequence holds the device until every rail has
passed its threshold (R52) and sets SEQERR when PORn next rises. RST_CAUSE keeps its other bits. -/
def Obligations.DeviceResetsClearAndHold : Prop :=
  ∀ s : State,
    (s.power.phase = .run ∨ s.power.phase = .held → Answers .sysrstnAssert s fun t =>
        DeviceReset s t ∧ t.power.phase = .held ∧ t.power.holds.sysrstn = true ∧
          t.rd R.RST_CAUSE = putBit 1 true (s.rd R.RST_CAUSE)) ∧
    (∀ (rail : Rail), s.power.phase = .run ∨ s.power.phase = .held → Answers (.brownout rail) s fun t =>
        DeviceReset s t ∧ t.power.phase = .held ∧ rail ∈ t.power.holds.brownout ∧
          t.rd R.RST_CAUSE = putBit 3 true (s.rd R.RST_CAUSE)) ∧
    (s.power.phase = .run → s.power.ckref = true → Answers .clockFail s fun t =>
        DeviceReset s t ∧ t.power.phase = .held ∧ t.power.holds.clockFail = true ∧
          t.rd R.RST_CAUSE = putBit 4 true (s.rd R.RST_CAUSE)) ∧
    (∀ (p : Pll), s.power.phase = .run → s.locked p = true → Answers (.pllLockLoss p) s fun t =>
        DeviceReset s t ∧ t.power.phase = .held ∧ t.power.holds.clockFail = true ∧
          t.rd R.RST_CAUSE = putBit 4 true (s.rd R.RST_CAUSE)) ∧
    (s.power.phase = .run ∨ s.power.phase = .held → s.power.phase = .held ∨ s.rb R.RST_CTL 0 = false →
      Answers .perstnAssert s fun t =>
        DeviceReset s t ∧ t.power.phase = .held ∧ t.power.holds.perstn = true ∧
          t.rd R.RST_CAUSE = putBit 5 true (s.rd R.RST_CAUSE)) ∧
    (∀ (rails : List Rail) (radio : List RadioRail), s.power.phase = .run ∨ s.power.phase = .held →
      rails ≠ [] ∨ radio ≠ [] → Answers (.sequenceError rails radio) s fun t =>
        DeviceReset s t ∧ t.power.phase = .held ∧ t.power.holds.sequence = rails ∧
          t.power.holds.sequenceRf = radio ∧
          t.power.seqerr = true)

/-- O12. RST_CTL.SWRST with KEY 0x5253 resets the device (DeviceReset), sets RST_CAUSE.SW and the writer's code, and
bring-up starts at once if nothing else holds the device. The first expiry of a counting watchdog sets
RST_STAT.WDTWARN, starts the second stage and posts event 3, severity 3, with the period; the second resets the
device with RST_CAUSE.WDT. A kick with the value due (0xA5A5 first, then alternating) clears the first stage and
makes the other value due; a wrong value while the watchdog counts acts as an expiry. -/
def Obligations.ResetsThatEndAtOnceAndTheWatchdog : Prop :=
  ∀ s : State,
    (∀ (m : Master) (w : Word), s.power.phase = .run → s.reaches m R.RST_CTL = true → bit 1 w = true →
      fld 31 16 w = 0x5253 → Answers (.softwareReset m w) s fun t =>
        ∃ u : State, DeviceReset s u ∧ u.rb R.RST_CAUSE 7 = true ∧ u.rf R.RST_CAUSE 9 8 = masterCode m % 4 ∧
          t = u.leaveReset) ∧
    (s.wdtActive = true → s.power.wdtStage = false → Answers .watchdogWarn s fun t =>
        ∃ u : State, t = u.post 3 3 0 (s.rf R.RST_WDT_CTL 19 4) ∧
          u.rd R.RST_STAT = putBit 2 true (s.rd R.RST_STAT) ∧
          t.power = { s.power with wdtStage := true }) ∧
    (s.wdtActive = true → s.power.wdtStage = true → Answers .watchdogReset s fun t =>
        ∃ u : State, DeviceReset s u ∧ u.rb R.RST_CAUSE 2 = true ∧ t = u.leaveReset) ∧
    (∀ (m : Master) (w : Word), s.reaches m R.RST_WDT_KICK = true →
      fld 15 0 w = (if s.power.wdtKey then 0x5A5A else 0xA5A5) → Answers (.watchdogKick m w) s fun t =>
        t.power = { s.power with wdtKey := !s.power.wdtKey, wdtStage := false }) ∧
    (∀ (m : Master) (w : Word), s.reaches m R.RST_WDT_KICK = true →
      fld 15 0 w ≠ (if s.power.wdtKey then 0x5A5A else 0xA5A5) → s.wdtActive = true →
      Answers (.watchdogKick m w) s fun t => t = s.wdtExpiry)

/-- O13. PORn low puts the whole device but the lehr into power-on reset: volatile state gone, straps to be sampled
anew. PORn rising ends power-on reset, and SEQERR of RST_CAUSE then says whether the supply sequence was broken.
When the last hold is given up (SYSRSTn, a brown-out's rail, the last rail of a broken sequence, PERSTn), the device
is in bring-up with no ready bit of PWR_STAT set. PERSTn falling with PERSTMODE 1 resets only the host link: every
ring is gone, HRI registers are at reset, the link is down unless it was parked in L1.2 or L2/L3 Ready,
RST_CAUSE.PERST is set, newts, journal and roles run on (a setpoint already fetched still takes effect, R65). PERSTn
rising in HUSH wakes the device where enabled. -/
def Obligations.ResetsEndWhenNothingHolds : Prop :=
  ∀ s : State,
    (s.power.phase ≠ .backup ∨ s.lehr.fromMain = true → Answers .pornAssert s fun t =>
        t.power.phase = .por ∧ t.power.holds.porn = true ∧ t.power.strapped = false ∧ t.newts = [] ∧
          t.hri.queues = [] ∧
          t.gather = [] ∧ t.store.cells = s.store.cells ∧ t.lehr.sec = s.lehr.sec ∧
          ∀ a, a / 65536 ≠ 15 → a ≠ R.PIO_CMPBAK → resetShown a = false → t.rd a = resetVal a) ∧
    (s.power.phase = .por → Answers .pornRelease s fun t =>
        t.power.holds.porn = false ∧ t.rb R.RST_CAUSE 6 = s.power.seqerr ∧ t.power.seqerr = false ∧
          t.power.phase = (if t.released then .run else .held)) ∧
    (s.power.phase = .held → ({ s with power.holds.sysrstn := false } : State).released = true →
      Answers .sysrstnRelease s fun t =>
        t.power.phase = .run ∧ t.power.holds.sysrstn = false ∧ t.rf R.PWR_STAT 6 3 = 0) ∧
    (∀ (rail : Rail), s.power.phase = .held → s.power.holds.brownout = [rail] →
      ({ s with power.holds.brownout := [] } : State).released = true →
      Answers (.brownoutRailRecover rail) s fun t =>
        t.power.phase = .run ∧ t.power.holds.brownout = [] ∧ t.rf R.PWR_STAT 6 3 = 0) ∧
    (∀ (rail : Rail), s.power.phase = .held → s.power.holds.sequence = [rail] →
      ({ s with power.holds.sequence := [] } : State).released = true →
      Answers (.brownoutRailRecover rail) s fun t =>
        t.power.phase = .run ∧ t.power.holds.sequence = [] ∧ t.rf R.PWR_STAT 6 3 = 0) ∧
    (s.power.phase = .held → ({ s with power.holds.perstn := false } : State).released = true →
      Answers .perstnRelease s fun t =>
        t.power.phase = .run ∧ t.power.holds.perstn = false ∧ t.rf R.PWR_STAT 6 3 = 0) ∧
    (s.power.phase = .run → s.pstate = 3 → s.rb R.PWR_WAKEEN 8 = true → Answers .perstnRelease s fun t =>
        t.rb R.PWR_WAKEST 8 = true ∧ t.pstate = 4 ∧ t.power.waking = .fromHush) ∧
    (s.power.phase = .run → s.rb R.RST_CTL 0 = true → Answers .perstnAssert s fun t =>
        t.power = { s.power with holds := { s.power.holds with perstn := true } } ∧ t.hri.queues = [] ∧
          t.hri.link = (if s.hri.link = .up then .down else s.hri.link) ∧
          t.rb R.RST_CAUSE 5 = true ∧ t.jnl = s.jnl ∧ ((s.q 36).inflight = [] → t.newts = s.newts ∧
          t.roles = s.roles) ∧
          (∀ a, a / 65536 = 4 → t.rd a = resetVal a))

/-- O14. After PORn all six straps are latched, RST_STRAP shows them with STRAPERR for the reserved SAFE value 3 (which
acts as 2), and every output's SAFE field takes the strapped value; STRAP_SVCBOOT decides whether boot is held.
After a later reset only STRAP_SVCBOOT is sampled again. CK_REF qualifying starts the MAC timer at 0; while a clock
failure holds the device it ends that hold. With CK_REF qualified D1's PLLs set RGRDY, D0's then CLKRDY, an island's
its lock. MEMRDY follows CLKRDY; on a wake it zeroes the gather banks that were not kept and no other. The wipes set
SRAMZ and DRAMZ, training turns the DRAM on. -/
def Obligations.BringUpFollowsItsSteps : Prop :=
  ∀ s : State,
    (∀ (b : BitVec 6), s.power.phase = .run → s.power.strapped = false → s.power.sampled = false →
      Answers (.strapSample b) s fun t =>
        t.power.strapped = true ∧ t.rf R.RST_STRAP 5 0 = b.toNat ∧
          t.rb R.RST_STRAP 6 = decide (b.toNat / 16 = 3) ∧
          t.power.bootHeld = b.getLsbD 3 ∧
          ∀ k < 36, t.rf (R.PIO_OUT k) 1 0 = if b.toNat / 16 = 3 then 2 else b.toNat / 16) ∧
    (∀ (b : BitVec 6), s.power.phase = .run → s.power.strapped = true → s.power.sampled = false →
      Answers (.strapSample b) s fun t =>
        t.power.bootHeld = b.getLsbD 3 ∧ t.rb R.RST_STRAP 3 = b.getLsbD 3 ∧ t.power.sampled = true ∧
          ∀ i, i ≠ 3 → t.power.straps.getLsbD i = s.power.straps.getLsbD i) ∧
    (s.power.phase = .run → s.power.sampled = true → s.power.ckref = false → s.pstate ≠ 3 →
      s.power.waking ≠ .fromHush ∨ s.power.settled = true →
      Answers .ckrefQualified s fun t => t.power = { s.power with ckref := true } ∧ t.mac.timer = 0) ∧
    (s.power.phase = .held → s.power.holds.clockFail = true → Answers .ckrefQualified s fun t =>
        t.power.holds.clockFail = false ∧ t.power.phase = (if t.released then .run else .held)) ∧
    (s.power.phase = .run → s.power.ckref = true → Answers (.pllLock .d1) s fun t =>
        t.power = { s.power with d1Locked := true } ∧
          t.readyBits = if s.readyBits = 0 then 1 else s.readyBits) ∧
    (s.power.phase = .run → s.power.ckref = true → s.power.d1Locked = true → s.readyBits = 1 →
      Answers (.pllLock .d0) s fun t =>
        t.power = { s.power with d0Locked := true } ∧
          t.readyBits = if s.power.waking = .fromDoze then 1 else 3) ∧
    (∀ (i : Fin 4), s.power.phase = .run → s.power.ckref = true → s.readyBits = 1 →
      Answers (.pllLock (.island i)) s fun t =>
        t.power = { s.power with islands := bput i.val true s.power.islands } ∧
          t.readyBits = if s.power.waking = .fromDoze ∧ t.power.islands.toNat % 8 = 7 then 3 else 1) ∧
    (s.power.phase = .run → s.readyBits = 3 → Answers .memrdySet s fun t =>
        t.readyBits = 7 ∧ ∀ a, t.gatherByte a =
          if s.power.waking = .no ∨ s.bankKept (a / 262144) = true then s.gatherByte a else 0) ∧
    (s.power.phase = .run → s.rb R.PWR_STAT 5 = true → s.power.waking = .no →
      Answers .sramWipeDone s fun t => t.rd R.RST_STAT = putBit 3 true (s.rd R.RST_STAT)) ∧
    (s.d0up = true → s.pstate ≤ 1 → Answers .dramTrainingDone s fun t => t = { s with power.dramOn := true }) ∧
    (s.d0up = true → s.power.dramOn = true → s.power.bootHeld = false →
      Answers .dramWipeDone s fun t => t.rd R.RST_STAT = putBit 4 true (s.rd R.RST_STAT))

/-- O15. LOGRDY follows MEMRDY: at bring-up D0's logic runs; on a wake from DOZE, once the images are reloaded, the
device is in RUN with every ready bit and no wake in progress; on a wake from HUSH D0 runs again. When boot's
conditions hold (link up, SRAM wiped, DRAM trained, not held, and no key to be generated that must wait: R334)
BOOTDONE is set, and from a table of unassigned roles each role that is given goes to a newt of its class (R401,
R403). The die link trained serves its held accesses in order; while it is down one not served in 100 µs goes with
an error to its master. Each repeated flit counts in DLRETRY, and a fourth failing REG repeat ends its access with
an error, which a newt sees on its oldest request, and sets DLERR, posting event 1, severity 2. CDCLOST.CLR zeroes
the count and sets LASTDOM 0xF. A failing repeat before the fourth is counted by its channel; the fourth of a sample
block discards the block. The scrubber counts a corrected word in SRAMCE; a lost word sets SRAMUE and posts event 2,
and stops a running newt in whose memory it lies (causes 8 and 9), drops a cached node entry, rebuilds a dirty line
of the map cache, or loses journal records in staging. -/
def Obligations.LogicReleaseBootAndTheDieLink : Prop :=
  ∀ s : State,
    (s.power.phase = .run → s.readyBits = 7 → s.power.waking = .no →
      Answers .logrdyRelease s fun t => t.readyBits = 15 ∧ t.power = { s.power with d0run := true }) ∧
    (s.power.phase = .run → s.readyBits = 7 → s.power.waking = .fromDoze → s.power.settled = true →
      Answers .logrdyRelease s fun t => t.power.waking = .no ∧ t.pstate = 0 ∧ t.readyBits = 15) ∧
    (s.power.phase = .run → s.readyBits = 7 → s.power.waking = .fromHush →
      Answers .logrdyRelease s fun t => t.power.d0run = true ∧ t.readyBits = 15) ∧
    (s.d0up = true → s.rb R.GLB_STAT 3 = true → s.rb R.RST_STAT 3 = true → s.power.dramOn = true →
      s.rb R.RST_STAT 5 = false → s.power.bootHeld = false → s.markerScan.keysBoot.keysMissing = false →
      Answers .bootComplete s fun t =>
        t.rb R.RST_STAT 5 = true ∧
          ((∀ r < 64, s.roleState r = 0) → ∀ r < 64, t.roleState r ≠ 0 → newtProcess (t.holder r) = roleProcess r)) ∧
    (s.d0up = true → s.rb R.PWR_STAT 6 = true → s.rb R.GLB_STAT 3 = false → Answers .dieLinkTrained s fun t =>
        t = s.linkTrained.serveFree ∧ s.linkTrained.rb R.GLB_STAT 3 = true) ∧
    (∀ (h : HeldAccess) (r : List HeldAccess), s.link.held = h :: r → s.rb R.GLB_STAT 3 = false →
      Answers .dieLinkHoldTimeout s fun t =>
        ∃ u : State, t = u.serveFree ∧ u = ({ s with link.held := r } : State).accessError h.master ∧
          u.link = { s.link with held := r, errors := s.link.errors ++ [h.master] } ∧
          u.regs = s.regs) ∧
    (∀ (ch : LinkChan) (m : Master), s.rb R.GLB_STAT 3 = true →
      Answers (.dieLinkFlitRepeat ch m false) s fun t =>
        t.rf R.GLB_STAT 15 8 = (s.rf R.GLB_STAT 15 8 + 1) % 256 ∧ t.link.errors = s.link.errors) ∧
    (∀ (m : Master), s.rb R.GLB_STAT 3 = true → s.link.regRetries = 3 → ∀ k, m ≠ .newt k →
      Answers (.dieLinkFlitRepeat .reg m true) s fun t =>
        ∃ u : State, t = (u.post 1 2 0 0).accessError m ∧ u.rb R.GLB_STAT 1 = true ∧
          u.rf R.GLB_STAT 15 8 = (s.rf R.GLB_STAT 15 8 + 1) % 256 ∧
          t.link.errors = s.link.errors ++ [m] ∧ t.link.regRetries = 0) ∧
    (∀ (n : Fin 16) (r : RegReq) (l : List RegReq), s.rb R.GLB_STAT 3 = true → s.link.regRetries = 3 →
      (s.newt n.val).regq = r :: l → crosses (.newt n) r.addr = true →
      Answers (.dieLinkFlitRepeat .reg (.newt n) true) s fun t =>
        ∃ u : State, t = (u.post 1 2 0 0).regDone n true ∧ u.rb R.GLB_STAT 1 = true ∧ u.newts = s.newts) ∧
    (∀ (ch : LinkChan) (m : Master) (f : Bool), s.rb R.GLB_STAT 3 = false →
      Answers (.dieLinkFlitRepeat ch m f) s fun t => t = s) ∧
    (∀ (m : Master), s.rb R.GLB_STAT 3 = true → s.link.regRetries < 3 →
      Answers (.dieLinkFlitRepeat .reg m true) s fun t =>
        t = ({ s with link.regRetries := s.link.regRetries + 1 } : State).count R.GLB_STAT 15 8 1) ∧
    (∀ (m : Master), s.rb R.GLB_STAT 3 = true → s.link.smpRetries < 3 →
      Answers (.dieLinkFlitRepeat .smp m true) s fun t =>
        t = ({ s with link.smpRetries := s.link.smpRetries + 1 } : State).count R.GLB_STAT 15 8 1) ∧
    (∀ (m : Master), s.rb R.GLB_STAT 3 = true → s.link.smpRetries = 3 →
      Answers (.dieLinkFlitRepeat .smp m true) s fun t =>
        t = (({ s with link.smpRetries := 0 } : State).count R.GLB_STAT 15 8 1).smpLost) ∧
    (∀ (m : Master) (w : Word), s.reaches m R.CLK_CDCLOST = true → bit 31 w = true →
      Answers (.cdclostClear m w) s fun t => t.rf R.CLK_CDCLOST 15 0 = 0 ∧ t.rf R.CLK_CDCLOST 19 16 = 15) ∧
    (∀ (site : SramSite), s.d0up = true → Answers (.sramScrub site false) s fun t =>
        t.rf R.GLB_STAT 31 16 = (s.rf R.GLB_STAT 31 16 + 1) % 65536) ∧
    (∀ (b : Fin 32), s.d0up = true → Answers (.sramScrub (.gather b) true) s fun t =>
        ∃ u : State, t = u.post 2 2 b.val 2 ∧ u.rb R.GLB_STAT 2 = true) ∧
    (∀ (site : SramSite) (e : Bool), s.d0up = false → Answers (.sramScrub site e) s fun t => t = s) ∧
    (∀ (i : Bool) (n : Fin 16), s.d0up = true → s.newtGated n.val = true ∨ s.running n.val = false →
      Answers (.sramScrub (if i then .imem n else .dmem n) true) s fun t =>
        ∃ u : State, t = u.post 2 2 n.val (if i then 0 else 1) ∧ u.rb R.GLB_STAT 2 = true ∧
          u.newts = s.newts) ∧
    (∀ (i : Bool) (n : Fin 16), s.d0up = true → s.newtGated n.val = false → s.running n.val = true →
      Answers (.sramScrub (if i then .imem n else .dmem n) true) s fun t =>
        t.faultOf n.val = (4, if i then 8 else 9, 0, (s.newt n.val).pc % 65536) ∧ t.rb R.GLB_STAT 2 = true) ∧
    (∀ (k : Fin 4096), s.d0up = true →
      Answers (.sramScrub (.nodeCache k) true) s fun t => t = (s.dropCached k.val).sramUeFree 3) ∧
    (s.d0up = true → Answers (.sramScrub .mapClean true) s fun t => t = s.sramUeFree 3) ∧
    (∀ (a : Nat), s.d0up = true → Answers (.sramScrub (.mapDirty a) true) s fun t =>
        t = if s.lineDirty a = true then (s.sramUeFree 3).mapRebuild (a / 16 * 16) 16 else s.sramUeFree 3) ∧
    (∀ (a n : Nat), s.d0up = true →
      Answers (.sramScrub (.staging a n) true) s fun t => t = (s.sramUeFree 4).stagingLost a n) ∧
    (∀ (d : Nat),
      ∃ (u : State) (n : Nat), s.sramUeFree d = u.post 2 2 n d ∧ n < 65536 ∧ u.rb R.GLB_STAT 2 = true ∧ u.store =
        s.store ∧
        u.mac = s.mac ∧ u.jnl = s.jnl)

/-- O16. Loss of VDDIO_33 puts the device in backup only: the lehr feeds from VBAK, CK_AO stops, no output pad is driven
nor any other ball that the state drives, and every other volatile part is gone. Its return is qualified first; 50
µs later the main path closes and VBAK's opens, BAKUSED is set, and with PORn low power-on reset follows; with PORn
high the outputs take their safe values (R46). The charger resumes only while main power alone feeds the lehr and
the charger is enabled and not locked. A failing crystal sets XTALFAIL and its recovery clears it, while CK_AO runs;
with CK_AO stopped the count stops and the time is lost (R59). -/
def Obligations.BackupSupplyAndCrystal : Prop :=
  ∀ s : State,
    (s.power.phase ≠ .backup → Answers .vddio33Fall s fun t =>
        t.power.phase = .backup ∧ t.lehr.fromMain = false ∧ t.lehr.fromBak = true ∧ t.lehr.ckAo = false ∧
          t.newts = [] ∧
          t.hri.queues = [] ∧ t.gather = [] ∧ t.lehr.sec = s.lehr.sec ∧
          (∀ c, t.femTxen c = .off ∧ t.femRxen c = .off) ∧ t.femByp = .off ∧ t.femAntsel = .off ∧
          t.flickn = .off ∧ t.svcAttn = .off ∧
          t.smbalertn = .off ∧ t.replacen = .off ∧ ∀ k, t.pad k = .off) ∧
    (s.power.phase = .backup → s.lehr.fromMain = false → Answers .vddio33Rise s fun t =>
        t.lehr = { s.lehr with qualifying := true } ∧
          (s.power.holds.porn = false → ∀ k, t.pad k = t.safePad k)) ∧
    (s.lehr.qualifying = true → Answers .vddio33PathClose s fun t =>
        t.lehr.fromMain = true ∧ t.lehr.fromBak = false ∧ t.lehr.ckAo = true ∧ t.lehr.alive = true ∧
          t.rb R.LEHR_STAT 9 = true ∧ (s.power.holds.porn = true → t.power.phase = .por) ∧
          (s.power.holds.porn = false → t.power = s.power ∧
          (s.power.phase = .backup → ∀ k, t.pad k = t.safePad k))) ∧
    (Answers .chargerResume s fun t =>
        t.lehr = { s.lehr with
            chargeWait := false
            charging := s.lehr.fromMain && !s.lehr.fromBak && s.rb R.LEHR_CHG 0 && !s.keys.chgLock }) ∧
    (s.lehr.ckAo = true → Answers .xtalFail s fun t =>
        t.lehr.xtalOk = false ∧ t.rd R.RST_STAT = putBit 1 true (s.rd R.RST_STAT)) ∧
    (s.lehr.ckAo = false →
      Answers .xtalFail s fun t => t.lehr.xtalOk = false ∧ t.lehr.lostPost = true ∧ t.counting = false) ∧
    (s.lehr.ckAo = true → Answers .xtalRecover s fun t =>
        t.lehr = { s.lehr with xtalOk := true } ∧ t.rd R.RST_STAT = putBit 1 false (s.rd R.RST_STAT))

/-- O17. IDLE follows idle data-class units in RUN. DOZE is entered from IDLE by its timer, or by REQ 0b10 from RUN or
IDLE, when the newts' register requests are done and R78 holds: ready bits and PLL locks of islands A to C go, their
newts keep only the image header, their performance counts restart. HUSH is entered from DOZE by its timer or REQ
0b11 when R79 holds, and still does once the register requests of island D's newts are done (R392): D0 stops, DRAM
and die link are down, the front-end controls and SVC_ATTN are low (R44), and every output pad keeps the level it
drove (a PWM that does not toggle, its duty's). Where the conditions do not hold a request sets REFUSED and the
state stays; a timer's entry counts in ABORTS; where only the journal stands in the way of DOZE its open group is
committed (R307). -/
def Obligations.PowerStatesAreEnteredOnTheirConditions : Prop :=
  ∀ s : State,
    (s.d0up = true → s.pstate = 0 → s.rb R.PWR_CTL 0 = true → s.dataIdle = true →
      Answers .idleEntry s fun t => t = s.wf R.PWR_STAT 2 0 1 ∧ t.pstate = 1) ∧
    (∀ (u : State), s.d0up = true → s.pstate = 1 → s.rb R.PWR_CTL 1 = true → s.dozeOk = true →
      u = ({ s with power.wakeToRun := false } : State).drained → u.d0up = true → u.pstate ≤ 1 →
      u.dozeOk = true → u.power.wakeToRun = false → Answers .dozeEntry s fun t =>
        t.pstate = 2 ∧ t.readyBits = 0 ∧ t.power.islands = u.power.islands &&& 8 ∧
          (∀ n < 12, t.newt n = { image := (u.newt n).image, selfStopped := (u.newt n).selfStopped }) ∧
          (∀ n < 12, ∀ k < 8, t.rd (R.PMC_CNT n k) = 0)) ∧
    (s.d0up = true → s.pstate = 1 → s.rb R.PWR_CTL 1 = true → s.dozeOk = false → Answers .dozeEntry s fun t =>
        t.rf R.PWR_STAT 23 16 = (s.rf R.PWR_STAT 23 16 + 1) % 256 ∧ t.pstate = 1) ∧
    (∀ (m : Master) (w : Word) (u : State), s.reaches m R.PWR_CTL = true → fld 9 8 w = 2 → s.pstate ≤ 1 →
      (s.pwrCtlWrite w).dozeOk = true →
      u = ({ s.pwrCtlWrite w with power.wakeToRun := false } : State).drained → u.d0up = true → u.pstate ≤ 1 →
      u.dozeOk = true → u.power.wakeToRun = false →
      Answers (.pwrReqDoze m w) s fun t => t.pstate = 2 ∧ t.readyBits = 0) ∧
    (∀ (m : Master) (w : Word), s.reaches m R.PWR_CTL = true → fld 9 8 w = 2 →
      (s.pwrCtlWrite w).dozeOk = false → Answers (.pwrReqDoze m w) s fun t =>
        t = (s.pwrCtlWrite w).journalFirst.flag R.PWR_STAT 8 ∧ t.pstate = s.pstate) ∧
    (∀ (u : State), s.hushOk = true →
      u = ((List.finRange 16).filter fun n => decide (12 ≤ n.val)).foldl State.regDrain  s → u.hushOk = true →
      u.power.phase = .run → Answers .hushEntry s fun t =>
        t.pstate = 3 ∧ t.readyBits = 0 ∧ t.power.d0run = false ∧ t.power.dramOn = false ∧
          t.rb R.GLB_STAT 3 = false ∧
          t.rb R.RST_STAT 4 = false ∧ t.rb R.STO_STAT 1 = false ∧ t.hri.queues = [] ∧
          (∀ c, t.femTxen c = .low ∧ t.femRxen c = .low) ∧ t.femByp = .low ∧ t.femAntsel = .low ∧
          t.svcAttn = .low ∧ ∀ k < 36, t.pad k = u.padLatch k) ∧
    (∀ (m : Master) (w : Word) (u : State), s.reaches m R.PWR_CTL = true → fld 9 8 w = 3 → s.pstate = 2 →
      (s.pwrCtlWrite w).hushOk = true →
      u = ((List.finRange 16).filter fun n => decide (12 ≤ n.val)).foldl State.regDrain  (s.pwrCtlWrite w) →
      u.hushOk = true → Answers (.pwrReqHush m w) s fun t => t.pstate = 3 ∧ t.power.d0run = false) ∧
    (∀ (m : Master) (w : Word), s.reaches m R.PWR_CTL = true → fld 9 8 w = 3 →
      (s.pwrCtlWrite w).hushOk = false →
      Answers (.pwrReqHush m w) s fun t => t = (s.pwrCtlWrite w).flag R.PWR_STAT 8 ∧ t.pstate = s.pstate)

/-- O18. An enabled cause latches in PWR_WAKEST and starts the wake from DOZE or HUSH where R85 lets it; in IDLE it
returns the device to RUN; during a wake it is only latched; before the commit point of an entry it abandons that
entry, which ABORTS counts (R80). REQ 0b01 does the same as cause 15. In HUSH the SMBus matcher wakes on its own
address. The TCXO wait and the image reload end their parts of the wake; reloaded instruction memories are the saved
banks. A host-link reset by FLR deletes every queue and resets the HRI registers, leaving the journal, and the newts
where no fetched setpoint was yet to be judged. D3hot is entered and left as the host says, and on return no
completion waits. With boot not held the link state is what the link reports, as are the host addresses that now
answer writes with an error. -/
def Obligations.WakesStartAndReachTheirStates : Prop :=
  ∀ s : State,
    (∀ (c : WakeSrc) (e : Bool), s.power.phase = .run → s.wakeEnabled c = true → s.pstate = 2 →
      (wakesFrom c).1 = true → Answers (.wakeArrives c e) s fun t =>
        t.rb R.PWR_WAKEST (wakeBit c) = true ∧ t.pstate = 4 ∧ t.power.waking = .fromDoze ∧ t.readyBits = 1) ∧
    (∀ (c : WakeSrc) (e : Bool), s.power.phase = .run → s.wakeEnabled c = true → s.pstate = 3 →
      (wakesFrom c).2 = true → Answers (.wakeArrives c e) s fun t =>
        t.rb R.PWR_WAKEST (wakeBit c) = true ∧ t.pstate = 4 ∧ t.power.waking = .fromHush ∧ t.readyBits = 1) ∧
    (∀ (c : WakeSrc) (e : Bool), s.power.phase = .run → s.wakeEnabled c = true → s.pstate = 1 →
      Answers (.wakeArrives c e) s fun t => t.pstate = 0 ∧ t.power = s.power) ∧
    (∀ (c : WakeSrc) (e : Bool), s.power.phase = .run → s.wakeEnabled c = true → s.pstate = 4 →
      Answers (.wakeArrives c e) s fun t =>
        t.rb R.PWR_WAKEST (wakeBit c) = true ∧ t.pstate = 4 ∧ t.power.waking = s.power.waking) ∧
    (∀ (c : WakeSrc), s.canEnter = true → s.wakeEnabled c = true →
      Answers (.wakeArrives c true) s fun t => t.rf R.PWR_STAT 23 16 = (s.rf R.PWR_STAT 23 16 + 1) % 256) ∧
    (∀ (m : Master) (w : Word), s.power.phase = .run → s.reaches m R.PWR_CTL = true → fld 9 8 w = 1 →
      s.pstate = 2 → Answers (.pwrReqRun m w) s fun t =>
        t.rb R.PWR_WAKEST 15 = true ∧ t.pstate = 4 ∧ t.power.waking = .fromDoze) ∧
    (∀ (m : Master) (w : Word), s.power.phase = .run → s.reaches m R.PWR_CTL = true → fld 9 8 w = 1 →
      s.pstate ≤ 1 → Answers (.pwrReqRun m w) s fun t => t.pstate = 0) ∧
    (∀ (a : BitVec 7), s.power.phase = .run → s.pstate = 3 → s.rb R.PWR_WAKEEN 0 = true →
      a.toNat = 0x58 + s.rf R.RST_STRAP 2 0 → Answers (.smbusHushMatch a) s fun t =>
        t.rb R.PWR_WAKEST 0 = true ∧ t.pstate = 4 ∧ t.power.waking = .fromHush) ∧
    (s.power.waking = .fromHush → Answers .tcxoSettleExpiry s fun t => t = { s with power.settled := true }) ∧
    (s.power.waking = .fromDoze → s.readyBits = 7 → Answers (.imageReloadDone []) s fun t =>
        t.power = { s.power with settled := true } ∧ ∀ n < 12, (t.newt n).imem = s.bankWords n) ∧
    (∀ (bad : List (Fin 12)), s.power.waking = .fromDoze → s.readyBits = 7 →
      Answers (.imageReloadDone bad) s fun t => t.power.settled = true) ∧
    (s.d0up = true → s.pstate ≠ 3 → Answers .functionLevelReset s fun t =>
        t.hri.queues = [] ∧ t.hri.d3hot = false ∧ (∀ a, a / 65536 = 4 → t.rd a = resetVal a) ∧
          t.jnl = s.jnl ∧ ((s.q 36).inflight = [] → t.newts = s.newts)) ∧
    (Answers (.pciPowerStateChange true) s fun t => t = { s with hri.d3hot := true }) ∧
    (Answers (.pciPowerStateChange false) s fun t => t.hri.d3hot = false ∧ t.hri.deferred = []) ∧
    (∀ (l : LinkState) (f : List Nat), s.power.bootHeld = false →
      Answers (.pcieLinkChange l f) s fun t => t = { s with hri.link := l, hri.badAddrs := f })

/-- O19. An event raised while the device runs takes the next sequence number. It is written at once when the event ring
can take it and nothing is held or lost before it. Otherwise it is held behind the others while fewer than 64 are
held; else it is discarded and counted, in HRI_STAT bits 15:8 and for the EVLOST entry. When space returns and one
event is held, it is written and nothing is held any more; when nothing is held but events were lost, one EVLOST
entry (code 7, severity 1) is written whose DETAIL is how many, and the loss count starts again; with no room
nothing happens. -/
def Obligations.EventsAreWrittenHeldOrCounted : Prop :=
  ∀ s : State,
    (∀ (code sev src det : Nat), s.power.phase = .run → s.evReady = true → s.hri.held = [] →
      s.hri.lostRun = 0 → s.post code sev src det = ({ s with hri.evSeq := s.hri.evSeq + 1 } : State).putEvent
        ⟨BitVec.ofNat 16 code, BitVec.ofNat 2 sev, BitVec.ofNat 16 src, BitVec.ofNat 32 det, s.hri.evSeq,
          s.time32⟩) ∧
    (∀ (code sev src det : Nat), s.power.phase = .run →
      s.evReady = false ∨ s.hri.held ≠ [] ∨ s.hri.lostRun ≠ 0 → s.hri.held.length < 64 →
      s.post code sev src det = { s with hri.evSeq := s.hri.evSeq + 1, hri.held := s.hri.held ++
        [⟨BitVec.ofNat 16 code, BitVec.ofNat 2 sev, BitVec.ofNat 16 src, BitVec.ofNat 32 det, s.hri.evSeq,
          s.time32⟩] }) ∧
    (∀ (code sev src det : Nat), s.power.phase = .run → 64 ≤ s.hri.held.length →
      (s.post code sev src det).hri = { s.hri with evSeq := s.hri.evSeq + 1, lostRun := s.hri.lostRun + 1 } ∧
      (s.post code sev src det).rf R.HRI_STAT 15 8 = (s.rf R.HRI_STAT 15 8 + 1) % 256) ∧
    (∀ (code sev src det : Nat), s.power.phase ≠ .run → s.post code sev src det = s) ∧
    (∀ (e : Event), s.hri.held = [e] → s.hri.lostRun = 0 → s.evReady = true →
      Answers .eventRingDrain s fun t => t = { s.putEvent e with hri.held := [] }) ∧
    (s.hri.held = [] → s.hri.lostRun ≠ 0 → s.evReady = true → Answers .eventRingDrain s fun t =>
        t = ({ s with hri.lostRun := 0, hri.evSeq := s.hri.evSeq + 1 } : State).putEvent
          ⟨7, 1, 0, BitVec.ofNat 32 s.hri.lostRun, s.hri.evSeq, s.time32⟩) ∧
    (s.evReady = false → Answers .eventRingDrain s fun t => t = s)

/-- O20. An entry written at the tail of a ring stands byte for byte at base + tail × its length in host memory, its
byte 8 carrying the ring's phase in bit 0; no other byte of host memory changes; the tail moves on modulo the ring's
size, and the phase is inverted where it comes to 0 (R109). Where the host answers an error the memory is unchanged
and the tail moves all the same (R130). A completion of an existing queue outside D3hot is written so as its 16
bytes (R116), and with an error answer it sets RINGERR and posts event 4, severity 2, DETAIL 1; in D3hot it is kept,
and for a queue that is gone there is none. Bytes the device writes into a command's buffer from an offset on go, in
order, to the addresses of its ranges: the contiguous buffer of the entry, or the data entries of its scatter list
one after another (R112, R118). Byte j ends at the address that offset + j has, unless a later byte goes to the same
address, and every address no byte goes to keeps its byte. -/
def Obligations.EntriesAndBuffersReachHostMemory : Prop :=
  ∀ s : State,
    (∀ (n : Nat) (l : List Byte),
      s.hri.badAddrs.contains ((s.q n).cqbase + (s.q n).cqtail * l.length) = false →
      (s.ringPut n l).2 = true ∧ (∀ i < l.length, ((s.ringPut n l).1).hostByte ((s.q n).cqbase + (s.q n).cqtail *
        l.length + i) =
          some (if i = 8 then (l.getD 8 0 &&& 0xFE) ||| (if (s.q n).phase then 1 else 0) else l.getD i 0)) ∧
        (∀ a, a < (s.q n).cqbase + (s.q n).cqtail * l.length ∨ (s.q n).cqbase + (s.q n).cqtail * l.length +
          l.length ≤ a →
          ((s.ringPut n l).1).hostByte a = s.hostByte a)) ∧
    (∀ (n : Nat) (l : List Byte), s.hri.badAddrs.contains ((s.q n).cqbase + (s.q n).cqtail * l.length) = true →
      (s.ringPut n l).2 = false ∧ ∀ a, ((s.ringPut n l).1).hostByte a = s.hostByte a) ∧
    (∀ (n : Nat) (l : List Byte), ((s.ringPut n l).1).q n = { s.q n with
          cqtail := ((s.q n).cqtail + 1) % (s.q n).cqsize
          phase := if ((s.q n).cqtail + 1) % (s.q n).cqsize = 0 then !(s.q n).phase else (s.q n).phase } ∧
        ∀ m, m ≠ n → ((s.ringPut n l).1).q m = s.q m) ∧
    (∀ (c : Compl), (s.q c.queue).exists' = true → s.hri.d3hot = false →
      s.hri.badAddrs.contains ((s.q c.queue).cqbase + (s.q c.queue).cqtail * 16) = false →
      s.complete c = ((s.ringPut c.queue (complBytes c.queue c.tag c.typ c.code c.frz c.result (s.q
        c.queue).sqhead s.time32)).1).ringWritten
        c.queue (c.queue == 0 || c.frz)) ∧
    (∀ (c : Compl), (s.q c.queue).exists' = true → s.hri.d3hot = false →
      s.hri.badAddrs.contains ((s.q c.queue).cqbase + (s.q c.queue).cqtail * 16) = true →
      ∃ u : State, s.complete c = u.post 4 2 c.queue 1 ∧ u.rb R.HRI_STAT 5 = true ∧ ∀ a, u.hostByte a = s.hostByte
        a) ∧
    (∀ (c : Compl), (s.q c.queue).exists' = true → s.hri.d3hot = true →
      s.complete c = { s with hri.deferred := s.hri.deferred ++ [c] }) ∧
    (∀ (c : Compl), (s.q c.queue).exists' = false → s.complete c = s) ∧
    (∀ (c : Cmd) (segs : Segs) (len off a j : Nat) (l : List Byte), j < l.length →
      bufAddr (bufRanges c segs len) (off + j) = some a →
      (∀ i < l.length, j < i → bufAddr (bufRanges c segs len) (off + i) ≠ some a) →
      (s.putBuffer c segs len off l).hostByte a = some (l.getD j 0)) ∧
    (∀ (c : Cmd) (segs : Segs) (len off a : Nat) (l : List Byte),
      (∀ i < l.length, bufAddr (bufRanges c segs len) (off + i) ≠ some a) →
      (s.putBuffer c segs len off l).hostByte a = s.hostByte a)

/-- O21. An entry written to a ring with IEN = 0 signals nothing. With IEN = 1 it signals at once when it is urgent,
when CTHRESH and CTIME are both 0, or when the count reaches CTHRESH; count and timer are then cleared. Otherwise it
is counted, and the timer runs where CTIME is not 0. The timer's expiry signals and clears both. With MSI-X enabled
a signal of an unmasked vector sends its message; of a masked vector, or with the function masked, it sets the
Pending bit; in D3hot it stays pending likewise (R101); with MSI-X disabled nothing is sent. Unmasking a vector,
where nothing else holds it, sends what was pending, once. The host writes a vector's address, data and mask in BAR4
(R100), and enable and function mask in the Message Control word, once boot is done; a configuration request before
that is answered with a retry status and does nothing (R75). -/
def Obligations.RingsSignalTheirVectors : Prop :=
  ∀ s : State,
    (∀ (n : Nat) (urgent : Bool), (s.q n).ien = false → s.ringWritten n urgent = s) ∧
    (∀ (n : Nat) (urgent : Bool), (s.q n).ien = true →
      urgent = true ∨ ((s.q n).cthresh = 0 ∧ (s.q n).ctime = 0) ∨ ((s.q n).cthresh ≠ 0 ∧ (s.q n).cthresh ≤ (s.q
        n).count + 1) →
      s.ringWritten n urgent = (s.setQ n { s.q n with count := 0, timer := false }).signal (s.q n).vector) ∧
    (∀ (n : Nat), (s.q n).ien = true → (s.q n).cthresh ≠ 0 ∨ (s.q n).ctime ≠ 0 →
      (s.q n).cthresh = 0 ∨ (s.q n).count + 1 < (s.q n).cthresh →
      s.ringWritten n false = s.setQ n
        { s.q n with count := (s.q n).count + 1, timer := (s.q n).timer || (s.q n).ctime != 0 }) ∧
    (∀ (v : Nat), s.hri.msixEnable = true → (s.vec v).masked = false → s.hri.funcMask = false →
      s.hri.d3hot = false → s.signal v = s.setVec v { s.vec v with
        pending := false, sent := (s.vec v).sent + 1, last := some ((s.vec v).addr, (s.vec v).data) }) ∧
    (∀ (v : Nat), s.hri.msixEnable = true →
      (s.vec v).masked = true ∨ s.hri.funcMask = true ∨ s.hri.d3hot = true →
      s.signal v = s.setVec v { s.vec v with pending := true }) ∧
    (∀ (v : Nat), s.hri.msixEnable = false → s.signal v = s) ∧
    (∀ (q : Fin 37), s.d0up = true → (s.q q.val).exists' = true → (s.q q.val).timer = true →
      (s.q q.val).ien = true → (s.q q.val).ctime ≠ 0 → Answers (.coalesceTimerExpiry q) s fun t =>
        t = (s.setQ q.val { s.q q.val with count := 0, timer := false }).signal (s.q q.val).vector) ∧
    (∀ (q : Fin 37), (s.q q.val).ien = false ∨ (s.q q.val).ctime = 0 →
      Answers (.coalesceTimerExpiry q) s fun t => t = s) ∧
    (∀ (v : Fin 64), s.bar2Up = true → s.hri.msixEnable = true → s.hri.funcMask = false →
      Answers (.msixUnmask v) s fun t =>
        (t.vec v.val).masked = false ∧ (t.vec v.val).pending = false ∧
          (t.vec v.val).sent = (s.vec v.val).sent + (if (s.vec v.val).pending then 1 else 0)) ∧
    (∀ (v : Fin 64), s.bar2Up = true → s.hri.msixEnable = false ∨ s.hri.funcMask = true →
      Answers (.msixUnmask v) s fun t => t = s.setVec v.val { s.vec v.val with masked := false }) ∧
    (∀ (v : Fin 64) (d : Dword), s.bar2Up = true →
      Answers (.registerStore .host .bar4 (16 * v.val + 8) 4 d) s fun t =>
        t = s.setVec v.val { s.vec v.val with data := d.setWidth 32 }) ∧
    (∀ (v : Fin 64) (d : Dword), s.bar2Up = true →
      Answers (.registerStore .host .bar4 (16 * v.val) 4 d) s fun t =>
        t = s.setVec v.val { s.vec v.val with
          addr := ((s.vec v.val).addr.extractLsb' 32 32 ++ (d.setWidth 32 &&& 0xFFFFFFFC : Word) : BitVec 64) }) ∧
    (∀ (v : Fin 64) (d : Dword), s.bar2Up = true → d.getLsbD 0 = true →
      s.hri.msixEnable = false ∨ s.hri.funcMask = true →
      Answers (.registerStore .host .bar4 (16 * v.val + 12) 4 d) s fun t =>
        t = s.setVec v.val { s.vec v.val with masked := true }) ∧
    (∀ (a n : Nat) (d : Dword), s.d0up = true → s.rb R.RST_STAT 5 = true →
      Answers (.registerStore .host .msixControl a n d) s fun t =>
        t.hri.msixEnable = d.getLsbD 15 ∧ t.hri.funcMask = d.getLsbD 14 ∧
          (d.getLsbD 15 = true → d.getLsbD 14 = false → s.hri.d3hot = false → ∀ v < 64, (s.vec v).masked = false →
            (t.vec v).pending = false)) ∧
    (∀ (a n : Nat) (d : Dword), s.d0up = true → s.rb R.RST_STAT 5 = false →
      Answers (.registerStore .host .msixControl a n d) s fun t =>
        t = { s with hri.retried := s.hri.retried + 1 })

/-- O22. A write of a doorbell, whole or of its lower half, counts; one of its upper half alone, and any other write in
BAR2 that names no doorbell, has no effect, and a read there answers 0 (R104, R105). A submission doorbell of an
existing queue with a ring and an index in range sets that queue's tail, and unless the index repeats a device in
IDLE is in RUN. A completion doorbell whose head releases only written entries sets the head. An invalidation of a
queue rereads its context entry: with no offending field every tuning field is taken over and geometry and indices
stay; an offending field sets CTXBAD and posts event 5 with its offset; an unreadable entry changes no field and
posts 0xFFFFFFFF. A row of a submission doorbell at the invalidation's offset is that invalidation, the entries read
being free values. -/
def Obligations.DoorbellsMoveHeadsAndTails : Prop :=
  ∀ s : State,
    (∀ (off size : Nat) (d : Dword) (q : Fin 37) (v : Nat), doorbellAt off size d = some (16 * q.val, v) →
      s.bar2Up = true → (s.q q.val).exists' = true → q.val ≠ 34 → q.val ≠ 35 → v % 65536 < (s.q q.val).sqsize →
      Answers (.submissionBell off size (some d)) s fun t =>
        t.q q.val = { s.q q.val with sqtail := v % 65536, stuck := (s.q q.val).stuck && decide (q.val ≠ 0) } ∧
          (v % 65536 ≠ (s.q q.val).sqtail → t.pstate = (if s.pstate = 1 then 0 else s.pstate))) ∧
    (∀ (off size : Nat) (d : Dword) (q : Fin 37) (v : Nat), doorbellAt off size d = some (16 * q.val, v) →
      q.val = 34 ∨ q.val = 35 ∨ (s.q q.val).exists' = false ∨ (s.q q.val).sqsize ≤ v % 65536 →
      s.rb R.HRI_STAT 4 = true → Answers (.submissionBell off size (some d)) s fun t => t = s) ∧
    (∀ (off size : Nat) (d : Dword) (q : Fin 37) (v : Nat), doorbellAt off size d = some (16 * q.val + 8, v) →
      s.bar2Up = true → (s.q q.val).exists' = true → v % 65536 ≠ (s.q q.val).cqhead →
      v % 65536 < (s.q q.val).cqsize →
      (v % 65536 + (s.q q.val).cqsize - (s.q q.val).cqhead) % (s.q q.val).cqsize ≤ (s.q q.val).used →
      Answers (.completionBell off size (some d)) s fun t =>
        t = s.setQ q.val { s.q q.val with cqhead := v % 65536 }) ∧
    (∀ (off size : Nat) (d : Dword) (v : Nat) (e : Entry) (n : Nat), doorbellAt off size d = some (0x1000, v) →
      s.bar2Up = true → v % 65536 = n → n ≤ 36 → (s.q n).exists' = true → ctxOffends n (s.q n) e = none →
      Answers (.contextBell off size (some d) [some e]) s fun t =>
        (t.q n).ien = nbit 0 (ent e 1 1) ∧ (t.q n).vector = ent e 6 1 ∧ (t.q n).weight = ent e 7 1 ∧
          (t.q n).cthresh = ent e 24 2 ∧
          (t.q n).ctime = ent e 26 2 ∧ (t.q n).sqsize = (s.q n).sqsize ∧ (t.q n).sqhead = (s.q n).sqhead ∧
          t.rd R.HRI_STAT = s.rd R.HRI_STAT) ∧
    (∀ (off size : Nat) (d : Dword) (v : Nat) (e : Entry) (n o : Nat),
      doorbellAt off size d = some (0x1000, v) → s.bar2Up = true → v % 65536 = n → n ≤ 36 →
      (s.q n).exists' = true → ctxOffends n (s.q n) e = some o →
      Answers (.contextBell off size (some d) [some e]) s fun t =>
        ∃ u : State, t = u.post 5 1 n o ∧ u.rb R.HRI_STAT 3 = true ∧ (u.q n).sqsize = (s.q n).sqsize ∧
          (u.q n).cqsize = (s.q n).cqsize ∧ (u.q n).sqbase = (s.q n).sqbase ∧
          (u.q n).cqbase = (s.q n).cqbase) ∧
    (∀ (off size : Nat) (d : Dword) (v : Nat) (n : Nat), doorbellAt off size d = some (0x1000, v) →
      s.bar2Up = true → v % 65536 = n → n ≤ 36 → (s.q n).exists' = true →
      Answers (.contextBell off size (some d) [none]) s fun t =>
        t = (s.flag R.HRI_STAT 3).post 5 1 n 0xFFFFFFFF) ∧
    (∀ (off size : Nat) (d : Dword) (v : Nat) (reads : List (Option Entry)),
      doorbellAt off size d = some (0x1000, v) → v % 65536 ≠ 0xFFFF →
      (s.q (v % 65536)).exists' = false ∨ 36 < v % 65536 →
      Answers (.contextBell off size (some d) reads) s fun t => t = s) ∧
    (∀ (off size : Nat) (d : Dword) (q : Fin 37) (v : Nat), doorbellAt off size d = some (16 * q.val + 8, v) →
      (s.q q.val).exists' = true → v % 65536 < (s.q q.val).cqsize → v % 65536 = (s.q q.val).cqhead →
      Answers (.completionBell off size (some d)) s fun t => t = s) ∧
    (∀ (off size : Nat), s.bar2Up = true →
      Answers (.submissionBell off size none) s fun t => t = s.answer .host 0) ∧
    (∀ (off size : Nat), s.bar2Up = true →
      Answers (.completionBell off size none) s fun t => t = s.answer .host 0) ∧
    (∀ (off size : Nat) (reads : List (Option Entry)), s.bar2Up = true →
      Answers (.contextBell off size none reads) s fun t => t = s.answer .host 0) ∧
    (∀ (off size : Nat) (d : Dword) (v : Nat), doorbellAt off size d = some (0x1000, v) → s.bar2Up = true →
      Answers (.submissionBell off size (some d)) s fun t =>
        t = ({ s with free := s.free + 1 } : State).ctxInvalidate v (Config.ctxReads s.free)) ∧
    (∀ (off size : Nat) (d : Dword), ∀ o v, doorbellAt off size d = some (o, v) → 592 ≤ o ∧ o ≠ 0x1000 →
      Answers (.submissionBell off size (some d)) s fun t => t = s)

/-- O23. CREATE-QUEUE with a context entry in order completes with SUCCESS and makes a queue of that geometry and
tuning, empty, its indices 0 and its phase 1; in D3hot the queue exists only once its completion is written; an
existing queue or queue 0 gives QUEUE EXISTS (8), a number above 36 INVALID QUEUE (0x0A), an entry out of order
INVALID FIELD with its offset + 0x1000, an unreadable one DATA TRANSFER ERROR (4). DELETE-QUEUE of a queue with
nothing in flight deletes it; with commands in flight it waits; a queue that is not there gives QUEUE INEXISTENT
(9). QUEUE-RESET abandons what is in flight and leaves the queue as just created with the same geometry, in D3hot
once its completion is written; of queues 0, 34, 35 and above 36 it gives INVALID QUEUE, of one that is not there
QUEUE INEXISTENT. HRI_CTL.EN = 1 reads context entry 0 once DRAM is wiped: queue 0 exists and RDY is set, or ADMFAIL
is set; EN = 0 deletes every queue and clears RDY. -/
def Obligations.QueuesAreCreatedDeletedAndReset : Prop :=
  ∀ s : State,
    (∀ (c : Cmd) (n : Nat) (e : Entry), s.admin 1 = some c → c.f 48 2 = n → 1 ≤ n → n ≤ 36 → n ≠ 35 →
      (s.q n).exists' = false → ctxBad n e = none → s.hri.d3hot = false →
      Answers (.createQueue (some e)) s fun t =>
        (t.q n).exists' = true ∧ (t.q n).sqsize = ent e 2 2 ∧ (t.q n).cqsize = ent e 4 2 ∧
          (t.q n).vector = ent e 6 1 ∧
          (t.q n).sqbase = ent e 8 8 ∧ (t.q n).cqbase = ent e 16 8 ∧ (t.q n).sqhead = 0 ∧
          (t.q n).sqtail = 0 ∧ (t.q n).cqhead = 0 ∧
          (t.q n).cqtail = 0 ∧ (t.q n).phase = true ∧ (t.q n).inflight = [] ∧ (t.q n).frozen = false) ∧
    (∀ (c : Cmd) (n : Nat) (e : Entry), s.admin 1 = some c → c.f 48 2 = n → 1 ≤ n → n ≤ 36 →
      (s.q n).exists' = false → ctxBad n e = none → s.hri.d3hot = true → (s.q 0).exists' = true →
      Answers (.createQueue (some e)) s fun t =>
        (t.q n).exists' = false ∧ t.hri.deferred = s.hri.deferred ++
            [{ queue := 0, tag := c.tag, typ := 0, code := 0, frz := false, result := 0, create := some (n, e) }]) ∧
    (∀ (c : Cmd) (e : Entry), s.admin 1 = some c → c.f 48 2 = 35 → (s.q 35).exists' = false →
      ctxBad 35 e = none → s.hri.d3hot = false → Answers (.createQueue (some e)) s fun t =>
        t = ((s.adminDone c 0 0 0).setQ 35 (queueOf e)).drainEvents) ∧
    (∀ (c : Cmd) (code : Nat) (ctx : Option Entry), s.admin 1 = some c →
      (c.f 48 2 = 0 ∨ (s.q (c.f 48 2)).exists' = true) ∧ code = 8 ∨ (c.f 48 2 ≠ 0 ∧ (s.q (c.f 48 2)).exists' =
        false ∧ 36 < c.f 48 2) ∧ code = 0x0A →
      Answers (.createQueue ctx) s fun t => t = s.adminDone c 0 code 0) ∧
    (∀ (c : Cmd), s.admin 1 = some c → c.f 48 2 ≠ 0 → c.f 48 2 ≤ 36 → (s.q (c.f 48 2)).exists' = false →
      Answers (.createQueue none) s fun t => t = s.adminDone c 0 4 0) ∧
    (∀ (c : Cmd) (e : Entry) (off : Nat), s.admin 1 = some c → c.f 48 2 ≠ 0 → c.f 48 2 ≤ 36 →
      (s.q (c.f 48 2)).exists' = false → ctxBad (c.f 48 2) e = some off →
      Answers (.createQueue (some e)) s fun t => t = s.adminDone c 0 2 (0x1000 + off)) ∧
    (∀ (c : Cmd) (n : Nat), s.admin 2 = some c → c.f 48 2 = n → 1 ≤ n → n ≤ 36 → (s.q n).exists' = true →
      (s.q n).deleting = none → (s.q n).inflight = [] → s.hri.deferred = [] →
      Answers .deleteQueue s fun t => (t.q n).exists' = false) ∧
    (∀ (c : Cmd) (n : Nat), s.admin 2 = some c → c.f 48 2 = n → 1 ≤ n → n ≤ 36 → n ≠ 34 → n ≠ 35 →
      (s.q n).exists' = true → (s.q n).deleting = none → (s.q n).inflight ≠ [] → Answers .deleteQueue s fun t =>
        (t.q n).exists' = true ∧ (t.q n).deleting = some (BitVec.ofNat 16 c.tag) ∧
          (t.q n).inflight = (s.q n).inflight ∧ t.hri.hostMem = s.hri.hostMem) ∧
    (∀ (c : Cmd) (code : Nat), s.admin 2 = some c →
      (c.f 48 2 = 0 ∨ 36 < c.f 48 2) ∧ code = 0x0A ∨ (1 ≤ c.f 48 2 ∧ c.f 48 2 ≤ 36 ∧ (s.q (c.f 48 2)).exists' =
        false) ∧ code = 9 →
      Answers .deleteQueue s fun t => t = s.adminDone c 0 code 0) ∧
    (∀ (c : Cmd) (n : Nat), s.admin 3 = some c → c.f 48 2 = n → 1 ≤ n → n ≤ 36 → n ≠ 34 → n ≠ 35 →
      (s.q n).exists' = true → (s.q n).deleting = none → s.hri.d3hot = false → Answers .queueReset s fun t =>
        (t.q n).exists' = true ∧ (t.q n).inflight = [] ∧ (t.q n).frozen = false ∧ (t.q n).errors = [] ∧
          (t.q n).sqhead = 0 ∧
          (t.q n).sqtail = 0 ∧ (t.q n).cqhead = 0 ∧ (t.q n).cqtail = 0 ∧ (t.q n).phase = true ∧
          (t.q n).sqsize = (s.q n).sqsize ∧
          (t.q n).cqsize = (s.q n).cqsize ∧ (t.q n).vector = (s.q n).vector ∧
          (t.q n).sqbase = (s.q n).sqbase ∧ (t.q n).cqbase = (s.q n).cqbase) ∧
    (∀ (c : Cmd) (n : Nat), s.admin 3 = some c → c.f 48 2 = n → 1 ≤ n → n ≤ 36 → n ≠ 34 → n ≠ 35 →
      (s.q n).exists' = true → (s.q 0).exists' = true → (s.q n).deleting = none → s.hri.d3hot = true →
      Answers .queueReset s fun t =>
        (t.q n).exists' = true ∧ (t.q n).inflight = [] ∧ (t.q n).frozen = (s.q n).frozen ∧
          (t.q n).sqhead = (s.q n).sqhead ∧
          t.hri.deferred = s.hri.deferred.filter (fun d => d.queue != n) ++
            [{ queue := 0, tag := c.tag, typ := 0, code := 0, frz := false, result := 0, reset := some n }]) ∧
    (∀ (c : Cmd) (code : Nat), s.admin 3 = some c →
      (c.f 48 2 = 0 ∨ c.f 48 2 = 34 ∨ c.f 48 2 = 35 ∨ 36 < c.f 48 2) ∧ code = 0x0A ∨ (1 ≤ c.f 48 2 ∧ c.f 48 2 ≤ 36
        ∧ c.f 48 2 ≠ 34 ∧ c.f 48 2 ≠ 35 ∧ (s.q (c.f 48 2)).exists' = false) ∧ code = 9 →
      Answers .queueReset s fun t => t = s.adminDone c 0 code 0) ∧
    (∀ (m : Master) (e : Entry), s.rb R.HRI_CTL 0 = false → s.reaches m R.HRI_CTL = true →
      s.rb R.RST_STAT 5 = true → s.d0up = true → ctxBad 0 e = none → Answers (.hriEnable m (some e)) s fun t =>
        (t.q 0).exists' = true ∧ (t.q 0).sqsize = ent e 2 2 ∧ (t.q 0).cqsize = ent e 4 2 ∧
          t.rb R.HRI_STAT 1 = true ∧ t.rb R.HRI_CTL 0 = true) ∧
    (∀ (m : Master) (e : Option Entry), s.rb R.HRI_CTL 0 = false → s.reaches m R.HRI_CTL = true →
      s.rb R.RST_STAT 5 = true → s.d0up = true → e.all (fun x => (ctxBad 0 x).isSome) = true →
      Answers (.hriEnable m e) s fun t => t.rb R.HRI_STAT 2 = true ∧ t.hri.queues = s.hri.queues) ∧
    (∀ (m : Master), s.rb R.HRI_CTL 0 = true → s.reaches m R.HRI_CTL = true →
      Answers (.hriDisable m) s fun t =>
        t.hri.queues = [] ∧ t.rb R.HRI_CTL 0 = false ∧ t.rb R.HRI_STAT 1 = false ∧
          ((∀ n, (s.q n).inflight = []) → t.hri.hostMem = s.hri.hostMem ∧ t.hri.held = s.hri.held))

/-- O24. When it is a queue's turn the entry at its head is read and the head moves on. A storage command is checked in
the order opcode (INVALID OPCODE), fields (INVALID FIELD with the first offending offset), namespace (6), tag in use
(3), range and access (TYPE 1), store ready (NOT READY, without freezing the queue); the first that fails gives the
error, and a command that passes all is in flight with its fetch order (R142). Admin, SEND and SETPOINT entries are
checked likewise (R581, R284, R448). An entry that cannot be read sets RINGERR and posts event 4, severity 2: queue
0 waits for the next doorbell, another queue freezes. Where it is not the queue's turn nothing is fetched. GET-LOG-
PAGE of pages 1 to 5 with a buffer in order writes the page's bytes there, cut to the length asked for or filled
with 0 up to it, touches no other byte of host memory before its completion, and completes with SUCCESS and RESULT
the page's length. Page 1 is the error page of the queue named; of a queue that does not exist it gives QUEUE
INEXISTENT, of queues 0, 34, 35 and above 36 INVALID QUEUE. A page not defined gives INVALID LOG PAGE (0x0B). -/
def Obligations.EntriesAreCheckedAndLogPagesRead : Prop :=
  ∀ s : State,
    (∀ (q : Fin 37), s.fetchTurn q.val = true → Answers (.entryFetch q none) s fun t =>
        t.rb R.HRI_STAT 5 = true ∧ (t.q q.val).frozen = decide (q.val ≠ 0 ∨ (s.q q.val).frozen = true) ∧
          (t.q q.val).stuck = decide (q.val = 0 ∨ (s.q q.val).stuck = true) ∧
          (t.q q.val).sqhead = (s.q q.val).sqhead) ∧
    (∀ (q : Fin 37) (e : Entry) (c : Cmd), s.fetchTurn q.val = true → isStorage q.val = true →
      c = { entry := e, sqidx := (s.q q.val).sqhead, order := s.hri.order } →
      [1, 2, 3, 4, 0x20].contains c.opcode = true →
      (if c.opcode = 0x20 then jrBadField c else stoBadField c) = none →
      (if c.opcode = 0x20 then c.nsid = 2 else stoNsOk c = true) → s.tagUsed q.val c = false →
      c.opcode = 0x20 ∨ stoRange c = none → s.notReady c = false → Answers (.entryFetch q (some e)) s fun t =>
        (t.q q.val).inflight = (s.q q.val).inflight ++
            [if c.opcode = 3 then { c with waits := s.flushCover q.val c.order } else c] ∧
          (t.q q.val).sqhead = ((s.q q.val).sqhead + 1) % (s.q q.val).sqsize ∧ t.hri.order = s.hri.order + 1) ∧
    (∀ (q : Fin 37) (e : Entry) (c : Cmd), s.fetchTurn q.val = true → isStorage q.val = true →
      c = { entry := e, sqidx := (s.q q.val).sqhead, order := s.hri.order } →
      [1, 2, 3, 4, 0x20].contains c.opcode = false → Answers (.entryFetch q (some e)) s fun t =>
        ∃ u : State, t = u.failed q.val c 0 1 0 noLba 0 ∧
          u.q q.val = { s.q q.val with sqhead := ((s.q q.val).sqhead + 1) % (s.q q.val).sqsize }) ∧
    (∀ (q : Fin 37) (e : Entry) (c : Cmd) (off : Nat), s.fetchTurn q.val = true → isStorage q.val = true →
      c = { entry := e, sqidx := (s.q q.val).sqhead, order := s.hri.order } →
      [1, 2, 3, 4, 0x20].contains c.opcode = true →
      (if c.opcode = 0x20 then jrBadField c else stoBadField c) = some off →
      Answers (.entryFetch q (some e)) s fun t =>
        ∃ u : State, t = u.failed q.val c 0 2 off noLba 0 ∧
          u.q q.val = { s.q q.val with sqhead := ((s.q q.val).sqhead + 1) % (s.q q.val).sqsize }) ∧
    (∀ (q : Fin 37) (e : Entry) (c : Cmd), s.fetchTurn q.val = true → isStorage q.val = true →
      c = { entry := e, sqidx := (s.q q.val).sqhead, order := s.hri.order } →
      [1, 2, 3, 4, 0x20].contains c.opcode = true →
      (if c.opcode = 0x20 then jrBadField c else stoBadField c) = none →
      (if c.opcode = 0x20 then c.nsid ≠ 2 else stoNsOk c = false) → Answers (.entryFetch q (some e)) s fun t =>
        ∃ u : State, t = u.failed q.val c 0 6 0 noLba 0 ∧
          u.q q.val = { s.q q.val with sqhead := ((s.q q.val).sqhead + 1) % (s.q q.val).sqsize }) ∧
    (∀ (q : Fin 37) (e : Entry) (c : Cmd), s.fetchTurn q.val = true → isStorage q.val = true →
      c = { entry := e, sqidx := (s.q q.val).sqhead, order := s.hri.order } →
      [1, 2, 3, 4, 0x20].contains c.opcode = true →
      (if c.opcode = 0x20 then jrBadField c else stoBadField c) = none →
      (if c.opcode = 0x20 then c.nsid = 2 else stoNsOk c = true) → s.tagUsed q.val c = true →
      Answers (.entryFetch q (some e)) s fun t =>
        ∃ u : State, t = u.failed q.val c 0 3 0 noLba 0 ∧
          u.q q.val = { s.q q.val with sqhead := ((s.q q.val).sqhead + 1) % (s.q q.val).sqsize }) ∧
    (∀ (q : Fin 37) (e : Entry) (c : Cmd) (code : Nat), s.fetchTurn q.val = true → isStorage q.val = true →
      c = { entry := e, sqidx := (s.q q.val).sqhead, order := s.hri.order } →
      [1, 2, 3, 4].contains c.opcode = true → stoBadField c = none → stoNsOk c = true →
      s.tagUsed q.val c = false → stoRange c = some code → Answers (.entryFetch q (some e)) s fun t =>
        ∃ u : State, t = u.failed q.val c 1 code 0 c.slba 0 ∧
          u.q q.val = { s.q q.val with sqhead := ((s.q q.val).sqhead + 1) % (s.q q.val).sqsize }) ∧
    (∀ (q : Fin 37) (e : Entry) (c : Cmd), s.fetchTurn q.val = true → isStorage q.val = true →
      c = { entry := e, sqidx := (s.q q.val).sqhead, order := s.hri.order } →
      [1, 2, 3, 4].contains c.opcode = true → stoBadField c = none → stoNsOk c = true →
      s.tagUsed q.val c = false → stoRange c = none → s.notReady c = true →
      Answers (.entryFetch q (some e)) s fun t =>
        (t.q q.val).inflight = (s.q q.val).inflight ∧ (t.q q.val).frozen = (s.q q.val).frozen ∧
          (t.q q.val).sqhead = ((s.q q.val).sqhead + 1) % (s.q q.val).sqsize) ∧
    (∀ (e : Entry) (c : Cmd), s.fetchTurn 0 = true →
      c = { entry := e, sqidx := (s.q 0).sqhead, order := s.hri.order } → adminOps.contains c.opcode = true →
      adminBad c = none → s.tagUsed 0 c = false → Answers (.entryFetch 0 (some e)) s fun t =>
        (t.q 0).inflight = (s.q 0).inflight ++ [c] ∧ (t.q 0).sqhead = ((s.q 0).sqhead + 1) % (s.q 0).sqsize) ∧
    (∀ (q : Fin 37) (e : Entry) (c : Cmd), s.fetchTurn q.val = true → q.val = 33 ∨ q.val = 36 →
      c = { entry := e, sqidx := (s.q q.val).sqhead, order := s.hri.order } → c.opcode = 1 →
      (if q.val = 33 then s.sendBad c else spBadField c) = none → s.tagUsed q.val c = false →
      Answers (.entryFetch q (some e)) s fun t =>
        (t.q q.val).inflight = (s.q q.val).inflight ++ [c] ∧
          (t.q q.val).sqhead = ((s.q q.val).sqhead + 1) % (s.q q.val).sqsize) ∧
    (∀ (q : Fin 37) (e : Option Entry), s.fetchTurn q.val = false → Answers (.entryFetch q e) s fun t => t = s) ∧
    (∀ (segs : Segs) (c : Cmd) (p : Nat), s.admin 4 = some c → c.f 48 1 = p → 2 ≤ p → p ≤ 5 →
      checkSegs c segs (c.f 52 4) = .good → Answers (.getLogPage segs true) s fun t =>
        t = (s.putBuffer c segs (c.f 52 4) 0 (padTo (c.f 52 4) 0 (s.logPage p))).adminDone c 0 0 (s.logPage
          p).length) ∧
    (∀ (segs : Segs) (c : Cmd) (n : Nat), s.admin 4 = some c → c.f 48 1 = 1 → c.f 50 2 = n → 1 ≤ n → n ≤ 36 →
      n ≠ 34 → n ≠ 35 → (s.q n).exists' = true → checkSegs c segs (c.f 52 4) = .good →
      Answers (.getLogPage segs true) s fun t =>
        t = (s.putBuffer c segs (c.f 52 4) 0 (padTo (c.f 52 4) 0 ((s.q n).errorPage n))).adminDone c 0 0 544) ∧
    (∀ (segs : Segs) (ok : Bool) (c : Cmd) (code : Nat), s.admin 4 = some c →
      (c.f 48 1 = 0 ∨ 5 < c.f 48 1) ∧ code = 0x0B ∨ (c.f 48 1 = 1 ∧ (c.f 50 2 = 0 ∨ c.f 50 2 = 34 ∨ c.f 50 2 = 35
        ∨ 36 < c.f 50 2)) ∧ code = 0x0A ∨ (c.f 48 1 = 1 ∧ 1 ≤ c.f 50 2 ∧ c.f 50 2 ≤ 36 ∧ c.f 50 2 ≠ 34 ∧ c.f 50 2
        ≠ 35 ∧ (s.q (c.f 50 2)).exists' = false) ∧ code = 9 →
      Answers (.getLogPage segs ok) s fun t => t = s.adminDone c 0 code 0) ∧
    (∀ (segs : Segs) (c : Cmd), s.admin 4 = some c → 2 ≤ c.f 48 1 → c.f 48 1 ≤ 5 →
      checkSegs c segs (c.f 52 4) = .good → Answers (.getLogPage segs false) s fun t => t = s.adminDone c 0 4 0)

/-- O25. A READ of NS1 whose units can be read (tiers 1 to 3, no die lost, none of them known to have failed) writes the
content of its blocks, in order, into its buffer and completes with SUCCESS; one of NS2 does so with the bytes of
the journal. A one-block read of a unit on a lost die returns what the rest of its stripe yields (tier 4). A scatter
list that breaks its rules gives SCATTER MISMATCH (7), one that cannot be read or a failing transfer DATA TRANSFER
ERROR (4). A one-block read whose unit fails every tier gives the media error of TYPE 2, RESULT 0, with its LBA,
freezes the queue, and the unit of NS1 fails again whenever it is read until it is rewritten (R145); an SRAM error
on the way gives code 5 (R26). -/
def Obligations.ReadsReturnTheContent : Prop :=
  ∀ s : State,
    (∀ (q : Fin 37) (tag : Half) (segs : Segs) (outs : List UnitOut) (n : Nat) (c : Cmd),
      s.stoCmd q.val tag.toNat 1 = some c → s.dataUp = true → c.nsid = 1 →
      checkSegs c segs (4096 * c.nblk) = .good → s.store.dieTable = none → s.store.die2 = none →
      s.store.badLocs = [] → (∀ o ∈ outs, o = .tier1 ∨ o = .tier1High ∨ o = .tier2 ∨ o = .tier3) →
      Answers (.readBlocks q tag segs outs true n) s fun t =>
        ∃ u : State, t = u.finish q.val c 0 0 0 ∧
          u.hri.hostMem = (putBlocks c segs (4096 * c.nblk) 0 ((List.range c.nblk).map fun i => some (s.ns1
            (c.slba + i))) s).hri.hostMem) ∧
    (∀ (q : Fin 37) (tag : Half) (segs : Segs) (outs : List UnitOut) (n : Nat) (c : Cmd),
      s.stoCmd q.val tag.toNat 1 = some c → s.dataUp = true → c.nsid = 2 →
      checkSegs c segs (4096 * c.nblk) = .good → s.store.dieTable = none → s.store.die2 = none →
      s.store.badNs2 = [] → (∀ o ∈ outs, o = .tier1 ∨ o = .tier1High ∨ o = .tier2 ∨ o = .tier3) →
      Answers (.readBlocks q tag segs outs true n) s fun t =>
        ∃ u : State, t = u.finish q.val c 0 0 0 ∧
          u.hri.hostMem = (putBlocks c segs (4096 * c.nblk) 0 ((List.range c.nblk).map fun i => some (s.ns2
            (c.slba + i))) s).hri.hostMem) ∧
    (∀ (q : Fin 37) (tag : Half) (segs : Segs) (o : UnitOut) (n : Nat) (c : Cmd) (w : Codeword),
      s.stoCmd q.val tag.toNat 1 = some c → s.dataUp = true → c.nsid = 1 → c.nblk = 1 →
      checkSegs c segs (4096 * c.nblk) = .good → s.staged c.slba = none →
      (s.store.cell (s.mapAt c.slba).toNat).isSome = true → s.store.die2 = none →
      s.store.gone.contains (dieOf (s.mapAt c.slba)) = true →
      s.store.badLocs.contains (s.mapAt c.slba).toNat = false →
      s.store.rebuild (s.mapAt c.slba).toNat = some w → o ≠ .failed → o ≠ .sramUe →
      Answers (.readBlocks q tag segs [o] true n) s fun t =>
        ∃ u : State, t = u.finish q.val c 0 0 0 ∧
          u.hri.hostMem = (putBlocks c segs (4096 * c.nblk) 0 [some ((s.media c.slba).dec w.data)] s).hri.hostMem) ∧
    (∀ (q : Fin 37) (tag : Half) (segs : Segs) (outs : List UnitOut) (ok : Bool) (n : Nat) (c : Cmd) (code detail
        : Nat),
      s.stoCmd q.val tag.toNat 1 = some c → s.dataUp = true →
      checkSegs c segs (4096 * c.nblk) = .mismatch ∧ code = 7 ∧ detail = 0 ∨ checkSegs c segs (4096 * c.nblk) =
        .unreadable ∧ code = 4 ∧ detail = 1 →
      Answers (.readBlocks q tag segs outs ok n) s fun t =>
        t = (s.sramFixed n).fail q.val c 0 code 0 c.slba detail) ∧
    (∀ (q : Fin 37) (tag : Half) (segs : Segs) (n : Nat) (c : Cmd), s.stoCmd q.val tag.toNat 1 = some c →
      s.dataUp = true → c.nsid = 2 → checkSegs c segs (4096 * c.nblk) = .good → s.store.dieTable = none →
      s.store.die2 = none → s.store.badNs2 = [] → Answers (.readBlocks q tag segs [] false n) s fun t =>
        ∃ u : State, t = u.fail q.val c 0 4 0 c.slba 0 ∧ u.hri.hostMem = s.hri.hostMem) ∧
    (∀ (q : Fin 37) (tag : Half) (segs : Segs) (n : Nat) (c : Cmd), s.stoCmd q.val tag.toNat 1 = some c →
      s.dataUp = true → c.nsid = 1 → c.nblk = 1 → checkSegs c segs 4096 = .good → s.staged c.slba = none →
      (s.store.cell (s.mapAt c.slba).toNat).isSome = true → s.evReady = false →
      Answers (.readBlocks q tag segs [.failed] true n) s fun t =>
        ∃ u : State, t = u.fail q.val c 2 1 0 c.slba 1 ∧ u.hri.hostMem = s.hri.hostMem ∧
          (s.store.die2 = none → u.store.badLocs.contains (s.mapAt c.slba).toNat = true)) ∧
    (∀ (q : Fin 37) (tag : Half) (segs : Segs) (o : UnitOut) (n : Nat) (c : Cmd),
      s.stoCmd q.val tag.toNat 1 = some c → s.dataUp = true → c.nsid = 1 → c.nblk = 1 →
      checkSegs c segs 4096 = .good → s.staged c.slba = none →
      (s.store.cell (s.mapAt c.slba).toNat).isSome = true →
      s.store.badLocs.contains (s.mapAt c.slba).toNat = true → o ≠ .sramUe → s.evReady = false →
      Answers (.readBlocks q tag segs [o] true n) s fun t =>
        ∃ u : State, t = u.fail q.val c 2 1 0 c.slba 1 ∧ u.hri.hostMem = s.hri.hostMem) ∧
    (∀ (q : Fin 37) (tag : Half) (segs : Segs) (n : Nat) (c : Cmd), s.stoCmd q.val tag.toNat 1 = some c →
      s.dataUp = true → c.nsid = 2 → c.nblk = 1 → checkSegs c segs 4096 = .good → s.ns2Written c.slba = true →
      s.evReady = false → Answers (.readBlocks q tag segs [.failed] true n) s fun t =>
        ∃ u : State, t = u.fail q.val c 2 1 0 c.slba 1 ∧ u.hri.hostMem = s.hri.hostMem) ∧
    (∀ (q : Fin 37) (tag : Half) (segs : Segs) (n : Nat) (c : Cmd), s.stoCmd q.val tag.toNat 1 = some c →
      s.dataUp = true → c.nsid = 1 → c.nblk = 1 → checkSegs c segs 4096 = .good → s.staged c.slba = none →
      (s.store.cell (s.mapAt c.slba).toNat).isSome = true →
      Answers (.readBlocks q tag segs [.sramUe] true n) s fun t =>
        ∃ u : State, t = u.fail q.val c 0 5 0 c.slba 0 ∧ u.rb R.GLB_STAT 2 = true)

/-- O26. Once a WRITE is accepted (also one that waited for the map log), each of its blocks reads as the data written
and every other block of NS1 as before, and it completes with SUCCESS. Once a TRIM completes, its blocks read as
zeros and every other block as before (with a map that names codewords of panes in use, mapSound). A WRITE that
finds no room fails with TYPE 1 code 4, event 0x47, and changes no block; with two dies lost it fails with TYPE 2
code 2; without its data it fails with code 4, with an SRAM error in the gather with code 5; one that ends with
WRITE FAULT leaves the blocks of its later units and all others as they were. While staging or the map log has no
room it waits in the gather, the store unchanged. -/
def Obligations.WritesAndTrimsChangeTheirBlocksOnly : Prop :=
  ∀ s : State,
    (∀ (q : Fin 37) (tag : Half) (segs : Segs) (d : Option (List Blk)) (l : List Blk) (n : Nat) (c : Cmd),
      s.stoCmd q.val tag.toNat 2 = some c → s.dataUp = true → checkSegs c segs (4096 * c.nblk) = .good →
      s.store.die2 = none → c.data.or d = some l → s.noSpace = false → s.stagedBlocks + c.nblk ≤ 8192 →
      s.logFull false (unitsOf c.slba c.nblk) = false → l.length = c.nblk →
      Answers (.writeBlocks q tag segs d .placed n) s fun t =>
        (∀ i < c.nblk, t.ns1 (c.slba + i) = l.getD i 0) ∧
          ∀ a, a < c.slba ∨ c.slba + c.nblk ≤ a → t.ns1 a = s.ns1 a) ∧
    (∀ (q : Fin 37) (tag : Half) (segs : Segs) (d : Option (List Blk)) (l : List Blk) (n : Nat) (c : Cmd) (us :
        Word),
      s.stoCmd q.val tag.toNat 2 = some c → s.dataUp = true → checkSegs c segs (4096 * c.nblk) = .good →
      s.store.die2 = none → c.data.or d = some l → s.noSpace = false → s.stagedBlocks + c.nblk ≤ 8192 →
      s.logFull false (unitsOf c.slba c.nblk) = false → l.length = c.nblk →
      Answers (.writeBlocks q tag segs d (.stalled us) n) s fun t =>
        (c.stalled = true → t.rb R.STO_STAT 6 = true) ∧ (∀ i < c.nblk, t.ns1 (c.slba + i) = l.getD i 0) ∧
          ∀ a, a < c.slba ∨ c.slba + c.nblk ≤ a → t.ns1 a = s.ns1 a) ∧
    (∀ (q : Fin 37) (tag : Half) (segs : Segs) (d : Option (List Blk)) (l : List Blk) (n : Nat) (c : Cmd),
      s.stoCmd q.val tag.toNat 2 = some c → s.dataUp = true → checkSegs c segs (4096 * c.nblk) = .good →
      s.store.die2 = none → c.data.or d = some l → s.noSpace = false → s.stagedBlocks + c.nblk ≤ 8192 →
      s.logFull false (unitsOf c.slba c.nblk) = false → Answers (.writeBlocks q tag segs d .placed n) s fun t =>
        ∃ u : State, t = u.finish q.val c 0 0 0 ∧ (c.stalled = false → u.hri = s.hri)) ∧
    (∀ (q : Fin 37) (tag : Half) (segs : Segs) (d : Option (List Blk)) (l : List Blk) (n : Nat) (c : Cmd) (k r :
        Nat),
      s.stoCmd q.val tag.toNat 2 = some c → s.dataUp = true → checkSegs c segs (4096 * c.nblk) = .good →
      s.store.die2 = none → c.data.or d = some l → s.noSpace = false → s.stagedBlocks + c.nblk ≤ 8192 →
      s.logFull false (unitsOf c.slba c.nblk) = false → 1 ≤ c.nblk →
      r = ((unitsOf c.slba c.nblk).getD (min k ((unitsOf c.slba c.nblk).length - 1)) (c.slba, 0)).1 - c.slba →
      Answers (.writeBlocks q tag segs d (.fault k) n) s fun t =>
        ∃ u : State, t = u.fail q.val c 2 2 r c.slba 0 ∧ u.hri = s.hri ∧
          ∀ a, a < c.slba ∨ c.slba + r ≤ a → t.ns1 a = s.ns1 a) ∧
    (∀ (q : Fin 37) (tag : Half) (segs : Segs) (d : Option (List Blk)) (l : List Blk) (n : Nat) (c : Cmd),
      s.stoCmd q.val tag.toNat 2 = some c → s.dataUp = true → checkSegs c segs (4096 * c.nblk) = .good →
      s.store.die2 = none → c.data.or d = some l → s.noSpace = false → s.stagedBlocks + c.nblk ≤ 8192 →
      s.logFull false (unitsOf c.slba c.nblk) = false → Answers (.writeBlocks q tag segs d .sramUe n) s fun t =>
        ∃ u : State, t = u.fail q.val c 0 5 0 c.slba 0 ∧ u.rb R.GLB_STAT 2 = true ∧ u.store = s.store) ∧
    (∀ (q : Fin 37) (tag : Half) (c : Cmd), s.stoCmd q.val tag.toNat 4 = some c → s.dataUp = true →
      s.store.die2 = none → s.logFull true (unitsOf c.slba c.nblk) = false → s.store.mapSound = true →
      Answers (.trim q tag) s fun t =>
        (∀ i < c.nblk, t.ns1 (c.slba + i) = 0) ∧ ∀ a, a < c.slba ∨ c.slba + c.nblk ≤ a → t.ns1 a = s.ns1 a) ∧
    (∀ (q : Fin 37) (tag : Half) (c : Cmd), s.stoCmd q.val tag.toNat 4 = some c → s.dataUp = true →
      s.store.die2 = none → s.logFull true (unitsOf c.slba c.nblk) = false → Answers (.trim q tag) s fun t =>
        ∃ u : State, t = u.finish q.val c 0 0 0 ∧ (c.stalled = false → u.hri = s.hri)) ∧
    (∀ (q : Fin 37) (tag : Half) (segs : Segs) (d : Option (List Blk)) (l : List Blk) (n : Nat) (c : Cmd) (p :
        Placement),
      s.stoCmd q.val tag.toNat 2 = some c → s.dataUp = true → checkSegs c segs (4096 * c.nblk) = .good →
      s.store.die2 = none → c.data.or d = some l → s.noSpace = true →
      Answers (.writeBlocks q tag segs d p n) s fun t =>
        t.store = s.store ∧ ∃ u : State, t = (u.post 0x47 2 q.val c.tag).fail q.val c 1 4 0 c.slba 0 ∧
          u.rb R.STO_STAT 10 = true ∧ u.hri = s.hri) ∧
    (∀ (q : Fin 37) (tag : Half) (segs : Segs) (d : Option (List Blk)) (p : Placement) (n : Nat) (c : Cmd),
      s.stoCmd q.val tag.toNat 2 = some c → s.dataUp = true → checkSegs c segs (4096 * c.nblk) = .good →
      s.store.die2.isSome = true →
      Answers (.writeBlocks q tag segs d p n) s fun t => t = (s.sramFixed n).fail q.val c 2 2 0 c.slba 0) ∧
    (∀ (q : Fin 37) (tag : Half) (segs : Segs) (p : Placement) (n : Nat) (c : Cmd),
      s.stoCmd q.val tag.toNat 2 = some c → s.dataUp = true → checkSegs c segs (4096 * c.nblk) = .good →
      s.store.die2 = none → c.data = none → Answers (.writeBlocks q tag segs none p n) s fun t =>
        t = (s.sramFixed n).fail q.val c 0 4 0 c.slba 0) ∧
    (∀ (q : Fin 37) (tag : Half) (segs : Segs) (d : Option (List Blk)) (l : List Blk) (n : Nat) (c : Cmd) (p :
        Placement),
      s.stoCmd q.val tag.toNat 2 = some c → s.dataUp = true → checkSegs c segs (4096 * c.nblk) = .good →
      s.store.die2 = none → c.data.or d = some l → s.noSpace = false → 8192 < s.stagedBlocks + c.nblk →
      Answers (.writeBlocks q tag segs d p n) s fun t =>
        t = (s.sramFixed n).gathered q.val c (padTo c.nblk 0 l)) ∧
    (∀ (q : Fin 37) (tag : Half) (segs : Segs) (d : Option (List Blk)) (l : List Blk) (n : Nat) (c : Cmd) (p :
        Placement),
      s.stoCmd q.val tag.toNat 2 = some c → s.dataUp = true → checkSegs c segs (4096 * c.nblk) = .good →
      s.store.die2 = none → c.data.or d = some l → s.noSpace = false → s.stagedBlocks + c.nblk ≤ 8192 →
      s.logFull false (unitsOf c.slba c.nblk) = true → Answers (.writeBlocks q tag segs d p n) s fun t =>
        t = ((s.sramFixed n).stallCmd q.val c).gathered q.val c (padTo c.nblk 0 l) ∧ t.store = s.store)

/-- O27. A FLUSH starts to wait for the set of writes fixed at its fetch. While a covered write of its queue is in
flight, a covered unit is not yet committed, or PFAILn is low, it goes on waiting and nothing changes. Once every
covered write is committed every open stripe of the cache is closed, the whole log is durable, and it completes with
SUCCESS. With two dies lost it fails with TYPE 2 code 2 and its LBA if a covered write that succeeded is not
durable, else it completes (R192; the model's reading, see the log). TRIM with two dies lost fails likewise. -/
def Obligations.FlushWaitsForItsCoveredSet : Prop :=
  ∀ s : State,
    (∀ (q : Fin 37) (tag : Half) (c : Cmd), s.stoCmd q.val tag.toNat 3 = some c →
      Answers (.flush q tag) s fun t =>
        t = s.modQ q.val fun x => { x with
          inflight := x.inflight.map fun d =>
            if d.tag = tag.toNat && d.opcode == 3 && !d.ended then { d with started := true } else d }) ∧
    (∀ (q : Fin 37) (tag : Half) (c : Cmd),
      (s.q q.val).inflight.find? (fun d => d.tag == tag.toNat && d.opcode == 3 && d.started && !d.ended) = some c
        →
      s.dataUp = true → s.rb R.STO_STAT 1 = true →
      (s.q q.val).inflight.any (fun d => (d.opcode == 2 || d.opcode == 4) && !d.ended && c.waits.contains d.order)
        = false →
      s.store.units.any (fun u => c.waits.contains u.order) = false → s.power.pfailn = true →
      s.store.die2 = none → Answers (.flushComplete q tag) s fun t =>
        t.store.logDurable = s.store.log.length ∧ t.store.log = s.store.log ∧
          (∀ p ∈ s.store.openStripes, ((t.store.pane p.1).stripe p.2).closed = true) ∧
          ∃ u : State, t = u.finish q.val c 0 0 0 ∧ u.hri = s.hri) ∧
    (∀ (q : Fin 37) (tag : Half) (c : Cmd),
      (s.q q.val).inflight.find? (fun d => d.tag == tag.toNat && d.opcode == 3 && d.started && !d.ended) = some c
        →
      (s.q q.val).inflight.any (fun d => (d.opcode == 2 || d.opcode == 4) && !d.ended && c.waits.contains d.order)
        = true ∨ s.power.pfailn = false ∨ (s.store.units.any (fun u => c.waits.contains u.order) = true ∧
        s.store.die2 = none) →
      Answers (.flushComplete q tag) s fun t => t = s) ∧
    (∀ (q : Fin 37) (tag : Half) (c : Cmd),
      (s.q q.val).inflight.find? (fun d => d.tag == tag.toNat && d.opcode == 3 && d.started && !d.ended) = some c
        →
      s.dataUp = true → s.rb R.STO_STAT 1 = true →
      (s.q q.val).inflight.any (fun d => (d.opcode == 2 || d.opcode == 4) && !d.ended && c.waits.contains d.order)
        = false →
      s.power.pfailn = true → s.store.die2.isSome = true →
      s.store.units.any (fun u => c.waits.contains u.order && !u.failed) = true ∨ s.store.fresh.any (fun f =>
        c.waits.contains f.order && !s.store.settled f) = true →
      Answers (.flushComplete q tag) s fun t => t = s.fail q.val c 2 2 0 c.slba 0) ∧
    (∀ (q : Fin 37) (tag : Half) (c : Cmd),
      (s.q q.val).inflight.find? (fun d => d.tag == tag.toNat && d.opcode == 3 && d.started && !d.ended) = some c
        →
      s.dataUp = true → s.rb R.STO_STAT 1 = true →
      (s.q q.val).inflight.any (fun d => (d.opcode == 2 || d.opcode == 4) && !d.ended && c.waits.contains d.order)
        = false →
      s.power.pfailn = true → s.store.die2.isSome = true →
      s.store.units.any (fun u => c.waits.contains u.order && !u.failed) = false →
      s.store.fresh.any (fun f => c.waits.contains f.order && !s.store.settled f) = false →
      Answers (.flushComplete q tag) s fun t => ∃ u : State, t = u.finish q.val c 0 0 0 ∧ u.hri = s.hri) ∧
    (∀ (q : Fin 37) (tag : Half) (c : Cmd), s.stoCmd q.val tag.toNat 4 = some c → s.dataUp = true →
      s.store.die2.isSome = true → Answers (.trim q tag) s fun t => t = s.fail q.val c 2 2 0 c.slba 0)

/-- O28. With a map that names codewords of panes in use (mapSound): the commit of a staged unit whose turn it is, at
places of the cache that can be programmed, changes what no block reads as, keeps mapSound, takes the unit out of
staging and advances the write sequence by its blocks. Copies of garbage collection or folding, to whatever places,
change neither the map nor what a block reads as; a copy that is made has the content of its source. The release of
a move whose target holds what its source does gives the block its new place and changes no content; a target that
does not verify is abandoned and its block queued for a check (R177). Nor does content change with a scan's refresh,
both ends of a checkpoint, or a retired block. (The units are staged in the order of their numbers.) -/
def Obligations.BackgroundWorkChangesNoContent : Prop :=
  ∀ s : State,
    (∀ (u : Unit') (locs : List Nat), s.nandOk = true → s.store.mapSound = true → u ∈ s.store.units →
      (s.store.units.map (·.id)).Pairwise (· < ·) →
      (∀ v ∈ s.store.units, v.id < u.id → v.first + v.data.length ≤ u.first ∨ u.first + u.data.length ≤ v.first) →
      locs.length = u.live.length → locs.Nodup → (∀ l ∈ locs, s.store.canProgram 0 cacheEnd l = true) →
      Answers (.unitCommit u.id locs) s fun t =>
        (∀ a, t.ns1 a = s.ns1 a) ∧ t.store.mapSound = true ∧
          t.store.units = s.store.units.filter (fun v => v.id ≠ u.id) ∧
          t.store.writeSeq = s.store.writeSeq + u.live.length) ∧
    (∀ (lba target : Nat) (m : Moving), s.nandOk = true → s.store.mapSound = true →
      s.store.moves.find? (fun m => m.lba == lba && m.target == target) = some m → lba < 2 ^ 27 →
      target < 2 ^ 32 → (s.mapAt lba).toNat = m.source → s.store.gone.contains (locDie target) = false →
      s.store.paneOf target < cacheEnd ∨ (pslcEnd ≤ s.store.paneOf target ∧ s.store.nextLine target = true) →
      (s.store.pane (s.store.paneOf target)).noParity = true ∨ ((s.store.pane (s.store.paneOf target)).stripe
        (locPage target)).closed = true →
      s.store.dataAt target = s.store.dataAt m.source → s.store.parityAt target = false →
      Answers (.releaseFold lba target true true) s fun t =>
        (∀ a, t.ns1 a = s.ns1 a) ∧ (t.mapAt lba).toNat = target ∧ t.store.logDurable = t.store.log.length ∧
          m ∉ t.store.moves) ∧
    (∀ (lba target : Nat) (next : Bool) (m : Moving), s.nandOk = true →
      s.store.moves.find? (fun m => m.lba == lba && m.target == target) = some m →
      Answers (.releaseFold lba target false next) s fun t =>
        (∀ a, t.ns1 a = s.ns1 a) ∧ t.store.map = s.store.map ∧
          locBlock target ∈ (t.die (locDie target)).check ∧ m ∉ t.store.moves) ∧
    (∀ (moves : List (Nat × Nat)), s.store.mapSound = true →
      Answers (.gcStart moves) s fun t => (∀ a, t.ns1 a = s.ns1 a) ∧ t.store.map = s.store.map) ∧
    (∀ (lba target why : Nat), s.nandOk = true → s.store.mapSound = true → s.store.dieTable = none →
      lba < 2 ^ 27 → s.movesOk false [(lba, target)] = true → s.moveDue lba = some why →
      Answers (.gcStart [(lba, target)]) s fun t =>
        t.store.moves = s.store.moves ++ [⟨lba, why, (s.mapAt lba).toNat, target⟩] ∧
          t.store.dataAt target = s.store.dataAt (s.mapAt lba).toNat) ∧
    (∀ (moves : List (Nat × Nat)), s.store.mapSound = true →
      Answers (.foldBegin moves) s fun t => (∀ a, t.ns1 a = s.ns1 a) ∧ t.store.map = s.store.map) ∧
    (∀ (moves : List (Nat × Nat)), s.nandOk = true → s.roleState 1 ≠ 0 →
      s.store.folding = true ∨ s.foldDue = true → s.movesOk true moves = true → s.foldLine moves = true →
      s.leavesPane moves = true → Answers (.foldBegin moves) s fun t =>
        t.store.folding = true ∧
          t.store.moves = s.store.moves ++ moves.map fun m => ⟨m.1, 64, s.unitAt m.1, m.2⟩) ∧
    (∀ (d : Fin 5) (b : Nat), s.rb R.STO_CTL 0 = true → s.roleState 2 ≠ 0 →
      Answers (.scanRefresh d b) s fun t => (∀ a, t.ns1 a = s.ns1 a) ∧ b ∈ (t.die d.val).refresh) ∧
    (s.nandOk = true → s.store.mapSound = true → s.store.ckptRun = none → s.ckptDue = true →
      Answers .checkpointStart s fun t =>
        (∀ a, t.ns1 a = s.ns1 a) ∧ ∃ b c, t.store.ckptRun = some (b, c) ∧ c.map = s.store.map ∧
          c.logPos = s.store.log.length ∧
          (if b then t.store.ckptB.valid = false ∧
          t.store.ckptA = s.store.ckptA else t.store.ckptA.valid = false ∧ t.store.ckptB = s.store.ckptB)) ∧
    (∀ (b : Bool) (c : Checkpoint), s.nandOk = true → s.store.mapSound = true → s.store.ckptRun = some (b, c) →
      Answers .checkpointDone s fun t =>
        (∀ a, t.ns1 a = s.ns1 a) ∧ t.store.ckptRun = none ∧ (if b then t.store.ckptB.valid = c.valid ∧
          t.store.ckptB.map = c.map else t.store.ckptA.valid = c.valid ∧ t.store.ckptA.map = c.map)) ∧
    (∀ (d : Fin 5) (b : Nat) (r : Option Nat), s.store.mapSound = true → b < 5504 →
      (s.die d.val).retiredBlocks.contains b = false → Answers (.blockRetire d b r) s fun t =>
        (∀ a, t.ns1 a = s.ns1 a) ∧ b ∈ (t.die d.val).retiredBlocks ∧
          t.store.lostBlocks = s.store.lostBlocks + 1 ∧
          ∀ m ∈ t.store.moves, ¬ (locDie m.target = d.val ∧ locBlock m.target = b))

/-- O29. When a checkpoint slot can be used the store starts with the map that the newer usable slot and the log after
it yield (with no slot ever written, the log alone), the log cut to the records found programmed, nothing staged,
and READY set (R188). A slot that fails its CRC is not used from then on. When every written slot fails, MAPSCAN is
set, event 0x48, severity 3, is posted, and NS1 is not served until the scan ends; then the map is what the scan of
the codewords and the readable log say, and MAPSCAN reads 0. A lost region of 1,024 map entries, or a dirty line of
16 of its cache, reads as checkpoint and log yield it, every other entry as before; of a clean line only the error
is reported (R175). While the scan runs there is no map to mend. -/
def Obligations.StoreRebuildsFromCheckpointAndLog : Prop :=
  ∀ s : State,
    (∀ (aOk bOk : Bool) (extra : Nat), s.rb R.STO_STAT 1 = false → s.rb R.RST_STAT 4 = true → s.d0up = true →
      s.power.bootHeld = false → s.keys.wipePend = false →
      (s.store.ckptA.good = true ∧ aOk = true) ∨ (s.store.ckptB.good = true ∧ bOk = true) ∨ (s.store.ckptA.valid =
        false ∧ s.store.ckptB.valid = false) →
      Answers (.storeReady aOk bOk extra) s fun t =>
        t.rb R.STO_STAT 1 = true ∧ t.store.units = [] ∧
          t.store.log = s.store.log.take (s.store.logDurable + extra) ∧
          t.store.map = ({ s.store with
            log := s.store.log.take (s.store.logDurable + extra), scanBase := none
            ckptA := { s.store.ckptA with bad := s.store.ckptA.bad || (s.store.ckptA.valid && !aOk) }
            ckptB := { s.store.ckptB with bad := s.store.ckptB.bad || (s.store.ckptB.valid && !bOk) } } :
              Store).rebuilt) ∧
    (∀ (aOk bOk : Bool) (extra : Nat), s.rb R.STO_STAT 1 = false → s.rb R.RST_STAT 4 = true → s.d0up = true →
      s.power.bootHeld = false → s.keys.wipePend = false →
      s.store.ckptA.valid = true ∨ s.store.ckptB.valid = true → s.store.ckptA.good = true → aOk = false →
      s.store.ckptB.good = true → bOk = false → Answers (.storeReady aOk bOk extra) s fun t =>
        t.rb R.STO_STAT 1 = true ∧ t.rb R.STO_STAT 8 = true ∧ t.ns1Ready = false) ∧
    (∀ (unreadable : List Nat), s.rb R.STO_STAT 8 = true → Answers (.mapScanned unreadable) s fun t =>
        t.store.map = s.store.scanned unreadable ∧ t.rd R.STO_STAT = putBit 8 false (s.rd R.STO_STAT)) ∧
    (∀ (first : Nat), s.rb R.STO_STAT 8 = false → Answers (.mapRebuild first false) s fun t =>
        ∀ a, t.mapAt a = if a / 1024 = first / 1024 then tget unmapped s.store.rebuilt a else s.mapAt a) ∧
    (∀ (first : Nat), s.rb R.STO_STAT 8 = false → s.lineDirty first = true →
      Answers (.mapRebuild first true) s fun t =>
        t.rb R.GLB_STAT 2 = true ∧
          ∀ a, t.mapAt a = if a / 16 = first / 16 then tget unmapped s.store.rebuilt a else s.mapAt a) ∧
    (∀ (first : Nat), s.lineDirty first = false →
      Answers (.mapRebuild first true) s fun t => t.rb R.GLB_STAT 2 = true ∧ t.store = s.store)

/-- O30. A third timeout in a row of a die retires it: STO_STAT shows the die and that it regrows, and event 0x40,
severity 2, DETAIL 0 is posted; with role 2 held and the map whole STO_RGTOTAL and STO_RGLEFT read how many units it
held and the veto of role 2 stands (R191, R198). STO_CTL.RETIRE with its KEY retires a die with DETAIL 3, and is
refused with BADVAL with a wrong key, while locked, for a die above 4, or once a die is retired. A second die to
fail is shown in DIE2 with event 0x42, severity 3. Regrowth ends once STO_RGLEFT has reached 0: STO_STAT no longer
shows it, the veto of role 2 is lifted and event 0x41 gives the seconds. PFAILn falling is shown in STO_STAT bit 4;
its rise clears it, and with power held through both sets bit 5 and posts event 0x44 with the µs. -/
def Obligations.DiesRetireAndFail : Prop :=
  ∀ s : State,
    (∀ (d : Fin 5), (s.die d.val).timeouts = 2 → s.store.dieTable = none → s.store.die2 = none →
      Answers (.nandTimeout d) s fun t =>
        ∃ u : State, t = u.post 0x40 2 d.val 0 ∧ u.rb R.STO_STAT 2 = true ∧ u.rb R.STO_STAT 3 = true ∧
          u.rf R.STO_STAT 18 16 = d.val ∧
          u.store.dieTable = some (d.val, false) ∧
          (s.store.rgBegun = false → s.roleState 2 ≠ 0 → s.mapWhole = true → u.rb R.PWR_VETOD 2 = true ∧
          u.rd R.STO_RGTOTAL = u.rd R.STO_RGLEFT ∧
          u.rd R.STO_RGLEFT = BitVec.ofNat 32 (s.onDie d.val + (s.otherUnits fun l => locDie l == d.val).length))) ∧
    (∀ (d : Fin 5) (e : Nat) (f : Bool), (s.die d.val).timeouts = 2 → s.store.dieTable = some (e, f) →
      e ≠ d.val → s.store.die2 = none → Answers (.nandTimeout d) s fun t =>
        ∃ u : State, t = u.post 0x42 3 d.val 0 ∧ u.rb R.STO_STAT 9 = true ∧ u.rf R.STO_STAT 21 19 = d.val ∧
          u.store.die2 = some d.val) ∧
    (∀ (d : Fin 5), (s.die d.val).timeouts ≠ 2 → Answers (.nandTimeout d) s fun t =>
        (t.die d.val).timeouts = (s.die d.val).timeouts + 1 ∧ t.hri = s.hri) ∧
    (∀ (m : Master) (w : Word), s.reaches m R.STO_CTL = true → bit 3 w = true → fld 31 16 w = 0x5254 →
      fld 6 4 w ≤ 4 → s.rb R.STO_CTL 2 = false → s.store.dieTable = none → s.store.die2 = none →
      Answers (.stoRetire m w) s fun t =>
        ∃ u : State, t = u.post 0x40 2 (fld 6 4 w) 3 ∧ u.store.dieTable = some (fld 6 4 w, false) ∧
          u.rb R.STO_STAT 3 = true) ∧
    (∀ (m : Master) (w : Word), s.reaches m R.STO_CTL = true → bit 3 w = true →
      fld 31 16 w ≠ 0x5254 ∨ 4 < fld 6 4 w ∨ s.rb R.STO_CTL 2 = true ∨ s.store.dieTable.isSome = true →
      Answers (.stoRetire m w) s fun t => t.rb R.STO_STAT 0 = true ∧ t.store = s.store) ∧
    (∀ (secs : Word) (d : Nat), s.store.dieTable = some (d, false) → s.store.rgBegun = true →
      s.roleState 2 ≠ 0 → s.mapWhole = true → s.rd R.STO_RGLEFT = 0 → s.onDie d + s.store.rgOther.length = 0 →
      Answers (.regrowthDone secs) s fun t =>
        ∃ u : State, t = u.post 0x41 0 d secs.toNat ∧ u.rb R.STO_STAT 3 = false ∧ u.rd R.STO_RGLEFT = 0 ∧
          u.rb R.PWR_VETOD 2 = false ∧
          u.store.dieTable = some (d, true)) ∧
    (∀ (secs : Word), s.rd R.STO_RGLEFT ≠ 0 ∨ s.roleState 2 = 0 → Answers (.regrowthDone secs) s fun t => t = s) ∧
    (Answers .pfailnFall s fun t =>
        t.rd R.STO_STAT = putBit 4 true (s.rd R.STO_STAT) ∧
          t.power = { s.power with pfailn := false, pfell := s.power.phase == .run }) ∧
    (∀ (us : Word), s.power.pfailn = false → s.power.pfell = true → s.power.phase = .run →
      Answers (.pfailnRise us) s fun t =>
        ∃ u : State, t = u.post 0x44 1 0 us.toNat ∧ u.rb R.STO_STAT 4 = false ∧ u.rb R.STO_STAT 5 = true ∧
          u.power.pfailn = true) ∧
    (∀ (us : Word), s.power.pfailn = false → s.power.pfell = false ∨ s.power.phase ≠ .run →
      Answers (.pfailnRise us) s fun t =>
        t.rd R.STO_STAT = putBit 4 false (s.rd R.STO_STAT) ∧ t.power.pfailn = true)

/-- O31. GO with a staged configuration that fails a check of R208 sets CFGERR and its reason, posts event 0x23, and
reloads the staged registers from what is in force, which does not change. GO without WAIT brings every staged
TYMCFG and the window into force at once; a changed window relocks the receiver, APPLYBUSY set. GO with WAIT does so
for the groups in no frame; the others wait, and each comes into force when its frame has ended; a changed window
waits for every receiver. While APPLYBUSY is 1 a write of RFS_APPLY only sets BADVAL. When the relock ends the
receiver is locked and APPLYBUSY follows what still waits. -/
def Obligations.RadioConfigurationIsCheckedAndApplied : Prop :=
  ∀ s : State,
    (∀ (m : Master) (w : Word) (k n : Nat), s.reaches m R.RFS_APPLY = true → s.rb R.RFS_STAT 5 = false →
      bit 0 w = true → s.applyCheck = some (k, n) → Answers (.rfsApply m w) s fun t =>
        t.rb R.RFS_STAT 6 = true ∧ t.rf R.RFS_STAT 9 7 = k % 8 ∧ t.radio.inForce = s.radio.inForce ∧
          t.radio.waiting = s.radio.waiting ∧ t.rd R.RFS_WIN = s.inForce R.RFS_WIN ∧
          ∀ i < 16, t.rd (R.RFS_TYMCFG i) = s.inForce (R.RFS_TYMCFG i)) ∧
    (∀ (m : Master) (w : Word), s.reaches m R.RFS_APPLY = true → s.rb R.RFS_STAT 5 = false → bit 0 w = true →
      bit 1 w = false → s.applyCheck = none → Answers (.rfsApply m w) s fun t =>
        t.inForce R.RFS_WIN = s.rd R.RFS_WIN ∧
          (∀ i < 16, t.inForce (R.RFS_TYMCFG i) = s.rd (R.RFS_TYMCFG i)) ∧
          (s.winChanged = true → t.radio.relock = true ∧ t.rb R.RFS_STAT 5 = true ∧ t.radio.sub.rx = [])) ∧
    (∀ (m : Master) (w : Word), s.reaches m R.RFS_APPLY = true → s.rb R.RFS_STAT 5 = false → bit 0 w = true →
      bit 1 w = true → s.applyCheck = none → Answers (.rfsApply m w) s fun t =>
        t.radio.waiting = s.changedLeads.filter (fun i => s.leadBusy i) ∧
          ∀ i < 16, t.inForce (R.RFS_TYMCFG i) = if s.leadBusy i then s.inForce (R.RFS_TYMCFG i) else s.rd
            (R.RFS_TYMCFG i)) ∧
    (∀ (m : Master) (w : Word) (l : Nat), s.reaches m R.RFS_APPLY = true → s.rb R.RFS_STAT 5 = false →
      bit 0 w = true → bit 1 w = true → s.applyCheck = none → s.leadBusy l = true →
      tget (fun _ => RxState.searching) s.radio.sub.rx l ≠ .searching → Answers (.rfsApply m w) s fun t =>
        t.inForce R.RFS_WIN = s.inForce R.RFS_WIN ∧ (s.winChanged = true → t.rb R.RFS_STAT 5 = true)) ∧
    (∀ (m : Master) (w : Word), s.reaches m R.RFS_APPLY = true → s.rb R.RFS_STAT 5 = true →
      Answers (.rfsApply m w) s fun t => t = s.flag R.RFS_STAT 0) ∧
    (∀ (l : Fin 16), s.rb R.RFS_STAT 5 = true → s.radio.waiting.contains l.val = true →
      s.leadBusy l.val = false → Answers (.applyTakesEffect l) s fun t =>
        t.inForce (R.RFS_TYMCFG l.val) = s.rd (R.RFS_TYMCFG l.val) ∧ l.val ∉ t.radio.waiting) ∧
    (s.radio.relock = true → s.winChanged = false → Answers .rxRelockDone s fun t =>
        t.radio.relock = false ∧ t.rb R.RFS_STAT 1 = s.chainOn .subGhz ∧
          t.rb R.RFS_STAT 5 = !s.radio.waiting.isEmpty)

/-- O32. A running receiver that searches goes to its qualifier on a crossing and from there to decode on a pass, the
other receivers staying as they are. A crossing without a pass counts as a false detection of that channel and the
receiver searches again. The end of a decode returns it to search; a header error counts in bits 23:16 and an FCS
failure in bits 31:24 of the channel's counter, a good frame, of the receiver's mode and 1 to 2,047 octets, in
neither: it is handed to the MAC, its RSSI held to the range of R216. The gain moves by one step of 6 dB: up only
while no frame is in decode and below step 10, down to 0, counted during decode. An energy measurement starts on a
running receiver; on another it is refused and counted. -/
def Obligations.ReceptionGoesFromSearchToDecode : Prop :=
  ∀ s : State,
    (∀ (ch : RxChan), s.rxUp ch = true → s.rxState ch = .searching → Answers (.detectionStart ch) s fun t =>
        t.rxState ch = .qualifying ∧ ∀ c, c ≠ ch → t.rxState c = s.rxState c) ∧
    (∀ (ch : RxChan), s.rxUp ch = true → s.rxState ch = .qualifying → Answers (.qualifierPass ch) s fun t =>
        t.rxState ch = .decoding ∧ ∀ c, c ≠ ch → t.rxState c = s.rxState c) ∧
    (∀ (i : Fin 16), s.rxState (.lead i) = .qualifying → Answers (.falseDetection (.lead i)) s fun t =>
        t.rxState (.lead i) = .searching ∧
          t.rf (R.RFS_TYMCNT i.val) 15 0 = (s.rf (R.RFS_TYMCNT i.val) 15 0 + 1) % 65536) ∧
    (s.rxState .ghz24 = .qualifying → Answers (.falseDetection .ghz24) s fun t =>
        t.rxState .ghz24 = .searching ∧ t.rf R.RF2_STAT 31 16 = (s.rf R.RF2_STAT 31 16 + 1) % 65536) ∧
    (∀ (i : Fin 16) (r : Decode), s.rxState (.lead i) = .decoding →
      r = .headerError ∨ ∃ f, r = .ok f ∧ s.frameOk (.lead i) f = false →
      Answers (.frameDecoded (.lead i) r) s fun t =>
        t.rxState (.lead i) = .searching ∧ t.mac.handed = s.mac.handed ∧
          t.rf (R.RFS_TYMCNT i.val) 23 16 = (s.rf (R.RFS_TYMCNT i.val) 23 16 + 1) % 256 ∧
          t.rf (R.RFS_TYMCNT i.val) 31 24 = s.rf (R.RFS_TYMCNT i.val) 31 24 ∧
          t.rf (R.RFS_TYMCNT i.val) 15 0 = s.rf (R.RFS_TYMCNT i.val) 15 0) ∧
    (∀ (i : Fin 16), s.rxState (.lead i) = .decoding → Answers (.frameDecoded (.lead i) .fcsFail) s fun t =>
        t.rxState (.lead i) = .searching ∧ t.mac.handed = s.mac.handed ∧
          t.rf (R.RFS_TYMCNT i.val) 31 24 = (s.rf (R.RFS_TYMCNT i.val) 31 24 + 1) % 256 ∧
          t.rf (R.RFS_TYMCNT i.val) 23 0 = s.rf (R.RFS_TYMCNT i.val) 23 0) ∧
    (∀ (ch : RxChan) (f : RxFrame), s.rxState ch = .decoding → s.frameOk ch f = true →
      Answers (.frameDecoded ch (.ok f)) s fun t =>
        t.rxState ch = .searching ∧
          t.mac.handed = s.mac.handed ++
            [{ f with ch := ch, rssi := satRssi f.rssi, tstamp := s.stamped f.tstamp, shr := shrOf ch }] ∧
          ∀ i < 16, t.rd (R.RFS_TYMCNT i) = s.rd (R.RFS_TYMCNT i)) ∧
    (∀ (r : Decode), s.rxState .ghz24 = .decoding →
      Answers (.frameDecoded .ghz24 r) s fun t => t.rxState .ghz24 = .searching ∧ t.radio.ch24 = none) ∧
    (s.chainOn .subGhz = true → s.d0up = true → Answers (.agcStep true) s fun t =>
        t.radio.gain = (if s.radio.sub.decoding = 0 ∧
          s.radio.gain < 10 then s.radio.gain + 1 else s.radio.gain)) ∧
    (s.chainOn .subGhz = true → s.d0up = true →
      Answers (.agcStep false) s fun t => t.radio.gain = s.radio.gain - 1) ∧
    (∀ (ch : RxChan), s.rxUp ch = true → Answers (.energyDetect ch) s fun t =>
        tget (fun _ => false) (t.chain (chanOf ch)).ed (keyOf ch) = true) ∧
    (∀ (ch : RxChan), s.rxUp ch = false → Answers (.energyDetect ch) s fun t => t = s.radioCount 112 1)

/-- O33. A chain's EN rising requests both calibrations and, with nothing sent or calibrating, starts them at once with
the receivers blanked; its falling ends them. REQRX and REQTX request theirs on every chain that is on, as do the
lapse of role 6's restore after HUSH and, for both kinds, a die temperature TDELTA or more away from that of the
last calibration; the sampled temperature is shown in CALSTAT. A request pending too long with no schedule is FORCED
and starts as soon as nothing is sent, VDD_RF being there. At the end the chain is neither calibrating nor blanked,
keeps the temperature, keeps as in force the values of the steps that passed, and counts failures in a row, in
HLT_CNT too: 0 where every step met its target. A transmit calibration without failures sets the four PCLAMP fields
to the codes found. -/
def Obligations.CalibrationsAreRequestedRunAndJudged : Prop :=
  ∀ s : State,
    (∀ (m : Master) (w : Word), s.reaches m R.RFS_CTL = true → s.chainOn .subGhz = false → bit 0 w = true →
      s.power.afterHush = false → s.radio.sub.railDown.contains .rf = false → s.radio.sub.tx = none →
      s.radio.sub.calRunning = false → Answers (.rfsCtlEn m w) s fun t =>
        t.radio.sub.calRunning = true ∧ t.radio.sub.runRx = true ∧ t.radio.sub.runTx = true ∧
          t.radio.sub.blanked = true ∧
          t.rb R.RFS_STAT 4 = true ∧ t.chainOn .subGhz = true) ∧
    (∀ (m : Master) (w : Word), s.reaches m R.RFS_CTL = true → s.chainOn .subGhz = true → bit 0 w = false →
      Answers (.rfsCtlEn m w) s fun t =>
        t.radio.sub.calRunning = false ∧ t.radio.sub.pendRx = false ∧ t.radio.sub.pendTx = false ∧
          t.radio.sub.rx = [] ∧
          t.chainOn .subGhz = false ∧ t.rb R.RFS_STAT 1 = false) ∧
    (∀ (m : Master) (w : Word), s.reaches m R.RF2_CTL = true → s.chainOn .ghz24 = false → bit 0 w = true →
      s.power.afterHush = false → s.radio.ghz.railDown.contains .rf = false → s.radio.ghz.tx = none →
      s.radio.ghz.calRunning = false → Answers (.rf2CtlEn m w) s fun t =>
        t.radio.ghz.calRunning = true ∧ t.radio.ghz.runRx = true ∧ t.radio.ghz.runTx = true ∧
          t.radio.ghz.blanked = true ∧
          t.rb R.RF2_STAT 1 = true) ∧
    (∀ (m : Master) (w : Word), s.reaches m R.RF2_CTL = true → s.chainOn .ghz24 = bit 0 w →
      Answers (.rf2ChChange m w) s fun t =>
        t.radio.ch24 = (if s.radio.ghz.decoding = 0 ∧ s.radio.ghz.tx = none then none
            else some (s.radio.ch24.getD (BitVec.ofNat 4 (s.rf R.RF2_CTL 5 2))))) ∧
    (∀ (m : Master) (w : Word), s.reaches m R.RFS_CAL = true → bit 0 w = true →
      Answers (.calReqrx m w) s fun t =>
        (s.chainOn .subGhz = true → t.radio.sub.pendRx = true ∨ (t.radio.sub.calRunning = true ∧
          t.radio.sub.runRx = true)) ∧
          (s.chainOn .ghz24 = true → t.radio.ghz.pendRx = true ∨ (t.radio.ghz.calRunning = true ∧
          t.radio.ghz.runRx = true))) ∧
    (∀ (m : Master) (w : Word), s.reaches m R.RFS_CAL = true → bit 1 w = true →
      Answers (.calReqtx m w) s fun t =>
        (s.chainOn .subGhz = true → t.radio.sub.pendTx = true ∨ (t.radio.sub.calRunning = true ∧
          t.radio.sub.runTx = true)) ∧
          (s.chainOn .ghz24 = true → t.radio.ghz.pendTx = true ∨ (t.radio.ghz.calRunning = true ∧
          t.radio.ghz.runTx = true))) ∧
    (∀ (code : Byte), s.d0up = true →
      Answers (.tempSample code) s fun t => t.radio.temp = code ∧ t.rf R.RFS_CALSTAT 23 16 = code.toNat) ∧
    (∀ (code : Byte), s.d0up = true → s.chainOn .subGhz = true → s.radio.sub.calTemp ≠ 0 →
      s.rf R.RFS_CAL 6 2 ≠ 0 →
      s.rf R.RFS_CAL 6 2 + s.radio.sub.calTemp.toNat ≤ code.toNat ∨ s.rf R.RFS_CAL 6 2 + code.toNat ≤
        s.radio.sub.calTemp.toNat →
      Answers (.tempSample code) s fun t =>
        (t.radio.sub.pendRx = true ∨ t.radio.sub.runRx = true) ∧
          (t.radio.sub.pendTx = true ∨ t.radio.sub.runTx = true)) ∧
    (s.radio.wakeCalWait = true → Answers .calWakeTimeout s fun t =>
        t.radio.wakeCalWait = false ∧
          (s.chainOn .subGhz = true → t.radio.sub.pendRx = true ∨ t.radio.sub.runRx = true) ∧
          (s.chainOn .ghz24 = true → t.radio.ghz.pendRx = true ∨ t.radio.ghz.runRx = true)) ∧
    (∀ (c : Chain), c = .ghz24 ∨ s.mac.running = false →
      (s.chain c).pendRx = true ∨ (s.chain c).pendTx = true → (s.chain c).calRunning = false →
      Answers (.calNoschedTimeout c) s fun t =>
        (t.chain c).calForced = true ∧
          ((s.chain c).tx = none → s.chainOn c = true → s.power.afterHush = false → (s.chain c).railDown.contains
            .rf = false →
            (t.chain c).calRunning = true)) ∧
    (∀ (c : Chain) (r : CalResult), (s.chain c).calRunning = true → s.d0up = true →
      (s.chain c).pendRx = false → (s.chain c).pendTx = false → Answers (.calComplete c r) s fun t =>
        (t.chain c).calRunning = false ∧ (t.chain c).blanked = false ∧ (t.chain c).firstCal = false ∧
          (t.chain c).calTemp = s.radio.temp ∧
          (t.chain c).calVals = calSets c (s.chain c) r ∧
          (t.chain c).failRun = (if (calSteps c (s.chain c)).all (fun k => !calFailed r k) then 0 else min 255
            ((s.chain c).failRun + 1)) ∧
          ((calSteps c (s.chain c)).all (fun k => !calFailed r k) = true → t.rf R.HLT_CNT (15 + 4 * chainCode c)
            (12 + 4 * chainCode c) = 0)) ∧
    (∀ (pa a b c d : BitVec 6) (v : List Word), s.radio.sub.calRunning = true → s.radio.sub.runTx = true →
      s.d0up = true → Answers (.calComplete .subGhz ⟨0, pa, some a, some b, some c, some d, v⟩) s fun t =>
        t.rf R.RFS_PCLAMP 5 0 = a.toNat ∧ t.rf R.RFS_PCLAMP 13 8 = b.toNat ∧
          t.rf R.RFS_PCLAMP 21 16 = c.toNat ∧
          t.rf R.RFS_PCLAMP 29 24 = d.toNat)

/-- O34. A strobe that the MAC may give and no reason of R220 refuses starts the transmission: the chain sends the frame
with its FCS, its receivers are blanked, TXEN is high and RXEN low, and the power is at most TXCFG.PMAX and the
option's PCLAMP. The frame is the chorus due, the acknowledgement due, or that of the SEND, sealed at its first
strobe; a SEND whose key can seal nothing completes with KEY EXHAUSTED. A refused SEND completes with REFUSED and
the reason; a refused acknowledgement, or one that falls in a SHARED slot (the model's choice, log 124) or behind a
chorus, or whose channel the radio no longer has (log 151), is counted as skipped; a refused chorus is not sent. The
ramp down ends the transmission. 20 µs later blanking ends. RFS_TXCFG with MODE = 1 enters FIR mode only where the
CRC over the tables is right, else TXTBLBAD is set and event 0x23 carries reason 7 and the CRC's upper half; a write
of a table register returns to ramp mode. A falling radio rail or a lost synthesiser lock abandons what is sent; the
rail is down until it recovers, whether or not D0 runs, and without VDD_RF nothing is received, measured or
calibrated. -/
def Obligations.TransmissionsStartEndAndFail : Prop :=
  ∀ s : State,
    (∀ (c : Chain) (lock : Bool) (r : TxReq), s.macUp = true → s.macEn = true →
      s.strobeReq .chorus c lock = some r → s.strobeRefused r = none →
      Answers (.startStrobe .chorus c lock) s fun t =>
        (t.chain r.chain).tx = some r ∧ (t.chain r.chain).txFrame = s.mac.chorusDue ∧
          (∀ f, (t.chain r.chain).txFrame = some f →
            (t.chain r.chain).txFcs = fcsOf (f.body ++ f.mic)) ∧ (t.chain r.chain).blanked = true ∧
          (t.chain r.chain).power = BitVec.ofNat 6 (s.txPower r).1 ∧
          (r.chain = .subGhz → t.rb R.RFS_STAT 3 = true ∧ t.rb R.RFS_STAT 4 = true ∧
            t.radio.sub.power.toNat ≤ s.rf R.RFS_TXCFG 5 0 ∧
            t.radio.sub.power.toNat ≤ s.clampOf r.opt.toNat) ∧
          (s.pstate ≠ 3 → s.power.phase = .run → t.femTxen r.chain = .high ∧ t.femRxen r.chain = .low) ∧
          t.mac.chorusDue = none) ∧
    (∀ (c : Chain) (lock : Bool) (r : TxReq), s.macUp = true → s.macEn = true →
      s.strobeReq .ack c lock = some r → s.strobeRefused r = none →
      r.chain = .ghz24 ∨ (s.slotAllowsTx = true ∧ s.mac.chorusDue = none) →
      Answers (.startStrobe .ack c lock) s fun t =>
        (t.chain r.chain).tx = some r ∧ (t.chain r.chain).txFrame = (s.ackDue r.chain).map (·.frame) ∧
          (∀ f, (t.chain r.chain).txFrame = some f →
            (t.chain r.chain).txFcs = fcsOf (f.body ++ f.mic)) ∧ (t.chain r.chain).blanked = true ∧
          (t.chain r.chain).power = BitVec.ofNat 6 (s.txPower r).1 ∧
          (r.chain = .subGhz → t.rb R.RFS_STAT 3 = true ∧ t.rb R.RFS_STAT 4 = true ∧
            t.radio.sub.power.toNat ≤ s.rf R.RFS_TXCFG 5 0 ∧
            t.radio.sub.power.toNat ≤ s.clampOf r.opt.toNat) ∧
          (s.pstate ≠ 3 → s.power.phase = .run → t.femTxen r.chain = .high ∧ t.femRxen r.chain = .low)) ∧
    (∀ (who : TxWho) (c : Chain) (lock : Bool) (r : TxReq) (tag : Half) (x : SendOp) (f : MacFrame),
      s.macUp = true → s.macEn = true → who = .send tag ∨ who = .croak tag → s.strobeReq who c lock = some r →
      s.strobeRefused r = none → s.sendOp tag = some x → (s.sendSeal x).1 = some f →
      Answers (.startStrobe who c lock) s fun t =>
        (t.chain r.chain).tx = some r ∧ (t.chain r.chain).txFrame = some f ∧
          (t.chain r.chain).txFcs = fcsOf (f.body ++ f.mic) ∧ (t.chain r.chain).blanked = true ∧
          (t.chain r.chain).power = BitVec.ofNat 6 (s.txPower r).1 ∧
          (r.chain = .subGhz → t.rb R.RFS_STAT 3 = true ∧ t.rb R.RFS_STAT 4 = true ∧
            t.radio.sub.power.toNat ≤ s.rf R.RFS_TXCFG 5 0 ∧
            t.radio.sub.power.toNat ≤ s.clampOf r.opt.toNat) ∧
          (s.pstate ≠ 3 → s.power.phase = .run → t.femTxen r.chain = .high ∧ t.femRxen r.chain = .low) ∧
          ∃ y : SendOp, t.sendOp tag = some y ∧ y.onAir = true ∧ y.transmissions = x.transmissions + 1 ∧
          y.ready = false) ∧
    (∀ (who : TxWho) (c : Chain) (lock : Bool) (r : TxReq) (tag : Half) (x : SendOp), s.macUp = true →
      s.macEn = true → who = .send tag ∨ who = .croak tag → s.strobeReq who c lock = some r →
      s.strobeRefused r = none → s.sendOp tag = some x → (s.sendSeal x).1 = none →
      Answers (.startStrobe who c lock) s fun t => t = (s.sendSeal x).2.sendDone x 1 5 0) ∧
    (∀ (who : TxWho) (c : Chain) (lock : Bool) (r : TxReq) (tag : Half) (why : Nat), s.macUp = true →
      s.macEn = true → s.strobeReq who c lock = some r → who = .send tag ∨ who = .croak tag →
      s.strobeRefused r = some why → Answers (.startStrobe who c lock) s fun t =>
        ∃ y : SendOp, s.sendOp tag = some y ∧
          t = (if why = 3 then s.loLost r.chain else s).sendDone y 1 3 (why * 2 ^ 24)) ∧
    (∀ (c : Chain) (lock : Bool) (r : TxReq), s.macUp = true → s.macEn = true →
      s.strobeReq .ack c lock = some r →
      s.strobeRefused r ≠ none ∨ (r.chain = .subGhz ∧ (s.slotAllowsTx = false ∨ s.mac.chorusDue ≠ none)) →
      Answers (.startStrobe .ack c lock) s fun t =>
        t.rf (R.MAC_CNT 0) 23 16 = (s.rf (R.MAC_CNT 0) 23 16 + 1) % 256 ∧ t.radio = s.radio ∧
          t.mac.acks = s.mac.acks.eraseP (fun a => a.chain == r.chain)) ∧
    (∀ (c : Chain) (lock : Bool) (r : TxReq), s.macUp = true → s.macEn = true →
      s.strobeReq .chorus c lock = some r → s.strobeRefused r ≠ none →
      Answers (.startStrobe .chorus c lock) s fun t => t.mac.chorusDue = none ∧ t.radio = s.radio) ∧
    (∀ (c : Chain) (lock : Bool), s.macUp = true → s.macEn = true → s.strobeReq .ack c lock = none →
      (s.ackDue c).isSome = true → Answers (.startStrobe .ack c lock) s fun t =>
        t.rf (R.MAC_CNT 0) 23 16 = (s.rf (R.MAC_CNT 0) 23 16 + 1) % 256 ∧ t.radio = s.radio ∧
          t.mac.acks = s.mac.acks.eraseP (fun a => a.chain == c)) ∧
    (∀ (who : TxWho) (c : Chain) (lock : Bool), s.macUp = true → s.macEn = true →
      s.strobeReq who c lock = none → who ≠ .ack ∨ s.ackDue c = none →
      Answers (.startStrobe who c lock) s fun t => t = s) ∧
    (∀ (c : Chain) (r : TxReq), (s.chain c).tx = some r → Answers (.txRampDownEnd c) s fun t =>
        (t.chain c).tx = none ∧ (c = .subGhz → t.rb R.RFS_STAT 3 = false) ∧
          (c = .ghz24 → t.rb R.RF2_STAT 2 = false) ∧
          (r.who = .ack → t.rf (R.MAC_CNT 0) 15 0 = (s.rf (R.MAC_CNT 0) 15 0 + 1) % 65536)) ∧
    (∀ (c : Chain), (s.chain c).blanked = true → (s.chain c).tx = none → (s.chain c).calRunning = false →
      (s.chain c).pendRx = false → (s.chain c).pendTx = false → Answers (.blankingEnd c) s fun t =>
        (t.chain c).blanked = false ∧ (t.chain c).rx = [] ∧ (c = .subGhz → t.rb R.RFS_STAT 4 = false)) ∧
    (∀ (m : Master) (w : Word), s.reaches m R.RFS_TXCFG = true → bit 12 w = true →
      s.tableCrc = s.rd R.RFS_TXCRC → Answers (.txcfgModeWrite m w) s fun t => t.rb R.RFS_STAT 10 = false) ∧
    (∀ (m : Master) (w : Word), s.reaches m R.RFS_TXCFG = true → bit 12 w = true →
      s.tableCrc ≠ s.rd R.RFS_TXCRC → Answers (.txcfgModeWrite m w) s fun t =>
        ∃ u : State, t = u.post 0x23 1 0 (7 + 65536 * fld 31 16 s.tableCrc) ∧ u.rb R.RFS_STAT 10 = true ∧
          u.rb R.RFS_STAT 11 = true) ∧
    (∀ (m : Master) (w : Word), s.reaches m R.RFS_TXCFG = true → bit 12 w = false →
      Answers (.txcfgModeWrite m w) s fun t => t.rb R.RFS_STAT 10 = true) ∧
    (∀ (m : Master) (i : Fin 48) (w : Word), s.reaches m (R.RFS_FIR i.val) = true → i.val < 32 →
      s.rb R.RFS_CTL 2 = false → s.rd (R.RFS_FIR i.val) &&& 0xFFFF0000 = 0 →
      Answers (.firTableWrite m i w) s fun t => t.rd (R.RFS_FIR i.val) = w &&& 0xFFFF) ∧
    (∀ (m : Master) (i : Fin 48) (w : Word),
      s.reaches m (if i.val < 32 then R.RFS_FIR i.val else R.RFS_MASK (i.val - 32)) = true →
      Answers (.firTableWrite m i w) s fun t =>
        t.rb R.RFS_TXCFG 12 = false ∧ (s.rb R.RFS_TXCFG 12 = true → t.rb R.RFS_STAT 10 = true)) ∧
    (∀ (r : RadioRail), s.d0up = true → s.radio.sub.railDown.contains r = false →
      Answers (.radioRailFall r) s fun t =>
        t.radio.sub.tx = none ∧ t.radio.ghz.tx = none ∧ t.rb R.RFS_STAT 12 = true ∧
          t.rb R.RF2_STAT 3 = true ∧
          t.radio.sub.railDown.contains r = true ∧ t.radio.ghz.railDown.contains r = true ∧
          (r = .rf → t.radio.sub.rx = [] ∧ t.radio.ghz.rx = [] ∧
            t.radio.sub.calRunning = false ∧ t.radio.ghz.calRunning = false ∧ t.radio.sub.ed = [] ∧
            t.radio.ghz.ed = [])) ∧
    (∀ (r : RadioRail), s.d0up = false → s.radio.sub.railDown.contains r = false →
      Answers (.radioRailFall r) s fun t =>
        t.radio.sub.railDown.contains r = true ∧ t.radio.ghz.railDown.contains r = true ∧
          t.radio.railFell.contains r = true ∧ t.regs = s.regs) ∧
    (∀ (r : RadioRail), Answers (.radioRailRecover r) s fun t =>
        t.radio.sub.railDown = s.radio.sub.railDown.filter (· ≠ r) ∧
          t.radio.ghz.railDown = s.radio.ghz.railDown.filter (· ≠ r)) ∧
    (Answers .txSynthLockLoss s fun t =>
        t.radio.sub.tx = none ∧ t.rb R.RFS_STAT 2 = false ∧
          (s.radio.sub.tx ≠ none → t.rb R.RFS_STAT 3 = false))

/-- O35. The MAC handles the frames that the radio has handed over, once DRAM is wiped, one whose sender asks for an
acknowledgement before any other; a cached entry found uncorrectable is dropped (R26), and an acknowledgement not
ready by its deadline is counted as late. What follows is said of each such frame. A frame of a type the MAC does
not take, or of version 3, counts in AUTHFAIL. A beacon, data or command frame not addressed to the device changes
nothing. From an unknown source a secured frame counts in AUTHFAIL and an unsecured one does nothing unless MAC_CTL
lets it through. From a known node: security below its level, a failing verification, a frame counter not above
RXFC, or an unsecured frame it may not send, count in AUTHFAIL; a repeat of a pair of DUP counts as a duplicate, of
the device and of the node, and goes no further; any other is accepted: the node's contact time, misses, RSSI, LQI
and receive count follow it, and its pair takes the place at DUPNEXT. An acknowledgement answers a waiting SEND of
its chain and sequence number that ended 1,000 µs before it, or 192 µs at 2.4 GHz, within 20 µs, and, where it is
secured, verifies under the SEND's key; it completes that SEND with SUCCESS and its RSSI. -/
def Obligations.ReceivedFramesAreJudged : Prop :=
  ∀ s : State,
    (∀ (late : Bool) (sram : SramRead) (f : RxFrame), nextHanded s.mac.handed = some f → s.macUp = true →
      s.dramWiped = true → Answers (.handleFrame late sram) s fun t =>
        t = { (({ s with mac.handed := s.mac.handed.erase f, mac.late := late } : State).cacheRead sram).macRx f
          with mac.late := false }) ∧
    (∀ (late : Bool) (sram : SramRead), s.mac.handed = [] ∨ s.macUp = false ∨ s.dramWiped = false →
      Answers (.handleFrame late sram) s fun t => t = s) ∧
    (∀ (f : RxFrame), nextHanded s.mac.handed = some f →
      f ∈ s.mac.handed ∧ ∀ g ∈ s.mac.handed, g.frame.ar = true → f.frame.ar = true) ∧
    (∀ (k : Nat) (i : Fin 4096), let t := s.cacheRead ⟨k, some (.nodeCache i)⟩
      t.rb R.GLB_STAT 2 = true ∧ i.val ∉ t.mac.cached ∧ t.mac.nodes = s.mac.nodes) ∧
    (∀ (i : Option Nat) (o : Half) (f : RxFrame), s.mac.late = true →
      (s.ackPrepare i o f).1.rf (R.MAC_CNT 0) 31 24 = (s.rf (R.MAC_CNT 0) 31 24 + 1) % 256 ∧ (s.ackPrepare i o
        f).1.mac = s.mac) ∧
    (∀ (f : RxFrame), f.frame.kind = .multipurpose ∨ f.frame.kind = .fragment ∨ f.frame.version = 3 →
      let t := s.macRx f
      t.rf (R.MAC_CNT 1) 31 16 = (s.rf (R.MAC_CNT 1) 31 16 + 1) % 65536 ∧ t.mac = s.mac ∧ t.jnl = s.jnl) ∧
    (∀ (f : RxFrame), f.frame.kind = .beacon ∨ f.frame.kind = .data ∨ f.frame.kind = .command →
      f.frame.version ≠ 3 → s.addressed f.frame = false → let t := s.macRx f
      t = s) ∧
    (∀ (f : RxFrame), f.frame.kind = .beacon ∨ f.frame.kind = .data ∨ f.frame.kind = .command →
      f.frame.version ≠ 3 → s.addressed f.frame = true → s.findNode f.frame.src = none →
      f.frame.secured = true → let t := s.macRx f
      t.rf (R.MAC_CNT 1) 31 16 = (s.rf (R.MAC_CNT 1) 31 16 + 1) % 65536 ∧ t.mac = s.mac ∧ t.jnl = s.jnl) ∧
    (∀ (f : RxFrame), f.frame.kind = .beacon ∨ f.frame.kind = .data ∨ f.frame.kind = .command →
      f.frame.version ≠ 3 → s.addressed f.frame = true → s.findNode f.frame.src = none →
      f.frame.secured = false → s.rb R.MAC_CTL 2 = false → let t := s.macRx f
      t = s) ∧
    (∀ (f : RxFrame) (i : Nat), f.frame.kind = .beacon ∨ f.frame.kind = .data ∨ f.frame.kind = .command →
      f.frame.version ≠ 3 → s.addressed f.frame = true → s.findNode f.frame.src = some i →
      f.frame.secured = true ∧ f.frame.secLevel.toNat < (s.node i).seclvl.toNat ∨ f.frame.secured = false ∧
        (s.node i).flags.getLsbD 0 = false →
      let t := s.macRx f
      t.rf (R.MAC_CNT 1) 31 16 = (s.rf (R.MAC_CNT 1) 31 16 + 1) % 65536 ∧ (t.node i).authfail = (if (s.node
        i).authfail = 0xFFFF then 0xFFFF else (s.node i).authfail + 1) ∧
        (t.node i).rxcount = (s.node i).rxcount ∧ t.jnl = s.jnl) ∧
    (∀ (f : RxFrame) (i : Nat), f.frame.kind = .beacon ∨ f.frame.kind = .data ∨ f.frame.kind = .command →
      f.frame.version ≠ 3 → s.addressed f.frame = true → s.findNode f.frame.src = some i →
      f.frame.secured = true → (s.node i).seclvl.toNat ≤ f.frame.secLevel.toNat → let t := s.macRx f
      (s.verify i f.frame = none ∨ (isDuplicate (s.node i) f = false ∧ f.frame.fc.toNat ≤ (s.node i).rxfc.toNat) →
          t.rf (R.MAC_CNT 1) 31 16 = (s.rf (R.MAC_CNT 1) 31 16 + 1) % 65536 ∧ (t.node i).rxcount = (s.node
            i).rxcount ∧ t.jnl.clutches = s.jnl.clutches) ∧
        (s.verify i f.frame ≠ none → isDuplicate (s.node i) f = true →
          t.rf (R.MAC_CNT 1) 15 0 = (s.rf (R.MAC_CNT 1) 15 0 + 1) % 65536 ∧ (t.node i).rxcount = (s.node
            i).rxcount) ∧
        (s.verify i f.frame ≠ none → isDuplicate (s.node i) f = false → (s.node i).rxfc.toNat < f.frame.fc.toNat →
          (t.node i).rxcount = (s.node i).rxcount + 1 ∧ (t.node i).rxfc = f.frame.fc ∧ (t.node i).misses = 0 ∧
          (t.node i).lastContact = s.count64 ∧ t.rd (R.MAC_CNT 1) = s.rd (R.MAC_CNT 1))) ∧
    (∀ (f : RxFrame) (i : Nat), f.frame.kind = .beacon ∨ f.frame.kind = .data ∨ f.frame.kind = .command →
      f.frame.version ≠ 3 → s.addressed f.frame = true → s.findNode f.frame.src = some i →
      f.frame.secured = false → (s.node i).flags.getLsbD 0 = true → isDuplicate (s.node i) f = true →
      let t := s.macRx f
      t.rf (R.MAC_CNT 1) 15 0 = (s.rf (R.MAC_CNT 1) 15 0 + 1) % 65536 ∧ (t.node i).rxcount = (s.node i).rxcount ∧
        (t.node i).dupcount = (if (s.node i).dupcount = 0xFFFF then 0xFFFF else (s.node i).dupcount + 1) ∧
          t.jnl.clutches = s.jnl.clutches) ∧
    (∀ (f : RxFrame) (i : Nat), f.frame.kind = .beacon ∨ f.frame.kind = .data ∨ f.frame.kind = .command →
      f.frame.version ≠ 3 → s.addressed f.frame = true → s.findNode f.frame.src = some i →
      f.frame.secured = false → (s.node i).flags.getLsbD 0 = true → isDuplicate (s.node i) f = false →
      let t := s.macRx f
      (t.node i).rxcount = (s.node i).rxcount + 1 ∧ (t.node i).misses = 0 ∧ (t.node i).lastContact = s.count64 ∧
        (t.node i).rssic = BitVec.ofNat 8 (rssicOf f.rssi) ∧ (t.node i).lqi = BitVec.ofNat 8 (lqiOf f.evmq) ∧
        (t.node i).dupNext = ((s.node i).dupNext + 1) % 4 ∧ (t.node i).rxfc = (s.node i).rxfc ∧ t.rd (R.MAC_CNT 1)
          = s.rd (R.MAC_CNT 1)) ∧
    (∀ (f : RxFrame) (x : SendOp), f.frame.kind = .ack → f.frame.version ≠ 3 → f.frame.secured = false →
      s.mac.sends.find? (fun y => s.ackAnswers f y) = some x → let t := s.macRx f
      t = s.sendDone x 0 0 (65536 * rssicOf f.rssi)) ∧
    (∀ (f : RxFrame), f.frame.kind = .ack → f.frame.version ≠ 3 → f.frame.secured = true → let t := s.macRx f
      ∀ u : State, u = (if s.mac.sends.any (fun y => y.waitAck) then (s.preempt false).ctxNote 1 else s) →
          (u.mac.sends.find? (fun y => u.ackAnswers f y) = none → t = u) ∧
          ∀ x, u.mac.sends.find? (fun y => u.ackAnswers f y) = some x → t = u.sendDone x 0 0 (65536 * rssicOf
            f.rssi)) ∧
    (∀ (f : RxFrame) (x : SendOp),
      s.ackAnswers f x = true ↔ x.waitAck = true ∧ ((x.chain == 0x80) = (chanOf f.ch == .ghz24)) ∧ x.frame.seq =
        f.frame.seq ∧
          (tdiff (startOf f) x.endAt - (if x.chain = 0x80 then 192 else 1000)).natAbs ≤ 20 ∧
          (f.frame.secured = true → s.ccmSlot (s.sendKey x.node) = true ∧
            (Config.ccmOpen (s.slotKey (s.sendKey x.node)) (s.node x.node).extaddr f.frame.fc f.frame.secLevel
              f.frame.body f.frame.mic).isSome = true))

/-- O36. A slot starts at the time its predecessor announced, to which the MAC timer comes if it had not passed it, and
sets MAC_SCHED.SLOT; at slot 0 a waiting plan whose time has come (the first boundary 2 ms after its completion)
comes into force, CSEQ goes on by one (not in the first period) and the receipts of the past period are taken. A
slot ends 10 ms after its start and names its successor, modulo the period. Writing EN = 1 starts a root at slot 0
in no parent state, and a router SCANNING from step 0; EN = 0 stops: no SEND remains that is not on the air, no
acknowledgement is due. ADRIFT without a chorus for a period leads to SCANNING, event 0x15. A missed croak counts
and the third makes the node LOST, its cell held for 16 periods. A delivery is written to ring 34 as a whole when it
fits; one that an uncorrectable gather word spoils is not returned (the model's choice, log 113). -/
def Obligations.TheScheduleRunsSlotBySlot : Prop :=
  ∀ s : State,
    (s.macUp = true → s.mac.running = true → s.mac.inSlot = false → s.mac.plan ≠ [] ∨ s.mac.nextPlan ≠ none →
      Answers .slotStart s fun t =>
        t.mac.inSlot = true ∧ t.mac.slotStart = s.mac.nextStart ∧
          t.mac.timer = (s.timerTo s.mac.nextStart).mac.timer ∧
          t.rf R.MAC_SCHED 25 13 = s.mac.nextSlot % 8192) ∧
    (s.macUp = true → s.mac.running = true → s.mac.inSlot = false → s.mac.plan ≠ [] ∨ s.mac.nextPlan ≠ none →
      s.mac.nextSlot = 0 → Answers .slotStart s fun t =>
        t.mac.plan = (if tdiff s.mac.nextStart s.mac.planFrom < 0 then s.mac.plan else s.mac.nextPlan.getD
          s.mac.plan) ∧
          t.mac.nextPlan = (if tdiff s.mac.nextStart s.mac.planFrom < 0 then s.mac.nextPlan else none) ∧
          t.mac.receipt = s.mac.heard ∧ t.mac.croaked = [] ∧
          t.mac.started = true ∧
          t.rf R.MAC_STAT 31 16 = (s.rf R.MAC_STAT 31 16 + (if s.mac.started then 1 else 0)) % 65536) ∧
    (s.macUp = true → s.mac.running = true → s.mac.inSlot = true → Answers .slotEnd s fun t =>
        t.mac.inSlot = false ∧ t.mac.nextStart = s.mac.slotStart + 10000 ∧
          t.mac.timer = (s.timerTo (s.mac.slotStart + 10000)).mac.timer ∧
          t.mac.nextSlot = (if s.mac.plan.length = 0 then 0 else (s.rf R.MAC_SCHED 25 13 + 1) % s.mac.plan.length)) ∧
    (∀ (e : Expect),
      ((s.croakMissed e).node e.node).misses = (s.node e.node).misses + 1 ∧ (3 ≤ (s.node e.node).misses + 1 →
        ((s.croakMissed e).node e.node).state = 3 ∧ ((s.croakMissed e).node e.node).holdLeft = 16)) ∧
    (s.rf R.MAC_STAT 4 2 = 3 → s.mac.running = true →
      Answers .parentAdriftExpiry s fun t => t.rf R.MAC_STAT 4 2 = 4 ∧ t.mac.scanStep = 0) ∧
    (∀ (m : Master) (w : Word), s.reaches m R.MAC_CTL = true → s.rb R.MAC_CTL 0 = false → bit 0 w = true →
      Answers (.macEnable m w) s fun t =>
        t.mac.running = true ∧ t.mac.started = false ∧ t.mac.nextSlot = 0 ∧
          t.mac.nextStart = (if s.mac.plan = [] ∧ s.mac.nextPlan ≠ none ∧
          0 ≤ tdiff s.mac.planFrom s.mac.timer then s.mac.planFrom else s.mac.timer) ∧
          t.mac.inSlot = false ∧
          t.rf R.MAC_STAT 4 2 = (if bit 1 w then 4 else 0) ∧ t.rb R.MAC_CTL 0 = true) ∧
    (∀ (m : Master) (w : Word), s.reaches m R.MAC_CTL = true → s.rb R.MAC_CTL 0 = true → bit 0 w = false →
      Answers (.macEnable m w) s fun t =>
        t.mac.running = false ∧ t.mac.acks = [] ∧ (∀ x ∈ t.mac.sends, x.onAir = true) ∧
          t.rf R.MAC_STAT 4 2 = 0 ∧ t.rb R.MAC_CTL 0 = false) ∧
    (∀ (sram : SramRead) (d : Delivery) (r : List Delivery), s.hri.deliveries = d :: r →
      (s.q 34).exists' = true → s.hri.d3hot = false → s.d0up = true →
      (deliveryEntries d s.time32).length ≤ (s.q 34).room → Answers (.deliverRx sram) s fun t =>
        t.hri.deliveries = r ∧
          (sramBank sram = none → (t.q 34).cqtail = ((s.q 34).cqtail + (deliveryEntries d s.time32).length) % (s.q
            34).cqsize) ∧
          (sramBank sram ≠ none → t.q 34 = s.q 34 ∧ t.rb R.GLB_STAT 2 = true)) ∧
    (∀ (sram : SramRead) (d : Delivery) (r : List Delivery), s.hri.deliveries = d :: r →
      (s.q 34).exists' = false ∨ s.hri.d3hot = true ∨ s.d0up = false ∨ (s.q 34).room < (deliveryEntries d
        s.time32).length →
      Answers (.deliverRx sram) s fun t => t = s)

/-- O37. With the MAC stopped a SEND completes with MAC STOPPED (8). A bad or unreadable buffer gives SCATTER MISMATCH
or DATA TRANSFER ERROR, a gather word that cannot be corrected INTERNAL (code 5), a frame too long for 2,047 octets
TOO LONG (7), one that no slot of the plan can carry NOT SCHEDULED (6), a frame to be secured without a security
header of counter 0 INVALID FIELD (the model's choice, log 150), an exhausted or absent key KEY EXHAUSTED (5).
Otherwise it joins the sends of the MAC with a new backoff, not yet secured. A SEND behind an earlier one to its
node that has not entered the MAC, or before the DRAM wipe has ended, waits. A backoff that ends in its slot starts
a measurement; its result is kept in the range of R216; a clear channel makes it ready, a busy one counts an attempt
and, at the attempts allowed, ends it with CHANNEL BUSY (1). Without an acknowledgement it is repeated from a new
backoff until its repetitions are used up, then it completes with NO ACK (2). -/
def Obligations.SendsAreCheckedTriedAndCompleted : Prop :=
  ∀ s : State,
    (∀ (tag : Half) (segs : Segs) (f : Option MacFrame) (sram : SramRead) (c : Cmd),
      (s.q 33).inflight.find? (fun d => d.tag == tag.toNat && !d.started && !d.ended) = some c →
      s.macUp = true → s.dramWiped = true → s.sendBehind c = false → s.macEn = false →
      Answers (.sendFrame tag segs f sram) s fun t => t = s.declined 33 c 1 8 0) ∧
    (∀ (tag : Half) (segs : Segs) (f : Option MacFrame) (sram : SramRead) (c : Cmd) (code detail : Nat),
      (s.q 33).inflight.find? (fun d => d.tag == tag.toNat && !d.started && !d.ended) = some c →
      s.macUp = true → s.dramWiped = true → s.sendBehind c = false → s.macEn = true →
      checkSegs c segs ((c.sendLen + 3) / 4 * 4) = .mismatch ∧ code = 7 ∧ detail = 0 ∨ checkSegs c segs
        ((c.sendLen + 3) / 4 * 4) = .unreadable ∧ code = 4 ∧ detail = 1 ∨ checkSegs c segs ((c.sendLen + 3) / 4 *
        4) = .good ∧ f = none ∧ code = 4 ∧ detail = 0 →
      Answers (.sendFrame tag segs f sram) s fun t => t = s.fail 33 c 0 code 0 noLba detail) ∧
    (∀ (tag : Half) (segs : Segs) (f : MacFrame) (sram : SramRead) (c : Cmd),
      (s.q 33).inflight.find? (fun d => d.tag == tag.toNat && !d.started && !d.ended) = some c →
      s.macUp = true → s.dramWiped = true → s.sendBehind c = false → s.macEn = true →
      checkSegs c segs ((c.sendLen + 3) / 4 * 4) = .good → sramBank sram ≠ none →
      Answers (.sendFrame tag segs (some f) sram) s fun t =>
        t = (s.gatherRead sram).fail 33 c 0 5 0 noLba 0) ∧
    (∀ (tag : Half) (segs : Segs) (f : MacFrame) (sram : SramRead) (c : Cmd),
      (s.q 33).inflight.find? (fun d => d.tag == tag.toNat && !d.started && !d.ended) = some c →
      s.macUp = true → s.dramWiped = true → s.sendBehind c = false → s.macEn = true →
      checkSegs c segs ((c.sendLen + 3) / 4 * 4) = .good → sramBank sram = none →
      2047 < c.sendLen + (if 125 < c.sendLen then 4 else 2) + (if c.sec then micLen f.secLevel else 0) →
      Answers (.sendFrame tag segs (some f) sram) s fun t =>
        t = (s.gatherRead sram).fail 33 c 1 7 0 noLba 0) ∧
    (∀ (tag : Half) (segs : Segs) (f : MacFrame) (sram : SramRead) (c : Cmd),
      (s.q 33).inflight.find? (fun d => d.tag == tag.toNat && !d.started && !d.ended) = some c →
      s.macUp = true → s.dramWiped = true → s.sendBehind c = false → s.macEn = true →
      checkSegs c segs ((c.sendLen + 3) / 4 * 4) = .good → sramBank sram = none →
      c.sendLen + (if 125 < c.sendLen then 4 else 2) + (if c.sec then micLen f.secLevel else 0) ≤ 2047 →
      s.schedulable c = false → Answers (.sendFrame tag segs (some f) sram) s fun t =>
        t = (s.gatherRead sram).fail 33 c 1 6 0 noLba 0) ∧
    (∀ (tag : Half) (segs : Segs) (f : MacFrame) (sram : SramRead) (c : Cmd),
      (s.q 33).inflight.find? (fun d => d.tag == tag.toNat && !d.started && !d.ended) = some c →
      s.macUp = true → s.dramWiped = true → s.sendBehind c = false → s.macEn = true →
      checkSegs c segs ((c.sendLen + 3) / 4 * 4) = .good → sramBank sram = none →
      c.sendLen + (if 125 < c.sendLen then 4 else 2) + (if c.sec then micLen f.secLevel else 0) ≤ 2047 →
      s.schedulable c = true → c.headerBad f = true → Answers (.sendFrame tag segs (some f) sram) s fun t =>
        t = (s.gatherRead sram).fail 33 c 0 2 1 noLba 0) ∧
    (∀ (tag : Half) (segs : Segs) (f : MacFrame) (sram : SramRead) (c : Cmd),
      (s.q 33).inflight.find? (fun d => d.tag == tag.toNat && !d.started && !d.ended) = some c →
      s.macUp = true → s.dramWiped = true → s.sendBehind c = false → s.macEn = true →
      checkSegs c segs ((c.sendLen + 3) / 4 * 4) = .good → sramBank sram = none →
      c.sendLen + (if 125 < c.sendLen then 4 else 2) + (if c.sec then micLen f.secLevel else 0) ≤ 2047 →
      s.schedulable c = true → c.sec = true → c.headerBad f = false → s.ccmSlot (s.sendKey c.sendNode) = false →
      Answers (.sendFrame tag segs (some f) sram) s fun t => t = (s.gatherRead sram).declined 33 c 1 5 0) ∧
    (∀ (tag : Half) (segs : Segs) (f : MacFrame) (sram : SramRead) (c : Cmd),
      (s.q 33).inflight.find? (fun d => d.tag == tag.toNat && !d.started && !d.ended) = some c →
      s.macUp = true → s.dramWiped = true → s.sendBehind c = false → s.macEn = true →
      checkSegs c segs ((c.sendLen + 3) / 4 * 4) = .good → sramBank sram = none →
      c.sendLen + (if 125 < c.sendLen then 4 else 2) + (if c.sec then micLen f.secLevel else 0) ≤ 2047 →
      s.schedulable c = true → c.sec = true → c.headerBad f = false → s.ccmSlot (s.sendKey c.sendNode) = true →
      (s.slot (s.sendKey c.sendNode)).txfc = 0xFFFFFFFF → Answers (.sendFrame tag segs (some f) sram) s fun t =>
        t = ((s.gatherRead sram).keyExh (s.sendKey c.sendNode)).declined 33 c 1 5 0) ∧
    (∀ (tag : Half) (segs : Segs) (f : MacFrame) (sram : SramRead) (c : Cmd),
      (s.q 33).inflight.find? (fun d => d.tag == tag.toNat && !d.started && !d.ended) = some c →
      s.macUp = true → s.dramWiped = true → s.sendBehind c = false → s.macEn = true →
      checkSegs c segs ((c.sendLen + 3) / 4 * 4) = .good → sramBank sram = none →
      c.sendLen + (if 125 < c.sendLen then 4 else 2) + (if c.sec then micLen f.secLevel else 0) ≤ 2047 →
      s.schedulable c = true →
      c.sec = false ∨ (c.headerBad f = false ∧ s.ccmSlot (s.sendKey c.sendNode) = true ∧ (s.slot (s.sendKey
        c.sendNode)).txfc ≠ 0xFFFFFFFF) →
      Answers (.sendFrame tag segs (some f) sram) s fun t =>
        ∃ x : SendOp, t.mac.sends = s.mac.sends ++ [x] ∧ x.tag = BitVec.ofNat 16 c.tag ∧
          x.node = c.sendNode ∧ x.frame = f ∧
          x.sec = c.sec ∧ x.sealed = none ∧ x.onAir = false ∧ x.waitAck = false ∧ x.ready = false ∧
          x.attempts = 0 ∧ x.transmissions = 0 ∧
          x.be = s.rf R.MAC_LBT 11 8 ∧ x.backoff < 2 ^ x.be ∧ t.keys = s.keys) ∧
    (∀ (tag : Half) (segs : Segs) (frame : Option MacFrame) (sram : SramRead) (c : Cmd),
      (s.q 33).inflight.find? (fun d => d.tag == tag.toNat && !d.started && !d.ended) = some c →
      s.macUp = false ∨ s.dramWiped = false ∨ s.sendBehind c = true →
      Answers (.sendFrame tag segs frame sram) s fun t => t = s) ∧
    (∀ (tag : Half) (fits : Bool), fits = false ∨ s.sendOp tag = none →
      Answers (.lbtBackoffExpiry tag fits) s fun t => t = s) ∧
    (∀ (tag : Half) (x : SendOp), s.sendOp tag = some x → s.macUp = true → s.sendWaits x = true →
      x.measuring = false → x.ready = false → x.timing = 0 ∨ x.chain = 0x80 → s.contends x = true →
      s.rxUp x.chan = true → Answers (.lbtBackoffExpiry tag true) s fun t =>
        t.mac.sends = s.mac.sends.map (fun y => if y.tag = tag ∧
          y.reply then { y with measuring := true } else y)) ∧
    (∀ (ch : RxChan) (rssi : BitVec 16), tget (fun _ => false) (s.chain (chanOf ch)).ed (keyOf ch) = true →
      Answers (.energyDetectDone ch rssi) s fun t =>
        tget (fun _ => none) (t.chain (chanOf ch)).edResult (keyOf ch) = some (satRssi rssi) ∧
          tget (fun _ => false) (t.chain (chanOf ch)).ed (keyOf ch) = false) ∧
    (∀ (ch : RxChan) (rssi : BitVec 16) (x : SendOp),
      tget (fun _ => false) (s.chain (chanOf ch)).ed (keyOf ch) = true →
      s.mac.sends.find? (fun y => y.measuring && y.chan == ch) = some x → s.sendOp x.tag = some x →
      s.edClear (satRssi rssi) = true → Answers (.energyDetectDone ch rssi) s fun t =>
        ∃ y : SendOp, t.sendOp x.tag = some y ∧ y.ready = true ∧ y.measuring = false ∧
          y.measures = x.measures + 1 ∧ y.attempts = x.attempts + 1) ∧
    (∀ (ch : RxChan) (rssi : BitVec 16) (x : SendOp),
      tget (fun _ => false) (s.chain (chanOf ch)).ed (keyOf ch) = true →
      s.mac.sends.find? (fun y => y.measuring && y.chan == ch) = some x → s.edClear (satRssi rssi) = false →
      s.rf R.MAC_LBT 18 16 ≤ x.attempts + 1 → Answers (.energyDetectDone ch rssi) s fun t =>
        ∃ u : State, t = u.sendDone
          { x with measuring := false, attempts := x.attempts + 1, measures := x.measures + 1 } 1 1 0 ∧
          u.rf (R.MAC_CNT 2) 15 0 = (s.rf (R.MAC_CNT 2) 15 0 + 1) % 65536) ∧
    (∀ (ch : RxChan) (rssi : BitVec 16) (x : SendOp),
      tget (fun _ => false) (s.chain (chanOf ch)).ed (keyOf ch) = true →
      s.mac.sends.find? (fun y => y.measuring && y.chan == ch) = some x → s.sendOp x.tag = some x →
      s.edClear (satRssi rssi) = false → x.attempts + 1 < s.rf R.MAC_LBT 18 16 →
      Answers (.energyDetectDone ch rssi) s fun t =>
        ∃ y : SendOp, t.sendOp x.tag = some y ∧ y.ready = x.ready ∧ y.measuring = false ∧
          y.attempts = x.attempts + 1 ∧
          y.be = min (x.be + 1) (s.rf R.MAC_LBT 15 12) ∧ y.backoff < 2 ^ y.be) ∧
    (∀ (tag : Half) (x : SendOp), s.sendOp tag = some x → x.waitAck = true →
      s.rf R.MAC_LBT 21 19 < x.transmissions → Answers (.ackWaitTimeout tag) s fun t =>
        ∃ u : State, t = u.sendDone x 1 2 0 ∧
          u.rf (R.MAC_CNT 2) 23 16 = (s.rf (R.MAC_CNT 2) 23 16 + 1) % 256 ∧ u.mac = s.mac) ∧
    (∀ (tag : Half) (x : SendOp), s.sendOp tag = some x → x.waitAck = true →
      x.transmissions ≤ s.rf R.MAC_LBT 21 19 → Answers (.ackWaitTimeout tag) s fun t =>
        ∃ y : SendOp, t.sendOp tag = some y ∧ y.waitAck = false ∧ y.attempts = 0 ∧
          y.transmissions = x.transmissions ∧
          y.be = s.rf R.MAC_LBT 11 8 ∧ y.backoff < 2 ^ y.be)

/-- O38. Until the DRAM wipe has ended none of the four takes effect (R67). NODE-WRITE of a buffer in order gives the
entry in DRAM its host fields, keeps its device fields (or, with HWRESET, sets them as never heard), and completes
with SUCCESS; the first field out of order gives INVALID FIELD with its offset + 0x2000, an index above 4,095
INVALID NODE (TYPE 1, 0x10), an unreadable buffer code 4. NODE-INVALIDATE writes the cached device fields back and
drops the entry, so that it is no longer cached, or every entry with index 0xFFFF. NODE-READ writes the 128 bytes of
the entry, host fields as in DRAM, device fields current, to the buffer. SLOTMAP-WRITE holds a plan that passes
every check for the next boundary at least 2 ms away; the first failing check and its slot are reported as SLOT PLAN
INVALID (TYPE 1, 0x11). -/
def Obligations.NodeTableCommands : Prop :=
  ∀ s : State,
    (∀ (b : Option (BitVec 1024)), s.dramWiped = false → Answers (.nodeWrite b) s fun t => t = s) ∧
    (s.dramWiped = false → Answers .nodeInvalidate s fun t => t = s) ∧
    (∀ (ok : Bool), s.dramWiped = false → Answers (.nodeRead ok) s fun t => t = s) ∧
    (∀ (segs : Segs) (p : Option (List Word)) (late : Bool), s.dramWiped = false →
      Answers (.planWrite segs p late) s fun t => t = s) ∧
    (∀ (c : Cmd) (b : BitVec 1024), s.nodeCmd 0x10 = some c → c.node ≤ 4095 → s.nodeBad c.node b = none →
      nbit 0 (c.f 50 1) = false → Answers (.nodeWrite (some b)) s fun t =>
        t.dramNode c.node = mergeNode (nodeOf b) (s.dramNode c.node) true ∧ t.mac.cached = s.mac.cached ∧
          (∀ j, j ≠ c.node → t.dramNode j = s.dramNode j)) ∧
    (∀ (c : Cmd) (b : BitVec 1024), s.nodeCmd 0x10 = some c → c.node ≤ 4095 → s.nodeBad c.node b = none →
      nbit 0 (c.f 50 1) = true → Answers (.nodeWrite (some b)) s fun t =>
        (t.dramNode c.node).extaddr = (nodeOf b).extaddr ∧ (t.dramNode c.node).state = (nodeOf b).state ∧
          (t.dramNode c.node).lastContact = s.count64 ∧
          (t.dramNode c.node).rxcount = 0 ∧ (t.dramNode c.node).rxfc = 0 ∧ (t.dramNode c.node).misses = 0) ∧
    (∀ (c : Cmd) (b : BitVec 1024) (off : Nat), s.nodeCmd 0x10 = some c → c.node ≤ 4095 →
      s.nodeBad c.node b = some off →
      Answers (.nodeWrite (some b)) s fun t => t = s.adminDone c 0 2 (0x2000 + off)) ∧
    (∀ (c : Cmd) (b : Option (BitVec 1024)) (typ code : Nat), s.nodeCmd 0x10 = some c →
      4095 < c.node ∧ typ = 1 ∧ code = 0x10 ∨ c.node ≤ 4095 ∧ b = none ∧ typ = 0 ∧ code = 4 →
      Answers (.nodeWrite b) s fun t => t = s.adminDone c typ code 0) ∧
    (∀ (c : Cmd), s.nodeCmd 0x11 = some c → c.node ≤ 4095 → Answers .nodeInvalidate s fun t =>
        c.node ∉ t.mac.cached ∧ t.dramNode c.node = (if s.mac.cached.contains c.node then
            mergeNode (s.dramNode c.node) (s.node c.node) (s.mac.written.contains c.node) else s.dramNode c.node)) ∧
    (∀ (c : Cmd), s.nodeCmd 0x11 = some c → c.node = 0xFFFF →
      Answers .nodeInvalidate s fun t => t.mac.cached = []) ∧
    (∀ (c : Cmd), s.nodeCmd 0x11 = some c → c.node ≠ 0xFFFF → 4095 < c.node →
      Answers .nodeInvalidate s fun t => t = s.adminDone c 1 0x10 0) ∧
    (∀ (c : Cmd), s.nodeCmd 0x12 = some c → c.node ≤ 4095 → Answers (.nodeRead true) s fun t =>
        t = (s.putBuffer c none 128 0 (mergeNode (s.dramNode c.node) (s.node c.node) (s.mac.written.contains
          c.node)).bytes).adminDone c 0 0 0) ∧
    (∀ (c : Cmd) (ok : Bool) (typ code : Nat), s.nodeCmd 0x12 = some c →
      4095 < c.node ∧ typ = 1 ∧ code = 0x10 ∨ c.node ≤ 4095 ∧ ok = false ∧ typ = 0 ∧ code = 4 →
      Answers (.nodeRead ok) s fun t => t = s.adminDone c typ code 0) ∧
    (∀ (c : Cmd) (segs : Segs) (l : List Word) (late : Bool), s.nodeCmd 0x13 = some c → 10 ≤ c.f 48 2 →
      c.f 48 2 ≤ 6000 → checkSegs c segs (4 * c.f 48 2) = .good →
      s.planCheck (c.f 48 2) (padTo (c.f 48 2) 0 l) = none → Answers (.planWrite segs (some l) late) s fun t =>
        t = (s.planDone (padTo (c.f 48 2) 0 l) late).adminDone c 0 0 0 ∧
          t.mac.nextPlan = some (padTo (c.f 48 2) 0 l) ∧ t.mac.plan = s.mac.plan ∧
          (late = false → t.mac.planFrom = s.mac.timer + 2000)) ∧
    (∀ (c : Cmd) (segs : Segs) (l : List Word) (late : Bool) (k i : Nat), s.nodeCmd 0x13 = some c →
      10 ≤ c.f 48 2 → c.f 48 2 ≤ 6000 → checkSegs c segs (4 * c.f 48 2) = .good →
      s.planCheck (c.f 48 2) (padTo (c.f 48 2) 0 l) = some (k, i) →
      Answers (.planWrite segs (some l) late) s fun t => t = s.adminDone c 1 0x11 (65536 * k + i)) ∧
    (∀ (c : Cmd) (segs : Segs) (p : Option (List Word)) (late : Bool), s.nodeCmd 0x13 = some c →
      c.f 48 2 < 10 ∨ 6000 < c.f 48 2 →
      Answers (.planWrite segs p late) s fun t => t = s.adminDone c 1 0x11 65536)

/-- O39. A record that fits is the last of the open clutch, in the group that is open, and crosses no codeword (R299),
as long as the journal counter is not near its end. With JNL_CTL.EN at 0 nothing is appended; with staging full the
record is lost and counted, LOSS is set. When the commit interval elapses the open group joins the committed ones,
its COMMIT takes the next counter of the journal key, and the sequence goes on by one. When the oldest committed
group's codewords are programmed JNL_CSEQ reads its sequence, and each of them is in the mirror or its stripe has
its parity (R309); records lost in staging, of the open group or a committed one, are counted, SRAMUE set (R26);
while programs are held (PFAILn low, store not ready) or its ledger record is due, nothing changes. EN = 0 seals the
open clutch with STOP, JNL-SEAL with HOST and answers its sequence (all ones where none is open); one that a reset
left open is sealed with RESTART, whatever seals it. Role 3's index sets READY once. JOURNAL-READ with its index
ready reads the codewords of NS2 that its query asks for, through the tiers of R173, and writes the 64-byte header
and the matching durable records it finds into its buffer (bytes past them are not stated) and completes with
SUCCESS and the count of records. Without the index, or in SCRAPPED, it completes with NOT READY and the queue does
not freeze. A scatter list that breaks its rules gives SCATTER MISMATCH, one that cannot be read or a node set that
cannot be read, or an answer that does not reach the buffer, DATA TRANSFER ERROR; a gather word that cannot be
corrected INTERNAL. Past range checking the error log names the SLBA (R167). -/
def Obligations.TheJournalIsWrittenAndRead : Prop :=
  ∀ s : State,
    (∀ (r : Record), s.keys.jctr.toNat + 8 < 0xFFFFFFFFFFFF0000 →
      ∃ d x, (s.placeRecord r).openClutch = some d ∧ d.records.getLast? = some x ∧ x.nodef = r.nodef ∧ x.payload =
        r.payload ∧
        x.fc = r.fc ∧ x.group = (s.placeRecord r).jnl.nextCseq ∧ (s.placeRecord r).jnl.groupStart.isSome = true ∧
        (r.size ≤ 4096 → x.pos % 4096 + x.size ≤ 4096)) ∧
    (∀ (r : Record), s.rb R.JNL_CTL 0 = false → s.append r = s) ∧
    (∀ (r : Record), s.rb R.JNL_CTL 0 = true → 2097152 < s.stagingUsed + r.size →
      (s.append r).rd R.JNL_LOST = s.rd R.JNL_LOST + 1 ∧ (s.append r).rb R.JNL_STAT 5 = true ∧ (s.append r).jnl =
        { s.jnl with lossRun := s.jnl.lossRun + 1 }) ∧
    (∀ (sram : SramRead), s.jnl.groupStart.isSome = true → s.d0up = true → s.openClutch.isSome = true →
      ctrSpent s.keys.jctr = false → ∀ i n, sram.lost ≠ some (.staging i n) →
      Answers (.commitTimer sram) s fun t =>
        t.jnl.committed = s.jnl.committed ++ [s.jnl.nextCseq] ∧ t.jnl.nextCseq = s.jnl.nextCseq + 1 ∧
          t.jnl.groupStart = none ∧
          t.keys.jctr = s.keys.jctr + 1) ∧
    (∀ (k i n : Nat) (c : Clutch), s.jnl.groupStart.isSome = true → s.d0up = true → s.openClutch = some c →
      Answers (.commitTimer ⟨k, some (.staging i n)⟩) s fun t =>
        t.rb R.GLB_STAT 2 = true ∧ t.rd R.JNL_LOST = s.rd R.JNL_LOST +
          BitVec.ofNat 32 ((((c.records.filter s.inStaging).filter fun r => !(r.isMarker && r.rssi == 1)).drop
            i).take n).length) ∧
    (∀ (g : Word) (rest : List Word), s.jnl.committed = g :: rest → s.power.pfailn = true →
      s.rb R.STO_STAT 1 = true → s.keys.jwait = false →
      Answers .groupDurable s fun t => t.rd R.JNL_CSEQ = g ∧ t.jnl.committed = rest) ∧
    (∀ (g : Word) (rest : List Word) (c : Clutch) (r : Record), s.jnl.committed = g :: rest →
      s.power.pfailn = true → s.rb R.STO_STAT 1 = true → s.keys.jwait = false →
      s.jnl.clutches.find? (fun d => d.records.any fun x => x.group == g) = some c → r ∈ c.records →
      r.group = g → Answers .groupDurable s fun t =>
        let q := regionStripe journalPane (256 * c.slot + 16 * (r.pos / 4096 / 16))
        (∃ d, (c.slot, r.pos / 4096, d) ∈ t.jnl.mirror) ∨ ((t.store.pane q.1).stripe q.2).closed = true) ∧
    (s.power.pfailn = false ∨ s.rb R.STO_STAT 1 = false ∨ s.keys.jwait = true →
      Answers .groupDurable s fun t => t = s) ∧
    (∀ (m : Master) (w : Word) (c : Clutch), s.reaches m R.JNL_CTL = true → bit 0 w = false →
      s.openClutch = some c → s.keys.jctr.toNat + 8 < 0xFFFFFFFFFFFF0000 → Answers (.journalStop m w) s fun t =>
        t.rb R.JNL_CTL 0 = false ∧ ∃ d, t.jnl.clutches.getLast? = some d ∧
          d.sealed' = some (if s.jnl.restart then 4 else 5) ∧ d.clseq = c.clseq) ∧
    (∀ (c : Cmd) (d : Clutch), s.admin 0x22 = some c → s.openClutch = some d →
      s.keys.jctr.toNat + 8 < 0xFFFFFFFFFFFF0000 → Answers .jnlSeal s fun t =>
        ∃ u : State, t = u.adminDone c 0 0 d.clseq.toNat ∧ ∃ x, u.jnl.clutches.getLast? = some x ∧
          x.sealed' = some (if s.jnl.restart then 4 else 3) ∧ x.clseq = d.clseq) ∧
    (∀ (c : Cmd), s.admin 0x22 = some c → s.openClutch = none →
      Answers .jnlSeal s fun t => t = s.adminDone c 0 0 0xFFFFFFFF) ∧
    (∀ (ms : Word), s.rb R.STO_STAT 1 = true → s.roleState 3 ≠ 0 → s.dataUp = true →
      s.rb R.JNL_STAT 1 = false →
      Answers (.journalIndexReady ms) s fun t => t = (s.flag R.JNL_STAT 1).post 0x31 0 0 ms.toNat) ∧
    (∀ (q : Fin 37) (tag : Half) (segs : Segs) (ns : Option (BitVec 4096)) (un : List (Nat × UnitOut)) (bad :
        List Word) (sram : SramRead) (c : Cmd),
      s.stoCmd q.val tag.toNat 0x20 = some c → s.dataUp = true → s.keys.scrapped = false →
      s.rb R.JNL_STAT 1 = true → s.roleState 3 ≠ 0 → checkSegs c segs (4096 * c.nblk) = .good →
      c.allNodes = true ∨ ns ≠ none → sramBank sram = none →
      Answers (.readJournal q tag segs ns un bad true sram) s fun t =>
        let v := s.gatherRead sram
        let p := readCws un (v.jrBlocks c (ns.getD 0)) v
        let o := p.2.journalQuery c (ns.getD 0) p.1 bad
        ∃ (u : State) (rest : List Byte), t = u.finish q.val c 0 0 o.count ∧
          rest.length = 4096 * c.nblk - o.bytes.length ∧
          u.hri.hostMem = (p.2.putBuffer c segs (4096 * c.nblk) 0 (o.bytes ++ rest)).hri.hostMem) ∧
    (∀ (q : Fin 37) (tag : Half) (segs : Segs) (ns : Option (BitVec 4096)) (un : List (Nat × UnitOut)) (bad :
        List Word) (sram : SramRead) (c : Cmd) (ok : Bool),
      s.stoCmd q.val tag.toNat 0x20 = some c → s.dataUp = true → s.keys.scrapped = false →
      s.rb R.JNL_STAT 1 = true → s.roleState 3 ≠ 0 → checkSegs c segs (4096 * c.nblk) = .good →
      c.allNodes = true ∨ ns ≠ none → sramBank sram ≠ none ∨ ok = false →
      Answers (.readJournal q tag segs ns un bad ok sram) s fun t =>
        if sramBank sram = none then ∃ u : State, t = u.fail q.val c 0 4 0 c.slba 0
        else t = (s.gatherRead sram).fail q.val c 0 5 0 c.slba 0) ∧
    (∀ (q : Fin 37) (tag : Half) (segs : Segs) (ns : Option (BitVec 4096)) (un : List (Nat × UnitOut)) (bad :
        List Word) (sram : SramRead) (c : Cmd) (ok : Bool),
      s.stoCmd q.val tag.toNat 0x20 = some c → s.dataUp = true → s.keys.scrapped = true →
      Answers (.readJournal q tag segs ns un bad ok sram) s fun t => t = s.finish q.val c 1 2 0) ∧
    (∀ (q : Fin 37) (tag : Half) (segs : Segs) (ns : Option (BitVec 4096)) (un : List (Nat × UnitOut)) (bad :
        List Word) (sram : SramRead) (c : Cmd) (ok : Bool),
      s.stoCmd q.val tag.toNat 0x20 = some c → s.dataUp = true → s.keys.scrapped = false →
      s.rb R.JNL_STAT 1 = false ∨ s.roleState 3 = 0 →
      Answers (.readJournal q tag segs ns un bad ok sram) s fun t =>
        ∃ (u : State) (n : Nat), t = u.finish q.val c 1 2 n ∧ u.hri = s.hri) ∧
    (∀ (q : Fin 37) (tag : Half) (segs : Segs) (ns : Option (BitVec 4096)) (un : List (Nat × UnitOut)) (bad :
        List Word) (sram : SramRead) (c : Cmd) (ok : Bool) (code detail : Nat),
      s.stoCmd q.val tag.toNat 0x20 = some c → s.dataUp = true → s.keys.scrapped = false →
      s.rb R.JNL_STAT 1 = true → s.roleState 3 ≠ 0 →
      checkSegs c segs (4096 * c.nblk) = .mismatch ∧ code = 7 ∧ detail = 0 ∨ checkSegs c segs (4096 * c.nblk) =
        .unreadable ∧ code = 4 ∧ detail = 1 ∨ checkSegs c segs (4096 * c.nblk) = .good ∧ c.allNodes = false ∧ ns =
        none ∧ code = 4 ∧ detail = 0 →
      Answers (.readJournal q tag segs ns un bad ok sram) s fun t =>
        t = s.fail q.val c 0 code 0 c.slba detail)

/-- O40. JNL-PIN pins exactly the clutches of its range and answers how many it added, unless more than 7,629 would be
pinned, which it refuses (TYPE 1, 0x20); JNL-UNPIN unpins those of its range; JNL_PINS counts the pinned ones. While
at most 7,629 clutches are pinned, opening a new clutch keeps every pinned one, takes a slot that no pinned clutch
holds and the next sequence number. -/
def Obligations.PinnedClutchesStay : Prop :=
  ∀ s : State,
    (∀ (c : Cmd), s.admin 0x20 = some c →
      (s.jnl.clutches.filter (·.pinned)).length + (s.jnl.clutches.filter (fun d => pinRange c d &&
        !d.pinned)).length ≤ 7629 →
      Answers .jnlPin s fun t =>
        t.jnl.clutches = s.jnl.clutches.map (fun d => if pinRange c d then { d with pinned := true } else d) ∧
          t.rd R.JNL_PINS = BitVec.ofNat 32 (t.jnl.clutches.filter (·.pinned)).length ∧
          ∃ u : State, t = u.adminDone c 0 0
          (s.jnl.clutches.filter fun d => pinRange c d && !d.pinned).length) ∧
    (∀ (c : Cmd), s.admin 0x20 = some c →
      7629 < (s.jnl.clutches.filter (·.pinned)).length + (s.jnl.clutches.filter (fun d => pinRange c d &&
        !d.pinned)).length →
      Answers .jnlPin s fun t => t = s.adminDone c 1 0x20 0) ∧
    (∀ (c : Cmd), s.admin 0x21 = some c → Answers .jnlUnpin s fun t =>
        t.jnl.clutches = s.jnl.clutches.map (fun d => if pinRange c d then { d with pinned := false } else d) ∧
          t.rd R.JNL_PINS = BitVec.ofNat 32 (t.jnl.clutches.filter (·.pinned)).length) ∧
    ((s.jnl.clutches.filter (·.pinned)).length ≤ 7629 →
      (∀ d ∈ s.jnl.clutches, d.pinned = true → d ∈ s.newClutch.jnl.clutches) ∧
      (∃ c, s.newClutch.openClutch = some c ∧ c.clseq = s.jnl.nextClseq ∧ c.firstCseq = s.jnl.nextCseq ∧ c.records
        = [] ∧
        ∀ d ∈ s.jnl.clutches, d.pinned = true → d.slot ≠ c.slot))

/-- O41. A plain KEY-LOAD of a network slot gives the slot the 32 bytes of the buffer as its key, VALID, origin plain,
and the frame counter given, and no other slot changes; it is forbidden in SCRAPPED and while NOPLAIN stands. Of a
customer slot in PROVISIONED or SERVICE it also leaves a blob, the key sealed under the wrapping key of the present
epoch. A wrapped load takes the unwrapped key with origin wrapped where the wrapping checks, else AUTH FAILED (0x32)
and no slot changes. A slot that is no target gives SLOT INVALID (0x30), an empty wrapping slot KEY EMPTY (0x38).
KEY-CLEAR empties exactly the slots of its range, and its customer slots' blobs; other ranges give SLOT INVALID.
KEY-STAT writes its 2,576 bytes. A buffer that cannot be read or written gives DATA TRANSFER ERROR. An admin key
command waits for a wipe that has no command left, and for a service-port key command that came before it (R349);
what follows is said of those that need not. (Cryptographic results are uninterpreted, assumption log 4.) KEY-ENROLL
fuses the key of an index not yet enrolled, except in FIELD and SCRAPPED; a used index gives FUSE USED (0x34); a
fuse that does not read back sets the flag and gives FUSE FAILED (0x35), nothing enrolled. KEY-REVOKE outside FIELD
revokes; in FIELD only with a token of another enrolled, unrevoked key over the present challenge, which is spent
either way. SESSION-OPEN puts the derived key into the lowest free session slot and answers its number, and with all
four taken gives NO SESSION (0x33); SESSION-CLOSE empties the slot. ID-CERT answers the certificate with its length,
ID-ATTEST writes its 128 bytes, LC-CHALLENGE keeps and returns a fresh challenge. A buffer that cannot be read or
written gives DATA TRANSFER ERROR, a DPTR kind or signer that KEY-REVOKE may not carry BAD FIELD. With RNGFAIL those
that need randomness give RNG FAILED (0x36). -/
def Obligations.KeysSessionsAndIdentity : Prop :=
  ∀ s : State,
    (∀ (b : BitVec 512) (k : Nat) (c : Cmd), s.admin 0x30 = some c → s.svcKeyFirst = false →
      s.wipeOrphan = false → c.f 48 2 = k → k ≤ 251 → c.f 50 1 = 0 → s.keys.lc ≠ 4 → s.rb R.KEY_CTL 0 = false →
      Answers (.keyLoad (some b)) s fun t =>
        t.slot k = { state := 1, origin := 0, key := b.setWidth 256, txfc := BitVec.ofNat 32 (c.f 56 4) } ∧
          ∀ j, j ≠ k → t.slot j = s.slot j) ∧
    (∀ (b : BitVec 512) (k : Nat) (c : Cmd), s.admin 0x30 = some c → s.svcKeyFirst = false →
      s.wipeOrphan = false → c.f 48 2 = k → 272 ≤ k → k ≤ 319 → c.f 50 1 = 0 → s.keys.lc = 1 ∨ s.keys.lc = 3 →
      s.wrapReady = true → Answers (.keyLoad (some b)) s fun t =>
        t.slot k = { state := 1, origin := 0, key := b.setWidth 256 } ∧ (∀ j, j ≠ k → t.slot j = s.slot j) ∧
          t.keys.blobs.find? (fun p => p.1 == k) =
          some (k, s.blobOf k 0 (b.setWidth 256))) ∧
    (∀ (b : BitVec 512) (k : Nat) (c : Cmd), s.admin 0x30 = some c → s.svcKeyFirst = false →
      s.wipeOrphan = false → c.f 48 2 = k → k ≤ 251 → c.f 50 1 = 1 → s.keys.lc ≠ 4 →
      sessSlot (c.f 52 2) = true ∨ custSlot (c.f 52 2) = true → (s.slot (c.f 52 2)).state ≠ 0 →
      Answers (.keyLoad (some b)) s fun t =>
        match Config.gcmOpen (s.slotKey (c.f 52 2)) (b.setWidth 96) 
            (bvBytes 8 Config.serial ++ leBytes 12 (c.f 48 16))
            (((bvBytes 64 b).drop 12).take 32) (BitVec.ofNat 128 (leNat (((bvBytes 64 b).drop 44).take 16))) with
          | none => t = (s.adminDone c 1 0x32 0).keyPassed
          | some p => t.slot k =
            { state := 1, origin := 1, key := BitVec.ofNat 256 (leNat p), txfc := BitVec.ofNat 32 (c.f 56 4) }) ∧
    (∀ (b : Option (BitVec 512)) (c : Cmd) (code : Nat), s.admin 0x30 = some c → s.svcKeyFirst = false →
      s.wipeOrphan = false →
      (netSlot (c.f 48 2) = false ∧ custSlot (c.f 48 2) = false) ∧ code = 0x30 ∨ (netSlot (c.f 48 2) = true ∧ c.f
        50 1 = 0 ∧ (s.keys.lc = 4 ∨ s.rb R.KEY_CTL 0 = true)) ∧ code = 0x31 ∨ (netSlot (c.f 48 2) = true ∧ c.f 50
        1 = 1 ∧ s.keys.lc ≠ 4 ∧ sessSlot (c.f 52 2) = true ∧ (s.slot (c.f 52 2)).state = 0) ∧ code = 0x38 →
      Answers (.keyLoad b) s fun t => t = (s.adminDone c 1 code 0).keyPassed) ∧
    (∀ (c : Cmd), s.admin 0x31 = some c → s.svcKeyFirst = false → s.wipeOrphan = false →
      c.f 50 2 ≤ 255 ∨ (272 ≤ c.f 48 2 ∧ c.f 48 2 ≤ 319 ∧ 272 ≤ c.f 50 2 ∧ c.f 50 2 ≤ 319) →
      Answers .keyClear s fun t => ∀ j, t.slot j = if c.f 48 2 ≤ j ∧ j ≤ c.f 50 2 then {} else s.slot j) ∧
    (∀ (c : Cmd), s.admin 0x31 = some c → s.svcKeyFirst = false → s.wipeOrphan = false → 272 ≤ c.f 48 2 →
      c.f 48 2 ≤ 319 → 272 ≤ c.f 50 2 → c.f 50 2 ≤ 319 → Answers .keyClear s fun t =>
        t.keys.blobs = s.keys.blobs.filter (fun p => !(decide (c.f 48 2 ≤ p.1) && decide (p.1 ≤ c.f 50 2)))) ∧
    (∀ (c : Cmd), s.admin 0x31 = some c → s.svcKeyFirst = false → s.wipeOrphan = false → 255 < c.f 50 2 →
      custSlot (c.f 48 2) = false ∨ custSlot (c.f 50 2) = false →
      Answers .keyClear s fun t => t = (s.adminDone c 1 0x30 0).keyPassed) ∧
    (∀ (c : Cmd), s.admin 0x32 = some c → s.svcKeyFirst = false → s.wipeOrphan = false →
      Answers (.keyStat true) s fun t =>
        ∃ l : List Byte, l.length = 2576 ∧ t = ((s.putBuffer c none 2576 0 l).adminDone c 0 0 0).keyPassed ∧
          ∀ k < 252, (l.drop (16 + 8 * k)).take 8 = [BitVec.ofNat 8 (if s.exhausted k then 2 else (s.slot
            k).state), BitVec.ofNat 8 (s.slot k).origin, 0, 0] ++
            leBytes 4 (s.slot k).txfc.toNat) ∧
    (∀ (c : Cmd), s.admin 0x32 = some c → s.svcKeyFirst = false → s.wipeOrphan = false →
      Answers (.keyStat false) s fun t => t = (s.adminDone c 0 4 0).keyPassed) ∧
    (∀ (c : Cmd), s.admin 0x30 = some c → s.svcKeyFirst = false → s.wipeOrphan = false → c.f 48 2 ≤ 251 →
      c.f 50 1 = 0 → s.keys.lc ≠ 4 → s.rb R.KEY_CTL 0 = false →
      Answers (.keyLoad none) s fun t => t = (s.adminDone c 0 4 0).keyPassed) ∧
    (∀ (b : BitVec 512) (c : Cmd) (i : Nat), s.admin 0x34 = some c → s.svcKeyFirst = false →
      s.wipeOrphan = false → c.f 48 1 = i → i ≤ 3 → s.keys.lc ≠ 2 → s.keys.lc ≠ 4 →
      s.keys.enrolled.getLsbD i = false → Answers (.keyEnroll (some b) true) s fun t =>
        t.keys.enrolled = bput i true s.keys.enrolled ∧ tget (fun _ => 0) t.keys.custKeys i = b ∧
          t.rf R.KEY_STAT 5 2 = t.keys.enrolled.toNat) ∧
    (∀ (b : BitVec 512) (c : Cmd) (i : Nat), s.admin 0x34 = some c → s.svcKeyFirst = false →
      s.wipeOrphan = false → c.f 48 1 = i → s.keys.lc ≠ 2 → s.keys.lc ≠ 4 → s.keys.enrolled.getLsbD i = false →
      Answers (.keyEnroll (some b) false) s fun t => t.keys = s.keys ∧ t.rb R.KEY_STAT 1 = true) ∧
    (∀ (b : Option (BitVec 512)) (ok : Bool) (c : Cmd) (code : Nat), s.admin 0x34 = some c →
      s.svcKeyFirst = false → s.wipeOrphan = false →
      (s.keys.lc = 2 ∨ s.keys.lc = 4) ∧ code = 0x31 ∨ (s.keys.lc ≠ 2 ∧ s.keys.lc ≠ 4 ∧ s.keys.enrolled.getLsbD
        (c.f 48 1) = true) ∧ code = 0x34 →
      Answers (.keyEnroll b ok) s fun t => t = (s.adminDone c 1 code 0).keyPassed) ∧
    (∀ (tok : Option (BitVec 512)) (c : Cmd) (i : Nat), s.admin 0x35 = some c → s.svcKeyFirst = false →
      s.wipeOrphan = false → c.f 48 1 = i → c.dptrKind = 2 → c.f 49 1 = 0 → s.keys.lc ≠ 2 → s.keys.lc ≠ 4 →
      Answers (.keyRevoke tok true) s fun t => t.keys.revoked = bput i true s.keys.revoked) ∧
    (∀ (tok : BitVec 512) (c : Cmd) (i : Nat) (ch : BitVec 128), s.admin 0x35 = some c →
      s.svcKeyFirst = false → s.wipeOrphan = false → c.f 48 1 = i → c.dptrKind = 1 → s.keys.lc = 2 →
      s.keys.challenge = some ch → c.f 49 1 ≠ 0x80 → Answers (.keyRevoke (some tok) true) s fun t =>
        t.keys.challenge = none ∧ t.keys.revoked = (if (c.f 49 1 < 4 ∧
          s.keys.enrolled.getLsbD (c.f 49 1) = true ∧ s.keys.revoked.getLsbD (c.f 49 1) = false) ∧
            ecdsaVerify (tget (fun _ => 0) s.keys.custKeys (c.f 49 1)) (s.tokenDigest (0x10 + i) ch) tok = true ∧
            c.f 49 1 ≠ i
          then bput i true s.keys.revoked else s.keys.revoked)) ∧
    (∀ (p : BitVec 512) (c : Cmd) (k : Nat), s.admin 0x36 = some c → s.svcKeyFirst = false →
      s.wipeOrphan = false → s.freeSession = some k → s.rngFail = false →
      Answers (.sessionOpen (some p)) s fun t =>
        ∃ priv : BitVec 256, t.slot k = { state := 1, origin := 2, key := sessionKey priv p } ∧
          ∃ u : State, t = (u.adminDone c 0 0 k).keyPassed) ∧
    (∀ (p : Option (BitVec 512)) (c : Cmd) (code : Nat), s.admin 0x36 = some c → s.svcKeyFirst = false →
      s.wipeOrphan = false →
      s.freeSession = none ∧ code = 0x33 ∨ (s.freeSession.isSome = true ∧ s.rngFail = true) ∧ code = 0x36 →
      Answers (.sessionOpen p) s fun t => t = (s.adminDone c 1 code 0).keyPassed) ∧
    (∀ (c : Cmd) (k : Nat), s.admin 0x37 = some c → s.svcKeyFirst = false → s.wipeOrphan = false →
      c.f 48 2 = k → 252 ≤ k → k ≤ 255 →
      Answers .sessionClose s fun t => t.slot k = {} ∧ ∀ j, j ≠ k → t.slot j = s.slot j) ∧
    (∀ (c : Cmd), s.admin 0x37 = some c → s.svcKeyFirst = false → s.wipeOrphan = false →
      sessSlot (c.f 48 2) = false → Answers .sessionClose s fun t => t = (s.adminDone c 1 0x30 0).keyPassed) ∧
    (∀ (c : Cmd), s.admin 0x38 = some c → s.svcKeyFirst = false → s.wipeOrphan = false →
      Answers (.idCert true) s fun t =>
        ∃ pad : List Byte, pad.length = 1024 - certificate.length ∧
          t = ((s.putBuffer c none 1024 0 (certificate.take 1024 ++ pad)).adminDone c 0 0 (certificate.take
            1024).length).keyPassed) ∧
    (∀ (nonce : BitVec 256) (c : Cmd), s.admin 0x39 = some c → s.svcKeyFirst = false → s.wipeOrphan = false →
      s.rngFail = false → Answers (.idAttest (some nonce)) s fun t =>
        ∃ (u : State) (l : List Byte), t = ((u.putBuffer c none l.length 0 l).adminDone c 0 0 0).keyPassed ∧
          u.hri = s.hri ∧ l.length = 128 ∧
          l.take 32 = bvBytes 32 nonce ∧ (l.drop 32).take 8 = bvBytes 8 Config.serial ∧
          l.getD 44 0 = BitVec.ofNat 8 s.keys.lc ∧
          l.getD 45 0 = BitVec.ofNat 8 s.keys.steps ∧ l.getD 47 0 = BitVec.ofNat 8 (s.rf R.GLB_CAP0 11 8) ∧
          (l.drop 48).take 8 = bvBytes 8 s.count64) ∧
    (∀ (c : Cmd), s.admin 0x3A = some c → s.svcKeyFirst = false → s.wipeOrphan = false → s.rngFail = false →
      Answers (.lcChallenge true) s fun t =>
        ∃ (u : State) (ch : BitVec 128), t.keys.challenge = some ch ∧
          t = ((u.putBuffer c none 16 0 (bvBytes 16 ch)).adminDone c 0 0 0).keyPassed ∧
          u.rb R.KEY_STAT 10 = true) ∧
    (∀ (ok : Bool) (c : Cmd), s.admin 0x3A = some c → s.svcKeyFirst = false → s.wipeOrphan = false →
      s.rngFail = true → Answers (.lcChallenge ok) s fun t => t = (s.adminDone c 1 0x36 0).keyPassed) ∧
    (∀ (c : Cmd), s.admin 0x38 = some c → s.svcKeyFirst = false → s.wipeOrphan = false →
      Answers (.idCert false) s fun t => t = (s.adminDone c 0 4 0).keyPassed) ∧
    (∀ (c : Cmd), s.admin 0x39 = some c → s.svcKeyFirst = false → s.wipeOrphan = false → s.rngFail = false →
      Answers (.idAttest none) s fun t => t = (s.adminDone c 0 4 0).keyPassed) ∧
    (∀ (x : Option (BitVec 256)) (c : Cmd), s.admin 0x39 = some c → s.svcKeyFirst = false →
      s.wipeOrphan = false → s.rngFail = true →
      Answers (.idAttest x) s fun t => t = (s.adminDone c 1 0x36 0).keyPassed) ∧
    (∀ (c : Cmd), s.admin 0x3A = some c → s.svcKeyFirst = false → s.wipeOrphan = false → s.rngFail = false →
      Answers (.lcChallenge false) s fun t =>
        ∃ (u : State) (ch : BitVec 128), t.keys.challenge = some ch ∧ t = (u.adminDone c 0 4 0).keyPassed ∧
          u.rb R.KEY_STAT 10 = true) ∧
    (∀ (c : Cmd), s.admin 0x36 = some c → s.svcKeyFirst = false → s.wipeOrphan = false →
      s.freeSession.isSome = true → s.rngFail = false →
      Answers (.sessionOpen none) s fun t => t = (s.adminDone c 0 4 0).keyPassed) ∧
    (∀ (ok : Bool) (c : Cmd), s.admin 0x34 = some c → s.svcKeyFirst = false → s.wipeOrphan = false →
      s.keys.lc ≠ 2 → s.keys.lc ≠ 4 → s.keys.enrolled.getLsbD (c.f 48 1) = false →
      Answers (.keyEnroll none ok) s fun t => t = (s.adminDone c 0 4 0).keyPassed) ∧
    (∀ (ok : Bool) (c : Cmd), s.admin 0x35 = some c → s.svcKeyFirst = false → s.wipeOrphan = false →
      s.keys.lc = 2 → c.dptrKind = 1 →
      Answers (.keyRevoke none ok) s fun t => t = (s.adminDone c 0 4 0).keyPassed) ∧
    (∀ (tok : Option (BitVec 512)) (ok : Bool) (c : Cmd), s.admin 0x35 = some c → s.svcKeyFirst = false →
      s.wipeOrphan = false → (s.keys.lc = 2 ∧ c.dptrKind ≠ 1) ∨ (s.keys.lc ≠ 2 ∧ c.dptrKind ≠ 2) →
      Answers (.keyRevoke tok ok) s fun t => t = (s.adminDone c 0 2 1).keyPassed) ∧
    (∀ (tok : Option (BitVec 512)) (ok : Bool) (c : Cmd), s.admin 0x35 = some c → s.svcKeyFirst = false →
      s.wipeOrphan = false → c.dptrKind = 2 → c.f 49 1 ≠ 0 → s.keys.lc ≠ 2 →
      Answers (.keyRevoke tok ok) s fun t => t = (s.adminDone c 0 2 49).keyPassed) ∧
    (∀ (tok : Option (BitVec 512)) (c : Cmd), s.admin 0x35 = some c → s.svcKeyFirst = false →
      s.wipeOrphan = false → c.dptrKind = 2 → c.f 49 1 = 0 → s.keys.lc ≠ 2 → s.keys.lc ≠ 4 →
      Answers (.keyRevoke tok false) s fun t => t = ((s.flag R.KEY_STAT 1).adminDone c 1 0x35 0).keyPassed)

/-- O42. LC-ADVANCE makes only the moves of R352. BLANK to PROVISIONED needs an enrolled image key, PROVISIONED to FIELD
an unrevoked one, and SERVICE goes back to PROVISIONED; each adds one step and wipes nothing. FIELD to SERVICE needs
a token that checks and empty queues; it adds a step, empties volatile and customer slots, makes every block of NS1
read as zeros and the journal empty, WIPEPEND standing from the one to the other where the row stops midway, or
while PFAILn is low or the wrapping key's ledger record is due, and a further one ends it; with RNGFAIL raised
meanwhile and keys missing that one ends with RNG FAIL (the model's choice, log 78). SCRAPPED can be reached from
BLANK without a token; every enrolled key is then revoked. A pair not in the table gives STATE FORBIDS (0x31) and
changes nothing, and so does every pair from SCRAPPED; a fuse that does not read back gives FUSE FAILED, the state
unchanged. The ledger record of a counter lets its journal groups go on; a failing record sets its flag. A failed
health test of the random source sets RNGFAIL. -/
def Obligations.LifeCycleAdvancesByItsTable : Prop :=
  ∀ s : State,
    (∀ (tok : Option (BitVec 512)) (mid : Bool) (c : Cmd), s.admin 0x3B = some c → s.svcKeyFirst = false →
      s.wipeOrphan = false → c.stalled = false ∨ s.keys.wipePend = false → c.dptrKind = 2 →
      (s.keys.lc = 0 ∧ c.f 48 1 = 1 ∧ s.keys.enrolled ≠ 0) ∨ (s.keys.lc = 1 ∧ c.f 48 1 = 2 ∧ s.keys.enrolled &&&
        ~~~s.keys.revoked ≠ 0) ∨ (s.keys.lc = 3 ∧ c.f 48 1 = 1) →
      s.keys.steps < 47 → Answers (.lifeCycleAdvance tok true mid) s fun t =>
        t.keys.steps = s.keys.steps + 1 ∧ t.keys.slots = s.keys.slots ∧ t.keys.blobs = s.keys.blobs ∧
          (∀ a, t.ns1 a = s.ns1 a) ∧ t.keys.scrapped = false) ∧
    (∀ (tok : BitVec 512) (mid : Bool) (c : Cmd) (ch : BitVec 128), s.admin 0x3B = some c →
      s.svcKeyFirst = false → s.wipeOrphan = false → c.stalled = false ∨ s.keys.wipePend = false →
      c.dptrKind = 1 → s.keys.lc = 2 → c.f 48 1 = 3 → s.keys.steps < 47 → s.queuesActive = false →
      s.wrapReady = true → s.keys.challenge = some ch → c.f 49 1 ≠ 0x80 → s.rngFail = false →
      Answers (.lifeCycleAdvance (some tok) true mid) s fun t =>
        t.keys.challenge = none ∧ (if (c.f 49 1 < 4 ∧ s.keys.enrolled.getLsbD (c.f 49 1) = true ∧
          s.keys.revoked.getLsbD (c.f 49 1) = false) ∧
            ecdsaVerify (tget (fun _ => 0) s.keys.custKeys (c.f 49 1)) (s.tokenDigest 3 ch) tok = true
          then t.keys.steps = s.keys.steps + 1 ∧ t.keys.lc = 3 ∧ (∀ k, k ≤ 255 ∨ (272 ≤ k ∧
          k ≤ 319) → t.slot k = {}) ∧ (mid = true → t.keys.wipePend = true) ∧
            (mid = false → s.power.pfailn = true → s.keys.wctr.toNat % 65536 < 65534 → t.keys.wipePend = false ∧
            t.jnl.clutches = [] ∧
              (s.store.mapSound = true → ∀ a, t.ns1 a = 0))
          else t.keys.steps = s.keys.steps ∧ t.keys.slots = s.keys.slots ∧ t.store = s.store)) ∧
    (∀ (tok : Option (BitVec 512)) (mid : Bool) (c : Cmd) (ok : Bool), s.admin 0x3B = some c →
      s.svcKeyFirst = false → s.wipeOrphan = false → c.stalled = true → s.keys.wipePend = true →
      s.keys.scrapped = true ∨ (s.epochKeys = true ∧ s.power.pfailn = true) →
      Answers (.lifeCycleAdvance tok ok mid) s fun t =>
        t.keys.wipePend = false ∧ (s.keys.scrapped = false → t.jnl.clutches = [] ∧
          (s.store.mapSound = true → ∀ a, t.ns1 a = 0)) ∧
          ∃ u : State, t = (u.adminDone c 0 0 0).keyPassed) ∧
    (∀ (tok : Option (BitVec 512)) (mid : Bool) (c : Cmd) (ok : Bool), s.admin 0x3B = some c →
      s.svcKeyFirst = false → s.wipeOrphan = false → c.stalled = true → s.keys.wipePend = true →
      s.keys.scrapped = false → s.epochKeys = false → s.rngFail = true →
      Answers (.lifeCycleAdvance tok ok mid) s fun t =>
        ∃ u : State, t = (u.adminDone c 1 0x36 0).keyPassed ∧ u.keys = s.keys) ∧
    (∀ (tok : Option (BitVec 512)) (mid : Bool) (ok : Bool),
      s.svcKeyFirst = true ∨ s.wipeGoOn.admin 0x3B = none →
      Answers (.lifeCycleAdvance tok ok mid) s fun t => t = s.wipeGoOn) ∧
    (s.svcKeyFirst = true ∨ s.wipeGoOn.admin 0x31 = none → Answers .keyClear s fun t => t = s.wipeGoOn) ∧
    (∀ (tok : Option (BitVec 512)) (mid : Bool) (c : Cmd), s.admin 0x3B = some c → s.svcKeyFirst = false →
      s.wipeOrphan = false → c.stalled = false ∨ s.keys.wipePend = false → c.dptrKind = 2 → s.keys.lc = 0 →
      c.f 48 1 = 4 → s.queuesActive = false → Answers (.lifeCycleAdvance tok true mid) s fun t =>
        t.keys.scrapped = true ∧ t.keys.lc = 4 ∧ t.keys.revoked = s.keys.revoked ||| s.keys.enrolled ∧
          t.keys.steps = s.keys.steps ∧ (∀ k ≤ 255, t.slot k = {})) ∧
    (∀ (tok : Option (BitVec 512)) (mid : Bool) (c : Cmd) (ok : Bool), s.admin 0x3B = some c →
      s.svcKeyFirst = false → s.wipeOrphan = false → c.stalled = false ∨ s.keys.wipePend = false →
      lcTransition s.keys.lc (c.f 48 1) = none →
      Answers (.lifeCycleAdvance tok ok mid) s fun t => t = (s.adminDone c 1 0x31 0).keyPassed) ∧
    (∀ (l target : Nat), l ≤ 4 →
      lcTransition 4 target = none ∧ lcTransition l l = none ∧ (lcTransition l 3 ≠ none → l = 2) ∧ (lcTransition l
        2 ≠ none → l = 1)) ∧
    (∀ (tok : Option (BitVec 512)) (mid : Bool) (c : Cmd), s.admin 0x3B = some c → s.svcKeyFirst = false →
      s.wipeOrphan = false → c.stalled = false ∨ s.keys.wipePend = false → c.dptrKind = 2 →
      (s.keys.lc = 0 ∧ c.f 48 1 = 1 ∧ s.keys.enrolled ≠ 0) ∨ (s.keys.lc = 1 ∧ c.f 48 1 = 2 ∧ s.keys.enrolled &&&
        ~~~s.keys.revoked ≠ 0) ∨ (s.keys.lc = 3 ∧ c.f 48 1 = 1) →
      s.keys.steps < 47 → Answers (.lifeCycleAdvance tok false mid) s fun t =>
        t.keys = s.keys ∧ t.store = s.store ∧ t.rb R.KEY_STAT 1 = true) ∧
    (∀ (tok : Option (BitVec 512)) (mid : Bool) (c : Cmd) (ok : Bool), s.admin 0x3B = some c →
      s.svcKeyFirst = false → s.wipeOrphan = false → c.stalled = false ∨ s.keys.wipePend = false →
      c.dptrKind = 1 → s.keys.lc = 2 → c.f 48 1 = 3 → s.keys.steps < 47 → s.queuesActive = true →
      Answers (.lifeCycleAdvance tok ok mid) s fun t => t = (s.adminDone c 1 0x37 0).keyPassed) ∧
    (BitVec.ofNat 64 (s.keys.jctr.toNat / 65536 * 65536) ≠ s.keys.jledger →
      Answers (.ledgerRecord true true) s fun t =>
        t.keys.jledger = BitVec.ofNat 64 (s.keys.jctr.toNat / 65536 * 65536) ∧ t.keys.jwait = false) ∧
    (Answers (.ledgerRecord false true) s fun t =>
        t.keys.wledger = BitVec.ofNat 64 (s.keys.wctr.toNat / 65536 * 65536)) ∧
    (∀ (j ok : Bool),
      (if j then s.keys.jctr else s.keys.wctr).toNat / 65536 * 65536 = (if j then s.keys.jledger else
        s.keys.wledger).toNat →
      Answers (.ledgerRecord j ok) s fun t => t = s) ∧
    (∀ (j : Bool),
      (if j then s.keys.jctr else s.keys.wctr).toNat / 65536 * 65536 ≠ (if j then s.keys.jledger else
        s.keys.wledger).toNat →
      Answers (.ledgerRecord j false) s fun t => t = s.flag R.CIP_STAT 2) ∧
    (s.d0up = true → Answers .rngHealthFail s fun t => t = s.flag R.CIP_STAT 1)

/-- O43. For a newt with nothing in flight: a move into a general register gives it the value its source reads and
changes no other port. An ALU trigger leaves its operands, and its result is on its way to the result port, which
the next word reads; a result whose word has come is in its port. A MAC trigger updates the accumulators by the
exact arithmetic of chapter 12, the result three words away. A store to DMEM writes exactly its bytes; a load is two
words away; gather loads are twelve words away and a gather store writes exactly its bytes; one of a bank without
power is refused, which the newt learns twelve words later (R384); a register access joins the request queue. Each
such word ends at the next address; its cycles, with its stalls, count, and an armed timer that they reach sets EXP
(port 0x184), which else no such word changes. A newt that does not run executes nothing. -/
def Obligations.WordsMoveComputeAndAccess : Prop :=
  ∀ s : State,
    (∀ (n : Fin 16) (e k : Nat) (w : BitVec 128) (m : Move'), s.atWord n.val w none → wordLegal w = true →
      movesOf w = [m] → m.dst < 64 → Answers (.newtWordExecute n k ⟨e, none⟩) s fun t =>
        (t.newt n.val).port m.dst = s.moveVal n.val m ∧
          (∀ p, p ≠ m.dst → p ≠ 0x184 → (t.newt n.val).port p = (s.newt n.val).port p) ∧
          (t.newt n.val).port 0x184 = (if 0 < (s.newt n.val).tmr ∧
          (s.newt n.val).tmr ≤ 1 + k then 1 else (s.newt n.val).port 0x184) ∧
          (t.newt n.val).cyc = (s.newt n.val).cyc + BitVec.ofNat 48 (1 + k) ∧
          (t.newt n.val).pc = (s.newt n.val).pc + 16 ∧
          t.run n.val = 0 ∧ (t.newt n.val).acc = (s.newt n.val).acc ∧
          (t.newt n.val).dmem = (s.newt n.val).dmem ∧ (t.newt n.val).landing = []) ∧
    (∀ (n : Fin 16) (e k : Nat) (w : BitVec 128) (m : Move'), s.atWord n.val w none → wordLegal w = true →
      movesOf w = [m] → 0x50 ≤ m.dst ∧ m.dst < 0x60 ∨ 0x70 ≤ m.dst ∧ m.dst < 0x80 →
      Answers (.newtWordExecute n k ⟨e, none⟩) s fun t =>
        (t.newt n.val).landing = [⟨1, if m.dst < 0x60 then 0x41 else 0x61,
            alu (m.dst % 16) ((s.newt n.val).port (if m.dst < 0x60 then 0x40 else 0x60)) (s.moveVal n.val m), 0⟩]
              ∧
          (∀ p, p ≠ 0x184 → (t.newt n.val).port p = (s.newt n.val).port p) ∧
          (t.newt n.val).acc = (s.newt n.val).acc ∧ (t.newt n.val).dmem = (s.newt n.val).dmem ∧
          (t.newt n.val).pc = (s.newt n.val).pc + 16) ∧
    (∀ (n : Fin 16) (e k p : Nat) (w : BitVec 128) (v : Word), s.run n.val = 0 → s.d0up = true →
      s.newtGated n.val = false → (s.newt n.val).gath = [] → (s.newt n.val).landing = [⟨1, p, v, 0⟩] →
      (s.newt n.val).pend0 = none → (s.newt n.val).pc < 0x10000 →
      tget (fun _ => 0) (s.newt n.val).imem ((s.newt n.val).pc / 16) = w → wordLegal w = true → movesOf w = [] →
      p ≠ 0x184 → Answers (.newtWordExecute n k ⟨e, none⟩) s fun t =>
        (t.newt n.val).port p = v ∧ (t.newt n.val).landing = [] ∧
          ∀ j, j ≠ p → j ≠ 0x184 → (t.newt n.val).port j = (s.newt n.val).port j) ∧
    (∀ (n : Fin 16) (e k : Nat) (w : BitVec 128) (m : Move'), s.atWord n.val w none → wordLegal w = true →
      movesOf w = [m] → 0xC0 ≤ m.dst → m.dst < 0x100 → m.dst % 8 ≠ 4 →
      Answers (.newtWordExecute n k ⟨e, none⟩) s fun t =>
        let o := macOp (s.newt n.val).acc m.dst ((s.newt n.val).port 0x80) (s.moveVal n.val m) ((s.newt
          n.val).port 0x81) ((s.newt n.val).port 0x83)
        (t.newt n.val).acc = o.acc ∧ (t.newt n.val).landing = [⟨3, 0x82, o.r, o.sticky⟩] ∧
          (∀ p, p ≠ 0x184 → (t.newt n.val).port p = (s.newt n.val).port p) ∧
          (t.newt n.val).dmem = (s.newt n.val).dmem ∧ (t.newt n.val).pc = (s.newt n.val).pc + 16) ∧
    (∀ (n : Fin 16) (e k : Nat) (w : BitVec 128) (m : Move') (a z : Nat) (g : Bool), s.atWord n.val w none →
      wordLegal w = true → movesOf w = [m] → 0x110 ≤ m.dst → m.dst < 0x11B → portKind m.dst = .t →
      lsuForm m.dst = (z, g, true) → lsuAddr ((s.newt n.val).port 0x100) (s.moveVal n.val m) = 0x10000000 + a →
      a < 0x10000 → a % z = 0 → Answers (.newtWordExecute n k ⟨e, none⟩) s fun t =>
        (∀ i, (t.newt n.val).byte i = if a ≤ i ∧
          i < a + z then (leBytes z ((s.newt n.val).port 0x101).toNat).getD (i - a) 0 else (s.newt n.val).byte i)
            ∧
          (t.newt n.val).landing = [] ∧ (∀ p, p ≠ 0x184 → (t.newt n.val).port p = (s.newt n.val).port p) ∧
          (t.newt n.val).pc = (s.newt n.val).pc + 16) ∧
    (∀ (n : Fin 16) (e k : Nat) (w : BitVec 128) (m : Move') (a z : Nat) (g : Bool), s.atWord n.val w none →
      wordLegal w = true → movesOf w = [m] → 0x110 ≤ m.dst → m.dst < 0x11B → portKind m.dst = .t →
      lsuForm m.dst = (z, g, false) → lsuAddr ((s.newt n.val).port 0x100) (s.moveVal n.val m) = 0x10000000 + a →
      a < 0x10000 → a % z = 0 → Answers (.newtWordExecute n k ⟨e, none⟩) s fun t =>
        (t.newt n.val).landing = [⟨2, 0x102, extend z g (leNat ((List.range z).map fun i => (s.newt n.val).byte (a
          + i))), 0⟩] ∧
          (∀ p, p ≠ 0x184 → (t.newt n.val).port p = (s.newt n.val).port p) ∧
          (t.newt n.val).acc = (s.newt n.val).acc ∧ (t.newt n.val).dmem = (s.newt n.val).dmem ∧
          (t.newt n.val).pc = (s.newt n.val).pc + 16) ∧
    (∀ (n : Fin 16) (e k : Nat) (w : BitVec 128) (m : Move') (a z : Nat) (g st : Bool), s.atWord n.val w none →
      wordLegal w = true → movesOf w = [m] → 0x110 ≤ m.dst → m.dst < 0x11B → portKind m.dst = .t →
      lsuForm m.dst = (z, g, st) → lsuAddr ((s.newt n.val).port 0x100) (s.moveVal n.val m) = 0x20000000 + a →
      a < 0x800000 → a % z = 0 → (s.newt n.val).lastGath = false → s.gathRefused a = false →
      Answers (.newtWordExecute n k ⟨e, none⟩) s fun t =>
        (∀ i, t.gatherByte i = if st = true ∧ a ≤ i ∧
          i < a + z then (leBytes z ((s.newt n.val).port 0x101).toNat).getD (i - a) 0 else s.gatherByte i) ∧
          (t.newt n.val).landing = (if st then [] else [⟨12, 0x103, extend z g (leNat ((List.range z).map fun i =>
            s.gatherByte (a + i))), 0⟩]) ∧
          (t.newt n.val).lastGath = true ∧
          (∀ p, p ≠ 0x184 → (t.newt n.val).port p = (s.newt n.val).port p) ∧
          (t.newt n.val).acc = (s.newt n.val).acc ∧ (t.newt n.val).dmem = (s.newt n.val).dmem) ∧
    (∀ (n : Fin 16) (e k : Nat) (w : BitVec 128) (m : Move') (a z : Nat) (g st : Bool), s.atWord n.val w none →
      wordLegal w = true → movesOf w = [m] → 0x110 ≤ m.dst → m.dst < 0x11B → portKind m.dst = .t →
      lsuForm m.dst = (z, g, st) → lsuAddr ((s.newt n.val).port 0x100) (s.moveVal n.val m) = 0x20000000 + a →
      a < 0x800000 → a % z = 0 → (s.newt n.val).lastGath = false → s.gathRefused a = true →
      Answers (.newtWordExecute n k ⟨e, none⟩) s fun t =>
        t.gather = s.gather ∧ (t.newt n.val).landing = [] ∧ (∃ g, (t.newt n.val).gath = [g] ∧ g.left = 12 ∧
          g.pc = (s.newt n.val).pc ∧ g.bad = true ∧ g.cause = 3) ∧
          (∀ p, p ≠ 0x184 → (t.newt n.val).port p = (s.newt n.val).port p) ∧
          (t.newt n.val).acc = (s.newt n.val).acc ∧ (t.newt n.val).dmem = (s.newt n.val).dmem) ∧
    (∀ (n : Fin 16) (e k : Nat) (w : BitVec 128) (m : Move') (a : Nat), s.atWord n.val w none →
      wordLegal w = true → movesOf w = [m] → m.dst = 0x110 ∨ m.dst = 0x118 →
      lsuAddr ((s.newt n.val).port 0x100) (s.moveVal n.val m) = 0x40000000 + a → a < 0x150000 → a % 4 = 0 →
      (s.newt n.val).regq.length < 4 → Answers (.newtWordExecute n k ⟨e, none⟩) s fun t =>
        (t.newt n.val).regq = (s.newt n.val).regq ++ [⟨decide (m.dst = 0x118), a, (s.newt n.val).port 0x101,
          (s.newt n.val).pc⟩] ∧
          (∀ p, p ≠ 0x184 → (t.newt n.val).port p = (s.newt n.val).port p) ∧
          (t.newt n.val).acc = (s.newt n.val).acc ∧ (t.newt n.val).dmem = (s.newt n.val).dmem ∧
          (t.newt n.val).pc = (s.newt n.val).pc + 16) ∧
    (∀ (n : Fin 16) (e k : Nat), s.run n.val ≠ 0 ∨ s.d0up = false ∨ s.newtGated n.val = true →
      Answers (.newtWordExecute n k ⟨e, none⟩) s fun t => t = s)

/-- O44. A slot that does not decode, in slot 0, faults with ILLEGAL; a trigger that may not act with its cause and
slot; an uncorrectable word of its instruction memory or of the data a load reads with causes 8 and 9, SRAMUE set
(R26). A faulted newt is FAULTED, NWT_CST and NWT_FPC say why and where, and the word has changed no port,
accumulator or data byte. A taken branch, jump or call redirects two words later: it is pending, and the word after
the next leads to the target. A due wait whose condition holds goes on; otherwise the newt is WAITING, and where it
ends the cycles of the pause have counted. An armed timer that expires has counted its cycles, sets EXP and reloads
(R395). A due stop makes it STOPPED, stopped by itself, NWT_FPC at the next word. -/
def Obligations.WordsFaultBranchWaitAndStop : Prop :=
  ∀ s : State,
    (∀ (n : Fin 16) (e k : Nat) (w : BitVec 128) (p : Option Redirect), s.atWord n.val w p →
      (decodeSlots 0 (slots w)).head? = some (0, none) → Answers (.newtWordExecute n k ⟨e, none⟩) s fun t =>
        t.faultOf n.val = (4, 1, 0, (s.newt n.val).pc) ∧
          (∀ p, p ≠ 0x184 → (t.newt n.val).port p = (s.newt n.val).port p) ∧
          (t.newt n.val).acc = (s.newt n.val).acc ∧ (t.newt n.val).dmem = (s.newt n.val).dmem) ∧
    (∀ (n : Fin 16) (e k : Nat), s.run n.val = 0 → s.d0up = true → s.newtGated n.val = false →
      (s.newt n.val).gath = [] → (s.newt n.val).landing = [] → (s.newt n.val).pc < 0x10000 →
      Answers (.newtWordExecute n k ⟨e, some (.imem n)⟩) s fun t =>
        t.faultOf n.val = (4, 8, 0, (s.newt n.val).pc) ∧ t.rb R.GLB_STAT 2 = true ∧
          (∀ p, p ≠ 0x184 → (t.newt n.val).port p = (s.newt n.val).port p) ∧
          (t.newt n.val).acc = (s.newt n.val).acc ∧ (t.newt n.val).dmem = (s.newt n.val).dmem) ∧
    (∀ (n : Fin 16) (e k : Nat) (w : BitVec 128) (m : Move') (a z : Nat) (g : Bool), s.atWord n.val w none →
      wordLegal w = true → movesOf w = [m] → 0x110 ≤ m.dst → m.dst < 0x11B → portKind m.dst = .t →
      lsuForm m.dst = (z, g, false) → lsuAddr ((s.newt n.val).port 0x100) (s.moveVal n.val m) = 0x10000000 + a →
      a < 0x10000 → a % z = 0 → Answers (.newtWordExecute n k ⟨e, some (.dmem n)⟩) s fun t =>
        t.faultOf n.val = (4, 9, m.slot, (s.newt n.val).pc) ∧ t.rb R.GLB_STAT 2 = true ∧
          (∀ p, p ≠ 0x184 → (t.newt n.val).port p = (s.newt n.val).port p) ∧
          (t.newt n.val).acc = (s.newt n.val).acc ∧ (t.newt n.val).dmem = (s.newt n.val).dmem) ∧
    (∀ (n : Fin 16) (e k : Nat) (w : BitVec 128) (m : Move') (p : Option Redirect) (c : Nat),
      s.atWord n.val w p → wordLegal w = true → movesOf w = [m] → portKind m.dst = .t →
      trigFault (s.newt n.val) false (s.source n.val m) = some c →
      Answers (.newtWordExecute n k ⟨e, none⟩) s fun t =>
        t.faultOf n.val = (4, c, m.slot, (s.newt n.val).pc) ∧
          (∀ p, p ≠ 0x184 → (t.newt n.val).port p = (s.newt n.val).port p) ∧
          (t.newt n.val).acc = (s.newt n.val).acc ∧ (t.newt n.val).dmem = (s.newt n.val).dmem) ∧
    (∀ (n : Fin 16) (e k : Nat) (w : BitVec 128) (m : Move'), s.atWord n.val w none → wordLegal w = true →
      movesOf w = [m] → 0x130 ≤ m.dst → m.dst < 0x138 →
      trigFault (s.newt n.val) false (s.source n.val m) = none →
      Answers (.newtWordExecute n k ⟨e, none⟩) s fun t =>
        (t.newt n.val).pend1 = (if ctlTaken m.dst ((s.newt n.val).port 0x120) ((s.newt n.val).port 0x121) then
          some (.jump (s.moveVal n.val m).toNat) else none) ∧
          (t.newt n.val).pend0 = (s.newt n.val).pend1 ∧ (t.newt n.val).pc = (s.newt n.val).pc + 16 ∧
          (∀ p, p ≠ 0x184 → (t.newt n.val).port p = (s.newt n.val).port p) ∧
          (t.newt n.val).acc = (s.newt n.val).acc ∧ (t.newt n.val).dmem = (s.newt n.val).dmem) ∧
    (∀ (n : Fin 16) (e k a : Nat) (w : BitVec 128), s.atWord n.val w (some (.jump a)) → wordLegal w = true →
      movesOf w = [] → Answers (.newtWordExecute n k ⟨e, none⟩) s fun t =>
        (t.newt n.val).pc = a ∧ t.run n.val = 0 ∧
          (∀ p, p ≠ 0x184 → (t.newt n.val).port p = (s.newt n.val).port p) ∧
          (t.newt n.val).acc = (s.newt n.val).acc ∧ (t.newt n.val).dmem = (s.newt n.val).dmem) ∧
    (∀ (n : Fin 16) (e k mask : Nat) (w : BitVec 128), s.atWord n.val w (some (.wait mask)) →
      wordLegal w = true → movesOf w = [] → (s.newt n.val).tmr = 0 ∨ 1 + k < (s.newt n.val).tmr →
      Answers (.newtWordExecute n k ⟨e, none⟩) s fun t =>
        t.run n.val = (if (s.newt n.val).waitHolds mask then 0 else 1) ∧
          (t.newt n.val).pc = (s.newt n.val).pc + 16) ∧
    (∀ (n : Fin 16) (e k : Nat) (w : BitVec 128), s.atWord n.val w (some .stop) → wordLegal w = true →
      movesOf w = [] → Answers (.newtWordExecute n k ⟨e, none⟩) s fun t =>
        t.run n.val = 3 ∧ (t.newt n.val).selfStopped = true ∧ (t.newt n.val).tmr = 0 ∧
          t.rf (R.NWT_FPC n.val) 15 0 = ((s.newt n.val).pc + 16) % 65536) ∧
    (∀ (n : Fin 16) (k : Nat), s.run n.val = 1 → s.d0up = true → s.newtGated n.val = false →
      (s.newt n.val).gath = [] → (s.newt n.val).waitHolds (s.newt n.val).waitMask = true →
      Answers (.waitEnd n k) s fun t =>
        t.run n.val = 0 ∧ (t.newt n.val).pc = (s.newt n.val).pc ∧
          (t.newt n.val).cyc = (s.newt n.val).cyc + BitVec.ofNat 48 (k - (s.newt n.val).waited) ∧
          ((s.newt n.val).evpend = 0 → (t.newt n.val).port 0x161 = 0) ∧
          (∀ p, p ≠ 0x161 → p ≠ 0x184 → (t.newt n.val).port p = (s.newt n.val).port p) ∧
          (t.newt n.val).port 0x184 = (if 0 < (s.newt n.val).tmr ∧
          (s.newt n.val).tmr ≤ k - (s.newt n.val).waited then 1 else (s.newt n.val).port 0x184)) ∧
    (∀ (n : Fin 16) (k : Nat),
      s.run n.val = 1 → (s.newt n.val).gath = [] ∧ (s.newt n.val).waitHolds (s.newt n.val).waitMask = false ∧
        ((s.newt n.val).tmr = 0 ∨ k - (s.newt n.val).waited < (s.newt n.val).tmr) →
      Answers (.waitEnd n k) s fun t => t = s) ∧
    (∀ (n : Fin 16), s.run n.val ≤ 1 → s.d0up = true → s.newtGated n.val = false → (s.newt n.val).tmr ≠ 0 →
      Answers (.newtTimerExpiry n) s fun t =>
        t.newt n.val = putPort 0x184 1 { (s.newt n.val) with
            tmr := ((s.newt n.val).port 0x183).toNat, cyc := (s.newt n.val).cyc + BitVec.ofNat 48 (s.newt
              n.val).tmr
            waited := (s.newt n.val).waited + (if s.run n.val = 1 then (s.newt n.val).tmr else 0) })

/-- O45. The oldest register request of a newt leaves its queue when it completes: a store is performed by its block as
the newt's, a load's value is in lsu.rx; one that crosses the die link waits while it is down, a load of a flash
line being programmed for the program (R504), and an error response faults a running newt with BUSERR. A completed
mailbox operation frees the unit and says in mbx.r what became of it: 3 for a send of a role the newt does not hold,
2 to an unassigned role, else 0 with the message, stamped with the role's epoch, on its way to the holder; a receive
takes the oldest message into DMEM, or answers 4. A message of the role's present epoch that reaches its holder
enters the mailbox; one that does not follows the role, forwarded; one for an unassigned role is bounced. A held
message enters a mailbox that has room; one held for a gated newt whose role has become unassigned bounces. -/
def Obligations.MessagesAndRegisterRequestsComplete : Prop :=
  ∀ s : State,
    (∀ (n : Fin 16) (r : RegReq) (l : List RegReq), s.d0up = true → s.newtGated n.val = false →
      (s.newt n.val).regq = r :: l → r.store = true → s.refusedAt r.addr = false →
      s.mustWait (.newt n) r.addr 4 = false → Answers (.registerLoadComplete n false) s fun t =>
        ∃ u : State, t = u.busWrite (.newt n) r.addr r.data ∧ (u.newt n.val).regq = l ∧ u.roles = s.roles ∧
          ∀ a, a ≠ R.PMC_SCTL n.val → u.rd a = s.rd a) ∧
    (∀ (n : Fin 16) (r : RegReq) (l : List RegReq), s.d0up = true → s.newtGated n.val = false →
      (s.newt n.val).regq = r :: l → r.store = false → r.addr < 0x100000 → s.refusedAt r.addr = false →
      s.lineBusy r.addr = false → s.mustWait (.newt n) r.addr 4 = false →
      Answers (.registerLoadComplete n false) s fun t =>
        (t.newt n.val).regq = l ∧
          ∃ u : State, (t.newt n.val).port 0x104 = (u.busRead (.newt n) r.addr .clean).1.getD 0 ∧
          u.roles = s.roles ∧ u.lehr = s.lehr ∧
          ∀ a, a ≠ R.PMC_SCTL n.val → u.rd a = s.rd a) ∧
    (∀ (n : Fin 16) (r : RegReq) (l : List RegReq), (s.newt n.val).regq = r :: l →
      s.mustWait (.newt n) r.addr 4 = true ∨ (r.store = false ∧ s.lineBusy r.addr = true) →
      Answers (.registerLoadComplete n false) s fun t => t = s) ∧
    (∀ (n : Fin 16) (err : Bool) (r : RegReq) (l : List RegReq), s.d0up = true → s.newtGated n.val = false →
      (s.newt n.val).regq = r :: l → s.run n.val ≤ 1 →
      err = true ∨ (s.refusedAt r.addr = true ∧ s.mustWait (.newt n) r.addr 4 = false ∧ s.lineBusy r.addr = false)
        →
      Answers (.registerLoadComplete n err) s fun t =>
        t.faultOf n.val = (4, 3, 0, r.pc % 65536) ∧ (t.newt n.val).regq = l) ∧
    (∀ (n : Fin 16) (a : Nat) (g : Msg) (l : List Msg), (s.newt n.val).mbxOp = some (.recv a) →
      (s.newt n.val).mbx = g :: l → Answers (.mailboxOpComplete n) s fun t =>
        (t.newt n.val).mbxOp = none ∧ (t.newt n.val).port 0x141 = 0 ∧ (t.newt n.val).mbx = l ∧
          t.roles = s.roles ∧
          ∀ i, (t.newt n.val).byte i = if a ≤ i ∧
          i < a + 32 then (bvBytes 32 g).getD (i - a) 0 else (s.newt n.val).byte i) ∧
    (∀ (n : Fin 16) (a : Nat), (s.newt n.val).mbxOp = some (.recv a) → (s.newt n.val).mbx = [] →
      Answers (.mailboxOpComplete n) s fun t =>
        (t.newt n.val).mbxOp = none ∧ (t.newt n.val).port 0x141 = 4 ∧
          (t.newt n.val).dmem = (s.newt n.val).dmem) ∧
    (∀ (n : Fin 16) (d code : Nat) (g : Msg), (s.newt n.val).mbxOp = some (.send d g) → d < 64 →
      (64 ≤ g.src ∨ s.holds n.val g.src = false) ∧ code = 3 ∨ (g.src < 64 ∧ s.holds n.val g.src = true ∧
        s.roleState d = 0) ∧ code = 2 →
      Answers (.mailboxOpComplete n) s fun t =>
        (t.newt n.val).mbxOp = none ∧ (t.newt n.val).port 0x141 = BitVec.ofNat 32 code ∧
          t.roles.wires = s.roles.wires) ∧
    (∀ (n : Fin 16) (d : Nat) (g : Msg), (s.newt n.val).mbxOp = some (.send d g) → d < 64 → g.src < 64 →
      s.holds n.val g.src = true → s.roleState d = 1 → s.newtGated (s.holder d) = false →
      s.routerHolds (s.holder d) = false →
      (s.newt (s.holder d)).mbx.length + (s.roles.wires.filter (fun w => w.1 == s.holder d)).length < 16 →
      Answers (.mailboxOpComplete n) s fun t =>
        (t.newt n.val).port 0x141 = 0 ∧
          t.roles.wires = s.roles.wires ++ [(s.holder d, (sentMsg d g).mark d (s.epoch d) 0)]) ∧
    (∀ (n : Nat) (g : Msg) (l : List (Nat × Msg)), s.roles.wires = (n, g) :: l → s.roleState g.dst ≠ 0 →
      g.epoch = s.epoch g.dst → s.holds n g.dst = true → s.newtGated n = false → s.mbxRoom n = true →
      Answers .messageArrive s fun t => t.roles.wires = l ∧ (t.newt n).mbx = (s.newt n).mbx ++ [g]) ∧
    (∀ (n : Nat) (g : Msg) (l : List (Nat × Msg)), s.roles.wires = (n, g) :: l → s.roleState g.dst ≠ 0 →
      g.fwd = false → g.epoch ≠ s.epoch g.dst ∨ (s.holds n g.dst = false ∧ g.ho = false) →
      Answers .messageArrive s fun t =>
        t.roles.wires = (s.holder g.dst, g.mark g.dst (s.epoch g.dst) (g.f 3 1 ||| 1)) :: l ∧
          t.newts = s.newts) ∧
    (∀ (n : Nat) (g : Msg) (l : List (Nat × Msg)), s.roles.wires = (n, g) :: l → s.roleState g.dst = 0 →
      Answers .messageArrive s fun t =>
        ∃ u : State, t = u.bounce g 1 ∧ u.roles.wires = l ∧ u.newts = s.newts) ∧
    (∀ (n : Fin 16) (h : Held) (l : List Held), s.newtGated n.val = false → (s.newt n.val).mbx.length < 16 →
      placeHeld n.val s.roles.router = some (h, l) →
      h.gated = false ∨ h.msg.src = 0xFF ∨ s.accepts n.val h.msg = true →
      Answers (.heldMessagePlace n) s fun t =>
        t.roles.router = l ∧ (t.newt n.val).mbx = (s.newt n.val).mbx ++ [h.msg]) ∧
    (∀ (n : Fin 16) (h : Held) (l : List Held), s.newtGated n.val = false → (s.newt n.val).mbx.length < 16 →
      placeHeld n.val s.roles.router = some (h, l) → h.gated = true → h.msg.bounced = false → h.msg.src ≠ 0xFF →
      s.roleState h.msg.dst = 0 → Answers (.heldMessagePlace n) s fun t =>
        ∃ u : State, t = u.bounce h.msg 1 ∧ u.roles.router = l ∧ u.newts = s.newts)

/-- O46. A write of NWT_MOVE that its writer may not make sets NWT_STAT bit 0 and nothing else. MOVE that fails a check
gives its RES code; else the role is MOVING with its target in INCOMING, the old holder still holds it, BUSY, RES 0.
When the image is in place a fresh target starts at 0x20 with the role and the old holder in g0 and g1 (at 0x30 and
committed at once in a takeover); with no usable image the move is abandoned, RES 3. COMMIT by the holder makes the
target hold the role in a new epoch, INCOMING none, and leaves no message for the role with the old holder; before
HANDOVER it loads and starts the target first, and with no usable image abandons the move with RES 3 (the model's
choice, log 161); a handover timeout does so by force, and says so. A PERSIST copy puts the old holder's image into
the target's slot. TAKE and RELEASE set and clear the token; UNASSIGN leaves the role UNASSIGNED in a new epoch
without token. BOOT and TEST of a newt give the RES code of the check they fail, else RES 0 and BUSY with the
operation in progress. A BOOT whose image fails gives RES 3 and changes nothing of the newt; one that checks loads
the image, zeroes the data memory and leaves the newt stopped, as shed. A failed TEST retires the newt with its
memories empty; a passed one is as a BOOT, and clears RETIRED; either gives the newt the latest test serial. When
FHOLD passes, the driven outputs of the role go safe, event 0x67. -/
def Obligations.RolesMoveAndNewtsAreShed : Prop :=
  ∀ s : State,
    (∀ (m : Master) (w : Word) (k : Fin 16), s.reaches m R.NWT_MOVE = true → m = .newt k →
      fld 14 12 w = 7 ∨ ((fld 14 12 w = 0 ∨ fld 14 12 w = 3 ∨ fld 14 12 w = 4 ∨ fld 14 12 w = 5) ∧ s.basfort k.val
        = false) ∨
        ((fld 14 12 w = 1 ∨ fld 14 12 w = 2) ∧ s.holds k.val (fld 5 0 w) = false) →
      Answers (.roleMove m w) s fun t => t = s.flag R.NWT_STAT 0) ∧
    (∀ (m : Master) (w : Word) (r g : Nat) (c : Nat), s.reaches m R.NWT_MOVE = true → fld 14 12 w = 0 →
      ∀ k, m = .newt k → s.basfort k.val = true → fld 5 0 w = r → fld 11 8 w = g → s.moveCheck r g = some c →
      Answers (.roleMove m w) s fun t => t = s.res c) ∧
    (∀ (m : Master) (w : Word) (r g : Nat), s.reaches m R.NWT_MOVE = true → fld 14 12 w = 0 →
      ∀ k, m = .newt k → s.basfort k.val = true → fld 5 0 w = r → fld 11 8 w = g → s.moveCheck r g = none →
      Answers (.roleMove m w) s fun t =>
        t.roleState r = 2 ∧ t.rf (R.NWT_ROLE r) 20 16 = g ∧ t.holder r = s.holder r ∧
          t.rf R.NWT_STAT 5 2 = 0 ∧ t.rb R.NWT_STAT 1 = true ∧
          ∃ v, t.roles.move = some v ∧ v.role = r ∧ v.source = s.holder r ∧ v.target = g ∧
          v.persist = bit 15 w ∧ v.takeover = false) ∧
    (∀ (v : Move), s.roles.move = some v → v.stage = .loading → v.takeover = false →
      s.named v.target v.role = true → v.target < 16 → v.source ≠ v.target → v.role < 64 →
      s.roleState v.role = 2 → Answers .moveImageLoaded s fun t =>
        t.roleState v.role = 2 ∧ t.holder v.role = s.holder v.role ∧
          (∃ l, t.roles.move = some { v with stage := .handover, mirror := l }) ∧
          (v.fresh = true → (t.newt v.target).pc = 0x20 ∧
          (t.newt v.target).port 0 = BitVec.ofNat 32 v.role ∧
            (t.newt v.target).port 1 = BitVec.ofNat 32 v.source ∧ t.run v.target = 0)) ∧
    (∀ (v : Move), s.roles.move = some v → v.stage = .loading → v.takeover = true →
      s.named v.target v.role = true → v.source < 16 → v.target < 16 → v.source ≠ v.target → v.role < 64 →
      s.roles.takeovers = [] → s.roles.rotating = none → Answers .moveImageLoaded s fun t =>
        t.roles.move = none ∧ t.roleState v.role = 1 ∧ t.holder v.role = v.target ∧
          t.epoch v.role = (s.epoch v.role + 1) % 256 ∧
          (v.fresh = true → (t.newt v.target).pc = 0x30 ∧ t.run v.target = 0)) ∧
    (∀ (v : Move), s.roles.move = some v → v.stage = .loading → v.takeover = false →
      s.named v.target v.role = false → v.source < 16 → v.role < 64 →
      (s.imageFault v.source).isSome = true ∨ nbit v.role (s.header (slotBase v.source)).roles = false →
      s.roles.takeovers = [] → s.roles.rotating = none → Answers .moveImageLoaded s fun t =>
        t.roles.move = none ∧ t.roleState v.role = 1 ∧ t.holder v.role = v.source ∧ t.rf R.NWT_STAT 5 2 = 3) ∧
    (∀ (m : Master) (w : Word) (k : Fin 16) (v : Move), s.reaches m R.NWT_MOVE = true → fld 14 12 w = 1 →
      m = .newt k → fld 5 0 w = v.role → s.holds k.val v.role = true → s.roles.move = some v → v.target < 16 →
      v.source ≠ v.target → v.stage ≠ .loading ∨ s.named v.target v.role = true → s.roles.takeovers = [] →
      s.roles.rotating = none → Answers (.roleCommit m w) s fun t =>
        t.roles.move = none ∧ t.roleState v.role = 1 ∧ t.holder v.role = v.target ∧
          t.epoch v.role = (s.epoch v.role + 1) % 256 ∧
          t.rf (R.NWT_ROLE v.role) 20 16 = 0x1F ∧ t.rf R.NWT_STAT 5 2 = 0 ∧
          ∀ g ∈ (t.newt v.source).mbx, g.isFor v.role = false) ∧
    (∀ (m : Master) (w : Word) (k : Fin 16) (v : Move), s.reaches m R.NWT_MOVE = true → fld 14 12 w = 1 →
      m = .newt k → fld 5 0 w = v.role → s.holds k.val v.role = true → s.roles.move = some v → v.source < 16 →
      v.stage = .loading → s.named v.target v.role = false →
      (s.imageFault v.source).isSome = true ∨ nbit v.role (s.header (slotBase v.source)).roles = false →
      s.roles.takeovers = [] → s.roles.rotating = none → Answers (.roleCommit m w) s fun t =>
        t.roles.move = none ∧ t.roleState v.role = 1 ∧ t.holder v.role = v.source ∧ t.rf R.NWT_STAT 5 2 = 3) ∧
    (∀ (v : Move), s.roles.move = some v → v.stage = .handover → v.role < 64 → v.target < 16 →
      s.roles.takeovers = [] → s.roles.rotating = none → Answers .handoverTimeout s fun t =>
        t.roles.move = none ∧ t.roleState v.role = 1 ∧ t.holder v.role = v.target ∧
          t.epoch v.role = (s.epoch v.role + 1) % 256 ∧ t.rb R.NWT_STAT 6 = true) ∧
    (∀ (a b : Nat) (l : List (Nat × Nat)), s.roles.persists = (a, b) :: l → a < 16 → b < 16 →
      (s.header (slotBase a)).codelen ≤ 65536 → Answers .persistCopyDone s fun t =>
        t.roles.persists = l ∧
          ∀ i < 256 + (s.header (slotBase a)).codelen, t.flashByte (slotBase b + i) = s.flashByte (slotBase a + i)) ∧
    (∀ (m : Master) (w : Word) (k : Fin 16), s.reaches m R.NWT_MOVE = true → fld 14 12 w = 2 → m = .newt k →
      s.holds k.val (fld 5 0 w) = true → Answers (.tokenTake m w) s fun t =>
        t.token (fld 5 0 w) = true ∧ t.rf R.NWT_STAT 5 2 = 0 ∧ t.roles.safeHeld.contains (fld 5 0 w) = false) ∧
    (∀ (m : Master) (w : Word), s.reaches m R.NWT_MOVE = true → fld 14 12 w = 6 →
      ∀ k, m = .newt k → s.holds k.val (fld 5 0 w) = true → Answers (.tokenRelease m w) s fun t =>
        t.token (fld 5 0 w) = false ∧ t.rf R.NWT_STAT 5 2 = (if s.token (fld 5 0 w) then 0 else 5)) ∧
    (∀ (m : Master) (w : Word), s.reaches m R.NWT_MOVE = true → fld 14 12 w = 3 →
      ∀ k, m = .newt k → s.basfort k.val = true → Answers (.roleUnassign m w) s fun t =>
        t.roleState (fld 5 0 w) = 0 ∧ t.epoch (fld 5 0 w) = (s.epoch (fld 5 0 w) + 1) % 256 ∧
          t.token (fld 5 0 w) = false ∧ t.rf R.NWT_STAT 5 2 = 0) ∧
    (∀ (m : Master) (w : Word) (g c : Nat), s.reaches m R.NWT_MOVE = true → fld 14 12 w = 4 →
      ∀ k, m = .newt k → s.basfort k.val = true → fld 11 8 w = g → s.bootCheck g false = some c →
      Answers (.newtBoot m w) s fun t => t = s.res c) ∧
    (∀ (m : Master) (w : Word) (g : Nat), s.reaches m R.NWT_MOVE = true → fld 14 12 w = 4 →
      ∀ k, m = .newt k → s.basfort k.val = true → fld 11 8 w = g → s.bootCheck g false = none →
      Answers (.newtBoot m w) s fun t =>
        t.roles = { s.roles with boot := some g } ∧ t.rf R.NWT_STAT 5 2 = 0 ∧ t.rb R.NWT_STAT 1 = true ∧
          t.newts = s.newts) ∧
    (∀ (m : Master) (w : Word) (g c : Nat), s.reaches m R.NWT_MOVE = true → fld 14 12 w = 5 →
      ∀ k, m = .newt k → s.basfort k.val = true → fld 11 8 w = g → s.bootCheck g true = some c →
      Answers (.newtTest m w) s fun t => t = s.res c) ∧
    (∀ (m : Master) (w : Word) (g : Nat), s.reaches m R.NWT_MOVE = true → fld 14 12 w = 5 →
      ∀ k, m = .newt k → s.basfort k.val = true → fld 11 8 w = g → s.bootCheck g true = none →
      Answers (.newtTest m w) s fun t =>
        t.roles = { s.roles with test := some g } ∧ t.rf R.NWT_STAT 5 2 = 0 ∧ t.rb R.NWT_STAT 1 = true ∧
          t.newts = s.newts) ∧
    (∀ (n : Nat), s.roles.boot = some n → Answers .newtBootDone s fun t =>
        t.roles.boot = none ∧ ((s.imageFault n).isSome = true → t.newts = s.newts ∧ t.run n = s.run n ∧
          (s.roles.rotating = none → t.rf R.NWT_STAT 5 2 = 3)) ∧
          (s.imageFault n = none → t.newt n = { (s.loadImage n n).newt n with dmem := [], selfStopped := false } ∧
          t.run n = 3)) ∧
    (∀ (n : Nat) (f : Fin 3), s.roles.test = some n → n < 16 → Answers (.newtTestDone (some f)) s fun t =>
        t.retired n = true ∧ t.run n = 5 ∧
          t.newt n = { s.newt n with imem := [], dmem := [], image := none } ∧
          tget (fun _ => 0) t.roles.tested n = s.roles.testSerial + 1) ∧
    (∀ (n : Nat), s.roles.test = some n → n < 16 → Answers (.newtTestDone none) s fun t =>
        t.retired n = false ∧ tget (fun _ => 0) t.roles.tested n = s.roles.testSerial + 1 ∧
          (s.imageFault n = none → t.run n = 3) ∧ (s.imageFault n ≠ none → t.run n = 5 ∧
          (t.newt n).image = none)) ∧
    (∀ (r : Fin 64), s.roles.fhold.contains r.val = true → s.hasDriven r.val = true →
      Answers (.fholdExpiry r) s fun t =>
        t.roles.fholdSafe.contains r.val = true ∧ t.roles.fhold.contains r.val = false) ∧
    (∀ (r : Fin 64), s.roles.fhold.contains r.val = false → Answers (.fholdExpiry r) s fun t => t = s)

/-- O47. A trigger in its mode starts the sequence of the slots listed, BUSY set; while one runs the trigger is lost,
PIO_STAT bit 2 and event 0x52. A conversion puts floor(Vin / VREF × 65,536), held within 0 to 65,535, of an input or
of 0.5 V plus an amplifier's gain times its input (unless its amplifier leaves the code open), the channel, NEW, and
OVR where NEW stood, into its result and raises producer 72; the last one ends the sequence and raises 73. A read of
a result, or by the host of some bytes of it (R4), answers it in its lanes and clears NEW and OVR. A trip sets TRIP
and TRIPPED, with FLICKEN the inhibit with event 0x50, raises its producer and wakes; in backup only it is recorded;
a release clears TRIP and, without LATCH, the inhibit. EN = 0 stops the comparator. FLICKEN cannot be cleared under
an inhibit; CLR ends a latched one once the trip is over. -/
def Obligations.ConversionsAndComparators : Prop :=
  ∀ s : State,
    (∀ (m : Master) (w : Word), s.reaches m R.PIO_ADCSEQ = true → bit 0 w = true → s.pio.adc = none →
      s.rb R.PIO_CTL 0 = true → s.hushed = false → s.power.phase = .run →
      Answers (.adcTrigger (.go m w)) s fun t =>
        ∃ v, t.pio.adc = some v ∧ v.slot = 0 ∧ v.len = t.rf R.PIO_ADCSEQ 6 3 ∧
          v.list0 = t.rd R.PIO_ADCLIST0 ∧ v.list1 = t.rd R.PIO_ADCLIST1 ∧ t.rb R.PIO_STAT 3 = true) ∧
    (∀ (hop : Nat), s.evmUp = true → s.rf R.PIO_ADCSEQ 2 1 = 1 → s.pio.adc = none → s.rb R.PIO_CTL 0 = true →
      s.hushed = false → s.power.phase = .run → Answers (.adcTrigger (.task hop)) s fun t =>
        ∃ v, t.pio.adc = some v ∧ v.slot = 0 ∧ v.len = t.rf R.PIO_ADCSEQ 6 3 ∧
          v.list0 = t.rd R.PIO_ADCLIST0 ∧ v.list1 = t.rd R.PIO_ADCLIST1 ∧ t.rb R.PIO_STAT 3 = true ∧
          v.hop = hop + 1) ∧
    (s.rf R.PIO_ADCSEQ 2 1 = 2 → s.pio.adc = none → s.rb R.PIO_CTL 0 = true → s.hushed = false →
      s.power.phase = .run → Answers (.adcTrigger .pwm0) s fun t =>
        ∃ v, t.pio.adc = some v ∧ v.slot = 0 ∧ v.len = t.rf R.PIO_ADCSEQ 6 3 ∧
          v.list0 = t.rd R.PIO_ADCLIST0 ∧ v.list1 = t.rd R.PIO_ADCLIST1 ∧ t.rb R.PIO_STAT 3 = true) ∧
    (s.adcTimerRuns = true → s.pio.adc = none → Answers .adcTimerExpiry s fun t =>
        ∃ v, t.pio.adc = some v ∧ v.slot = 0 ∧ v.len = t.rf R.PIO_ADCSEQ 6 3 ∧
          v.list0 = t.rd R.PIO_ADCLIST0 ∧ v.list1 = t.rd R.PIO_ADCLIST1 ∧ t.rb R.PIO_STAT 3 = true) ∧
    (s.adcTimerRuns = true → s.pio.adc ≠ none → Answers .adcTimerExpiry s fun t =>
        ∃ u : State, t = u.post 0x52 1 0 0 ∧ u.rb R.PIO_STAT 2 = true ∧ u.pio = s.pio) ∧
    (∀ (m : Master) (w : Word), s.reaches m R.PIO_ADCSEQ = true → bit 0 w = true → s.pio.adc ≠ none →
      s.rb R.PIO_CTL 0 = true → s.hushed = false → s.power.phase = .run →
      Answers (.adcTrigger (.go m w)) s fun t =>
        ∃ u : State, t = u.post 0x52 1 0 0 ∧ u.rb R.PIO_STAT 2 = true ∧ u.pio = s.pio) ∧
    (∀ (a : Int) (b : Nat) (st : Bool) (r : AdcRun), s.pioUp = true → s.pio.adc = some r →
      Answers (.adcConversionDone a b st) s fun t =>
        ∃ u : State, u.rf (R.PIO_ADCRES r.slot) 19 16 = r.channel ∧ u.rb (R.PIO_ADCRES r.slot) 30 = true ∧
            u.rb (R.PIO_ADCRES r.slot) 31 = s.rb (R.PIO_ADCRES r.slot) 30 ∧
            (s.csaOpen r.channel st = false → u.rf (R.PIO_ADCRES r.slot) 15 0 = min 65535 (s.adcInput r.channel a
              * 65536 / s.adcRef b).toNat) ∧
            (r.slot < r.len → t = u.raise 72 r.hop ∧ u.pio.adc = some { r with slot := r.slot + 1 }) ∧
            (r.len ≤ r.slot → t = (u.raise 72 r.hop).raise 73 r.hop ∧ u.pio.adc = none ∧
            u.rb R.PIO_STAT 3 = false)) ∧
    (∀ (n : Nat) (v : Int),
      (n < 8 → s.adcInput n v = v) ∧ s.adcInput 8 v = 500000 + csaGain (s.rf R.PIO_CTL 4 3) * v ∧
        s.adcInput 9 v = 500000 + csaGain (s.rf R.PIO_CTL 7 6) * v ∧ csaGain 0 = 10 ∧ csaGain 1 = 20 ∧ csaGain 2 =
          50 ∧ csaGain 3 = 100) ∧
    (∀ (n : Nat),
      (s.rb R.PIO_CTL 1 = false → 995000 ≤ s.adcRef n ∧ s.adcRef n ≤ 1005000) ∧ s.adcRef 1000000 = 1000000) ∧
    (∀ (m : Master) (i : Fin 16) (b : Fin 4) (k : Nat), s.reaches m (R.PIO_ADCRES i.val) = true → 1 ≤ k →
      b.val + k ≤ 4 → m = .host ∨ (b.val = 0 ∧ k = 4) → Answers (.readAdcResult m i b k) s fun t =>
        t.answers = s.answers ++ [(m, laneMask (R.PIO_ADCRES i.val + b.val) k (R.PIO_ADCRES i.val) (s.rd
          (R.PIO_ADCRES i.val)))] ∧
          t.rf (R.PIO_ADCRES i.val) 31 30 = 0 ∧
          t.rf (R.PIO_ADCRES i.val) 29 0 = s.rf (R.PIO_ADCRES i.val) 29 0) ∧
    (∀ (a : Nat) (v : Word), laneMask a 4 a v = v) ∧
    (∀ (n : Fin 4), s.power.phase = .run ∨ s.power.phase = .held → s.rb (R.PIO_CMP n.val) 0 = true →
      s.rb (R.PIO_CMP n.val) 18 = false → s.pio.arming.getLsbD n.val = false →
      Answers (.comparatorTrip n) s fun t =>
        ∃ u : State, t = (u.raise (64 + n.val) 0).wake (.cmp n) ∧ u.rb (R.PIO_CMP n.val) 18 = true ∧
          u.rb (R.PIO_CMP n.val) 19 = true ∧
          u.rb (R.PIO_CMP n.val) 21 = (s.rb (R.PIO_CMP n.val) 21 || s.rb (R.PIO_CMP n.val) 6)) ∧
    (∀ (n : Fin 4), s.power.phase = .backup → s.rb (R.PIO_CMP n.val) 0 = true →
      s.rb (R.PIO_CMP n.val) 18 = false → s.pio.arming.getLsbD n.val = false →
      Answers (.comparatorTrip n) s fun t =>
        t.rb (R.PIO_CMP n.val) 18 = true ∧ t.rb (R.PIO_CMP n.val) 19 = true ∧ t.rb R.PIO_CMPBAK n.val = true) ∧
    (∀ (n : Fin 4),
      s.rb (R.PIO_CMP n.val) 0 = false ∨ s.rb (R.PIO_CMP n.val) 18 = true ∨ s.pio.arming.getLsbD n.val = true →
      Answers (.comparatorTrip n) s fun t => t = s) ∧
    (∀ (n : Fin 4), s.rb (R.PIO_CMP n.val) 0 = true → s.rb (R.PIO_CMP n.val) 18 = true →
      Answers (.comparatorRelease n) s fun t =>
        t = (if ((s.wb (R.PIO_CMP n.val) 18 false).raise (68 + n.val) 0).rb (R.PIO_CMP n.val) 7 then (s.wb
          (R.PIO_CMP n.val) 18 false).raise (68 + n.val) 0
          else ((s.wb (R.PIO_CMP n.val) 18 false).raise (68 + n.val) 0).clearInh n.val)) ∧
    (∀ (n : Nat), (s.clearInh n).rb (R.PIO_CMP n) 21 = false) ∧
    (∀ (n : Fin 4), Answers (.comparatorArmExpiry n) s fun t =>
        t = { s with pio.arming := bput n.val false s.pio.arming }) ∧
    (∀ (m : Master) (n : Fin 4) (w : Word), s.reaches m (R.PIO_CMP n.val) = true → s.rb R.PIO_CTL 8 = false →
      s.rb (R.PIO_CMP n.val) 0 = true → bit 0 w = false →
      s.rb (R.PIO_CMP n.val) 21 = false ∨ s.rb (R.PIO_CMP n.val) 6 = false ∨ bit 6 w = true →
      Answers (.comparatorDisable m n w) s fun t =>
        t.rb (R.PIO_CMP n.val) 0 = false ∧ t.rb (R.PIO_CMP n.val) 18 = false ∧
          t.pio.arming.getLsbD n.val = false ∧ (bit 7 w = false → t.rb (R.PIO_CMP n.val) 21 = false)) ∧
    (∀ (m : Master) (n : Fin 4) (w : Word), s.reaches m (R.PIO_CMP n.val) = true → s.rb R.PIO_CTL 8 = false →
      s.rb (R.PIO_CMP n.val) 6 = true → bit 6 w = false → s.rb (R.PIO_CMP n.val) 21 = true →
      Answers (.comparatorDisable m n w) s fun t => t = s.flag R.PIO_STAT 0) ∧
    (∀ (m : Master) (n : Fin 4) (w : Word), s.reaches m (R.PIO_CMP n.val) = true → s.rb R.PIO_CTL 8 = false →
      bit 20 w = true → bit 0 w = true → bit 6 w = true → Answers (.flickClear m n w) s fun t =>
        t.rb (R.PIO_CMP n.val) 21 = (s.rb (R.PIO_CMP n.val) 21 && s.rb (R.PIO_CMP n.val) 18))

/-- O48. A PWM period of a running PWM moves NOW towards DUTY by RATE at most, or holds the safe duty, and raises its
producer; EN = 0 stops it, EN = 1 starts a period. A GPIO input edge that its EDGE selects raises its producer and
wakes. GPIOOUT takes exactly the bits that the writer may drive, and counts a write of others. An encoder counts
edges of its mode up or down and takes the cycles since the last; both inputs at once are an error; Z captures, and
homes where set. -/
def Obligations.OutputsAndEncoders : Prop :=
  ∀ s : State,
    (∀ (k : Fin 12), s.pioUp = true → s.pio.running.getLsbD k.val = true → s.rb (R.PIO_PWMCFG k.val) 0 = true →
      2 ≤ s.rf (R.PIO_PWMCFG k.val) 31 16 → Answers (.pwmPeriodStart k) s fun t =>
        ∃ u : State, u.rf (R.PIO_PWMDUTY k.val) 31 16 = (if s.inhibited k.val || s.roleSafe k.val then s.safeDuty
          k.val
            else moveNow (if s.pwmHeld k.val then s.safeDuty k.val else s.rf (R.PIO_PWMDUTY k.val) 31 16) (s.rf
              (R.PIO_PWMDUTY k.val) 15 0) (s.rf (R.PIO_OUT k.val) 13 2)) ∧
            t = (if k.val = 0 ∧
            (u.raise (74 + k.val) 0).rf R.PIO_ADCSEQ 2 1 = 2 then (u.raise (74 + k.val) 0).adcTrigger 0
              else u.raise (74 + k.val) 0)) ∧
    (∀ (x d r : Nat),
      moveNow x d 0 = d ∧ (0 < r → moveNow x d r ≤ x + r ∧ x ≤ moveNow x d r + r) ∧ min x d ≤ moveNow x d r ∧
        moveNow x d r ≤ max x d) ∧
    (∀ (m : Master) (k : Fin 12) (w : Word), s.reaches m (R.PIO_PWMCFG k.val) = true → bit 0 w = false →
      Answers (.pwmEnable m k w) s fun t =>
        t.rb (R.PIO_PWMCFG k.val) 0 = false ∧ t.pio.running.getLsbD k.val = false) ∧
    (∀ (m : Master) (k : Fin 12) (w : Word), s.reaches m (R.PIO_PWMCFG k.val) = true → bit 0 w = true →
      2 ≤ fld 31 16 w → s.pio.running.getLsbD k.val = false → Answers (.pwmEnable m k w) s fun t =>
        ∃ u : State, t = (u.pwmStart k.val 0).outSafe ∧ u.active k.val = true ∧ u.pio = s.pio) ∧
    (∀ (k : Fin 24) (l : Bool) (p : Nat), s.rb (R.PIO_GPIOCFG k.val) 0 = false →
      s.pad (12 + k.val) = .released p → s.pio.gpioExt.getLsbD k.val ≠ l →
      (l = true ∧ s.rf (R.PIO_GPIOCFG k.val) 5 4 % 2 = 1) ∨ (l = false ∧ 2 ≤ s.rf (R.PIO_GPIOCFG k.val) 5 4) →
      Answers (.gpioInputEdge k l) s fun t =>
        t = (if k.val < 16 then ({ s with pio.gpioExt := bput k.val l s.pio.gpioExt } : State).raise (95 + k.val)
          0
          else { s with pio.gpioExt := bput k.val l s.pio.gpioExt }).wake .gpio) ∧
    (∀ (k : Fin 24) (l : Bool), s.rf (R.PIO_GPIOCFG k.val) 5 4 = 0 ∨ s.rb (R.PIO_GPIOCFG k.val) 0 = true →
      Answers (.gpioInputEdge k l) s fun t => t = { s with pio.gpioExt := bput k.val l s.pio.gpioExt }) ∧
    (∀ (m : Master) (w : Word), s.reaches m R.PIO_GPIOOUT = true → Answers (.gpioOutWrite m w) s fun t =>
        (∀ g < 24, t.rb R.PIO_GPIOOUT g = if s.mayDrive m (12 + g) then bit g w else s.rb R.PIO_GPIOOUT g) ∧
          t.rf R.NWT_STAT 15 8 = (s.rf R.NWT_STAT 15 8 +
            (if (List.range 24).any (fun g => !s.mayDrive m (12 + g) && bit g w != s.gpioDriven g) then 1 else 0))
              % 256) ∧
    (∀ (m : Master) (k : Fin 24) (w : Word), s.reaches m (R.PIO_GPIOCFG k.val) = true →
      Answers (.gpioCfgWrite m k w) s fun t =>
        t.pio.cfgWritten.getLsbD k.val = true ∧ t.rb (R.PIO_GPIOCFG k.val) 0 = bit 0 w ∧
          t.rf (R.PIO_GPIOCFG k.val) 5 4 = fld 5 4 w) ∧
    (∀ (e : Fin 4) (a b : Bool) (y : Word), s.pioUp = true → s.rf (R.PIO_ENCCFG e.val) 1 0 = 3 →
      (s.pio.encA.getLsbD e.val = a) ≠ (s.pio.encB.getLsbD e.val = b) →
      Answers (.encoderEdge e a b y) s fun t =>
        t.rd (R.PIO_ENCPOS e.val) = (if ((if a ≠ s.pio.encA.getLsbD e.val then a != b else b == a) ==
          Config.aLeadsUp) = s.rb (R.PIO_ENCCFG e.val) 2
            then s.rd (R.PIO_ENCPOS e.val) - 1 else s.rd (R.PIO_ENCPOS e.val) + 1) ∧
            t.rd (R.PIO_ENCPER e.val) = y ∧
            t.pio = { s.pio with encA := bput e.val a s.pio.encA, encB := bput e.val b s.pio.encB }) ∧
    (∀ (e : Fin 4) (a b : Bool) (y : Word), s.pioUp = true → s.rf (R.PIO_ENCCFG e.val) 1 0 ≠ 0 →
      s.pio.encA.getLsbD e.val ≠ a → s.pio.encB.getLsbD e.val ≠ b → Answers (.encoderEdge e a b y) s fun t =>
        ∃ u : State, t = (u.raise (90 + e.val) 0).post 0x53 1 e.val (s.rd (R.PIO_ENCPOS e.val)).toNat ∧
          u.rb R.PIO_STAT (4 + e.val) = true ∧ u.rd (R.PIO_ENCPOS e.val) = s.rd (R.PIO_ENCPOS e.val)) ∧
    (∀ (e : Fin 4) (a b : Bool) (y : Word), s.pioUp = true →
      s.rf (R.PIO_ENCCFG e.val) 1 0 = 0 ∨ (s.rf (R.PIO_ENCCFG e.val) 1 0 = 2 ∧ s.pio.encA.getLsbD e.val = a) →
      Answers (.encoderEdge e a b y) s fun t =>
        t.rd (R.PIO_ENCPOS e.val) = s.rd (R.PIO_ENCPOS e.val) ∧
          t.rd (R.PIO_ENCPER e.val) = s.rd (R.PIO_ENCPER e.val)) ∧
    (∀ (e : Fin 4), s.pioUp = true → s.rf (R.PIO_ENCCFG e.val) 1 0 ≠ 0 → Answers (.encoderIndex e) s fun t =>
        ∃ u : State, t = u.raise (86 + e.val) 0 ∧ u.rd (R.PIO_ENCCAP e.val) = s.rd (R.PIO_ENCPOS e.val) ∧
          u.rd (R.PIO_ENCPOS e.val) = (if s.rb (R.PIO_ENCCFG e.val) 3 then 0 else s.rd (R.PIO_ENCPOS e.val)))

/-- O49. A setpoint for a bound output fails with BOUND (2); one whose time has passed completes LATE (1) unless it
allows that, when it is applied at once; else it waits, holding what it carries. When its time has come the one due
first is applied: a variable takes the value and its NEW bit and producer 94 is raised, a PWM its DUTY, a GPIO its
level. An event below hop 8 counts in each enabled channel that names its producer and triggers, once each, the
inputs these deliver to; at hop 8 it goes no further and EVM_STAT says which it was. A newt's input that is already
pending is merged and says so, else it becomes pending with the event's hop count. SWEV raises the producers its
bits name together: one alone acts as an event, and an input that several reach is triggered once and shows MERGED. -/
def Obligations.SetpointsAndTheEventMatrix : Prop :=
  ∀ s : State,
    (∀ (tag : Half) (c : Cmd),
      (s.q 36).inflight.find? (fun c => c.tag == tag.toNat && !c.started && !c.ended) = some c →
      s.spBound (c.f 4 1) (c.f 5 1) = true → Answers (.setpoint tag) s fun t => t = s.fail 36 c 1 2 0 noLba 0) ∧
    (∀ (tag : Half) (c : Cmd),
      (s.q 36).inflight.find? (fun c => c.tag == tag.toNat && !c.started && !c.ended) = some c →
      s.spBound (c.f 4 1) (c.f 5 1) = false → c.f 8 8 < s.count64.toNat → nbit 2 (c.f 1 1) = false →
      Answers (.setpoint tag) s fun t => t = s.declined 36 c 1 1 0) ∧
    (∀ (tag : Half) (c : Cmd),
      (s.q 36).inflight.find? (fun c => c.tag == tag.toNat && !c.started && !c.ended) = some c →
      s.spBound (c.f 4 1) (c.f 5 1) = false → c.f 8 8 < s.count64.toNat → nbit 2 (c.f 1 1) = true →
      Answers (.setpoint tag) s fun t =>
        ∃ p : Setpoint, t = s.spApply p ∧ p.tag = tag ∧ p.kind = c.f 4 1 ∧ p.index = c.f 5 1 ∧
          p.value = BitVec.ofNat 32 (c.f 16 4) ∧ p.at'.toNat = c.f 8 8) ∧
    (∀ (tag : Half) (c : Cmd),
      (s.q 36).inflight.find? (fun c => c.tag == tag.toNat && !c.started && !c.ended) = some c →
      s.spBound (c.f 4 1) (c.f 5 1) = false → s.count64.toNat ≤ c.f 8 8 → Answers (.setpoint tag) s fun t =>
        ∃ p : Setpoint, t.hri.setpoints = s.hri.setpoints ++ [p] ∧ p.tag = tag ∧ p.kind = c.f 4 1 ∧
          p.index = c.f 5 1 ∧ p.value = BitVec.ofNat 32 (c.f 16 4) ∧
          p.at'.toNat = c.f 8 8 ∧ t.regs = s.regs) ∧
    (∀ (tag : Half) (p : Setpoint), firstDue s.count64.toNat s.hri.setpoints = some p → p.tag = tag →
      s.spRuns = true → Answers (.setpointApply tag) s fun t =>
        t = ({ s with hri.setpoints := dropSp p s.hri.setpoints } : State).spApply p) ∧
    (∀ (tag : Half), ∀ p ∈ s.hri.setpoints, s.count64.toNat < p.at'.toNat →
      Answers (.setpointApply tag) s fun t => t = s) ∧
    (∀ (p : Setpoint), p.index < 24 → s.spBound p.kind p.index = false → p.kind = 1 → p.index < 12 →
      (p.kind = 1 → (s.spApply p).rf (R.PIO_PWMDUTY p.index) 15 0 = p.value.toNat % 65536) ∧
      (p.kind = 2 → (s.spApply p).rb R.PIO_GPIOOUT p.index = bit 0 p.value)) ∧
    (∀ (p : Setpoint), p.kind = 0 → p.index < 16 →
      ∃ u : State, u.rd (R.PIO_SP p.index) = p.value ∧ u.rb R.PIO_SPNEW p.index = true ∧ s.spApply p = (u.raise 94
        0).spReply p false) ∧
    (∀ (p : Fin 128) (hop : Nat), s.evmUp = true → hop < 8 → Answers (.eventRaise p hop) s fun t =>
        t = (s.inputs (s.channels p.val)).foldl (State.task (raiseN 9) hop)
          ((s.channels p.val).foldl (fun v c => v.count (R.EVM_CCTL c) 31 16 1) s)) ∧
    (∀ (p : Fin 128) (hop : Nat), s.evmUp = true → 8 ≤ hop → Answers (.eventRaise p hop) s fun t =>
        t.rb R.EVM_STAT 1 = true ∧ t.rf R.EVM_STAT 14 8 = p.val ∧
          t.rf R.EVM_STAT 23 16 = (s.rf R.EVM_STAT 23 16 + 1) % 256 ∧
          t.newts = s.newts ∧ t.pio = s.pio) ∧
    (∀ (p : Fin 128) (hop : Nat),
      s.evmUp = false ∨ (hop < 8 ∧ ∀ c < 48, s.rb (R.EVM_CCTL c) 0 = false ∨ s.rb (R.EVM_PMASK c (p.val / 32))
        (p.val % 32) = false) →
      Answers (.eventRaise p hop) s fun t => t = s) ∧
    (∀ (n k hop : Nat), n < 16 → k < 4 → s.gated = false ∨ 12 ≤ n →
      ((s.newtInput n k hop).newt n).evpend.getLsbD k = true ∧
      (((s.newt n).evpend.getLsbD k = false → tget (fun _ => 0) ((s.newtInput n k hop).newt n).evhops k = hop) ∧
        ((s.newt n).evpend.getLsbD k = true → (s.newtInput n k hop).rb (R.EVM_MERGED ((4 * n + k) / 32)) ((4 * n +
          k) % 32) = true))) ∧
    (∀ (m : Master) (w : Word), s.reaches m R.EVM_SWEV = true → Answers (.swEvent m w) s fun t =>
        t = s.raiseTogether (((List.range 8).filter (fun k => bit k w)).map (fun k => 120 + k))) ∧
    (∀ (p : Nat), s.raiseTogether [] = s ∧ s.raiseTogether [p] = s.raise p 0) ∧
    (∀ (k : Nat), 64 < k → k < 90 → (s.triggered true k).rb (R.EVM_MERGED (k / 32)) (k % 32) = true)

/-- O50. While the lehr counts, with TRIM 0, RTC_SECOND advances the seconds by one with the fraction at 0, and outside
backup raises producer 113; a trim interval's end takes the TRIM written last. The four time words, or bytes of them
(R4), are a snapshot taken at the first read by a master: seconds and fraction, and the local calendar; the second
word of a pair releases the set; a set left frozen for 10 ms is released with SHT. Second 0 at offset 0 shows
Saturday 2000-01-01 00:00:00, and 59 days later is Tuesday 2000-02-29. VAO lost in backup ends the lehr's state; its
return leaves every LEHR register at its reset value and the count 0, TIMELOST to be posted. -/
def Obligations.TheLehrKeepsTimeAndItsShadows : Prop :=
  ∀ s : State,
    (s.counting = true → s.lehr.trim = 0 → Answers .rtcSecond s fun t =>
        t.lehr.sec = s.lehr.sec + 1 ∧ t.lehr.frac = 0 ∧
          t.lehr.trimCycle = s.lehr.trimCycle + (32768 - s.lehr.frac.toNat) ∧
          ∃ u : State, t = (if s.power.phase = .backup then u else u.raise 113 0) ∧ u.regs = s.regs) ∧
    (s.counting = false → Answers .rtcSecond s fun t => t = s) ∧
    (s.counting = true → Answers .trimIntervalEnd s fun t =>
        t.lehr = { s.lehr with trimCycle := s.lehr.trimCycle - 2097152, trim := BitVec.ofNat 8 (s.rf R.LEHR_TRIM 7
          0) }) ∧
    (∀ (m : Master) (which : TimeWord) (b : Fin 4) (k : Nat), s.reaches m (timeWordReg which) = true → 1 ≤ k →
      b.val + k ≤ 4 → m = .host ∨ (b.val = 0 ∧ k = 4) → Answers (.readTimeWord m which b k) s fun t =>
        let x := if (s.shadow m).frozen then s.shadow m else s.snapshot (s.shadow m).timedOut
        t.answers = s.answers ++ [(m, laneMask (timeWordReg which + b.val) k (timeWordReg which) (x.word which))]
          ∧
        t.shadow m = { x with frozen := decide (which = .cnt0 ∨ which = .cal0) }) ∧
    (∀ (b : Bool), (s.snapshot b).frozen = true ∧ (s.snapshot b).cnt0.toNat % 32768 = s.lehr.frac.toNat ∧
      (s.snapshot b).cnt0.toNat / 32768 + 131072 * ((s.snapshot b).cnt1.toNat % 8388608) = s.lehr.sec.toNat ∧
      bit 31 (s.snapshot b).cnt1 = b ∧ bit 31 (s.snapshot b).cal1 = b) ∧
    (s.rf R.LEHR_OFS 17 0 = 0 →
      (s.lehr.sec = 0 → s.calWords = (0x01000000, 0x0607D001)) ∧ (s.lehr.sec = 5097600 → s.calWords = (0x1D000000,
        0x0207D002))) ∧
    (∀ (m : Master), Answers (.shadowTimeout m) s fun t =>
        t.shadow m = { s.shadow m with frozen := false, timedOut := (s.shadow m).timedOut || (s.shadow m).frozen }) ∧
    (Answers .vaoLoss s fun t => t = (if s.lehr.fromMain then s else { s with lehr.alive := false })) ∧
    (s.lehr.alive = false → Answers .lehrRestart s fun t =>
        t.lehr.alive = true ∧ t.lehr.sec = 0 ∧ t.lehr.frac = 0 ∧ t.lehr.lostPost = true ∧
          ∀ a, a / 65536 = 15 → t.rd a = resetVal a) ∧
    (s.lehr.alive = true → Answers .lehrRestart s fun t => t = s)

/-- O51. The first word of a commit is staged for its master; the second commits both: the count takes them, fraction 0,
TIMEINV clear. Without a staged word the write sets BADVAL; a calendar that fails a check sets its flag, drops the
staged word and changes nothing else. DSTP and DSTM move the offset by 3,600 s and set or clear DST; where DST
already is so, DSTERR; beyond 18 hours, BADVAL. ALM1 commits the alarm; when the count reaches it the enable falls,
its flag rises, and outside backup producer 111 and the wake; PER restarts its count, N = 0 with EN is BADVAL; when
N have passed its flag rises, producer 112 and the wake. PRILOCK with its key blows the lock: LEHR_CHG reads 0, the
charger is off; another key is BADVAL. VBAK below its limit sets BAKLOW, its first time with event 0x7D, unless
NOBAK. -/
def Obligations.TheLehrIsSetAndFires : Prop :=
  ∀ s : State,
    (∀ (m : Master) (w : Word), s.reaches m R.LEHR_CNT0 = true →
      Answers (.countStage m w) s fun t => (t.stage m).cnt = some w ∧ t.lehr.sec = s.lehr.sec) ∧
    (∀ (m : Master) (w : Word), s.reaches m R.LEHR_CAL0 = true →
      Answers (.calendarStage m w) s fun t => (t.stage m).cal = some w ∧ t.lehr.sec = s.lehr.sec) ∧
    (∀ (m : Master) (w : Word), s.reaches m R.LEHR_CNT1 = true → (s.stage m).cnt = none →
      Answers (.countCommit m w) s fun t => t = s.flag R.LEHR_STAT 0) ∧
    (∀ (m : Master) (w : Word) (l : Word), s.reaches m R.LEHR_CNT1 = true → (s.stage m).cnt = some l →
      Answers (.countCommit m w) s fun t =>
        t.lehr.sec = BitVec.ofNat 40 (fld 31 15 l + 131072 * fld 22 0 w) ∧ t.lehr.frac = 0 ∧
          t.rb R.LEHR_STAT 1 = false ∧ (t.stage m).cnt = none) ∧
    (∀ (m : Master) (w : Word), s.reaches m R.LEHR_CAL1 = true → (s.stage m).cal = none →
      Answers (.calendarCommit m w) s fun t => t = s.flag R.LEHR_STAT 0) ∧
    (∀ (m : Master) (w : Word) (l : Word), s.reaches m R.LEHR_CAL1 = true → (s.stage m).cal = some l →
      s.calCount l w = none → Answers (.calendarCommit m w) s fun t =>
        t = (s.setStage m { s.stage m with cal := none }).flag R.LEHR_STAT 3 ∧ (t.stage m).cal = none) ∧
    (∀ (m : Master) (w : Word) (l : Word) (n : Nat), s.reaches m R.LEHR_CAL1 = true →
      (s.stage m).cal = some l → s.calCount l w = some n → Answers (.calendarCommit m w) s fun t =>
        t.lehr.sec = BitVec.ofNat 40 (n) ∧ t.lehr.frac = 0 ∧ t.rb R.LEHR_STAT 1 = false ∧
          (t.stage m).cal = none) ∧
    (∀ (m : Master) (w : Word), s.reaches m R.LEHR_CTL = true → bit 0 w = true → bit 1 w = false →
      s.rb R.LEHR_OFS 31 = false → -64800 ≤ s.offset → s.offset + 3600 ≤ 64800 →
      Answers (.dstBegin m w) s fun t => t.offset = s.offset + 3600 ∧ t.rb R.LEHR_OFS 31 = true) ∧
    (∀ (m : Master) (w : Word), s.reaches m R.LEHR_CTL = true → bit 0 w = true → bit 1 w = false →
      s.rb R.LEHR_OFS 31 = true →
      Answers (.dstBegin m w) s fun t => t.rb R.LEHR_STAT 5 = true ∧ t.rd R.LEHR_OFS = s.rd R.LEHR_OFS) ∧
    (∀ (m : Master) (w : Word), s.reaches m R.LEHR_CTL = true → bit 0 w = true → bit 1 w = false →
      s.rb R.LEHR_OFS 31 = false → 64800 < s.offset + 3600 →
      Answers (.dstBegin m w) s fun t => t.rb R.LEHR_STAT 0 = true ∧ t.rd R.LEHR_OFS = s.rd R.LEHR_OFS) ∧
    (∀ (m : Master) (w : Word), s.reaches m R.LEHR_CTL = true → bit 1 w = true → bit 0 w = false →
      s.rb R.LEHR_OFS 31 = true → s.offset ≤ 64800 → -64800 ≤ s.offset - 3600 →
      Answers (.dstEnd m w) s fun t => t.offset = s.offset - 3600 ∧ t.rb R.LEHR_OFS 31 = false) ∧
    (∀ (m : Master) (w : Word), s.reaches m R.LEHR_CTL = true → bit 1 w = true → bit 0 w = false →
      s.rb R.LEHR_OFS 31 = false →
      Answers (.dstEnd m w) s fun t => t.rb R.LEHR_STAT 5 = true ∧ t.rd R.LEHR_OFS = s.rd R.LEHR_OFS) ∧
    (∀ (m : Master) (w : Word), s.reaches m R.LEHR_CTL = true → bit 1 w = true → bit 0 w = false →
      s.rb R.LEHR_OFS 31 = true → s.offset - 3600 < -64800 →
      Answers (.dstEnd m w) s fun t => t.rb R.LEHR_STAT 0 = true ∧ t.rd R.LEHR_OFS = s.rd R.LEHR_OFS) ∧
    (∀ (m : Master) (w : Word), s.reaches m R.LEHR_ALM1 = true → Answers (.alarmCommit m w) s fun t =>
        t.lehr.alarm = BitVec.ofNat 64 ((s.rd R.LEHR_ALM0).toNat + 2 ^ 32 * fld 22 0 w) ∧
          t.rb R.LEHR_ALM1 31 = bit 31 w) ∧
    (s.lehr.alive = true → s.rb R.LEHR_ALM1 31 = true → s.lehr.alarm.toNat ≤ s.count64.toNat →
      Answers .alarmFire s fun t =>
        ∃ u : State, t = (if s.power.phase = .backup then u else (u.raise 111 0).wake .alarm) ∧
          u.rb R.LEHR_ALM1 31 = false ∧ u.rb R.LEHR_STAT 6 = true) ∧
    (s.rb R.LEHR_ALM1 31 = false ∨ s.count64.toNat < s.lehr.alarm.toNat → Answers .alarmFire s fun t => t = s) ∧
    (∀ (m : Master) (w : Word), s.reaches m R.LEHR_PER = true → bit 25 w = false ∨ fld 23 0 w ≠ 0 →
      Answers (.periodicRestart m w) s fun t => t.lehr.per = 0 ∧ t.rf R.LEHR_PER 25 0 = fld 25 0 w) ∧
    (∀ (m : Master) (w : Word), s.reaches m R.LEHR_PER = true → bit 25 w = true → fld 23 0 w = 0 →
      Answers (.periodicRestart m w) s fun t => t = s.flag R.LEHR_STAT 0) ∧
    (s.counting = true → s.rb R.LEHR_PER 25 = true → Answers .periodicFire s fun t =>
        ∃ u : State, t = (if s.power.phase = .backup then u else (u.raise 112 0).wake .periodic) ∧
          u.lehr.per = 0 ∧ u.rb R.LEHR_STAT 7 = true) ∧
    (s.counting = false ∨ s.rb R.LEHR_PER 25 = false → Answers .periodicFire s fun t => t = s) ∧
    (∀ (m : Master) (w : Word), s.reaches m R.LEHR_CTL = true → bit 2 w = true → fld 31 16 w = 0x4C4B →
      bit 0 w = false ∨ bit 1 w = false → Answers (.prilockBlow m w) s fun t =>
        t.keys.chgLock = true ∧ t.rd R.LEHR_CHG = 0 ∧ t.lehr.charging = false) ∧
    (∀ (m : Master) (w : Word), s.reaches m R.LEHR_CTL = true → bit 2 w = true → fld 31 16 w ≠ 0x4C4B →
      Answers (.prilockBlow m w) s fun t =>
        t.keys = s.keys ∧ t.rb R.LEHR_STAT 0 = true ∧ t.rd R.LEHR_CHG = s.rd R.LEHR_CHG) ∧
    (∀ (mv : Nat), s.power.phase ≠ .backup → s.rb R.LEHR_CTL 3 = false → s.lehr.alive = true →
      Answers (.vbakCheck mv) s fun t =>
        ∃ u : State, u.rb R.LEHR_STAT 8 = decide (mv < 2300) ∧ t = (if mv < 2300 ∧
          s.rb R.LEHR_STAT 8 = false then u.post 0x7D 1 0 mv else u)) ∧
    (∀ (mv : Nat), s.power.phase = .backup ∨ s.rb R.LEHR_CTL 3 = true →
      Answers (.vbakCheck mv) s fun t => t = s)

/-- O52. An unlock by one master claims the controller; each step from it leads to the next, a step out of order or too
late abandons the sequence (SEQERR, RES 1, claim released); another master's write is BADVAL. A completed PROGRAM or
ERASE that fails a check ends with its RES; else the line's 16 bytes are those of DATA0 to DATA3 and no other byte
changes, or the sector's erase is active and counted. A finished erase leaves the sector erased and no other byte
changed; RES 0, DONE. One over its time ends with RES 9 or 8, its line or sector undefined. Once a program has
ended, held accesses that nothing holds any more are served in order. SUSP and RESUME suspend and continue an active
erase. A window read, of a word or by the host of bytes of one, answers them from the aperture, 0 in a reserved
sector; an error response in a sector being erased or with an uncorrectable error; an erased line reads 0xFF in
every byte whatever is found in it; of a line being programmed it is held. -/
def Obligations.CodeFlashFollowsItsSequence : Prop :=
  ∀ s : State,
    (∀ (m : Master) (w : Word), s.reaches m R.CFL_UNLOCK = true → s.flash.owner = none → fld 15 0 w = 0xAA55 →
      Answers (.cflUnlock m w) s fun t =>
        t.flash.step = .unlocked1 ∧ t.flash.owner = some m ∧ t.flash.bytes = s.flash.bytes) ∧
    (∀ (m : Master) (w : Word), s.reaches m R.CFL_UNLOCK = true → s.flash.owner = some m →
      s.flash.step = .unlocked1 → fld 15 0 w = 0x55AA →
      Answers (.cflUnlock m w) s fun t => t.flash.step = .unlocked2 ∧ t.flash.owner = some m) ∧
    (∀ (m : Master) (w : Word), s.reaches m R.CFL_UNLOCK = true →
      (s.flash.owner = none ∧ fld 15 0 w ≠ 0xAA55) ∨ (s.flash.owner = some m ∧ s.flash.step = .unlocked1 ∧ fld 15
        0 w ≠ 0x55AA) →
      Answers (.cflUnlock m w) s fun t =>
        t.flash.step = .idle ∧ t.flash.owner = none ∧ t.rf R.CFL_STAT 15 12 = 1 ∧ t.rb R.CFL_STAT 4 = true ∧
          t.flash.bytes = s.flash.bytes) ∧
    (∀ (m o : Master) (r : CflReg) (w : Word), s.reaches m (cflRegAt r) = true → s.flash.owner = some o →
      o ≠ m → Answers (.cflSequenceWrite m r w) s fun t => t = s.flag R.CFL_STAT 0) ∧
    (∀ (m : Master) (w : Word), s.reaches m R.CFL_CMD = true → s.flash.owner = some m →
      s.flash.step = .unlocked2 → Answers (.cflSequenceWrite m .cmd w) s fun t =>
        if fld 7 0 w = 1 ∨ fld 7 0 w = 2 then t.flash = { s.flash with step := .haveCmd (decide (fld 7 0 w = 2)) }
          else t.flash.step = .idle ∧ t.flash.owner = none ∧ t.rf R.CFL_STAT 15 12 = 1 ∧
          t.rb R.CFL_STAT 4 = true ∧ t.flash.bytes = s.flash.bytes) ∧
    (∀ (m : Master) (w : Word) (e : Bool), s.reaches m R.CFL_ADDR = true → s.flash.owner = some m →
      s.flash.step = .haveCmd e → Answers (.cflSequenceWrite m .addr w) s fun t =>
        t.flash = { s.flash with step := if e then .started true else .haveAddr, addr := fld 22 0 w, data := [] }) ∧
    (∀ (m : Master) (i : Fin 4) (w : Word), s.reaches m (R.CFL_DATA i.val) = true → s.flash.owner = some m →
      if i.val = 0 then s.flash.step = .haveAddr else s.flash.step = .haveData i.val →
      Answers (.cflSequenceWrite m (.data i) w) s fun t =>
        t.flash.step = (if i.val = 3 then .started false else .haveData (i.val + 1)) ∧
          tget (fun _ => 0) t.flash.data i.val = w ∧
          ∀ j, i.val ≠ 0 → j ≠ i.val → tget (fun _ => (0 : Word)) t.flash.data j = tget (fun _ => 0) s.flash.data
            j) ∧
    (Answers .cflSequenceTimeout s fun t =>
        if s.flash.step = .idle ∨ s.flash.step = .started true ∨ s.flash.step = .started false then t = s else
          t.flash.step = .idle ∧
          t.flash.owner = none ∧ t.rf R.CFL_STAT 15 12 = 1 ∧ t.rb R.CFL_STAT 4 = true ∧
          t.flash.bytes = s.flash.bytes) ∧
    (∀ (c : Nat), s.flash.step = .started false → s.flashUp = true → s.programCheck s.flash.addr = some c →
      Answers .programLine s fun t =>
        t.flash.step = .idle ∧ t.rf R.CFL_STAT 15 12 = c ∧ t.rb R.CFL_STAT 3 = true ∧
          t.flash.bytes = s.flash.bytes) ∧
    (s.flash.step = .started false → s.flashUp = true → s.programCheck s.flash.addr = none →
      Answers .programLine s fun t =>
        t.flash.programming = some (s.flash.addr / 16) ∧ t.flash.step = .idle ∧
          (t.sector (sectorOf s.flash.addr)).nextLine =
            (s.flash.addr - sectorBase (sectorOf s.flash.addr)) / 16 + 1 ∧
          ∀ a, tget (fun _ => 0xFF) t.flash.bytes a = if s.flash.addr ≤ a ∧
          a < s.flash.addr + 16 then s.cflLine.getD (a - s.flash.addr) 0
            else tget (fun _ => 0xFF) s.flash.bytes a) ∧
    (∀ (c : Nat), s.flash.step = .started true → s.flashUp = true → s.eraseCheck s.flash.addr = some c →
      Answers .eraseSector s fun t =>
        t.flash.step = .idle ∧ t.rf R.CFL_STAT 15 12 = c ∧ t.rb R.CFL_STAT 3 = true ∧
          t.flash.bytes = s.flash.bytes ∧ t.flash.erasing = s.flash.erasing) ∧
    (s.flash.step = .started true → s.flashUp = true → s.eraseCheck s.flash.addr = none →
      Answers .eraseSector s fun t =>
        t.flash.erasing = some (sectorOf s.flash.addr) ∧ t.flash.suspended = false ∧ t.flash.step = .idle ∧
          t.flash.bytes = s.flash.bytes ∧
          (t.sector (sectorOf s.flash.addr)).erases = min 1048575 ((s.sector (sectorOf s.flash.addr)).erases + 1)) ∧
    (Answers .flashOpDone s fun t => t = s.flashDone.serveFree) ∧
    (Answers .programTimeout s fun t => t = s.programFailed.serveFree) ∧
    (s.flash.programming.isSome = true → let t := s.flashDone
      t.flash.step = .idle ∧ t.rf R.CFL_STAT 15 12 = 0 ∧ t.rb R.CFL_STAT 3 = true ∧ t.flash.programming = none ∧
        t.flash.bytes = s.flash.bytes) ∧
    (∀ (k : Nat), s.flash.programming = none → s.flash.erasing = some k → s.flash.suspended = false →
      let t := s.flashDone
      t.flash.step = .idle ∧ t.rf R.CFL_STAT 15 12 = 0 ∧ t.rb R.CFL_STAT 3 = true ∧ t.flash.erasing = none ∧
        ∀ a, tget (fun _ => 0xFF) t.flash.bytes a = if sectorBase k ≤ a ∧ a < sectorBase k + sectorSize k then
          0xFF else tget (fun _ => 0xFF) s.flash.bytes a) ∧
    (∀ (l : Nat), s.flash.programming = some l → let t := s.programFailed
      t.flash.step = .idle ∧ t.rf R.CFL_STAT 15 12 = 9 ∧ t.rb R.CFL_STAT 3 = true ∧ t.flash.programming = none ∧
        t.flash.undefLines = l :: s.flash.undefLines) ∧
    (s.flash.programming = none → s.flash.erasing = none → s.flashDone = s ∧ s.programFailed = s) ∧
    (∀ h ∈ s.link.held, s.blocked h = true → s.serveFree = s) ∧
    (∀ (h : HeldAccess) (r : List HeldAccess), s.link.held = h :: r → s.blocked h = false →
      s.serveFree = serveAll r.length (({ s with link.held := r } : State).serveHeld h)) ∧
    (∀ (k : Nat), s.flash.erasing = some k → s.flash.suspended = false → Answers .eraseTimeout s fun t =>
        t.flash.step = .idle ∧ t.rf R.CFL_STAT 15 12 = 8 ∧ t.rb R.CFL_STAT 3 = true ∧
          t.flash.erasing = none ∧ (t.sector k).exhausted = true ∧ (t.sector k).undef = true) ∧
    (∀ (m : Master) (w : Word), s.reaches m R.CFL_CTL = true → bit 0 w = true → bit 1 w = false →
      s.flash.erasing.isSome = true → s.flash.suspended = false → Answers (.eraseSuspend m w) s fun t =>
        t.flash.suspended = true ∧ t.flash.erasing = s.flash.erasing ∧ t.rb R.CFL_STAT 2 = true) ∧
    (∀ (m : Master) (w : Word), s.reaches m R.CFL_CTL = true → bit 0 w = false → bit 1 w = true →
      s.flash.erasing.isSome = true → s.flash.suspended = true → s.flash.programming = none →
      Answers (.eraseResume m w) s fun t =>
        t.flash.suspended = false ∧ t.flash.erasing = s.flash.erasing ∧ t.rb R.CFL_STAT 2 = false) ∧
    (∀ (m : Master) (w : Word), s.reaches m R.CFL_CTL = true → bit 0 w = true → bit 1 w = true →
      Answers (.eraseSuspend m w) s fun t => t.rb R.CFL_STAT 0 = true ∧ t.flash = s.flash) ∧
    (∀ (m : Master) (n : Nat) (b : Fin 4) (k : Nat) (a : Nat), n < 8192 →
      s.reaches m (0x108000 + (4 * n + b.val)) = true → s.rf R.CFL_APBASE 7 0 * 32768 + 4 * n = a →
      s.lineBusy (0x108000 + 4 * n) = false → 1 ≤ k → b.val + k ≤ 4 → m = .host ∨ (b.val = 0 ∧ k = 4) →
      s.flash.erasing ≠ some (sectorOf a) → Answers (.readFlashWindow m (4 * n + b.val) k .clean) s fun t =>
        t.answers = s.answers ++ [(m, laneMask (0x108000 + (4 * n + b.val)) k (0x108000 + 4 * n)
          (if sectorReserved (sectorOf a) then 0 else BitVec.ofNat 32 (leNat (s.flashBytes a 4))))] ∧
          t.flash.bytes = s.flash.bytes ∧ t.flash.ueLines = s.flash.ueLines.filter (· != a / 16)) ∧
    (∀ (m : Master) (n : Nat) (b : Fin 4) (k : Nat) (a : Nat) (e : Ecc), n < 8192 →
      s.reaches m (0x108000 + (4 * n + b.val)) = true → s.rf R.CFL_APBASE 7 0 * 32768 + 4 * n = a →
      s.lineBusy (0x108000 + 4 * n) = false → 1 ≤ k → b.val + k ≤ 4 → m = .host ∨ (b.val = 0 ∧ k = 4) →
      s.flash.erasing = some (sectorOf a) → Answers (.readFlashWindow m (4 * n + b.val) k e) s fun t =>
        t.link.errors = s.link.errors ++ [m] ∧ t.answers = s.answers ∧
          t.rb R.CFL_STAT (if s.flash.suspended then 5 else 6) = true) ∧
    (∀ (m : Master) (n : Nat) (b : Fin 4) (k : Nat) (a : Nat), n < 8192 →
      s.reaches m (0x108000 + (4 * n + b.val)) = true → s.rf R.CFL_APBASE 7 0 * 32768 + 4 * n = a →
      s.lineBusy (0x108000 + 4 * n) = false → 1 ≤ k → b.val + k ≤ 4 → m = .host ∨ (b.val = 0 ∧ k = 4) →
      s.flash.erasing ≠ some (sectorOf a) → s.lineErased a = false →
      Answers (.readFlashWindow m (4 * n + b.val) k .uncorrectable) s fun t =>
        t.link.errors = s.link.errors ++ [m] ∧ t.answers = s.answers ∧ t.rb R.CFL_STAT 7 = true ∧
          t.rf R.CFL_ECC 23 16 = (s.rf R.CFL_ECC 23 16 + 1) % 256) ∧
    (∀ (m : Master) (n : Nat) (b : Fin 4) (k : Nat) (a : Nat) (e : Ecc), n < 8192 →
      s.reaches m (0x108000 + (4 * n + b.val)) = true → s.rf R.CFL_APBASE 7 0 * 32768 + 4 * n = a →
      s.lineBusy (0x108000 + 4 * n) = false → 1 ≤ k → b.val + k ≤ 4 → m = .host ∨ (b.val = 0 ∧ k = 4) →
      s.flash.erasing ≠ some (sectorOf a) → s.lineErased a = true → a % 4 = 0 →
      Answers (.readFlashWindow m (4 * n + b.val) k e) s fun t =>
        t.answers = s.answers ++ [(m, laneMask (0x108000 + (4 * n + b.val)) k (0x108000 + 4 * n) 0xFFFFFFFF)] ∧
          t.rd R.CFL_ECC = s.rd R.CFL_ECC ∧
          t.link = s.link) ∧
    (∀ (m : Master) (n : Nat) (b : Fin 4) (k : Nat) (e : Ecc), n < 8192 → s.masterUp m = true →
      s.lineBusy (0x108000 + 4 * n) = true → 1 ≤ k → b.val + k ≤ 4 → m = .host ∨ (b.val = 0 ∧ k = 4) →
      Answers (.readFlashWindow m (4 * n + b.val) k e) s fun t =>
        t = { s with link.held := s.link.held ++ [⟨m, false, (0x108000 + (4 * n + b.val)), k, 0⟩] })

/-- O53. A transaction of another kind, or with the port off, does nothing. A short frame or a wrong SYNC or TYPE counts
in SHORT, one while a command executes in DROP. LEN above 4,160 gives NAK LEN, a failing CRC NAK CRC. A clear CMD
that is a HELLO, or has the next SEQ while ENCREQ is 0, is accepted: it executes, held with its SEQ and CRC,
SVC_STAT says so; an unknown code, bad arguments or SCRAPPED end it with status 1, 2, 3. The last SEQ with the same
CRC gives the held response again, counted; with another CRC NAK REUSE, and any other SEQ NAK SEQ; a clear one under
ENCREQ NAK AUTH. A reply to a clear command is its ACK frame, stored, kept for a repeat, SVC_ATTN; a read drives 1
and the stored response, else 0, then 0xFF; one that clocks the response all out lowers SVC_ATTN. -/
def Obligations.ServiceFramesAreCheckedAndRepeated : Prop :=
  ∀ s : State,
    (∀ (b : List Byte), s.portUp = false ∨ b.head? ≠ some 0x4B →
      Answers (.spiWriteTransaction b) s fun t => t = s) ∧
    (∀ (l : List Byte), s.portUp = true → l.length < 12 + arg l 6 2 ∨ l.take 3 ≠ [0x4B, 0x53, 1] →
      Answers (.spiWriteTransaction (0x4B :: l)) s fun t =>
        t.rf R.SVC_CNT 7 0 = (s.rf R.SVC_CNT 7 0 + 1) % 256 ∧ t.svc = s.svc) ∧
    (∀ (h p r : List Byte), s.portUp = true → h.length = 8 → h.take 3 = [0x4B, 0x53, 1] →
      arg h 6 2 = p.length → s.svc.exec.isSome = true →
      Answers (.spiWriteTransaction (cmdFrame h p r)) s fun t =>
        t.rf R.SVC_CNT 15 8 = (s.rf R.SVC_CNT 15 8 + 1) % 256 ∧ t.svc = s.svc) ∧
    (∀ (h p r : List Byte), s.portUp = true → h.length = 8 → h.take 3 = [0x4B, 0x53, 1] →
      arg h 6 2 = p.length → s.svc.exec = none → 4160 < p.length →
      Answers (.spiWriteTransaction (cmdFrame h p r)) s fun t => t = s.svcNak (arg h 4 2) 2) ∧
    (∀ (h p r : List Byte) (c : Nat), s.portUp = true → h.length = 8 → h.take 3 = [0x4B, 0x53, 1] →
      arg h 6 2 = p.length → s.svc.exec = none → p.length ≤ 4160 → c < 2 ^ 32 → c ≠ (crc32 (h ++ p)).toNat →
      Answers (.spiWriteTransaction (0x4B :: (h ++ p ++ leBytes 4 c ++ r))) s fun t =>
        t = s.svcNak (arg h 4 2) 1) ∧
    (∀ (h p r : List Byte), s.portUp = true → h.length = 8 → h.take 3 = [0x4B, 0x53, 1] →
      arg h 6 2 = p.length → s.svc.exec = none → p.length ≤ 4160 → arg h 3 1 % 2 = 0 →
      (arg p 0 1 = 1 ∧ p ≠ []) ∨ (s.svc.heldSeq.isSome = true ∧ s.svc.heldSeq.map (· + 1) = some (BitVec.ofNat 16
        (arg h 4 2)) ∧ s.rb R.SVC_CTL 0 = false) →
      svcCodes.contains (arg p 0 1) = true → argsOk p = true → s.keys.scrapped = false →
      Answers (.spiWriteTransaction (cmdFrame h p r)) s fun t =>
        t.svc.exec = some p ∧ t.svc.session = none ∧ t.svc.heldSeq = some (BitVec.ofNat 16 (arg h 4 2)) ∧
          t.svc.heldCrc = crc32 (h ++ p) ∧
          t.rb R.SVC_STAT 3 = true ∧ t.rb R.SVC_STAT 2 = true ∧ t.rb R.SVC_STAT 4 = false ∧
          t.rf R.SVC_STAT 31 16 = arg h 4 2) ∧
    (∀ (h p r : List Byte) (st : Nat), s.portUp = true → h.length = 8 → h.take 3 = [0x4B, 0x53, 1] →
      arg h 6 2 = p.length → s.svc.exec = none → p.length ≤ 4160 → arg h 3 1 % 2 = 0 →
      (arg p 0 1 = 1 ∧ p ≠ []) ∨ (s.svc.heldSeq.isSome = true ∧ s.svc.heldSeq.map (· + 1) = some (BitVec.ofNat 16
        (arg h 4 2)) ∧ s.rb R.SVC_CTL 0 = false) →
      svcCodes.contains (arg p 0 1) = false ∧ st = 1 ∨ (svcCodes.contains (arg p 0 1) = true ∧ argsOk p = false) ∧
        st = 2 ∨
        (svcCodes.contains (arg p 0 1) = true ∧ argsOk p = true ∧ s.keys.scrapped = true ∧ scrapServes p = false)
          ∧ st = 3 →
      Answers (.spiWriteTransaction (cmdFrame h p r)) s fun t =>
        ∃ u : State, t = u.svcReply st [] ∧ u.svc.exec = some p ∧
          u.svc.heldSeq = some (BitVec.ofNat 16 (arg h 4 2)) ∧ u.keys = s.keys) ∧
    (∀ (h p r : List Byte), s.portUp = true → h.length = 8 → h.take 3 = [0x4B, 0x53, 1] →
      arg h 6 2 = p.length → s.svc.exec = none → p.length ≤ 4160 → arg h 3 1 % 2 = 0 → arg p 0 1 ≠ 1 →
      s.svc.heldSeq = some (BitVec.ofNat 16 (arg h 4 2)) →
      Answers (.spiWriteTransaction (cmdFrame h p r)) s fun t =>
        t = (if s.svc.heldCrc = crc32 (h ++ p) then (s.svcOffer s.svc.heldResponse).count R.SVC_CNT 23 16 1 else
          s.svcNak (arg h 4 2) 4)) ∧
    (∀ (h p r : List Byte), s.portUp = true → h.length = 8 → h.take 3 = [0x4B, 0x53, 1] →
      arg h 6 2 = p.length → s.svc.exec = none → p.length ≤ 4160 → arg h 3 1 % 2 = 0 → arg p 0 1 ≠ 1 →
      s.svc.heldSeq ≠ some (BitVec.ofNat 16 (arg h 4 2)) →
      s.svc.heldSeq.map (· + 1) ≠ some (BitVec.ofNat 16 (arg h 4 2)) →
      Answers (.spiWriteTransaction (cmdFrame h p r)) s fun t => t = s.svcNak (arg h 4 2) 3) ∧
    (∀ (h p r : List Byte), s.portUp = true → h.length = 8 → h.take 3 = [0x4B, 0x53, 1] →
      arg h 6 2 = p.length → s.svc.exec = none → p.length ≤ 4160 → arg h 3 1 % 2 = 0 → arg p 0 1 ≠ 1 →
      arg p 0 1 ≠ 2 → arg p 0 1 ≠ 0x30 → s.svc.heldSeq.map (· + 1) = some (BitVec.ofNat 16 (arg h 4 2)) →
      s.rb R.SVC_CTL 0 = true →
      Answers (.spiWriteTransaction (cmdFrame h p r)) s fun t => t = s.svcNak (arg h 4 2) 5) ∧
    (∀ (st : Nat) (l p : List Byte) (q : Half), s.svc.exec = some p → s.svc.session = none →
      s.svc.heldSeq = some q →
      (s.svcReply st l).svc.response = frameOf (frameHeader 2 0 q.toNat (2 + l.length)) (leBytes 2 st ++ l) ∧
      (s.svcReply st l).svc.heldResponse = frameOf (frameHeader 2 0 q.toNat (2 + l.length)) (leBytes 2 st ++ l) ∧
      (s.svcReply st l).svc.exec = none ∧ (s.svcReply st l).svc.stored = true ∧ (s.svcReply st l).svc.heldSeq =
        some q ∧
      (s.svcReply st l).rb R.SVC_STAT 4 = true ∧ (s.svcReply st l).rb R.SVC_STAT 3 = false) ∧
    (∀ (n c : Nat) (q : Half), s.svc.heldSeq = some q →
      (s.svcNak n c).svc.response = frameOf (frameHeader 3 0 n 4) ([BitVec.ofNat 8 c, 0] ++ leBytes 2 ((q +
        1).toNat % 65536)) ∧
      (s.svcNak n c).rb R.SVC_STAT 4 = true ∧ (s.svcNak n c).rf R.SVC_CNT 31 24 = (s.rf R.SVC_CNT 31 24 + 1) % 256) ∧
    (∀ (k : Nat), s.portUp = true → Answers (.spiReadTransaction k) s fun t =>
        let v : State :=
          { s with answers := s.answers ++ (s.svcReadBytes k).map fun b => (Master.svc, b.setWidth 32) }
        t = if s.svc.stored ∧ s.svc.response.length < k then v.wb R.SVC_STAT 4 false else v) ∧
    (∀ (k : Nat), s.portUp = false → Answers (.spiReadTransaction k) s fun t => t = s) ∧
    (∀ (k : Nat),
      (s.svcReadBytes k).length = k ∧ ∀ i, i < k → (s.svcReadBytes k).getD i 0 = if s.svc.stored = false then (if
        i = 0 then 0 else 0xFF)
        else if i = 0 then 1 else s.svc.response.getD (i - 1) 0xFF)

/-- O54. HELLO answers serial, capability, life-cycle words, version and 4,160; INFO its 84 bytes. REGRD of a word
answers it, REGWR writes it, as the service port's access; where it errs the reply is REGERR (7) with the index.
FLRD answers the bytes it names, zeros in reserved sectors, RES 10 where a sector is being erased. A read of a line
being programmed waits. FLPROG and FLERASE end with SLOTBUSY (4) in a needed slot, wait while the controller is
claimed or busy, end with 5 and the RES of a failed check or operation, or program exactly their lines and erase
exactly their sector; after 1,000 ms of waiting, status 6. NEWTOP writes NWT_MOVE; BOOT and TEST are answered when
they have finished. KEYCMD refuses no admin opcode but answers it as the admin ring would, and waits for the ring's
key commands that came before it. RELEASE ends a held boot; without one it is status 3. -/
def Obligations.TheLoaderAnswersItsCommands : Prop :=
  ∀ s : State,
    (∀ (p : List Byte), s.masterUp .svc = true → s.svc.exec = some p → arg p 0 1 = 1 →
      Answers .svcHello s fun t =>
        ∃ (u : State) (v : Nat), t = u.svcReply 0 (bvBytes 8 Config.serial ++ bvBytes 4 (s.rd R.GLB_CAP0) ++
          bvBytes 4 (s.rd R.KEY_LCS) ++
            leBytes 4 v ++ leBytes 2 4160) ∧ u.svc = s.svc ∧ u.regs = s.regs) ∧
    (∀ (p : List Byte), s.masterUp .svc = true → s.svc.exec = some p → arg p 0 1 = 2 →
      Answers .svcInfo s fun t =>
        ∃ l, t = s.svcReply 0 l ∧ l.length = 84 ∧ l.take 4 = bvBytes 4 (s.rd R.RST_CAUSE) ∧
          (l.drop 4).take 4 = bvBytes 4 (s.rd R.RST_STAT) ∧
          (l.drop 8).take 4 = bvBytes 4 (s.rd R.HLT_CAUSE) ∧
          (l.drop 12).take 4 = bvBytes 4 (s.rd R.CFL_STAT) ∧
          (l.drop 16).take 4 = bvBytes 4 (s.nwtView R.NWT_BASK) ∧
          ∀ n < 16, (l.drop (20 + 4 * n)).take 4 = bvBytes 4 (s.nwtView (R.NWT_CST n))) ∧
    (∀ (p : List Byte) (v : Word), s.masterUp .svc = true → s.svc.exec = some p → arg p 0 1 = 3 →
      (touched (arg p 4 4) (4 * arg p 8 4)).any s.lineBusy = false → arg p 8 4 = 1 →
      s.svcError (arg p 4 4) = false → (s.busRead .svc (arg p 4 4) .clean).1 = some v →
      Answers .svcRegrd s fun t => t = (s.busRead .svc (arg p 4 4) .clean).2.svcReply 0 (bvBytes 4 v)) ∧
    (∀ (p : List Byte), s.masterUp .svc = true → s.svc.exec = some p → arg p 0 1 = 3 →
      (touched (arg p 4 4) (4 * arg p 8 4)).any s.lineBusy = false → arg p 8 4 = 1 →
      s.svcError (arg p 4 4) = false → (s.busRead .svc (arg p 4 4) .clean).1 = none →
      Answers .svcRegrd s fun t => t = (s.busRead .svc (arg p 4 4) .clean).2.svcReply 7 [0]) ∧
    (∀ (p : List Byte), s.masterUp .svc = true → s.svc.exec = some p → arg p 0 1 = 3 →
      (touched (arg p 4 4) (4 * arg p 8 4)).any s.lineBusy = false → arg p 8 4 = 1 →
      s.svcError (arg p 4 4) = true → Answers .svcRegrd s fun t => t = s.svcReply 7 [0]) ∧
    (∀ (p : List Byte), s.masterUp .svc = true → s.svc.exec = some p → arg p 0 1 = 3 →
      (touched (arg p 4 4) (4 * arg p 8 4)).any s.lineBusy = true → Answers .svcRegrd s fun t => t = s) ∧
    (∀ (p : List Byte), s.masterUp .svc = true → s.svc.exec = some p → arg p 0 1 = 4 → arg p 8 4 = 1 →
      s.svcError (arg p 4 4) = false → s.refusedAt (arg p 4 4) = false → Answers .svcRegwr s fun t =>
        t = (s.busWrite .svc (arg p 4 4) (BitVec.ofNat 32 (arg p 12 4))).svcReply 0 []) ∧
    (∀ (p : List Byte), s.masterUp .svc = true → s.svc.exec = some p → arg p 0 1 = 4 → arg p 8 4 = 1 →
      s.svcError (arg p 4 4) = true ∨ s.refusedAt (arg p 4 4) = true →
      Answers .svcRegwr s fun t => t = s.svcReply 7 [0]) ∧
    (∀ (p : List Byte), s.masterUp .svc = true → s.svc.exec = some p → arg p 0 1 = 0x10 →
      s.programmingIn (arg p 4 4) (arg p 8 4) = false → s.flash.erasing = none →
      Answers (.svcFlrd .clean) s fun t =>
        ∃ (u : State) (l : List Byte), t = u.svcReply 0 l ∧ u.svc = s.svc ∧ u.regs = s.regs ∧
          u.flash.bytes = s.flash.bytes ∧
          l.length = arg p 8 4 / 4 * 4 ∧ ∀ i < arg p 8 4 / 4, leNat ((l.drop (4 * i)).take 4) =
          if sectorReserved (sectorOf (arg p 4 4 + 4 * i)) then 0 else leNat (s.flashBytes (arg p 4 4 + 4 * i) 4)) ∧
    (∀ (p : List Byte) (e : Ecc), s.masterUp .svc = true → s.svc.exec = some p → arg p 0 1 = 0x10 →
      s.programmingIn (arg p 4 4) (arg p 8 4) = false → 4 ≤ arg p 8 4 →
      s.flash.erasing = some (sectorOf (arg p 4 4)) → Answers (.svcFlrd e) s fun t =>
        ∃ u : State, t = u.svcReply 5 [10] ∧ u.svc = s.svc ∧
          u.rb R.CFL_STAT (if s.flash.suspended then 5 else 6) = true) ∧
    (∀ (p : List Byte) (e : Ecc), s.masterUp .svc = true → s.svc.exec = some p → arg p 0 1 = 0x10 →
      s.programmingIn (arg p 4 4) (arg p 8 4) = true → Answers (.svcFlrd e) s fun t => t = s) ∧
    (∀ (p : List Byte) (k : Nat), s.masterUp .svc = true → s.svc.exec = some p → arg p 0 1 = 0x11 →
      s.slotBusy (sectorOf (arg p 4 4)) = true → Answers (.svcFlprog k) s fun t => t = s.svcReply 4 []) ∧
    (∀ (p : List Byte) (k : Nat), s.masterUp .svc = true → s.svc.exec = some p → arg p 0 1 = 0x11 →
      s.slotBusy (sectorOf (arg p 4 4)) = false →
      s.slotBusy (sectorOf (arg p 4 4 + (p.length - 8) - 1)) = false → s.svcFlashWait = true →
      Answers (.svcFlprog k) s fun t => t = { s with svc.waitFlash := true }) ∧
    (∀ (p : List Byte) (k : Nat), s.masterUp .svc = true → s.svc.exec = some p → arg p 0 1 = 0x11 →
      p.length = 24 → s.slotBusy (sectorOf (arg p 4 4)) = false →
      s.slotBusy (sectorOf (arg p 4 4 + 15)) = false → s.svcFlashWait = false →
      Answers (.svcFlprog k) s fun t =>
        ∃ u : State, u.svc = s.svc ∧
          (∀ c, s.programCheck (arg p 4 4) = some c → t = u.svcReply 5 [BitVec.ofNat 8 c] ∧
          u.flash.bytes = s.flash.bytes) ∧
            (s.programCheck (arg p 4 4) = none → t = (if k = 0 then u.svcReply 5 [9] else u.svcReply 0 []) ∧
              ∀ i, tget (fun _ => 0xFF) u.flash.bytes i = if arg p 4 4 ≤ i ∧
              i < arg p 4 4 + 16 then (p.drop 8).getD (i - arg p 4 4) 0
                else tget (fun _ => 0xFF) s.flash.bytes i)) ∧
    (∀ (p : List Byte) (ok : Bool), s.masterUp .svc = true → s.svc.exec = some p → arg p 0 1 = 0x12 →
      s.slotBusy (arg p 4 2) = true → Answers (.svcFlerase ok) s fun t => t = s.svcReply 4 []) ∧
    (∀ (p : List Byte) (ok : Bool), s.masterUp .svc = true → s.svc.exec = some p → arg p 0 1 = 0x12 →
      s.slotBusy (arg p 4 2) = false → s.svcFlashWait = true →
      Answers (.svcFlerase ok) s fun t => t = { s with svc.waitFlash := true }) ∧
    (∀ (p : List Byte) (ok : Bool), s.masterUp .svc = true → s.svc.exec = some p → arg p 0 1 = 0x12 →
      s.slotBusy (arg p 4 2) = false → s.svcFlashWait = false → Answers (.svcFlerase ok) s fun t =>
        ∃ u : State, u.svc = s.svc ∧
          (∀ c, s.eraseCheck (sectorBase (arg p 4 2)) = some c → t = u.svcReply 5 [BitVec.ofNat 8 c] ∧
          u.flash = s.flash) ∧
            (s.eraseCheck (sectorBase (arg p 4 2)) = none → t = (if ok then u.svcReply 0 [] else u.svcReply 5 [8])
              ∧
            u.flash.erasing = none ∧
              (ok = true → ∀ i, tget (fun _ => 0xFF) u.flash.bytes i =
                if sectorBase (arg p 4 2) ≤ i ∧
                i < sectorBase (arg p 4 2) + sectorSize (arg p 4 2) then 0xFF else tget (fun _ => 0xFF)
                  s.flash.bytes i))) ∧
    (Answers .svcFlashWaitTimeout s fun t => t = (if s.svc.waitFlash then s.svcReply 6 [] else s)) ∧
    (∀ (p : List Byte), s.masterUp .svc = true → s.svc.exec = some p → arg p 0 1 = 0x20 →
      Answers .svcNewtop s fun t =>
        (s.svc.started = true → t = if s.roles.boot.isSome || s.roles.test.isSome then s else s.newtopReply) ∧
          (s.svc.started = false → s.svcError R.NWT_MOVE = true → t = s.svcReply 7 [0]) ∧
          (s.svc.started = false → s.svcError R.NWT_MOVE = false → t =
            let u := s.busWrite .svc R.NWT_MOVE (BitVec.ofNat 32 (arg p 4 4))
            if (fld 14 12 (BitVec.ofNat 32 (arg p 4 4)) = 4 ∨ fld 14 12 (BitVec.ofNat 32 (arg p 4 4)) = 5) ∧
            u.rf R.NWT_STAT 5 2 = 0 then
              { u with svc.started := true } else u.newtopReply)) ∧
    (∀ (p : List Byte) (ok : Bool), s.masterUp .svc = true → s.svc.exec = some p → arg p 0 1 = 0x30 →
      adminOps.contains (arg p 4 1) = false → Answers (.svcKeycmd ok) s fun t => t = s.keycmdReply 0 1 0 []) ∧
    (∀ (p : List Byte) (ok : Bool) (off : Nat), s.masterUp .svc = true → s.svc.exec = some p →
      arg p 0 1 = 0x30 → adminOps.contains (arg p 4 1) = true →
      firstBad (keyFields (arg p 4 1) (arg p 8 16)) = some off →
      Answers (.svcKeycmd ok) s fun t => t = s.keycmdReply 0 2 off []) ∧
    (∀ (p : List Byte) (ok : Bool), s.masterUp .svc = true → s.svc.exec = some p → arg p 0 1 = 0x30 →
      adminOps.contains (arg p 4 1) = true → firstBad (keyFields (arg p 4 1) (arg p 8 16)) = none →
      s.svc.ahead = 0 ∨ s.adminKeys = 0 → Answers (.svcKeycmd ok) s fun t =>
        let r := s.wipeGoOn.keyRun (keycmdReq p ok s.svc.started)
        t = if r.wait = false then r.s.keycmdReply r.typ r.code r.result r.out
          else if r.s.keys.wipePend then { r.s with svc.started := true } else r.s) ∧
    (∀ (p : List Byte) (ok : Bool), s.masterUp .svc = true → s.svc.exec = some p → arg p 0 1 = 0x30 →
      adminOps.contains (arg p 4 1) = true → firstBad (keyFields (arg p 4 1) (arg p 8 16)) = none →
      0 < s.svc.ahead → 0 < s.adminKeys → Answers (.svcKeycmd ok) s fun t => t = s) ∧
    (∀ (p : List Byte), s.masterUp .svc = true → s.svc.exec = some p → arg p 0 1 = 0x40 →
      s.power.bootHeld = true → Answers .svcRelease s fun t =>
        ∃ u : State, t = u.svcReply 0 [] ∧ u.power = { s.power with bootHeld := false } ∧
          u.rb R.SVC_STAT 1 = false) ∧
    (∀ (p : List Byte), s.masterUp .svc = true → s.svc.exec = some p → arg p 0 1 = 0x40 →
      s.power.bootHeld = false → Answers .svcRelease s fun t => t = s.svcReply 3 [])

/-- O55. A read of PMC_CYCLn answers the low word (the host, bytes of it) and latches the high half for its master; of a
gated newt it ends with an error response (R32); a newt without permission gets 0 and UDENY. CLR empties a sampling
buffer; a writer without permission sets BADVAL. A health cause that comes to hold sets its bits and leaves an entry
for the log; one that ends clears its bit and leaves one; one that merely holds again after a reset is only
reported; REPLACEn is low while any cause stands, once all are known. A log program puts the oldest waiting entry
first, thirty kept; a failed one sets LOGERR; with PFAILn low it waits. A self-test of a free newt starts, else it
is skipped and counted. Writing 1 to ALERT, or an Alert Response read, which answers the address, releases
SMBALERTn. REGWR with count 7, aligned, its PEC right, writes as the SMBus; other forms do nothing. REGRD answers
status 0 and the word, 2 when misaligned, 1 outside the blocks, where the read would have to wait, or where it ends
with an error. -/
def Obligations.CountersHealthAndSmbus : Prop :=
  ∀ s : State,
    (∀ (m : Master) (n : Fin 16) (b : Fin 4) (k : Nat), s.reaches m (R.PMC_CYCL n.val + b.val) = true →
      ∀ j, m = .newt j → s.pmcMayRead j.val = true → s.newtGated n.val = false → 1 ≤ k → b.val + k ≤ 4 →
      m = .host ∨ (b.val = 0 ∧ k = 4) → Answers (.readPmcCycl m n b k) s fun t =>
        t.answers = s.answers ++ [(m, laneMask (R.PMC_CYCL n.val + b.val) k (R.PMC_CYCL n.val) ((s.newt
          n.val).cyc.extractLsb' 0 32))] ∧
          tget (fun _ => (0 : Half)) t.cycLatch (latchKey m n.val) = (s.newt n.val).cyc.extractLsb' 32 16) ∧
    (∀ (j n : Fin 16), s.reaches (.newt j) (R.PMC_CYCL n.val) = true → s.pmcMayRead j.val = false →
      Answers (.readPmcCycl (.newt j) n 0 4) s fun t =>
        t.answers = s.answers ++ [(.newt j, 0)] ∧ t.rb R.PMC_STAT 1 = true ∧ t.cycLatch = s.cycLatch) ∧
    (∀ (m : Master) (n : Fin 16) (b : Fin 4) (k : Nat), s.reaches m (R.PMC_CYCL n.val + b.val) = true →
      ∀ j, m = .newt j → s.pmcMayRead j.val = true → s.newtGated n.val = true → 1 ≤ k → b.val + k ≤ 4 →
      m = .host ∨ (b.val = 0 ∧ k = 4) → Answers (.readPmcCycl m n b k) s fun t =>
        t.link.errors = s.link.errors ++ [m] ∧ t.answers = s.answers ∧ t.cycLatch = s.cycLatch) ∧
    (∀ (m : Master) (n : Fin 16) (w : Word), s.reaches m (R.PMC_SCTL n.val) = true → s.pmcMayWrite m = true →
      bit 28 w = true → Answers (.pmcSampleClear m n w) s fun t =>
        (t.newt n.val).samples = [] ∧ (t.newt n.val).heldRecs = 0 ∧ t.rf (R.PMC_SCTL n.val) 26 21 = 0 ∧
          t.rb (R.PMC_SCTL n.val) 27 = false) ∧
    (∀ (m : Master) (n : Fin 16) (w : Word), s.reaches m (R.PMC_SCTL n.val) = true → s.pmcMayWrite m = false →
      Answers (.pmcSampleClear m n w) s fun t => t = s.flag R.PMC_STAT 0) ∧
    (∀ (b : Fin 7), s.d0up = true → s.causeKnown b.val = true →
      (if s.health.known.getLsbD b.val then s.rb R.HLT_CAUSE b.val else s.health.logged.getLsbD b.val) = false →
      (s.causeNow b.val).1 = true → Answers (.healthEvaluate b) s fun t =>
        t.rb R.HLT_CAUSE b.val = true ∧ t.rb R.HLT_EVER b.val = true ∧
          t.health.known = bput b.val true s.health.known ∧
          (∃ e, t.health.toProgram = s.health.toProgram ++ [e] ∧ e.cause = b.val ∧ e.raised = true ∧
          e.time = s.count64 ∧ e.detail = BitVec.ofNat 32 (s.causeNow b.val).2) ∧
          (t.rb R.HLT_STAT 1 = true → t.power.replacen = decide (t.rd R.HLT_CAUSE = 0))) ∧
    (∀ (b : Fin 7), s.d0up = true → s.causeKnown b.val = true →
      (if s.health.known.getLsbD b.val then s.rb R.HLT_CAUSE b.val else s.health.logged.getLsbD b.val) = true →
      (s.causeNow b.val).1 = false → Answers (.healthEvaluate b) s fun t =>
        t.rb R.HLT_CAUSE b.val = false ∧ (∃ e, t.health.toProgram = s.health.toProgram ++ [e] ∧
          e.cause = b.val ∧ e.raised = false) ∧
          (t.rb R.HLT_STAT 1 = true → t.power.replacen = decide (t.rd R.HLT_CAUSE = 0))) ∧
    (∀ (b : Fin 7), s.d0up = true → s.causeKnown b.val = true →
      (if s.health.known.getLsbD b.val then s.rb R.HLT_CAUSE b.val else s.health.logged.getLsbD b.val) =
        (s.causeNow b.val).1 →
      s.health.known.getLsbD b.val = true ∨ (s.causeNow b.val).1 = true → Answers (.healthEvaluate b) s fun t =>
        t.rb R.HLT_CAUSE b.val = (s.causeNow b.val).1 ∧ t.health.toProgram = s.health.toProgram ∧
          t.health.ever = s.health.ever) ∧
    (s.d0up = true → s.health.known = 0x7F → Answers .hltReady s fun t =>
        t.rb R.HLT_STAT 1 = true ∧ t.power.replacen = decide (s.rd R.HLT_CAUSE = 0) ∧
          t.rb R.HLT_STAT 2 = decide (s.rd R.HLT_CAUSE ≠ 0)) ∧
    (s.d0up = false ∨ s.health.known ≠ 0x7F → Answers .hltReady s fun t => t = s) ∧
    (∀ (ok : Bool) (e : HealthEntry) (l : List HealthEntry), s.health.toProgram = e :: l → s.d0up = true →
      s.rb R.STO_STAT 1 = true → s.power.pfailn = true → Answers (.healthLogProgram ok) s fun t =>
        t.health.toProgram = l ∧ (ok = true → t.health.log = (e :: s.health.log).take 30 ∧
          t.health.logged = bput e.cause e.raised s.health.logged) ∧
          (ok = false → t.health.log = s.health.log ∧ t.rb R.HLT_STAT 3 = true)) ∧
    (∀ (ok : Bool), s.health.toProgram = [] ∨ s.power.pfailn = false →
      Answers (.healthLogProgram ok) s fun t => t = s) ∧
    (∀ (p : Bool) (n : Nat), s.dataUp = true → s.roleState 7 ≠ 0 → s.rf R.HLT_CTL 15 8 ≠ 0 →
      s.rb R.HLT_CTL (if p then 2 else 1) = true → s.oldest p = some n → s.basking n = true →
      s.roles.rotating = none → s.roles.move = none → s.bootCheck n true = none →
      Answers (.selftestPeriod p) s fun t =>
        t.roles.test = some n ∧ tget (fun _ => 0) t.roles.tested n = s.roles.testSerial + 1 ∧
          t.rf R.NWT_STAT 5 2 = 0) ∧
    (∀ (p : Bool) (n : Nat), s.dataUp = true → s.roleState 7 ≠ 0 → s.rf R.HLT_CTL 15 8 ≠ 0 →
      s.rb R.HLT_CTL (if p then 2 else 1) = true → s.oldest p = some n →
      s.roles.rotating.isSome = true ∨ s.incoming n = true → Answers (.selftestPeriod p) s fun t =>
        t.rf R.HLT_STAT 15 8 = (s.rf R.HLT_STAT 15 8 + 1) % 256 ∧ t.roles.test = s.roles.test ∧
          tget (fun _ => 0) t.roles.tested n = s.roles.testSerial + 1) ∧
    (∀ (p : Bool), s.roleState 7 = 0 ∨ s.rf R.HLT_CTL 15 8 = 0 ∨ s.rb R.HLT_CTL (if p then 2 else 1) = false →
      Answers (.selftestPeriod p) s fun t => t = s) ∧
    (∀ (n : Fin 16), s.dataUp = true → s.roleState 7 ≠ 0 → s.run n.val = 4 → s.holdsAny n.val = false →
      s.incoming n.val = false → s.roles.rotating = none → s.roles.move = none → s.bootCheck n.val true = none →
      Answers (.faultedNewtTest n) s fun t => t.roles.test = some n.val) ∧
    (∀ (n : Fin 16), s.run n.val ≠ 4 ∨ s.holdsAny n.val = true ∨ s.roleState 7 = 0 →
      Answers (.faultedNewtTest n) s fun t => t = s) ∧
    (∀ (m : Master) (w : Word), s.reaches m R.SMB_STAT = true → bit 1 w = true →
      Answers (.smbAlertClear m w) s fun t => t.power.alertn = true ∧ t.rb R.SMB_STAT 1 = false) ∧
    (s.masterUp .smbus = true → s.rb R.SMB_STAT 1 = true → Answers .alertResponse s fun t =>
        t.answers = s.answers ++ [(.smbus, BitVec.ofNat 32 s.smbAddr)] ∧ t.power.alertn = true ∧
          t.rb R.SMB_STAT 1 = false) ∧
    (s.rb R.SMB_STAT 1 = false → Answers .alertResponse s fun t => t = s) ∧
    (∀ (l : List Byte), l.length = 7 → leNat (l.take 3) % 4 = 0 → Answers (.smbRegwr 7 l none) s fun t =>
        t = s.access .smbus (leNat (l.take 3)) (BitVec.ofNat 32 (leNat (l.drop 3)))) ∧
    (∀ (l : List Byte), l.length = 7 → leNat (l.take 3) % 4 = 0 →
      Answers (.smbRegwr 7 l (some (crc8 ([BitVec.ofNat 8 (2 * s.smbAddr), 1, 7] ++ l)))) s fun t =>
        t = s.access .smbus (leNat (l.take 3)) (BitVec.ofNat 32 (leNat (l.drop 3)))) ∧
    (∀ (c : Byte) (l : List Byte) (x : Option Byte),
      c ≠ 7 ∨ l.length ≠ 7 ∨ leNat (l.take 3) % 4 ≠ 0 ∨ x.any (fun y => y != crc8 ([BitVec.ofNat 8 (2 *
        s.smbAddr), 1, c] ++ l)) = true →
      Answers (.smbRegwr c l x) s fun t => t = s) ∧
    (∀ (l : List Byte) (v : Word), s.masterUp .smbus = true → l.length = 3 → leNat l % 4 = 0 →
      leNat l < 0x150000 → s.readWaits .smbus (leNat l) 4 = false →
      (s.busRead .smbus (leNat l) .clean).1 = some v →
      Answers (.smbRegrd 3 l) s fun t => t = (s.busRead .smbus (leNat l) .clean).2.regrdAnswer 3 l 0 v) ∧
    (∀ (l : List Byte), s.masterUp .smbus = true → l.length = 3 → leNat l % 4 = 0 → leNat l < 0x150000 →
      s.readWaits .smbus (leNat l) 4 = false → (s.busRead .smbus (leNat l) .clean).1 = none →
      Answers (.smbRegrd 3 l) s fun t => t = (s.busRead .smbus (leNat l) .clean).2.regrdAnswer 3 l 1 0) ∧
    (∀ (l : List Byte), s.masterUp .smbus = true → l.length = 3 → leNat l % 4 ≠ 0 →
      Answers (.smbRegrd 3 l) s fun t => t = s.regrdAnswer 3 l 2 0) ∧
    (∀ (l : List Byte), s.masterUp .smbus = true → l.length = 3 → leNat l % 4 = 0 →
      0x150000 ≤ leNat l ∨ s.readWaits .smbus (leNat l) 4 = true →
      Answers (.smbRegrd 3 l) s fun t => t = s.regrdAnswer 3 l 1 0) ∧
    (∀ (c : Byte) (l : List Byte), c ≠ 3 ∨ l.length ≠ 3 → Answers (.smbRegrd c l) s fun t => t = s) ∧
    (Answers .smbBusTimeout s fun t => t = s)

/-- O56. A write of a word to a register, with a reserved encoding in one of its fields, leaves that field with its old
value, and BADVAL is set in the status register of the block: of every write by the field types, and so of every
register that no other rule says more about, whichever master writes it. -/
def Obligations.ReservedEncodingsAreIgnored : Prop :=
  ∀ s : State,
    (∀ (m : Master) (a : Nat) (d : Dword) (r : RegDef) (l : Legal), regDef a = some r → a % 4 = 0 →
      specialRegs.contains a = false → s.reaches m a = true → s.takesWrite m a = true → l ∈ r.legal →
      l.ok (d.setWidth 32) = false → Answers (.registerStore m .bar0 a 4 d) s fun t =>
        t.badvalSet a = true ∧ fld l.hi l.lo (t.rd a) = fld l.hi l.lo (s.rd a)) ∧
    (∀ (a : Nat) (w : Word) (r : RegDef) (l : Legal), regDef a = some r → l ∈ r.legal → l.ok w = false →
      fld l.hi l.lo ((s.writeReg a w).rd a) = fld l.hi l.lo (s.rd a) ∧ (s.writeReg a w).badvalSet a = true)

/-- O57. Where no register is defined, outside the windows of code flash and of the sampling records, a read returns 0
to its master and a write changes nothing; neither ends with an error response. (A write to the blocks of R542 and
R550 is one their writer rules let through; a read of PMC by a newt without permission also sets UDENY, R541.) -/
def Obligations.UndefinedOffsetsReadZeroAndIgnoreWrites : Prop :=
  ∀ s : State,
    (∀ (m : Master) (a : Nat) (d : Dword), s.reaches m a = true → a % 4 = 0 → regDef a = none →
      a < 0x108000 ∨ 0x110000 ≤ a → a / 65536 ≠ 18 → s.takesWrite m a = true →
      Answers (.registerStore m .bar0 a 4 d) s fun t => t = s) ∧
    (∀ (m : Master) (a : Nat) (ecc : Ecc), regDef a = none → a % 4 = 0 → a < 0x108000 ∨ 0x110000 ≤ a →
      a < 0x128000 ∨ 0x12C000 ≤ a →
      (s.busRead m a ecc).1 = some 0 ∧ (a / 65536 ≠ 18 → (s.busRead m a ecc).2 = s) ∧ (s.busRead m a ecc).2.link =
        s.link)

/-- O58. A doorbell with an index of N or more, of a queue that does not exist (or, R104, of a ring 2q that queues 34
and 35 do not have), or a completion head past what the device has written, changes no ring: DBBAD is set, and where
it was 0 a DBBAD event (6) is posted. One that repeats the current index changes nothing at all (save that the admin
doorbell, after a failed entry read, lets the read be repeated, R130). The doorbell's offset and value are read as
R104 says, from a write of it whole or of its lower half. -/
def Obligations.StrayAndRepeatedDoorbells : Prop :=
  ∀ s : State,
    (∀ (off size : Nat) (d : Dword) (q : Fin 37) (v : Nat), doorbellAt off size d = some (16 * q.val, v) →
      s.bar2Up = true → q.val = 34 ∨ q.val = 35 ∨ (s.q q.val).exists' = false ∨ (s.q q.val).sqsize ≤ v % 65536 →
      s.rb R.HRI_STAT 4 = false → Answers (.submissionBell off size (some d)) s fun t =>
        t = (s.flag R.HRI_STAT 4).post 6 1 (2 * q.val) (v % 2 ^ 32)) ∧
    (∀ (off size : Nat) (d : Dword) (q : Fin 37) (v : Nat), doorbellAt off size d = some (16 * q.val, v) →
      q.val = 34 ∨ q.val = 35 ∨ (s.q q.val).exists' = false ∨ (s.q q.val).sqsize ≤ v % 65536 →
      s.rb R.HRI_STAT 4 = true → Answers (.submissionBell off size (some d)) s fun t => t = s) ∧
    (∀ (off size : Nat) (d : Dword) (q : Fin 37) (v : Nat), doorbellAt off size d = some (16 * q.val + 8, v) →
      s.bar2Up = true →
      (s.q q.val).exists' = false ∨ (s.q q.val).cqsize ≤ v % 65536 ∨ (s.q q.val).used < (v % 65536 + (s.q
        q.val).cqsize - (s.q q.val).cqhead) % (s.q q.val).cqsize →
      s.rb R.HRI_STAT 4 = false → Answers (.completionBell off size (some d)) s fun t =>
        t = (s.flag R.HRI_STAT 4).post 6 1 (2 * q.val + 1) (v % 2 ^ 32)) ∧
    (∀ (off size : Nat) (d : Dword) (q : Fin 37) (v : Nat), doorbellAt off size d = some (16 * q.val + 8, v) →
      (s.q q.val).exists' = false ∨ (s.q q.val).cqsize ≤ v % 65536 ∨ (s.q q.val).used < (v % 65536 + (s.q
        q.val).cqsize - (s.q q.val).cqhead) % (s.q q.val).cqsize →
      s.rb R.HRI_STAT 4 = true → Answers (.completionBell off size (some d)) s fun t => t = s) ∧
    (∀ (off size : Nat) (d : Dword) (q : Fin 37) (v : Nat), doorbellAt off size d = some (16 * q.val, v) →
      (s.q q.val).exists' = true → q.val ≠ 34 → q.val ≠ 35 → v % 65536 < (s.q q.val).sqsize →
      v % 65536 = (s.q q.val).sqtail → q.val ≠ 0 ∨ (s.q q.val).stuck = false →
      Answers (.submissionBell off size (some d)) s fun t => t = s) ∧
    (∀ (off size : Nat) (d : Dword) (q : Fin 37) (v : Nat), doorbellAt off size d = some (16 * q.val + 8, v) →
      (s.q q.val).exists' = true → v % 65536 < (s.q q.val).cqsize → v % 65536 = (s.q q.val).cqhead →
      Answers (.completionBell off size (some d)) s fun t => t = s)

/-- O59. A taken branch whose target is no multiple of 16 below 0x1_0000 faults with BADTGT (4) in its own word; one
that is not taken does not fault, whatever its target, and a taken one with a good target does not. A word due past
0xFFF0 faults with BADTGT, NWT_FPCn giving 0xFFF0. -/
def Obligations.BranchTargetsAreChecked : Prop :=
  ∀ s : State,
    (∀ (n : Fin 16) (e k : Nat) (w : BitVec 128) (m : Move') (p : Option Redirect), s.atWord n.val w p →
      wordLegal w = true → movesOf w = [m] → 0x130 ≤ m.dst → m.dst < 0x138 →
      ctlTaken m.dst ((s.newt n.val).port 0x120) ((s.newt n.val).port 0x121) = true →
      (s.moveVal n.val m).toNat % 16 ≠ 0 ∨ 0x10000 ≤ (s.moveVal n.val m).toNat →
      Answers (.newtWordExecute n k ⟨e, none⟩) s fun t =>
        t.faultOf n.val = (4, 4, m.slot, (s.newt n.val).pc) ∧
          (∀ p, p ≠ 0x184 → (t.newt n.val).port p = (s.newt n.val).port p) ∧
          (t.newt n.val).acc = (s.newt n.val).acc ∧ (t.newt n.val).dmem = (s.newt n.val).dmem) ∧
    (∀ (n : Fin 16) (e k : Nat) (w : BitVec 128) (m : Move'), s.atWord n.val w none → wordLegal w = true →
      movesOf w = [m] → 0x130 ≤ m.dst → m.dst < 0x138 →
      ctlTaken m.dst ((s.newt n.val).port 0x120) ((s.newt n.val).port 0x121) = false ∨ ((s.moveVal n.val m).toNat
        % 16 = 0 ∧ (s.moveVal n.val m).toNat < 0x10000) →
      Answers (.newtWordExecute n k ⟨e, none⟩) s fun t =>
        t.run n.val = 0 ∧ (t.newt n.val).pc = (s.newt n.val).pc + 16) ∧
    (∀ (n : Fin 16) (e k : Nat), s.run n.val = 0 → s.d0up = true → s.newtGated n.val = false →
      (s.newt n.val).gath = [] → 0x10000 ≤ (s.newt n.val).pc →
      Answers (.newtWordExecute n k ⟨e, none⟩) s fun t => t.faultOf n.val = (4, 4, 0, 0xFFF0))

/-- O60. From 0x15_0000 on a host read answers 0, a host write of any size changes nothing, so no BADVAL and no error; a
newt's load or store there faults with BUSERR (3); an SMBus REGRD answers REGERR (status 1) and a REGWR does
nothing; REGRD and REGWR of the service port end with REGERR (7), the index of the word. -/
def Obligations.OffsetsOutsideEveryBlock : Prop :=
  ∀ s : State,
    (∀ (a k : Nat), 0x150000 ≤ a → 1 ≤ k → a % 4 + k ≤ 4 → s.masterUp .host = true →
      s.mustWait .host a k = false → s.readAccess .host a k .clean = s.answer .host 0) ∧
    (∀ (a n : Nat) (d : Dword), 0x150000 ≤ a → Answers (.registerStore .host .bar0 a n d) s fun t => t = s) ∧
    (∀ (n : Fin 16) (e k : Nat) (w : BitVec 128) (m : Move') (p : Option Redirect), s.atWord n.val w p →
      wordLegal w = true → movesOf w = [m] → portKind m.dst = .t → 0x110 ≤ m.dst → m.dst < 0x11B →
      0x40150000 ≤ lsuAddr ((s.newt n.val).port 0x100) (s.moveVal n.val m) →
      Answers (.newtWordExecute n k ⟨e, none⟩) s fun t =>
        t.faultOf n.val = (4, 3, m.slot, (s.newt n.val).pc) ∧
          (∀ p, p ≠ 0x184 → (t.newt n.val).port p = (s.newt n.val).port p) ∧
          (t.newt n.val).acc = (s.newt n.val).acc ∧ (t.newt n.val).dmem = (s.newt n.val).dmem) ∧
    (∀ (l : List Byte), s.masterUp .smbus = true → l.length = 3 → leNat l % 4 = 0 → 0x150000 ≤ leNat l →
      Answers (.smbRegrd 3 l) s fun t => t = s.regrdAnswer 3 l 1 0) ∧
    (∀ (l : List Byte) (x : Option Byte), 0x150000 ≤ leNat (l.take 3) →
      Answers (.smbRegwr 7 l x) s fun t => t = s) ∧
    (∀ (p : List Byte), s.masterUp .svc = true → s.svc.exec = some p → arg p 0 1 = 3 → 1 ≤ arg p 8 4 →
      0x150000 ≤ arg p 4 4 → Answers .svcRegrd s fun t => t = s.svcReply 7 [0]) ∧
    (∀ (p : List Byte), s.masterUp .svc = true → s.svc.exec = some p → arg p 0 1 = 4 → 1 ≤ arg p 8 4 →
      0x150000 ≤ arg p 4 4 → Answers .svcRegwr s fun t => t = s.svcReply 7 [0])
end

