-- ==== Sys2Proof/Laws/Bus.lean ====
section
/-! SUPPORT. Which operation a write of a register is, once it has reached its block. -/

namespace Sys2Proof.Machine

variable (s : State) (m : Master) (w : Word)

theorem busWrite_CLK {a : Nat} (h : a / 65536 = 2) : s.busWrite m a w = (if a = R.CLK_CDCLOST then s.cdcWrite w else s) := by
  unfold State.busWrite State.blockWrite
  rw [if_neg (by intro e; rw [e] at h; exact absurd h (by decide))]
  simp only [h]

theorem busWrite_RST {a : Nat} (h : a / 65536 = 3) : s.busWrite m a w = s.rstWrite m a w := by
  unfold State.busWrite State.blockWrite
  rw [if_neg (by intro e; rw [e] at h; exact absurd h (by decide))]
  simp only [h]

theorem busWrite_HRI {a : Nat} (h : a / 65536 = 4) : s.busWrite m a w = s.hriWrite a w := by
  unfold State.busWrite State.blockWrite
  rw [if_neg (by intro e; rw [e] at h; exact absurd h (by decide))]
  simp only [h]

theorem busWrite_STO {a : Nat} (h : a / 65536 = 5) : s.busWrite m a w = (if a = R.STO_CTL then s.stoCtlWrite w else s.writeReg a w) := by
  unfold State.busWrite State.blockWrite
  rw [if_neg (by intro e; rw [e] at h; exact absurd h (by decide))]
  simp only [h]

theorem busWrite_JNL {a : Nat} (h : a / 65536 = 6) : s.busWrite m a w = (if a = R.JNL_CTL then s.jnlCtlWrite w else s.writeReg a w) := by
  unfold State.busWrite State.blockWrite
  rw [if_neg (by intro e; rw [e] at h; exact absurd h (by decide))]
  simp only [h]

theorem busWrite_RFS {a : Nat} (h : a / 65536 = 7) : s.busWrite m a w = s.rfsWrite a w := by
  unfold State.busWrite State.blockWrite
  rw [if_neg (by intro e; rw [e] at h; exact absurd h (by decide))]
  simp only [h]

theorem busWrite_RF2 {a : Nat} (h : a / 65536 = 8) : s.busWrite m a w = (if a = R.RF2_CTL then s.rf2CtlWrite w else s.writeReg a w) := by
  unfold State.busWrite State.blockWrite
  rw [if_neg (by intro e; rw [e] at h; exact absurd h (by decide))]
  simp only [h]

theorem busWrite_MAC {a : Nat} (h : a / 65536 = 9) : s.busWrite m a w = s.macWrite a w := by
  unfold State.busWrite State.blockWrite
  rw [if_neg (by intro e; rw [e] at h; exact absurd h (by decide))]
  simp only [h]

theorem busWrite_NWT {a : Nat} (h : a / 65536 = 12) : s.busWrite m a w = (if a = R.NWT_MOVE then s.nwtMove m w else s.writeReg a w) := by
  unfold State.busWrite State.blockWrite
  rw [if_neg (by intro e; rw [e] at h; exact absurd h (by decide))]
  simp only [h]

theorem busWrite_PIO {a : Nat} (h : a / 65536 = 13) : s.busWrite m a w = s.pioWrite m a w := by
  unfold State.busWrite State.blockWrite
  rw [if_neg (by intro e; rw [e] at h; exact absurd h (by decide))]
  simp only [h]

theorem busWrite_EVM {a : Nat} (h : a / 65536 = 14) : s.busWrite m a w = (if a = R.EVM_SWEV then s.swevWrite w else s.writeReg a w) := by
  unfold State.busWrite State.blockWrite
  rw [if_neg (by intro e; rw [e] at h; exact absurd h (by decide))]
  simp only [h]

theorem busWrite_LEHR {a : Nat} (h : a / 65536 = 15) : s.busWrite m a w = s.lehrWrite m a w := by
  unfold State.busWrite State.blockWrite
  rw [if_neg (by intro e; rw [e] at h; exact absurd h (by decide))]
  simp only [h]

theorem busWrite_CFL {a : Nat} (h : a / 65536 = 16) : s.busWrite m a w = s.cflBlockWrite m a w := by
  unfold State.busWrite State.blockWrite
  rw [if_neg (by intro e; rw [e] at h; exact absurd h (by decide))]
  simp only [h]

theorem busWrite_PMC {a : Nat} (h : a / 65536 = 18) : s.busWrite m a w = s.pmcBlockWrite m a w := by
  unfold State.busWrite State.blockWrite
  rw [if_neg (by intro e; rw [e] at h; exact absurd h (by decide))]
  simp only [h]

theorem busWrite_SMB {a : Nat} (h : a / 65536 = 20) : s.busWrite m a w = (if a = R.SMB_STAT then s.smbStatWrite w else s.writeReg a w) := by
  unfold State.busWrite State.blockWrite
  rw [if_neg (by intro e; rw [e] at h; exact absurd h (by decide))]
  simp only [h]

theorem busWrite_CLK_CDCLOST : s.busWrite m R.CLK_CDCLOST w = s.cdcWrite w := by rw [busWrite_CLK _ _ _ (by decide), if_pos rfl]

theorem busWrite_RST_WDT_KICK : s.busWrite m R.RST_WDT_KICK w = s.kick w := by
  rw [busWrite_RST _ _ _ (by decide)]
  unfold State.rstWrite
  repeat rw [if_neg (by decide)]
  rw [if_pos (by decide)]

theorem busWrite_RST_CTL : s.busWrite m R.RST_CTL w = s.rstCtlWrite m w := by
  rw [busWrite_RST _ _ _ (by decide)]
  unfold State.rstWrite
  repeat rw [if_neg (by decide)]
  rw [if_pos (by decide)]

theorem busWrite_HRI_CTL : s.busWrite m R.HRI_CTL w = s.hriCtlWrite w := by
  rw [busWrite_HRI _ _ _ (by decide)]
  unfold State.hriWrite
  repeat rw [if_neg (by decide)]
  rw [if_pos (by decide)]

theorem busWrite_STO_CTL : s.busWrite m R.STO_CTL w = s.stoCtlWrite w := by rw [busWrite_STO _ _ _ (by decide), if_pos rfl]

theorem busWrite_JNL_CTL : s.busWrite m R.JNL_CTL w = s.jnlCtlWrite w := by rw [busWrite_JNL _ _ _ (by decide), if_pos rfl]

theorem busWrite_RFS_CTL : s.busWrite m R.RFS_CTL w = s.rfsCtlWrite w := by
  rw [busWrite_RFS _ _ _ (by decide)]
  unfold State.rfsWrite
  dsimp only
  repeat rw [if_neg (by decide)]
  rw [if_pos (by decide)]

theorem busWrite_RFS_APPLY : s.busWrite m R.RFS_APPLY w = s.rfsApply w := by
  rw [busWrite_RFS _ _ _ (by decide)]
  unfold State.rfsWrite
  dsimp only
  repeat rw [if_neg (by decide)]
  rw [if_pos (by decide)]

theorem busWrite_RFS_TXCFG : s.busWrite m R.RFS_TXCFG w = s.txcfgWrite w := by
  rw [busWrite_RFS _ _ _ (by decide)]
  unfold State.rfsWrite
  dsimp only
  repeat rw [if_neg (by decide)]
  rw [if_pos (by decide)]

theorem busWrite_RFS_CAL : s.busWrite m R.RFS_CAL w = s.rfsCalWrite w := by
  rw [busWrite_RFS _ _ _ (by decide)]
  unfold State.rfsWrite
  dsimp only
  repeat rw [if_neg (by decide)]
  rw [if_pos (by decide)]

theorem busWrite_RFS_FIR (i : Nat) (h : i < 32) : s.busWrite m (R.RFS_FIR i) w = s.tableWrite (R.RFS_FIR i) w := by
  dsimp only [R.RFS_CTL, R.RFS_APPLY, R.RFS_TXCFG, R.RFS_CAL, R.RFS_WIN, R.RFS_FIR, R.RFS_MASK] at *
  rw [busWrite_RFS _ _ _ (by omega)]
  unfold State.rfsWrite
  dsimp only [R.RFS_CTL, R.RFS_APPLY, R.RFS_TXCFG, R.RFS_CAL, R.RFS_WIN, R.RFS_FIR, R.RFS_MASK]
  repeat rw [if_neg (by omega)]
  rw [if_pos (by omega)]

theorem busWrite_RFS_MASK (i : Nat) (h : i < 16) : s.busWrite m (R.RFS_MASK i) w = s.tableWrite (R.RFS_MASK i) w := by
  dsimp only [R.RFS_CTL, R.RFS_APPLY, R.RFS_TXCFG, R.RFS_CAL, R.RFS_WIN, R.RFS_FIR, R.RFS_MASK] at *
  rw [busWrite_RFS _ _ _ (by omega)]
  unfold State.rfsWrite
  dsimp only [R.RFS_CTL, R.RFS_APPLY, R.RFS_TXCFG, R.RFS_CAL, R.RFS_WIN, R.RFS_FIR, R.RFS_MASK]
  repeat rw [if_neg (by omega)]
  rw [if_pos (by omega)]

theorem busWrite_RF2_CTL : s.busWrite m R.RF2_CTL w = s.rf2CtlWrite w := by rw [busWrite_RF2 _ _ _ (by decide), if_pos rfl]

theorem busWrite_MAC_CTL : s.busWrite m R.MAC_CTL w = s.macCtlWrite w := by
  rw [busWrite_MAC _ _ _ (by decide)]
  unfold State.macWrite
  repeat rw [if_neg (by decide)]
  rw [if_pos (by decide)]

theorem busWrite_NWT_MOVE : s.busWrite m R.NWT_MOVE w = s.nwtMove m w := by rw [busWrite_NWT _ _ _ (by decide), if_pos rfl]

theorem busWrite_PIO_ADCSEQ : s.busWrite m R.PIO_ADCSEQ w = s.adcSeqWrite w := by
  rw [busWrite_PIO _ _ _ (by decide)]
  unfold State.pioWrite
  dsimp only
  repeat rw [if_neg (by decide)]
  rw [if_pos (by decide)]

theorem busWrite_PIO_CMP (i : Nat) (h : i < 4) : s.busWrite m (R.PIO_CMP i) w = s.cmpWrite i w := by
  dsimp only [R.PIO_ADCSEQ, R.PIO_CMP, R.PIO_PWMCFG, R.PIO_GPIOCFG, R.PIO_GPIOOUT] at *
  rw [busWrite_PIO _ _ _ (by omega)]
  unfold State.pioWrite
  dsimp only [R.PIO_ADCSEQ, R.PIO_CMP, R.PIO_PWMCFG, R.PIO_GPIOCFG, R.PIO_GPIOOUT]
  repeat rw [if_neg (by omega)]
  rw [if_pos (by omega)]
  congr 1
  omega

theorem busWrite_PIO_PWMCFG (i : Nat) (h : i < 12) : s.busWrite m (R.PIO_PWMCFG i) w = s.pwmCfgWrite i w := by
  dsimp only [R.PIO_ADCSEQ, R.PIO_CMP, R.PIO_PWMCFG, R.PIO_GPIOCFG, R.PIO_GPIOOUT] at *
  rw [busWrite_PIO _ _ _ (by omega)]
  unfold State.pioWrite
  dsimp only [R.PIO_ADCSEQ, R.PIO_CMP, R.PIO_PWMCFG, R.PIO_GPIOCFG, R.PIO_GPIOOUT]
  repeat rw [if_neg (by omega)]
  rw [if_pos (by omega)]
  congr 1
  omega

theorem busWrite_PIO_GPIOCFG (i : Nat) (h : i < 24) : s.busWrite m (R.PIO_GPIOCFG i) w = s.gpioCfgWrite i w := by
  dsimp only [R.PIO_ADCSEQ, R.PIO_CMP, R.PIO_PWMCFG, R.PIO_GPIOCFG, R.PIO_GPIOOUT] at *
  rw [busWrite_PIO _ _ _ (by omega)]
  unfold State.pioWrite
  dsimp only [R.PIO_ADCSEQ, R.PIO_CMP, R.PIO_PWMCFG, R.PIO_GPIOCFG, R.PIO_GPIOOUT]
  repeat rw [if_neg (by omega)]
  rw [if_pos (by omega)]
  congr 1
  omega

theorem busWrite_PIO_GPIOOUT : s.busWrite m R.PIO_GPIOOUT w = s.gpioOutWrite m w := by
  rw [busWrite_PIO _ _ _ (by decide)]
  unfold State.pioWrite
  dsimp only
  repeat rw [if_neg (by decide)]
  rw [if_pos (by decide)]

theorem busWrite_EVM_SWEV : s.busWrite m R.EVM_SWEV w = s.swevWrite w := by rw [busWrite_EVM _ _ _ (by decide), if_pos rfl]

theorem busWrite_LEHR_CTL : s.busWrite m R.LEHR_CTL w = s.lehrCtlWrite w := by
  rw [busWrite_LEHR _ _ _ (by decide)]
  unfold State.lehrWrite
  repeat rw [if_neg (by decide)]
  rw [if_pos (by decide)]

theorem busWrite_LEHR_CNT0 : s.busWrite m R.LEHR_CNT0 w = s.countStage m w := by
  rw [busWrite_LEHR _ _ _ (by decide)]
  unfold State.lehrWrite
  repeat rw [if_neg (by decide)]
  rw [if_pos (by decide)]

theorem busWrite_LEHR_CNT1 : s.busWrite m R.LEHR_CNT1 w = s.countCommit m w := by
  rw [busWrite_LEHR _ _ _ (by decide)]
  unfold State.lehrWrite
  repeat rw [if_neg (by decide)]
  rw [if_pos (by decide)]

theorem busWrite_LEHR_CAL0 : s.busWrite m R.LEHR_CAL0 w = s.calStage m w := by
  rw [busWrite_LEHR _ _ _ (by decide)]
  unfold State.lehrWrite
  repeat rw [if_neg (by decide)]
  rw [if_pos (by decide)]

theorem busWrite_LEHR_CAL1 : s.busWrite m R.LEHR_CAL1 w = s.calCommit m w := by
  rw [busWrite_LEHR _ _ _ (by decide)]
  unfold State.lehrWrite
  repeat rw [if_neg (by decide)]
  rw [if_pos (by decide)]

theorem busWrite_LEHR_ALM1 : s.busWrite m R.LEHR_ALM1 w = s.alarmCommit w := by
  rw [busWrite_LEHR _ _ _ (by decide)]
  unfold State.lehrWrite
  repeat rw [if_neg (by decide)]
  rw [if_pos (by decide)]

theorem busWrite_LEHR_PER : s.busWrite m R.LEHR_PER w = s.perWrite w := by
  rw [busWrite_LEHR _ _ _ (by decide)]
  unfold State.lehrWrite
  repeat rw [if_neg (by decide)]
  rw [if_pos (by decide)]

theorem busWrite_CFL_UNLOCK : s.busWrite m R.CFL_UNLOCK w = s.cflWrite m 0 w := by
  rw [busWrite_CFL _ _ _ (by decide)]
  unfold State.cflBlockWrite
  repeat rw [if_neg (by decide)]
  rw [if_pos (by decide)]
  rfl

theorem busWrite_CFL_CMD : s.busWrite m R.CFL_CMD w = s.cflWrite m 1 w := by
  rw [busWrite_CFL _ _ _ (by decide)]
  unfold State.cflBlockWrite
  repeat rw [if_neg (by decide)]
  rw [if_pos (by decide)]
  rfl

theorem busWrite_CFL_ADDR : s.busWrite m R.CFL_ADDR w = s.cflWrite m 2 w := by
  rw [busWrite_CFL _ _ _ (by decide)]
  unfold State.cflBlockWrite
  repeat rw [if_neg (by decide)]
  rw [if_pos (by decide)]
  rfl

theorem busWrite_CFL_DATA (i : Nat) (h : i < 4) : s.busWrite m (R.CFL_DATA i) w = s.cflWrite m (3 + i) w := by
  dsimp only [R.CFL_UNLOCK, R.CFL_CMD, R.CFL_ADDR, R.CFL_DATA, R.CFL_CTL, R.CFL_APBASE] at *
  rw [busWrite_CFL _ _ _ (by omega)]
  unfold State.cflBlockWrite
  dsimp only [R.CFL_UNLOCK, R.CFL_CMD, R.CFL_ADDR, R.CFL_DATA, R.CFL_CTL, R.CFL_APBASE]
  rw [if_neg (by omega), if_pos (by omega)]
  congr 1
  omega

theorem busWrite_CFL_CTL : s.busWrite m R.CFL_CTL w = s.cflCtl w := by
  rw [busWrite_CFL _ _ _ (by decide)]
  unfold State.cflBlockWrite
  repeat rw [if_neg (by decide)]
  rw [if_pos (by decide)]

theorem busWrite_PMC_SCTL (i : Nat) (h : i < 16) : s.busWrite m (R.PMC_SCTL i) w = (if s.pmcMayWrite m then s.sctlWrite i w else s.flag R.PMC_STAT 0) := by
  dsimp only [R.PMC_SCTL] at *
  rw [busWrite_PMC _ _ _ (by omega)]
  unfold State.pmcBlockWrite
  dsimp only [R.PMC_SCTL]
  rw [show (0x12100C + 256 * (i % 16) - 0x120000 - 0x1000) / 256 = i by omega]
  cases h' : s.pmcMayWrite m
  · simp
  · simp only [Bool.not_true, Bool.false_eq_true, if_false, if_true]
    rw [if_pos (by omega)]

theorem busWrite_SMB_STAT : s.busWrite m R.SMB_STAT w = s.smbStatWrite w := by rw [busWrite_SMB _ _ _ (by decide), if_pos rfl]

end Sys2Proof.Machine
end

