-- ==== Sys2Proof/Laws/Table.lean ====
section
/-! SUPPORT. What reading and writing a sparse table do, once for every table of the machine. -/

namespace Sys2Proof.Machine

variable {α : Type}

@[simp] theorem tget_nil (d : Nat → α) (k : Nat) : tget d [] k = d k := rfl

theorem tfind_tins_same (k : Nat) (v : α) (t : Tbl α) : tfind k (tins k v t) = some v := by
  induction t with
  | nil => simp [tins, tfind]
  | cons e r ih =>
    obtain ⟨j, w⟩ := e
    unfold tins
    split
    · simp [tfind]
    · split
      · simp [tfind]
      · rename_i h1 h2
        have : j ≠ k := fun h => h2 h.symm
        simp [tfind, this, ih]

theorem tfind_tins_ne {k a : Nat} (v : α) (t : Tbl α) (h : a ≠ k) :
    tfind a (tins k v t) = tfind a t := by
  induction t with
  | nil => simp [tins, tfind, Ne.symm h]
  | cons e r ih =>
    obtain ⟨j, w⟩ := e
    unfold tins
    split
    · simp [tfind, Ne.symm h]
    · split
      · rename_i h1 h2
        subst h2
        simp [tfind, Ne.symm h]
      · simp [tfind, ih]

theorem tfind_tdel_same (k : Nat) (t : Tbl α) : tfind k (tdel k t) = none := by
  induction t with
  | nil => rfl
  | cons e r ih =>
    obtain ⟨j, w⟩ := e
    by_cases h : j = k
    · simpa [tdel, h] using ih
    · have : tdel k ((j, w) :: r) = (j, w) :: tdel k r := by simp [tdel, h]
      simp [this, tfind, h, ih]

theorem tfind_tdel_ne {k a : Nat} (t : Tbl α) (h : a ≠ k) : tfind a (tdel k t) = tfind a t := by
  induction t with
  | nil => rfl
  | cons e r ih =>
    obtain ⟨j, w⟩ := e
    by_cases hj : j = k
    · subst hj
      have : tdel j ((j, w) :: r) = tdel j r := by simp [tdel]
      rw [this, ih]
      simp [tfind, Ne.symm h]
    · have : tdel k ((j, w) :: r) = (j, w) :: tdel k r := by simp [tdel, hj]
      simp [this, tfind, ih]

/-- A read of the key written gives the value written. -/
@[simp] theorem tget_tset_same [DecidableEq α] (d : Nat → α) (t : Tbl α) (k : Nat) (v : α) :
    tget d (tset d t k v) k = v := by
  unfold tget tset
  split
  · rename_i h
    simp [tfind_tdel_same, h]
  · simp [tfind_tins_same]

/-- A write leaves every other key as it was. -/
theorem tget_tset_ne [DecidableEq α] (d : Nat → α) (t : Tbl α) {k a : Nat} (v : α) (h : a ≠ k) :
    tget d (tset d t k v) a = tget d t a := by
  unfold tget tset
  split
  · rw [tfind_tdel_ne t h]
  · rw [tfind_tins_ne v t h]

/-- A read after a write, both cases at once. -/
theorem tget_tset [DecidableEq α] (d : Nat → α) (t : Tbl α) (k a : Nat) (v : α) :
    tget d (tset d t k v) a = if a = k then v else tget d t a := by
  by_cases h : a = k
  · subst h; simp
  · simp [h, tget_tset_ne d t v h]

theorem tfind_tclear (p : Nat → Bool) (t : Tbl α) (a : Nat) :
    tfind a (tclear p t) = if p a then none else tfind a t := by
  induction t with
  | nil => simp [tclear, tfind]
  | cons e r ih =>
    obtain ⟨j, w⟩ := e
    have hc : tclear p ((j, w) :: r) = if p j then tclear p r else (j, w) :: tclear p r := by
      cases hj : p j <;> simp [tclear, hj]
    rw [hc]
    by_cases hja : j = a
    · subst hja
      cases hp : p j <;> simp [tfind]
      · simpa [hp] using ih
    · cases hp : p j <;> simp [tfind, hja, ih]

/-- A cleared key reads as an unlisted one; the others read as before. -/
theorem tget_tclear (d : Nat → α) (p : Nat → Bool) (t : Tbl α) (a : Nat) :
    tget d (tclear p t) a = if p a then d a else tget d t a := by
  unfold tget
  rw [tfind_tclear]
  split <;> rfl

/-- Every key of a table is above k. -/
def tabove (k : Nat) (t : Tbl α) : Prop := ∀ e ∈ t, k < e.1

theorem tsorted_cons (j : Nat) (w : α) (r : Tbl α) :
    tsorted ((j, w) :: r) = true ↔ tabove j r ∧ tsorted r = true := by
  induction r generalizing j w with
  | nil => simp [tsorted, tabove]
  | cons e r ih =>
    obtain ⟨k, v⟩ := e
    simp only [tsorted, Bool.and_eq_true, decide_eq_true_eq, tabove, List.mem_cons, forall_eq_or_imp]
    refine ⟨fun ⟨h1, h2⟩ => ⟨⟨h1, fun e he => ?_⟩, h2⟩, fun ⟨⟨h1, _⟩, h2⟩ => ⟨h1, h2⟩⟩
    exact Nat.lt_trans h1 (((ih k v).1 h2).1 e he)

theorem tsorted_tins (k : Nat) (v : α) (t : Tbl α) (h : tsorted t = true) : tsorted (tins k v t) = true := by
  suffices ∀ t : Tbl α, tsorted t = true → tsorted (tins k v t) = true ∧
      ∀ j, tabove j t → j < k → tabove j (tins k v t) from (this t h).1
  intro t
  induction t with
  | nil => intro _; exact ⟨rfl, fun j _ hj => by simpa [tins, tabove] using hj⟩
  | cons e r ih =>
    obtain ⟨j, w⟩ := e
    intro hs
    obtain ⟨ha, hr⟩ := (tsorted_cons j w r).1 hs
    unfold tins
    split
    · rename_i hk
      refine ⟨(tsorted_cons ..).2 ⟨?_, hs⟩, ?_⟩
      · intro e he
        rcases List.mem_cons.1 he with rfl | he
        · exact hk
        · exact Nat.lt_trans hk (ha e he)
      · intro i hi hik e he
        rcases List.mem_cons.1 he with rfl | he
        · exact hik
        · exact hi e he
    · split
      · rename_i hk; subst hk
        refine ⟨(tsorted_cons ..).2 ⟨ha, hr⟩, ?_⟩
        intro i hi hik e he
        rcases List.mem_cons.1 he with rfl | he
        · exact hik
        · exact hi e (List.mem_cons_of_mem _ he)
      · rename_i h1 h2
        obtain ⟨q1, q2⟩ := ih hr
        refine ⟨(tsorted_cons ..).2 ⟨q2 j ha (by omega), q1⟩, ?_⟩
        intro i hi hik e he
        rcases List.mem_cons.1 he with rfl | he
        · exact hi _ (List.mem_cons_self ..)
        · exact q2 i (fun e he => hi e (List.mem_cons_of_mem _ he)) hik e he

theorem tsorted_filter (p : Nat × α → Bool) (t : Tbl α) (h : tsorted t = true) : tsorted (t.filter p) = true := by
  induction t with
  | nil => rfl
  | cons e r ih =>
    obtain ⟨j, w⟩ := e
    obtain ⟨ha, hr⟩ := (tsorted_cons j w r).1 h
    cases hp : p (j, w)
    · simpa [hp] using ih hr
    · simp only [List.filter_cons, hp, if_true]
      exact (tsorted_cons ..).2 ⟨fun e he => ha e (List.mem_filter.1 he).1, ih hr⟩

theorem mem_tins {k : Nat} {v : α} {t : Tbl α} {e : Nat × α} (h : e ∈ tins k v t) : e = (k, v) ∨ e ∈ t := by
  induction t with
  | nil => simpa [tins] using h
  | cons f r ih =>
    obtain ⟨j, w⟩ := f
    unfold tins at h
    split at h
    · rcases List.mem_cons.1 h with h | h <;> simp [h]
    · split at h
      · rcases List.mem_cons.1 h with h | h <;> simp [h]
      · rcases List.mem_cons.1 h with h | h
        · simp [h]
        · rcases ih h with h | h <;> simp [h]

/-- A write keeps the canonical form. -/
theorem twf_tset [DecidableEq α] (d : Nat → α) (t : Tbl α) (k : Nat) (v : α) (h : twf d t = true) :
    twf d (tset d t k v) = true := by
  simp only [twf, Bool.and_eq_true, List.all_eq_true, decide_eq_true_eq] at *
  unfold tset
  split
  · exact ⟨tsorted_filter _ _ h.1, fun e he => h.2 e (List.mem_filter.1 he).1⟩
  · rename_i hv
    refine ⟨tsorted_tins k v t h.1, fun e he => ?_⟩
    rcases mem_tins he with rfl | he
    · exact hv
    · exact h.2 e he

/-- So does clearing a set of keys. -/
theorem twf_tclear [DecidableEq α] (d : Nat → α) (p : Nat → Bool) (t : Tbl α) (h : twf d t = true) :
    twf d (tclear p t) = true := by
  simp only [twf, Bool.and_eq_true, List.all_eq_true, decide_eq_true_eq] at *
  exact ⟨tsorted_filter _ _ h.1, fun e he => h.2 e (List.mem_filter.1 he).1⟩

end Sys2Proof.Machine
end

