-- ==== Sys2Proof/Laws/Keeps.lean ====
section
/-! SUPPORT. What every operation keeps: the queue of commands, the canonical form of the tables, one-way fuses, and
each component of the state that it does not touch. One relation says all of it, so that one lemma for each operation
suffices. -/

namespace Sys2Proof.Machine

/-- Fuses and the states of the life cycle only ever advance. -/
structure FuseLe (s t : State) : Prop where
  steps : s.keys.steps ≤ t.keys.steps
  scrapped : s.keys.scrapped = true → t.keys.scrapped = true
  enrolled : ∀ i, s.keys.enrolled.getLsbD i = true → t.keys.enrolled.getLsbD i = true
  revoked : ∀ i, s.keys.revoked.getLsbD i = true → t.keys.revoked.getLsbD i = true
  chgLock : s.keys.chgLock = true → t.keys.chgLock = true

theorem FuseLe.of_eq {s t : State} (h : t.keys.steps = s.keys.steps) (h1 : t.keys.scrapped = s.keys.scrapped)
    (h2 : t.keys.enrolled = s.keys.enrolled) (h3 : t.keys.revoked = s.keys.revoked)
    (h4 : t.keys.chgLock = s.keys.chgLock) : FuseLe s t :=
  ⟨Nat.le_of_eq h.symm, by rw [h1]; exact id, by rw [h2]; exact fun _ => id, by rw [h3]; exact fun _ => id, by rw [h4]; exact id⟩

theorem FuseLe.refl (s : State) : FuseLe s s := .of_eq rfl rfl rfl rfl rfl

theorem FuseLe.trans {s t u : State} (a : FuseLe s t) (b : FuseLe t u) : FuseLe s u :=
  ⟨Nat.le_trans a.steps b.steps, fun h => b.scrapped (a.scrapped h), fun i h => b.enrolled i (a.enrolled i h),
    fun i h => b.revoked i (a.revoked i h), fun h => b.chgLock (a.chgLock h)⟩

/-- The registers by number: 158 is any register with a BADVAL bit, 159 any register at all. -/
def regAt : Nat → Nat → Prop
  | 0, a => a = R.GLB_CAP0
  | 1, a => a = R.GLB_CAP1
  | 2, a => a = R.GLB_STAT
  | 3, a => a = R.PWR_CTL
  | 4, a => a = R.PWR_STAT
  | 5, a => a = R.PWR_TMR
  | 6, a => a = R.PWR_RETSEL
  | 7, a => a = R.PWR_WAKEEN
  | 8, a => a = R.PWR_WAKEST
  | 9, a => a = R.PWR_VETOD
  | 10, a => a = R.PWR_VETOH0
  | 11, a => a = R.PWR_VETOH1
  | 12, a => a = R.CLK_CDCLOST
  | 13, a => a = R.RST_CAUSE
  | 14, a => a = R.RST_CTL
  | 15, a => a = R.RST_STAT
  | 16, a => a = R.RST_WDT_CTL
  | 17, a => a = R.RST_WDT_KICK
  | 18, a => a = R.RST_STRAP
  | 19, a => a = R.HRI_CTL
  | 20, a => a = R.HRI_STAT
  | 21, a => a = R.HRI_QCTL
  | 22, a => a = R.HRI_QCTH
  | 23, a => a = R.HRI_INFL
  | 24, a => a = R.HRI_QEX0
  | 25, a => a = R.HRI_QEX1
  | 26, a => a = R.HRI_QFRZ0
  | 27, a => a = R.HRI_QFRZ1
  | 28, a => a = R.STO_STAT
  | 29, a => a = R.STO_CTL
  | 30, a => a = R.STO_RGCTL
  | 31, a => a = R.STO_RGTOTAL
  | 32, a => a = R.STO_RGLEFT
  | 33, a => a = R.STO_HEALTH
  | 34, a => a = R.JNL_CTL
  | 35, a => a = R.JNL_STAT
  | 36, a => a = R.JNL_CSEQ
  | 37, a => a = R.JNL_CLSEQ
  | 38, a => a = R.JNL_OLDEST
  | 39, a => a = R.JNL_PINS
  | 40, a => a = R.JNL_LOST
  | 41, a => a = R.RFS_CTL
  | 42, a => a = R.RFS_STAT
  | 43, a => a = R.RFS_WIN
  | 44, a => a = R.RFS_APPLY
  | 45, a => a = R.RFS_TXCFG
  | 46, a => a = R.RFS_TXCRC
  | 47, a => a = R.RFS_CAL
  | 48, a => a = R.RFS_CALSTAT
  | 49, a => a = R.RFS_PCLAMP
  | 50, a => ∃ n : Nat, a = R.RFS_TYMCFG n
  | 51, a => ∃ n : Nat, a = R.RFS_TYMDET n
  | 52, a => ∃ n : Nat, a = R.RFS_TYMCNT n
  | 53, a => ∃ n : Nat, a = R.RFS_FIR n
  | 54, a => ∃ n : Nat, a = R.RFS_MASK n
  | 55, a => a = R.RF2_CTL
  | 56, a => a = R.RF2_STAT
  | 57, a => a = R.MAC_CTL
  | 58, a => a = R.MAC_STAT
  | 59, a => a = R.MAC_SCHED
  | 60, a => a = R.MAC_GUARD
  | 61, a => a = R.MAC_LBT
  | 62, a => a = R.MAC_PARENT
  | 63, a => ∃ n : Nat, a = R.MAC_CNT n
  | 64, a => a = R.CIP_STAT
  | 65, a => a = R.CIP_CNT
  | 66, a => a = R.KEY_LCS
  | 67, a => a = R.KEY_CTL
  | 68, a => a = R.KEY_STAT
  | 69, a => ∃ n : Nat, a = R.NWT_ROLE n
  | 70, a => a = R.NWT_MOVE
  | 71, a => a = R.NWT_STAT
  | 72, a => a = R.NWT_CTL
  | 73, a => a = R.NWT_BASK
  | 74, a => ∃ n : Nat, a = R.NWT_CST n
  | 75, a => ∃ n : Nat, a = R.NWT_FPC n
  | 76, a => a = R.PIO_STAT
  | 77, a => a = R.PIO_CTL
  | 78, a => a = R.PIO_ADCSEQ
  | 79, a => a = R.PIO_ADCLIST0
  | 80, a => a = R.PIO_ADCLIST1
  | 81, a => ∃ n : Nat, a = R.PIO_ADCRES n
  | 82, a => ∃ n : Nat, a = R.PIO_CMP n
  | 83, a => ∃ n : Nat, a = R.PIO_FMASKP n
  | 84, a => ∃ n : Nat, a = R.PIO_FMASKG n
  | 85, a => a = R.PIO_CMPBAK
  | 86, a => ∃ n : Nat, a = R.PIO_PWMCFG n
  | 87, a => ∃ n : Nat, a = R.PIO_PWMDUTY n
  | 88, a => ∃ n : Nat, a = R.PIO_OUT n
  | 89, a => ∃ n : Nat, a = R.PIO_GPIOCFG n
  | 90, a => a = R.PIO_GPIOOUT
  | 91, a => a = R.PIO_GPIOIN
  | 92, a => ∃ n : Nat, a = R.PIO_ENCCFG n
  | 93, a => ∃ n : Nat, a = R.PIO_ENCPOS n
  | 94, a => ∃ n : Nat, a = R.PIO_ENCCAP n
  | 95, a => ∃ n : Nat, a = R.PIO_ENCPER n
  | 96, a => ∃ n : Nat, a = R.PIO_SP n
  | 97, a => a = R.PIO_SPNEW
  | 98, a => a = R.EVM_STAT
  | 99, a => a = R.EVM_SWEV
  | 100, a => ∃ n : Nat, a = R.EVM_TS n
  | 101, a => ∃ n : Nat, a = R.EVM_MERGED n
  | 102, a => ∃ c x : Nat, a = R.EVM_PMASK c x
  | 103, a => ∃ c x : Nat, a = R.EVM_CMASK c x
  | 104, a => ∃ n : Nat, a = R.EVM_CCTL n
  | 105, a => a = R.LEHR_STAT
  | 106, a => a = R.LEHR_CTL
  | 107, a => a = R.LEHR_CNT0
  | 108, a => a = R.LEHR_CNT1
  | 109, a => a = R.LEHR_CAL0
  | 110, a => a = R.LEHR_CAL1
  | 111, a => a = R.LEHR_OFS
  | 112, a => a = R.LEHR_ALM0
  | 113, a => a = R.LEHR_ALM1
  | 114, a => a = R.LEHR_PER
  | 115, a => a = R.LEHR_TRIM
  | 116, a => a = R.LEHR_CHG
  | 117, a => ∃ n : Nat, a = R.LEHR_RET n
  | 118, a => a = R.CFL_STAT
  | 119, a => a = R.CFL_CTL
  | 120, a => a = R.CFL_UNLOCK
  | 121, a => a = R.CFL_CMD
  | 122, a => a = R.CFL_ADDR
  | 123, a => ∃ n : Nat, a = R.CFL_DATA n
  | 124, a => a = R.CFL_APBASE
  | 125, a => a = R.CFL_WP
  | 126, a => a = R.CFL_SECSEL
  | 127, a => a = R.CFL_SECSTAT
  | 128, a => a = R.CFL_ECC
  | 129, a => a = R.CFL_WEAR
  | 130, a => a = R.CFL_LAYOUT
  | 131, a => ∃ n : Nat, a = R.CFL_SMAP n
  | 132, a => a = R.SVC_STAT
  | 133, a => a = R.SVC_CTL
  | 134, a => a = R.SVC_CNT
  | 135, a => a = R.PMC_CTL0
  | 136, a => a = R.PMC_CTL1
  | 137, a => a = R.PMC_STAT
  | 138, a => ∃ n : Nat, a = R.PMC_CYCL n
  | 139, a => ∃ n : Nat, a = R.PMC_CYCH n
  | 140, a => ∃ n : Nat, a = R.PMC_OVF n
  | 141, a => ∃ n : Nat, a = R.PMC_SCTL n
  | 142, a => ∃ n k : Nat, a = R.PMC_SEL n k
  | 143, a => ∃ n k : Nat, a = R.PMC_CNT n k
  | 144, a => ∃ n : Nat, a = R.PMC_SBUF n
  | 145, a => a = R.HLT_STAT
  | 146, a => a = R.HLT_CAUSE
  | 147, a => a = R.HLT_EVER
  | 148, a => a = R.HLT_THR
  | 149, a => a = R.HLT_CTL
  | 150, a => a = R.HLT_CNT
  | 151, a => a = R.SMB_STAT
  | 158, a => ∃ b i, badvalOf b = some (a, i)
  | 159, _ => True
  | _, _ => False

/-- A register that a mask names. -/
def Wr (m : BitVec 160) (a : Nat) : Prop := ∃ i, m.getLsbD i = true ∧ regAt i a

theorem Wr.any {m : BitVec 160} {a : Nat} (h : m.getLsbD 159 = true) : Wr m a := ⟨159, h, trivial⟩
theorem Wr.bad {m : BitVec 160} {a b i : Nat} (h : m.getLsbD 158 = true) (e : badvalOf b = some (a, i)) : Wr m a :=
  ⟨158, h, b, i, e⟩
theorem Wr.GLB_STAT {m : BitVec 160} (h : m.getLsbD 2 = true) : Wr m R.GLB_STAT :=
  ⟨2, h, rfl⟩
theorem Wr.PWR_CTL {m : BitVec 160} (h : m.getLsbD 3 = true) : Wr m R.PWR_CTL :=
  ⟨3, h, rfl⟩
theorem Wr.PWR_STAT {m : BitVec 160} (h : m.getLsbD 4 = true) : Wr m R.PWR_STAT :=
  ⟨4, h, rfl⟩
theorem Wr.PWR_WAKEST {m : BitVec 160} (h : m.getLsbD 8 = true) : Wr m R.PWR_WAKEST :=
  ⟨8, h, rfl⟩
theorem Wr.PWR_VETOD {m : BitVec 160} (h : m.getLsbD 9 = true) : Wr m R.PWR_VETOD :=
  ⟨9, h, rfl⟩
theorem Wr.CLK_CDCLOST {m : BitVec 160} (h : m.getLsbD 12 = true) : Wr m R.CLK_CDCLOST :=
  ⟨12, h, rfl⟩
theorem Wr.RST_CAUSE {m : BitVec 160} (h : m.getLsbD 13 = true) : Wr m R.RST_CAUSE :=
  ⟨13, h, rfl⟩
theorem Wr.RST_CTL {m : BitVec 160} (h : m.getLsbD 14 = true) : Wr m R.RST_CTL :=
  ⟨14, h, rfl⟩
theorem Wr.RST_STAT {m : BitVec 160} (h : m.getLsbD 15 = true) : Wr m R.RST_STAT :=
  ⟨15, h, rfl⟩
theorem Wr.RST_STRAP {m : BitVec 160} (h : m.getLsbD 18 = true) : Wr m R.RST_STRAP :=
  ⟨18, h, rfl⟩
theorem Wr.HRI_CTL {m : BitVec 160} (h : m.getLsbD 19 = true) : Wr m R.HRI_CTL :=
  ⟨19, h, rfl⟩
theorem Wr.HRI_STAT {m : BitVec 160} (h : m.getLsbD 20 = true) : Wr m R.HRI_STAT :=
  ⟨20, h, rfl⟩
theorem Wr.STO_STAT {m : BitVec 160} (h : m.getLsbD 28 = true) : Wr m R.STO_STAT :=
  ⟨28, h, rfl⟩
theorem Wr.STO_CTL {m : BitVec 160} (h : m.getLsbD 29 = true) : Wr m R.STO_CTL :=
  ⟨29, h, rfl⟩
theorem Wr.STO_RGTOTAL {m : BitVec 160} (h : m.getLsbD 31 = true) : Wr m R.STO_RGTOTAL :=
  ⟨31, h, rfl⟩
theorem Wr.STO_RGLEFT {m : BitVec 160} (h : m.getLsbD 32 = true) : Wr m R.STO_RGLEFT :=
  ⟨32, h, rfl⟩
theorem Wr.STO_HEALTH {m : BitVec 160} (h : m.getLsbD 33 = true) : Wr m R.STO_HEALTH :=
  ⟨33, h, rfl⟩
theorem Wr.JNL_CTL {m : BitVec 160} (h : m.getLsbD 34 = true) : Wr m R.JNL_CTL :=
  ⟨34, h, rfl⟩
theorem Wr.JNL_STAT {m : BitVec 160} (h : m.getLsbD 35 = true) : Wr m R.JNL_STAT :=
  ⟨35, h, rfl⟩
theorem Wr.JNL_CSEQ {m : BitVec 160} (h : m.getLsbD 36 = true) : Wr m R.JNL_CSEQ :=
  ⟨36, h, rfl⟩
theorem Wr.JNL_CLSEQ {m : BitVec 160} (h : m.getLsbD 37 = true) : Wr m R.JNL_CLSEQ :=
  ⟨37, h, rfl⟩
theorem Wr.JNL_OLDEST {m : BitVec 160} (h : m.getLsbD 38 = true) : Wr m R.JNL_OLDEST :=
  ⟨38, h, rfl⟩
theorem Wr.JNL_PINS {m : BitVec 160} (h : m.getLsbD 39 = true) : Wr m R.JNL_PINS :=
  ⟨39, h, rfl⟩
theorem Wr.JNL_LOST {m : BitVec 160} (h : m.getLsbD 40 = true) : Wr m R.JNL_LOST :=
  ⟨40, h, rfl⟩
theorem Wr.RFS_CTL {m : BitVec 160} (h : m.getLsbD 41 = true) : Wr m R.RFS_CTL :=
  ⟨41, h, rfl⟩
theorem Wr.RFS_STAT {m : BitVec 160} (h : m.getLsbD 42 = true) : Wr m R.RFS_STAT :=
  ⟨42, h, rfl⟩
theorem Wr.RFS_WIN {m : BitVec 160} (h : m.getLsbD 43 = true) : Wr m R.RFS_WIN :=
  ⟨43, h, rfl⟩
theorem Wr.RFS_TXCFG {m : BitVec 160} (h : m.getLsbD 45 = true) : Wr m R.RFS_TXCFG :=
  ⟨45, h, rfl⟩
theorem Wr.RFS_CAL {m : BitVec 160} (h : m.getLsbD 47 = true) : Wr m R.RFS_CAL :=
  ⟨47, h, rfl⟩
theorem Wr.RFS_CALSTAT {m : BitVec 160} (h : m.getLsbD 48 = true) : Wr m R.RFS_CALSTAT :=
  ⟨48, h, rfl⟩
theorem Wr.RFS_PCLAMP {m : BitVec 160} (h : m.getLsbD 49 = true) : Wr m R.RFS_PCLAMP :=
  ⟨49, h, rfl⟩
theorem Wr.RFS_TYMCFG {m : BitVec 160} {n : Nat} (h : m.getLsbD 50 = true) : Wr m (R.RFS_TYMCFG n) :=
  ⟨50, h, n, rfl⟩
theorem Wr.RFS_TYMCNT {m : BitVec 160} {n : Nat} (h : m.getLsbD 52 = true) : Wr m (R.RFS_TYMCNT n) :=
  ⟨52, h, n, rfl⟩
theorem Wr.RFS_FIR {m : BitVec 160} {n : Nat} (h : m.getLsbD 53 = true) : Wr m (R.RFS_FIR n) :=
  ⟨53, h, n, rfl⟩
theorem Wr.RFS_MASK {m : BitVec 160} {n : Nat} (h : m.getLsbD 54 = true) : Wr m (R.RFS_MASK n) :=
  ⟨54, h, n, rfl⟩
theorem Wr.RF2_CTL {m : BitVec 160} (h : m.getLsbD 55 = true) : Wr m R.RF2_CTL :=
  ⟨55, h, rfl⟩
theorem Wr.RF2_STAT {m : BitVec 160} (h : m.getLsbD 56 = true) : Wr m R.RF2_STAT :=
  ⟨56, h, rfl⟩
theorem Wr.MAC_CTL {m : BitVec 160} (h : m.getLsbD 57 = true) : Wr m R.MAC_CTL :=
  ⟨57, h, rfl⟩
theorem Wr.MAC_STAT {m : BitVec 160} (h : m.getLsbD 58 = true) : Wr m R.MAC_STAT :=
  ⟨58, h, rfl⟩
theorem Wr.MAC_SCHED {m : BitVec 160} (h : m.getLsbD 59 = true) : Wr m R.MAC_SCHED :=
  ⟨59, h, rfl⟩
theorem Wr.MAC_LBT {m : BitVec 160} (h : m.getLsbD 61 = true) : Wr m R.MAC_LBT :=
  ⟨61, h, rfl⟩
theorem Wr.MAC_CNT {m : BitVec 160} {n : Nat} (h : m.getLsbD 63 = true) : Wr m (R.MAC_CNT n) :=
  ⟨63, h, n, rfl⟩
theorem Wr.CIP_STAT {m : BitVec 160} (h : m.getLsbD 64 = true) : Wr m R.CIP_STAT :=
  ⟨64, h, rfl⟩
theorem Wr.CIP_CNT {m : BitVec 160} (h : m.getLsbD 65 = true) : Wr m R.CIP_CNT :=
  ⟨65, h, rfl⟩
theorem Wr.KEY_LCS {m : BitVec 160} (h : m.getLsbD 66 = true) : Wr m R.KEY_LCS :=
  ⟨66, h, rfl⟩
theorem Wr.KEY_STAT {m : BitVec 160} (h : m.getLsbD 68 = true) : Wr m R.KEY_STAT :=
  ⟨68, h, rfl⟩
theorem Wr.NWT_ROLE {m : BitVec 160} {n : Nat} (h : m.getLsbD 69 = true) : Wr m (R.NWT_ROLE n) :=
  ⟨69, h, n, rfl⟩
theorem Wr.NWT_STAT {m : BitVec 160} (h : m.getLsbD 71 = true) : Wr m R.NWT_STAT :=
  ⟨71, h, rfl⟩
theorem Wr.NWT_BASK {m : BitVec 160} (h : m.getLsbD 73 = true) : Wr m R.NWT_BASK :=
  ⟨73, h, rfl⟩
theorem Wr.NWT_CST {m : BitVec 160} {n : Nat} (h : m.getLsbD 74 = true) : Wr m (R.NWT_CST n) :=
  ⟨74, h, n, rfl⟩
theorem Wr.NWT_FPC {m : BitVec 160} {n : Nat} (h : m.getLsbD 75 = true) : Wr m (R.NWT_FPC n) :=
  ⟨75, h, n, rfl⟩
theorem Wr.PIO_STAT {m : BitVec 160} (h : m.getLsbD 76 = true) : Wr m R.PIO_STAT :=
  ⟨76, h, rfl⟩
theorem Wr.PIO_ADCSEQ {m : BitVec 160} (h : m.getLsbD 78 = true) : Wr m R.PIO_ADCSEQ :=
  ⟨78, h, rfl⟩
theorem Wr.PIO_ADCRES {m : BitVec 160} {n : Nat} (h : m.getLsbD 81 = true) : Wr m (R.PIO_ADCRES n) :=
  ⟨81, h, n, rfl⟩
theorem Wr.PIO_CMP {m : BitVec 160} {n : Nat} (h : m.getLsbD 82 = true) : Wr m (R.PIO_CMP n) :=
  ⟨82, h, n, rfl⟩
theorem Wr.PIO_CMPBAK {m : BitVec 160} (h : m.getLsbD 85 = true) : Wr m R.PIO_CMPBAK :=
  ⟨85, h, rfl⟩
theorem Wr.PIO_PWMCFG {m : BitVec 160} {n : Nat} (h : m.getLsbD 86 = true) : Wr m (R.PIO_PWMCFG n) :=
  ⟨86, h, n, rfl⟩
theorem Wr.PIO_PWMDUTY {m : BitVec 160} {n : Nat} (h : m.getLsbD 87 = true) : Wr m (R.PIO_PWMDUTY n) :=
  ⟨87, h, n, rfl⟩
theorem Wr.PIO_OUT {m : BitVec 160} {n : Nat} (h : m.getLsbD 88 = true) : Wr m (R.PIO_OUT n) :=
  ⟨88, h, n, rfl⟩
theorem Wr.PIO_GPIOCFG {m : BitVec 160} {n : Nat} (h : m.getLsbD 89 = true) : Wr m (R.PIO_GPIOCFG n) :=
  ⟨89, h, n, rfl⟩
theorem Wr.PIO_GPIOOUT {m : BitVec 160} (h : m.getLsbD 90 = true) : Wr m R.PIO_GPIOOUT :=
  ⟨90, h, rfl⟩
theorem Wr.PIO_ENCPOS {m : BitVec 160} {n : Nat} (h : m.getLsbD 93 = true) : Wr m (R.PIO_ENCPOS n) :=
  ⟨93, h, n, rfl⟩
theorem Wr.PIO_ENCCAP {m : BitVec 160} {n : Nat} (h : m.getLsbD 94 = true) : Wr m (R.PIO_ENCCAP n) :=
  ⟨94, h, n, rfl⟩
theorem Wr.PIO_ENCPER {m : BitVec 160} {n : Nat} (h : m.getLsbD 95 = true) : Wr m (R.PIO_ENCPER n) :=
  ⟨95, h, n, rfl⟩
theorem Wr.PIO_SP {m : BitVec 160} {n : Nat} (h : m.getLsbD 96 = true) : Wr m (R.PIO_SP n) :=
  ⟨96, h, n, rfl⟩
theorem Wr.PIO_SPNEW {m : BitVec 160} (h : m.getLsbD 97 = true) : Wr m R.PIO_SPNEW :=
  ⟨97, h, rfl⟩
theorem Wr.EVM_STAT {m : BitVec 160} (h : m.getLsbD 98 = true) : Wr m R.EVM_STAT :=
  ⟨98, h, rfl⟩
theorem Wr.EVM_TS {m : BitVec 160} {n : Nat} (h : m.getLsbD 100 = true) : Wr m (R.EVM_TS n) :=
  ⟨100, h, n, rfl⟩
theorem Wr.EVM_MERGED {m : BitVec 160} {n : Nat} (h : m.getLsbD 101 = true) : Wr m (R.EVM_MERGED n) :=
  ⟨101, h, n, rfl⟩
theorem Wr.EVM_CMASK {m : BitVec 160} {c x : Nat} (h : m.getLsbD 103 = true) : Wr m (R.EVM_CMASK c x) :=
  ⟨103, h, c, x, rfl⟩
theorem Wr.EVM_CCTL {m : BitVec 160} {n : Nat} (h : m.getLsbD 104 = true) : Wr m (R.EVM_CCTL n) :=
  ⟨104, h, n, rfl⟩
theorem Wr.LEHR_STAT {m : BitVec 160} (h : m.getLsbD 105 = true) : Wr m R.LEHR_STAT :=
  ⟨105, h, rfl⟩
theorem Wr.LEHR_CTL {m : BitVec 160} (h : m.getLsbD 106 = true) : Wr m R.LEHR_CTL :=
  ⟨106, h, rfl⟩
theorem Wr.LEHR_OFS {m : BitVec 160} (h : m.getLsbD 111 = true) : Wr m R.LEHR_OFS :=
  ⟨111, h, rfl⟩
theorem Wr.LEHR_ALM1 {m : BitVec 160} (h : m.getLsbD 113 = true) : Wr m R.LEHR_ALM1 :=
  ⟨113, h, rfl⟩
theorem Wr.LEHR_PER {m : BitVec 160} (h : m.getLsbD 114 = true) : Wr m R.LEHR_PER :=
  ⟨114, h, rfl⟩
theorem Wr.LEHR_CHG {m : BitVec 160} (h : m.getLsbD 116 = true) : Wr m R.LEHR_CHG :=
  ⟨116, h, rfl⟩
theorem Wr.CFL_STAT {m : BitVec 160} (h : m.getLsbD 118 = true) : Wr m R.CFL_STAT :=
  ⟨118, h, rfl⟩
theorem Wr.CFL_CTL {m : BitVec 160} (h : m.getLsbD 119 = true) : Wr m R.CFL_CTL :=
  ⟨119, h, rfl⟩
theorem Wr.CFL_WP {m : BitVec 160} (h : m.getLsbD 125 = true) : Wr m R.CFL_WP :=
  ⟨125, h, rfl⟩
theorem Wr.CFL_ECC {m : BitVec 160} (h : m.getLsbD 128 = true) : Wr m R.CFL_ECC :=
  ⟨128, h, rfl⟩
theorem Wr.SVC_STAT {m : BitVec 160} (h : m.getLsbD 132 = true) : Wr m R.SVC_STAT :=
  ⟨132, h, rfl⟩
theorem Wr.SVC_CNT {m : BitVec 160} (h : m.getLsbD 134 = true) : Wr m R.SVC_CNT :=
  ⟨134, h, rfl⟩
theorem Wr.PMC_STAT {m : BitVec 160} (h : m.getLsbD 137 = true) : Wr m R.PMC_STAT :=
  ⟨137, h, rfl⟩
theorem Wr.PMC_OVF {m : BitVec 160} {n : Nat} (h : m.getLsbD 140 = true) : Wr m (R.PMC_OVF n) :=
  ⟨140, h, n, rfl⟩
theorem Wr.PMC_SCTL {m : BitVec 160} {n : Nat} (h : m.getLsbD 141 = true) : Wr m (R.PMC_SCTL n) :=
  ⟨141, h, n, rfl⟩
theorem Wr.PMC_CNT {m : BitVec 160} {n k : Nat} (h : m.getLsbD 143 = true) : Wr m (R.PMC_CNT n k) :=
  ⟨143, h, n, k, rfl⟩
theorem Wr.HLT_STAT {m : BitVec 160} (h : m.getLsbD 145 = true) : Wr m R.HLT_STAT :=
  ⟨145, h, rfl⟩
theorem Wr.HLT_CAUSE {m : BitVec 160} (h : m.getLsbD 146 = true) : Wr m R.HLT_CAUSE :=
  ⟨146, h, rfl⟩
theorem Wr.HLT_EVER {m : BitVec 160} (h : m.getLsbD 147 = true) : Wr m R.HLT_EVER :=
  ⟨147, h, rfl⟩
theorem Wr.HLT_CNT {m : BitVec 160} (h : m.getLsbD 150 = true) : Wr m R.HLT_CNT :=
  ⟨150, h, rfl⟩
theorem Wr.SMB_STAT {m : BitVec 160} (h : m.getLsbD 151 = true) : Wr m R.SMB_STAT :=
  ⟨151, h, rfl⟩

/-- What an operation may change: components of the state, and registers. -/
structure Mask where
  m : BitVec 20
  r : BitVec 160

/-- Every bit of a is one of b. -/
structure Sub (a b : Mask) : Prop where
  m : a.m &&& b.m = a.m
  r : a.r &&& b.r = a.r

theorem band_trans {w : Nat} {a b c : BitVec w} (h : a &&& b = a) (k : b &&& c = b) : a &&& c = a := by
  calc a &&& c = (a &&& b) &&& c := by rw [h]
    _ = a &&& (b &&& c) := BitVec.and_assoc ..
    _ = a := by rw [k, h]

theorem band_bit {w : Nat} {a b : BitVec w} (h : a &&& b = a) (i : Nat) (ha : a.getLsbD i = true) : b.getLsbD i = true := by
  have := congrArg (fun x => x.getLsbD i) h
  simp [BitVec.getLsbD_and, ha] at this
  exact this

theorem Sub.of {a b c : Mask} (k : Sub b c) (h : a.m &&& b.m = a.m) (h' : a.r &&& b.r = a.r) : Sub a c :=
  ⟨band_trans h k.m, band_trans h' k.r⟩

theorem Sub.bit {m M : Mask} (h : Sub m M) (i : Nat) (hm : m.m.getLsbD i = true) : M.m.getLsbD i = true := band_bit h.m i hm
theorem Sub.reg {m M : Mask} (h : Sub m M) (i : Nat) (hm : m.r.getLsbD i = true) : M.r.getLsbD i = true := band_bit h.r i hm

theorem Sub.sub {m M : Mask} {k : BitVec 20} (h : Sub m M) (e : k &&& m.m = k) : k &&& M.m = k := band_trans e h.m

/-- `t` is `s` but for the components whose bits M has; the queue, the canonical form and the fuses are kept anyway. -/
structure Keeps (M : Mask) (s t : State) : Prop where
  pending : t.pending = s.pending
  mem : s.memWf = true → t.memWf = true
  fuse : FuseLe s t
  hri : M.m.getLsbD 0 = false → t.hri = s.hri
  store : M.m.getLsbD 1 = false → t.store = s.store
  radio : M.m.getLsbD 2 = false → t.radio = s.radio
  mac : M.m.getLsbD 3 = false → t.mac = s.mac
  jnl : M.m.getLsbD 4 = false → t.jnl = s.jnl
  keys : M.m.getLsbD 5 = false → t.keys = s.keys
  newts : M.m.getLsbD 6 = false → t.newts = s.newts
  gather : M.m.getLsbD 7 = false → t.gather = s.gather
  roles : M.m.getLsbD 8 = false → t.roles = s.roles
  pio : M.m.getLsbD 9 = false → t.pio = s.pio
  lehr : M.m.getLsbD 10 = false → t.lehr = s.lehr
  power : M.m.getLsbD 11 = false → t.power = s.power
  flash : M.m.getLsbD 12 = false → t.flash = s.flash
  svc : M.m.getLsbD 13 = false → t.svc = s.svc
  link : M.m.getLsbD 14 = false → t.link = s.link
  health : M.m.getLsbD 15 = false → t.health = s.health
  cycLatch : M.m.getLsbD 16 = false → t.cycLatch = s.cycLatch
  answers : M.m.getLsbD 17 = false → t.answers = s.answers
  free : M.m.getLsbD 18 = false → t.free = s.free
  regs : M.m.getLsbD 19 = false → t.regs = s.regs
  rd : ∀ a, ¬Wr M.r a → t.rd a = s.rd a

theorem Keeps.refl (M : Mask) (s : State) : Keeps M s s := by
  constructor <;> first | exact FuseLe.refl s | (intros; assumption) | (intros; rfl) | rfl

theorem Keeps.trans {M : Mask} {s t u : State} (a : Keeps M s t) (b : Keeps M t u) : Keeps M s u where
  pending := b.pending.trans a.pending
  mem h := b.mem (a.mem h)
  fuse := a.fuse.trans b.fuse
  hri h := (b.hri h).trans (a.hri h)
  store h := (b.store h).trans (a.store h)
  radio h := (b.radio h).trans (a.radio h)
  mac h := (b.mac h).trans (a.mac h)
  jnl h := (b.jnl h).trans (a.jnl h)
  keys h := (b.keys h).trans (a.keys h)
  newts h := (b.newts h).trans (a.newts h)
  gather h := (b.gather h).trans (a.gather h)
  roles h := (b.roles h).trans (a.roles h)
  pio h := (b.pio h).trans (a.pio h)
  lehr h := (b.lehr h).trans (a.lehr h)
  power h := (b.power h).trans (a.power h)
  flash h := (b.flash h).trans (a.flash h)
  svc h := (b.svc h).trans (a.svc h)
  link h := (b.link h).trans (a.link h)
  health h := (b.health h).trans (a.health h)
  cycLatch h := (b.cycLatch h).trans (a.cycLatch h)
  answers h := (b.answers h).trans (a.answers h)
  free h := (b.free h).trans (a.free h)
  regs h := (b.regs h).trans (a.regs h)
  rd x h := (b.rd x h).trans (a.rd x h)

/-- What a record update has to show of the components in m, and of the others. -/
structure Upd (m : BitVec 20) (s t : State) : Prop where
  pending : t.pending = s.pending
  hri : m.getLsbD 0 = true ∨ t.hri = s.hri
  store : m.getLsbD 1 = true ∨ t.store = s.store
  radio : m.getLsbD 2 = true ∨ t.radio = s.radio
  mac : m.getLsbD 3 = true ∨ t.mac = s.mac
  jnl : m.getLsbD 4 = true ∨ t.jnl = s.jnl
  keys : m.getLsbD 5 = true ∨ t.keys = s.keys
  newts : m.getLsbD 6 = true ∨ t.newts = s.newts
  gather : m.getLsbD 7 = true ∨ t.gather = s.gather
  roles : m.getLsbD 8 = true ∨ t.roles = s.roles
  pio : m.getLsbD 9 = true ∨ t.pio = s.pio
  lehr : m.getLsbD 10 = true ∨ t.lehr = s.lehr
  power : m.getLsbD 11 = true ∨ t.power = s.power
  flash : m.getLsbD 12 = true ∨ t.flash = s.flash
  svc : m.getLsbD 13 = true ∨ t.svc = s.svc
  link : m.getLsbD 14 = true ∨ t.link = s.link
  health : m.getLsbD 15 = true ∨ t.health = s.health
  cycLatch : m.getLsbD 16 = true ∨ t.cycLatch = s.cycLatch
  answers : m.getLsbD 17 = true ∨ t.answers = s.answers
  free : m.getLsbD 18 = true ∨ t.free = s.free
  regs : m.getLsbD 19 = true ∨ t.regs = s.regs

/-- An update of components in m that keeps the canonical form and the fuses. -/
theorem Keeps.upd' {m : BitVec 20} {M : Mask} {s0 s t : State} (hM : m &&& M.m = m) (h : Keeps M s0 s) (u : Upd m s t)
    (hm : s.memWf = true → t.memWf = true) (hf : FuseLe s t) (hr : ∀ a, ¬Wr M.r a → t.rd a = s.rd a) :
    Keeps M s0 t := by
  refine h.trans ?_
  have key : ∀ {i : Nat} {p : Prop}, m.getLsbD i = true ∨ p → M.m.getLsbD i = false → p := by
    intro i p hp hMi
    rcases hp with hp | hp
    · rw [band_bit hM i hp] at hMi; cases hMi
    · exact hp
  exact ⟨u.pending, hm, hf, key u.hri, key u.store, key u.radio, key u.mac, key u.jnl, key u.keys, key u.newts,
    key u.gather, key u.roles, key u.pio, key u.lehr, key u.power, key u.flash, key u.svc, key u.link, key u.health,
    key u.cycLatch, key u.answers, key u.free, key u.regs, hr⟩

theorem memWf_of_eq {s t : State} (h1 : t.regs = s.regs) (h2 : t.gather = s.gather)
    (h3 : t.flash.bytes = s.flash.bytes) (h4 : t.hri.hostMem = s.hri.hostMem) (h : s.memWf = true) : t.memWf = true := by
  unfold State.memWf at *
  rw [h1, h2, h3, h4]; exact h

/-- An update that leaves registers, memories and fuses alone. -/
theorem Keeps.upd {m : BitVec 20} {M : Mask} {s0 s t : State} (hM : m &&& M.m = m) (h : Keeps M s0 s) (u : Upd m s t)
    (h1 : t.regs = s.regs) (h2 : t.gather = s.gather) (h3 : t.flash.bytes = s.flash.bytes)
    (h4 : t.hri.hostMem = s.hri.hostMem) (k1 : t.keys.steps = s.keys.steps) (k2 : t.keys.scrapped = s.keys.scrapped)
    (k3 : t.keys.enrolled = s.keys.enrolled) (k4 : t.keys.revoked = s.keys.revoked)
    (k5 : t.keys.chgLock = s.keys.chgLock) : Keeps M s0 t :=
  h.upd' hM u (memWf_of_eq h1 h2 h3 h4) (.of_eq k1 k2 k3 k4 k5) fun a _ => by unfold State.rd; rw [h1]

theorem Keeps.ite {M : Mask} {s0 a b : State} {c : Prop} [Decidable c] (ha : Keeps M s0 a) (hb : Keeps M s0 b) :
    Keeps M s0 (if c then a else b) := by
  split <;> assumption

theorem Keeps.foldl {M : Mask} {s0 : State} {α : Type} {f : State → α → State}
    (hf : ∀ s a, Keeps M s0 s → Keeps M s0 (f s a)) (l : List α) :
    ∀ {s : State}, Keeps M s0 s → Keeps M s0 (l.foldl f s) := by
  induction l with
  | nil => exact fun h => h
  | cons a r ih => exact fun h => ih (hf _ a h)

theorem ofBit {M : BitVec 20} (i : Nat) (hM : M.getLsbD i = true) :
    BitVec.ofNat 20 (2 ^ i) &&& M = BitVec.ofNat 20 (2 ^ i) := by
  apply BitVec.eq_of_getLsbD_eq
  intro j hj
  rw [BitVec.getLsbD_and, BitVec.getLsbD_ofNat, Nat.testBit_two_pow]
  by_cases h : i = j
  · subst h; simp [hM]
  · simp [h]

theorem Keeps.set_hri {M : Mask} {s0 s : State} {x : Hri} (hM : M.m.getLsbD 0 = true) (h : Keeps M s0 s) (hm : x.hostMem = s.hri.hostMem) :
    Keeps M s0 { s with hri := x } :=
  h.upd (m := 0x1#20) (ofBit 0 hM) ⟨rfl, .inl rfl, .inr rfl, .inr rfl, .inr rfl, .inr rfl, .inr rfl, .inr rfl, .inr rfl, .inr rfl, .inr rfl, .inr rfl, .inr rfl, .inr rfl, .inr rfl, .inr rfl, .inr rfl, .inr rfl, .inr rfl, .inr rfl, .inr rfl⟩
    rfl rfl rfl hm rfl rfl rfl rfl rfl

theorem Keeps.set_store {M : Mask} {s0 s : State} {x : Store} (hM : M.m.getLsbD 1 = true) (h : Keeps M s0 s) :
    Keeps M s0 { s with store := x } :=
  h.upd (m := 0x2#20) (ofBit 1 hM) ⟨rfl, .inr rfl, .inl rfl, .inr rfl, .inr rfl, .inr rfl, .inr rfl, .inr rfl, .inr rfl, .inr rfl, .inr rfl, .inr rfl, .inr rfl, .inr rfl, .inr rfl, .inr rfl, .inr rfl, .inr rfl, .inr rfl, .inr rfl, .inr rfl⟩
    rfl rfl rfl rfl rfl rfl rfl rfl rfl

theorem Keeps.set_radio {M : Mask} {s0 s : State} {x : Radio} (hM : M.m.getLsbD 2 = true) (h : Keeps M s0 s) :
    Keeps M s0 { s with radio := x } :=
  h.upd (m := 0x4#20) (ofBit 2 hM) ⟨rfl, .inr rfl, .inr rfl, .inl rfl, .inr rfl, .inr rfl, .inr rfl, .inr rfl, .inr rfl, .inr rfl, .inr rfl, .inr rfl, .inr rfl, .inr rfl, .inr rfl, .inr rfl, .inr rfl, .inr rfl, .inr rfl, .inr rfl, .inr rfl⟩
    rfl rfl rfl rfl rfl rfl rfl rfl rfl

theorem Keeps.set_mac {M : Mask} {s0 s : State} {x : Mac} (hM : M.m.getLsbD 3 = true) (h : Keeps M s0 s) :
    Keeps M s0 { s with mac := x } :=
  h.upd (m := 0x8#20) (ofBit 3 hM) ⟨rfl, .inr rfl, .inr rfl, .inr rfl, .inl rfl, .inr rfl, .inr rfl, .inr rfl, .inr rfl, .inr rfl, .inr rfl, .inr rfl, .inr rfl, .inr rfl, .inr rfl, .inr rfl, .inr rfl, .inr rfl, .inr rfl, .inr rfl, .inr rfl⟩
    rfl rfl rfl rfl rfl rfl rfl rfl rfl

theorem Keeps.set_jnl {M : Mask} {s0 s : State} {x : Journal} (hM : M.m.getLsbD 4 = true) (h : Keeps M s0 s) :
    Keeps M s0 { s with jnl := x } :=
  h.upd (m := 0x10#20) (ofBit 4 hM) ⟨rfl, .inr rfl, .inr rfl, .inr rfl, .inr rfl, .inl rfl, .inr rfl, .inr rfl, .inr rfl, .inr rfl, .inr rfl, .inr rfl, .inr rfl, .inr rfl, .inr rfl, .inr rfl, .inr rfl, .inr rfl, .inr rfl, .inr rfl, .inr rfl⟩
    rfl rfl rfl rfl rfl rfl rfl rfl rfl

theorem Keeps.set_keys {M : Mask} {s0 s : State} {x : Keys} (hM : M.m.getLsbD 5 = true) (h : Keeps M s0 s) (k1 : x.steps = s.keys.steps)
    (k2 : x.scrapped = s.keys.scrapped) (k3 : x.enrolled = s.keys.enrolled) (k4 : x.revoked = s.keys.revoked)
    (k5 : x.chgLock = s.keys.chgLock) :
    Keeps M s0 { s with keys := x } :=
  h.upd (m := 0x20#20) (ofBit 5 hM) ⟨rfl, .inr rfl, .inr rfl, .inr rfl, .inr rfl, .inr rfl, .inl rfl, .inr rfl, .inr rfl, .inr rfl, .inr rfl, .inr rfl, .inr rfl, .inr rfl, .inr rfl, .inr rfl, .inr rfl, .inr rfl, .inr rfl, .inr rfl, .inr rfl⟩
    rfl rfl rfl rfl k1 k2 k3 k4 k5

theorem Keeps.set_newts {M : Mask} {s0 s : State} {x : Tbl Newt} (hM : M.m.getLsbD 6 = true) (h : Keeps M s0 s) :
    Keeps M s0 { s with newts := x } :=
  h.upd (m := 0x40#20) (ofBit 6 hM) ⟨rfl, .inr rfl, .inr rfl, .inr rfl, .inr rfl, .inr rfl, .inr rfl, .inl rfl, .inr rfl, .inr rfl, .inr rfl, .inr rfl, .inr rfl, .inr rfl, .inr rfl, .inr rfl, .inr rfl, .inr rfl, .inr rfl, .inr rfl, .inr rfl⟩
    rfl rfl rfl rfl rfl rfl rfl rfl rfl

theorem Keeps.set_roles {M : Mask} {s0 s : State} {x : Roles} (hM : M.m.getLsbD 8 = true) (h : Keeps M s0 s) :
    Keeps M s0 { s with roles := x } :=
  h.upd (m := 0x100#20) (ofBit 8 hM) ⟨rfl, .inr rfl, .inr rfl, .inr rfl, .inr rfl, .inr rfl, .inr rfl, .inr rfl, .inr rfl, .inl rfl, .inr rfl, .inr rfl, .inr rfl, .inr rfl, .inr rfl, .inr rfl, .inr rfl, .inr rfl, .inr rfl, .inr rfl, .inr rfl⟩
    rfl rfl rfl rfl rfl rfl rfl rfl rfl

theorem Keeps.set_pio {M : Mask} {s0 s : State} {x : Pio} (hM : M.m.getLsbD 9 = true) (h : Keeps M s0 s) :
    Keeps M s0 { s with pio := x } :=
  h.upd (m := 0x200#20) (ofBit 9 hM) ⟨rfl, .inr rfl, .inr rfl, .inr rfl, .inr rfl, .inr rfl, .inr rfl, .inr rfl, .inr rfl, .inr rfl, .inl rfl, .inr rfl, .inr rfl, .inr rfl, .inr rfl, .inr rfl, .inr rfl, .inr rfl, .inr rfl, .inr rfl, .inr rfl⟩
    rfl rfl rfl rfl rfl rfl rfl rfl rfl

theorem Keeps.set_lehr {M : Mask} {s0 s : State} {x : Lehr} (hM : M.m.getLsbD 10 = true) (h : Keeps M s0 s) :
    Keeps M s0 { s with lehr := x } :=
  h.upd (m := 0x400#20) (ofBit 10 hM) ⟨rfl, .inr rfl, .inr rfl, .inr rfl, .inr rfl, .inr rfl, .inr rfl, .inr rfl, .inr rfl, .inr rfl, .inr rfl, .inl rfl, .inr rfl, .inr rfl, .inr rfl, .inr rfl, .inr rfl, .inr rfl, .inr rfl, .inr rfl, .inr rfl⟩
    rfl rfl rfl rfl rfl rfl rfl rfl rfl

theorem Keeps.set_power {M : Mask} {s0 s : State} {x : Power} (hM : M.m.getLsbD 11 = true) (h : Keeps M s0 s) :
    Keeps M s0 { s with power := x } :=
  h.upd (m := 0x800#20) (ofBit 11 hM) ⟨rfl, .inr rfl, .inr rfl, .inr rfl, .inr rfl, .inr rfl, .inr rfl, .inr rfl, .inr rfl, .inr rfl, .inr rfl, .inr rfl, .inl rfl, .inr rfl, .inr rfl, .inr rfl, .inr rfl, .inr rfl, .inr rfl, .inr rfl, .inr rfl⟩
    rfl rfl rfl rfl rfl rfl rfl rfl rfl

theorem Keeps.set_flash {M : Mask} {s0 s : State} {x : Flash} (hM : M.m.getLsbD 12 = true) (h : Keeps M s0 s) (hm : x.bytes = s.flash.bytes) :
    Keeps M s0 { s with flash := x } :=
  h.upd (m := 0x1000#20) (ofBit 12 hM) ⟨rfl, .inr rfl, .inr rfl, .inr rfl, .inr rfl, .inr rfl, .inr rfl, .inr rfl, .inr rfl, .inr rfl, .inr rfl, .inr rfl, .inr rfl, .inl rfl, .inr rfl, .inr rfl, .inr rfl, .inr rfl, .inr rfl, .inr rfl, .inr rfl⟩
    rfl rfl hm rfl rfl rfl rfl rfl rfl

theorem Keeps.set_svc {M : Mask} {s0 s : State} {x : Svc} (hM : M.m.getLsbD 13 = true) (h : Keeps M s0 s) :
    Keeps M s0 { s with svc := x } :=
  h.upd (m := 0x2000#20) (ofBit 13 hM) ⟨rfl, .inr rfl, .inr rfl, .inr rfl, .inr rfl, .inr rfl, .inr rfl, .inr rfl, .inr rfl, .inr rfl, .inr rfl, .inr rfl, .inr rfl, .inr rfl, .inl rfl, .inr rfl, .inr rfl, .inr rfl, .inr rfl, .inr rfl, .inr rfl⟩
    rfl rfl rfl rfl rfl rfl rfl rfl rfl

theorem Keeps.set_link {M : Mask} {s0 s : State} {x : Link} (hM : M.m.getLsbD 14 = true) (h : Keeps M s0 s) :
    Keeps M s0 { s with link := x } :=
  h.upd (m := 0x4000#20) (ofBit 14 hM) ⟨rfl, .inr rfl, .inr rfl, .inr rfl, .inr rfl, .inr rfl, .inr rfl, .inr rfl, .inr rfl, .inr rfl, .inr rfl, .inr rfl, .inr rfl, .inr rfl, .inr rfl, .inl rfl, .inr rfl, .inr rfl, .inr rfl, .inr rfl, .inr rfl⟩
    rfl rfl rfl rfl rfl rfl rfl rfl rfl

theorem Keeps.set_health {M : Mask} {s0 s : State} {x : Health} (hM : M.m.getLsbD 15 = true) (h : Keeps M s0 s) :
    Keeps M s0 { s with health := x } :=
  h.upd (m := 0x8000#20) (ofBit 15 hM) ⟨rfl, .inr rfl, .inr rfl, .inr rfl, .inr rfl, .inr rfl, .inr rfl, .inr rfl, .inr rfl, .inr rfl, .inr rfl, .inr rfl, .inr rfl, .inr rfl, .inr rfl, .inr rfl, .inl rfl, .inr rfl, .inr rfl, .inr rfl, .inr rfl⟩
    rfl rfl rfl rfl rfl rfl rfl rfl rfl

theorem Keeps.set_cycLatch {M : Mask} {s0 s : State} {x : Tbl Half} (hM : M.m.getLsbD 16 = true) (h : Keeps M s0 s) :
    Keeps M s0 { s with cycLatch := x } :=
  h.upd (m := 0x10000#20) (ofBit 16 hM) ⟨rfl, .inr rfl, .inr rfl, .inr rfl, .inr rfl, .inr rfl, .inr rfl, .inr rfl, .inr rfl, .inr rfl, .inr rfl, .inr rfl, .inr rfl, .inr rfl, .inr rfl, .inr rfl, .inr rfl, .inl rfl, .inr rfl, .inr rfl, .inr rfl⟩
    rfl rfl rfl rfl rfl rfl rfl rfl rfl

theorem Keeps.set_answers {M : Mask} {s0 s : State} {x : List (Master × Word)} (hM : M.m.getLsbD 17 = true) (h : Keeps M s0 s) :
    Keeps M s0 { s with answers := x } :=
  h.upd (m := 0x20000#20) (ofBit 17 hM) ⟨rfl, .inr rfl, .inr rfl, .inr rfl, .inr rfl, .inr rfl, .inr rfl, .inr rfl, .inr rfl, .inr rfl, .inr rfl, .inr rfl, .inr rfl, .inr rfl, .inr rfl, .inr rfl, .inr rfl, .inr rfl, .inl rfl, .inr rfl, .inr rfl⟩
    rfl rfl rfl rfl rfl rfl rfl rfl rfl

theorem Keeps.set_free {M : Mask} {s0 s : State} {x : Nat} (hM : M.m.getLsbD 18 = true) (h : Keeps M s0 s) :
    Keeps M s0 { s with free := x } :=
  h.upd (m := 0x40000#20) (ofBit 18 hM) ⟨rfl, .inr rfl, .inr rfl, .inr rfl, .inr rfl, .inr rfl, .inr rfl, .inr rfl, .inr rfl, .inr rfl, .inr rfl, .inr rfl, .inr rfl, .inr rfl, .inr rfl, .inr rfl, .inr rfl, .inr rfl, .inr rfl, .inl rfl, .inr rfl⟩
    rfl rfl rfl rfl rfl rfl rfl rfl rfl

/-! Several components at once. -/

theorem Keeps.set_keys_mac {M : Mask} {s0 s : State} {x0 : Keys} {x1 : Mac}
    (hM : 0x28#20 &&& M.m = 0x28#20) (h : Keeps M s0 s)
    (k1 : x0.steps = s.keys.steps) (k2 : x0.scrapped = s.keys.scrapped) (k3 : x0.enrolled = s.keys.enrolled)
    (k4 : x0.revoked = s.keys.revoked) (k5 : x0.chgLock = s.keys.chgLock) :
    Keeps M s0 { s with keys := x0, mac := x1 } :=
  h.upd (m := 0x28#20) hM ⟨rfl, .inr rfl, .inr rfl, .inr rfl, .inl rfl, .inr rfl, .inl rfl, .inr rfl, .inr rfl, .inr rfl, .inr rfl, .inr rfl, .inr rfl, .inr rfl, .inr rfl, .inr rfl, .inr rfl, .inr rfl, .inr rfl, .inr rfl, .inr rfl⟩
    rfl rfl rfl rfl k1 k2 k3 k4 k5

theorem Keeps.set_store_free {M : Mask} {s0 s : State} {x0 : Store} {x1 : Nat}
    (hM : 0x40002#20 &&& M.m = 0x40002#20) (h : Keeps M s0 s) :
    Keeps M s0 { s with store := x0, free := x1 } :=
  h.upd (m := 0x40002#20) hM ⟨rfl, .inr rfl, .inl rfl, .inr rfl, .inr rfl, .inr rfl, .inr rfl, .inr rfl, .inr rfl, .inr rfl, .inr rfl, .inr rfl, .inr rfl, .inr rfl, .inr rfl, .inr rfl, .inr rfl, .inr rfl, .inr rfl, .inl rfl, .inr rfl⟩
    rfl rfl rfl rfl rfl rfl rfl rfl rfl

theorem Keeps.set_store_jnl {M : Mask} {s0 s : State} {x0 : Store} {x1 : Journal}
    (hM : 0x12#20 &&& M.m = 0x12#20) (h : Keeps M s0 s) :
    Keeps M s0 { s with store := x0, jnl := x1 } :=
  h.upd (m := 0x12#20) hM ⟨rfl, .inr rfl, .inl rfl, .inr rfl, .inr rfl, .inl rfl, .inr rfl, .inr rfl, .inr rfl, .inr rfl, .inr rfl, .inr rfl, .inr rfl, .inr rfl, .inr rfl, .inr rfl, .inr rfl, .inr rfl, .inr rfl, .inr rfl, .inr rfl⟩
    rfl rfl rfl rfl rfl rfl rfl rfl rfl

theorem Keeps.set_store_power {M : Mask} {s0 s : State} {x0 : Store} {x1 : Power}
    (hM : 0x802#20 &&& M.m = 0x802#20) (h : Keeps M s0 s) :
    Keeps M s0 { s with store := x0, power := x1 } :=
  h.upd (m := 0x802#20) hM ⟨rfl, .inr rfl, .inl rfl, .inr rfl, .inr rfl, .inr rfl, .inr rfl, .inr rfl, .inr rfl, .inr rfl, .inr rfl, .inr rfl, .inl rfl, .inr rfl, .inr rfl, .inr rfl, .inr rfl, .inr rfl, .inr rfl, .inr rfl, .inr rfl⟩
    rfl rfl rfl rfl rfl rfl rfl rfl rfl

theorem Keeps.set_radio_power {M : Mask} {s0 s : State} {x0 : Radio} {x1 : Power}
    (hM : 0x804#20 &&& M.m = 0x804#20) (h : Keeps M s0 s) :
    Keeps M s0 { s with radio := x0, power := x1 } :=
  h.upd (m := 0x804#20) hM ⟨rfl, .inr rfl, .inr rfl, .inl rfl, .inr rfl, .inr rfl, .inr rfl, .inr rfl, .inr rfl, .inr rfl, .inr rfl, .inr rfl, .inl rfl, .inr rfl, .inr rfl, .inr rfl, .inr rfl, .inr rfl, .inr rfl, .inr rfl, .inr rfl⟩
    rfl rfl rfl rfl rfl rfl rfl rfl rfl

theorem Keeps.set_mac_power {M : Mask} {s0 s : State} {x0 : Mac} {x1 : Power}
    (hM : 0x808#20 &&& M.m = 0x808#20) (h : Keeps M s0 s) :
    Keeps M s0 { s with mac := x0, power := x1 } :=
  h.upd (m := 0x808#20) hM ⟨rfl, .inr rfl, .inr rfl, .inr rfl, .inl rfl, .inr rfl, .inr rfl, .inr rfl, .inr rfl, .inr rfl, .inr rfl, .inr rfl, .inl rfl, .inr rfl, .inr rfl, .inr rfl, .inr rfl, .inr rfl, .inr rfl, .inr rfl, .inr rfl⟩
    rfl rfl rfl rfl rfl rfl rfl rfl rfl

theorem Keeps.set_hri_power {M : Mask} {s0 s : State} {x0 : Hri} {x1 : Power}
    (hM : 0x801#20 &&& M.m = 0x801#20) (h : Keeps M s0 s) (hm : x0.hostMem = s.hri.hostMem) :
    Keeps M s0 { s with hri := x0, power := x1 } :=
  h.upd (m := 0x801#20) hM ⟨rfl, .inl rfl, .inr rfl, .inr rfl, .inr rfl, .inr rfl, .inr rfl, .inr rfl, .inr rfl, .inr rfl, .inr rfl, .inr rfl, .inl rfl, .inr rfl, .inr rfl, .inr rfl, .inr rfl, .inr rfl, .inr rfl, .inr rfl, .inr rfl⟩
    rfl rfl rfl hm rfl rfl rfl rfl rfl

theorem Keeps.set_health_power {M : Mask} {s0 s : State} {x0 : Health} {x1 : Power}
    (hM : 0x8800#20 &&& M.m = 0x8800#20) (h : Keeps M s0 s) :
    Keeps M s0 { s with health := x0, power := x1 } :=
  h.upd (m := 0x8800#20) hM ⟨rfl, .inr rfl, .inr rfl, .inr rfl, .inr rfl, .inr rfl, .inr rfl, .inr rfl, .inr rfl, .inr rfl, .inr rfl, .inr rfl, .inl rfl, .inr rfl, .inr rfl, .inr rfl, .inl rfl, .inr rfl, .inr rfl, .inr rfl, .inr rfl⟩
    rfl rfl rfl rfl rfl rfl rfl rfl rfl

theorem Keeps.set_lehr_power {M : Mask} {s0 s : State} {x0 : Lehr} {x1 : Power}
    (hM : 0xc00#20 &&& M.m = 0xc00#20) (h : Keeps M s0 s) :
    Keeps M s0 { s with lehr := x0, power := x1 } :=
  h.upd (m := 0xc00#20) hM ⟨rfl, .inr rfl, .inr rfl, .inr rfl, .inr rfl, .inr rfl, .inr rfl, .inr rfl, .inr rfl, .inr rfl, .inr rfl, .inl rfl, .inl rfl, .inr rfl, .inr rfl, .inr rfl, .inr rfl, .inr rfl, .inr rfl, .inr rfl, .inr rfl⟩
    rfl rfl rfl rfl rfl rfl rfl rfl rfl

theorem Keeps.set_pio_power {M : Mask} {s0 s : State} {x0 : Pio} {x1 : Power}
    (hM : 0xa00#20 &&& M.m = 0xa00#20) (h : Keeps M s0 s) :
    Keeps M s0 { s with pio := x0, power := x1 } :=
  h.upd (m := 0xa00#20) hM ⟨rfl, .inr rfl, .inr rfl, .inr rfl, .inr rfl, .inr rfl, .inr rfl, .inr rfl, .inr rfl, .inr rfl, .inl rfl, .inr rfl, .inl rfl, .inr rfl, .inr rfl, .inr rfl, .inr rfl, .inr rfl, .inr rfl, .inr rfl, .inr rfl⟩
    rfl rfl rfl rfl rfl rfl rfl rfl rfl

theorem Keeps.set_store_radio_mac_pio_link {M : Mask} {s0 s : State} {x0 : Store} {x4 : Radio} {x1 : Mac} {x2 : Pio} {x3 : Link}
    (hM : 0x420e#20 &&& M.m = 0x420e#20) (h : Keeps M s0 s) :
    Keeps M s0 { s with store := x0, radio := x4, mac := x1, pio := x2, link := x3 } :=
  h.upd (m := 0x420e#20) hM ⟨rfl, .inr rfl, .inl rfl, .inl rfl, .inl rfl, .inr rfl, .inr rfl, .inr rfl, .inr rfl, .inr rfl, .inl rfl, .inr rfl, .inr rfl, .inr rfl, .inr rfl, .inl rfl, .inr rfl, .inr rfl, .inr rfl, .inr rfl, .inr rfl⟩
    rfl rfl rfl rfl rfl rfl rfl rfl rfl

/-- A pair whose first part is the state. -/
def Keeps1 (M : Mask) (s : State) {α : Type} (p : State × α) : Prop := Keeps M s p.1

/-- A pair whose second part is the state. -/
def Keeps2 (M : Mask) (s : State) {α : Type} (p : α × State) : Prop := Keeps M s p.2

/-- A triple whose third part is the state. -/
def Keeps3 (M : Mask) (s : State) {α β : Type} (p : α × β × State) : Prop := Keeps M s p.2.2

section
variable {M : Mask} {s0 s : State} {α β : Type}

theorem Keeps1.mk {a : α} (h : Keeps M s0 s) : Keeps1 M s0 (s, a) := h
theorem Keeps2.mk {a : α} (h : Keeps M s0 s) : Keeps2 M s0 (a, s) := h
theorem Keeps3.mk {a : α} {b : β} (h : Keeps M s0 s) : Keeps3 M s0 (a, b, s) := h

theorem Keeps1.of {p : State × α} {a : α} (e : p = (s, a)) (h : Keeps1 M s0 p) : Keeps M s0 s := by subst e; exact h
theorem Keeps2.of {p : α × State} {a : α} (e : p = (a, s)) (h : Keeps2 M s0 p) : Keeps M s0 s := by subst e; exact h
theorem Keeps3.of {p : α × β × State} {a : α} {b : β} (e : p = (a, b, s)) (h : Keeps3 M s0 p) : Keeps M s0 s := by
  subst e; exact h

theorem Keeps1.fst {p : State × α} (h : Keeps1 M s0 p) : Keeps M s0 p.1 := h
theorem Keeps2.snd {p : α × State} (h : Keeps2 M s0 p) : Keeps M s0 p.2 := h
theorem Keeps3.trd {p : α × β × State} (h : Keeps3 M s0 p) : Keeps M s0 p.2.2 := h

variable {c : Prop} [Decidable c]

theorem Keeps1.ite {a b : State × α} (ha : Keeps1 M s0 a) (hb : Keeps1 M s0 b) :
    Keeps1 M s0 (if c then a else b) := by split <;> assumption
theorem Keeps2.ite {a b : α × State} (ha : Keeps2 M s0 a) (hb : Keeps2 M s0 b) :
    Keeps2 M s0 (if c then a else b) := by split <;> assumption
theorem Keeps3.ite {a b : α × β × State} (ha : Keeps3 M s0 a) (hb : Keeps3 M s0 b) :
    Keeps3 M s0 (if c then a else b) := by split <;> assumption

/-- Prove the fact about an intermediate state first. -/
theorem Cut {P : Prop} (x : State) (hx : Keeps M s0 x) (k : Keeps M s0 x → P) : P := k hx

/-- A command's meaning answers a next state that keeps what Keeps says. -/
def Good (M : Mask) (s : State) (o : Out) : Prop := ∃ t, o = .next t ∧ Keeps M s t

theorem Good.next (h : Keeps M s0 s) : Good M s0 (.next s) := ⟨s, rfl, h⟩
theorem Good.ite {a b : Out} (ha : Good M s0 a) (hb : Good M s0 b) : Good M s0 (if c then a else b) := by
  split <;> assumption
end

/-- An update of the registers alone that keeps the canonical form. -/
theorem Keeps.set_regs {M : Mask} {s0 s : State} {x : Tbl Word} (hM : M.m.getLsbD 19 = true) (h : Keeps M s0 s)
    (hx : twf resetVal s.regs = true → twf resetVal x = true)
    (hr : ∀ a, ¬Wr M.r a → tget resetVal x a = tget resetVal s.regs a) : Keeps M s0 { s with regs := x } := by
  refine h.upd' (m := 0x80000#20) (ofBit 19 hM) ⟨rfl, .inr rfl, .inr rfl, .inr rfl, .inr rfl, .inr rfl, .inr rfl,
    .inr rfl, .inr rfl, .inr rfl, .inr rfl, .inr rfl, .inr rfl, .inr rfl, .inr rfl, .inr rfl, .inr rfl, .inr rfl,
    .inr rfl, .inr rfl, .inl rfl⟩ ?_ (.of_eq rfl rfl rfl rfl rfl) hr
  simp only [State.memWf, Bool.and_eq_true]
  exact fun ⟨⟨⟨a, b⟩, c⟩, d⟩ => ⟨⟨⟨hx a, b⟩, c⟩, d⟩

/-- An update of the gather alone. -/
theorem Keeps.set_gather {M : Mask} {s0 s : State} {x : Tbl Byte} (hM : M.m.getLsbD 7 = true) (h : Keeps M s0 s)
    (hx : twf (fun _ => (0 : Byte)) s.gather = true → twf (fun _ => (0 : Byte)) x = true) :
    Keeps M s0 { s with gather := x } := by
  refine h.upd' (m := 0x80#20) (ofBit 7 hM) ⟨rfl, .inr rfl, .inr rfl, .inr rfl, .inr rfl, .inr rfl, .inr rfl,
    .inr rfl, .inl rfl, .inr rfl, .inr rfl, .inr rfl, .inr rfl, .inr rfl, .inr rfl, .inr rfl, .inr rfl, .inr rfl,
    .inr rfl, .inr rfl, .inr rfl⟩ ?_ (.of_eq rfl rfl rfl rfl rfl) (fun _ _ => rfl)
  simp only [State.memWf, Bool.and_eq_true]
  exact fun ⟨⟨⟨a, b⟩, c⟩, d⟩ => ⟨⟨⟨a, hx b⟩, c⟩, d⟩

/-- An update of the flash that keeps its array canonical. -/
theorem Keeps.set_flash' {M : Mask} {s0 s : State} {x : Flash} (hM : M.m.getLsbD 12 = true) (h : Keeps M s0 s)
    (hx : twf (fun _ => (0xFF : Byte)) s.flash.bytes = true → twf (fun _ => (0xFF : Byte)) x.bytes = true) :
    Keeps M s0 { s with flash := x } := by
  refine h.upd' (m := 0x1000#20) (ofBit 12 hM) ⟨rfl, .inr rfl, .inr rfl, .inr rfl, .inr rfl, .inr rfl, .inr rfl,
    .inr rfl, .inr rfl, .inr rfl, .inr rfl, .inr rfl, .inr rfl, .inl rfl, .inr rfl, .inr rfl, .inr rfl, .inr rfl,
    .inr rfl, .inr rfl, .inr rfl⟩ ?_ (.of_eq rfl rfl rfl rfl rfl) (fun _ _ => rfl)
  simp only [State.memWf, Bool.and_eq_true]
  exact fun ⟨⟨⟨a, b⟩, c⟩, d⟩ => ⟨⟨⟨a, b⟩, hx c⟩, d⟩

/-- An update of the ring interface that keeps host memory in order. -/
theorem Keeps.set_hri' {M : Mask} {s0 s : State} {x : Hri} (hM : M.m.getLsbD 0 = true) (h : Keeps M s0 s)
    (hx : tsorted s.hri.hostMem = true → tsorted x.hostMem = true) : Keeps M s0 { s with hri := x } := by
  refine h.upd' (m := 0x1#20) (ofBit 0 hM) ⟨rfl, .inl rfl, .inr rfl, .inr rfl, .inr rfl, .inr rfl, .inr rfl,
    .inr rfl, .inr rfl, .inr rfl, .inr rfl, .inr rfl, .inr rfl, .inr rfl, .inr rfl, .inr rfl, .inr rfl, .inr rfl,
    .inr rfl, .inr rfl, .inr rfl⟩ ?_ (.of_eq rfl rfl rfl rfl rfl) (fun _ _ => rfl)
  simp only [State.memWf, hostMemWf, Bool.and_eq_true]
  exact fun ⟨⟨⟨a, b⟩, c⟩, d⟩ => ⟨⟨⟨a, b⟩, c⟩, hx d⟩

/-- An update of the keys that moves fuses one way only. -/
theorem Keeps.set_keys' {M : Mask} {s0 s : State} {x : Keys} (hM : M.m.getLsbD 5 = true) (h : Keeps M s0 s)
    (hx : FuseLe s { s with keys := x }) : Keeps M s0 { s with keys := x } :=
  h.upd' (m := 0x20#20) (ofBit 5 hM) ⟨rfl, .inr rfl, .inr rfl, .inr rfl, .inr rfl, .inr rfl, .inl rfl,
    .inr rfl, .inr rfl, .inr rfl, .inr rfl, .inr rfl, .inr rfl, .inr rfl, .inr rfl, .inr rfl, .inr rfl, .inr rfl,
    .inr rfl, .inr rfl, .inr rfl⟩ (memWf_of_eq rfl rfl rfl rfl) hx fun _ _ => rfl

end Sys2Proof.Machine
end

