-- ==== Sys2Proof/Laws/KeepsFlags.lean ====
section
/-! SUPPORT. What each operation of Machine/Flags.lean keeps (Laws/Keeps.lean says what that means). -/

namespace Sys2Proof.Machine

theorem State.wr_keeps {M : Mask} {s0 : State} {a : Nat} {v : Word} {s : State} (hM : Sub ⟨0x80000, 0x0⟩ M)
    (hW : Wr M.r a) (h : Keeps M s0 s) : Keeps M s0 (s.wr a v) :=
  h.set_regs (hM.bit 19 rfl) (twf_tset _ _ _ _) fun _ hb => tget_tset_ne _ _ _ fun e => hb (e ▸ hW)

theorem State.wf_keeps {M : Mask} {s0 : State} {a hi lo v : Nat} {s : State} (hM : Sub ⟨0x80000, 0x0⟩ M) (hW : Wr M.r a)
    (hK : Keeps M s0 s) :
    Keeps M s0 (State.wf a hi lo v s) := by
  unfold State.wf
  repeat' first
    | with_reducible assumption
    | ((with_reducible apply hM.of) <;> rfl)
    | with_reducible apply State.wr_keeps
    | split
    | dsimp -zeta only

theorem State.wb_keeps {M : Mask} {s0 : State} {a i : Nat} {b : Bool} {s : State} (hM : Sub ⟨0x80000, 0x0⟩ M) (hW : Wr M.r a)
    (hK : Keeps M s0 s) :
    Keeps M s0 (State.wb a i b s) := by
  unfold State.wb
  repeat' first
    | with_reducible assumption
    | ((with_reducible apply hM.of) <;> rfl)
    | with_reducible apply State.wr_keeps
    | split
    | dsimp -zeta only

theorem State.flag_keeps {M : Mask} {s0 : State} {a i : Nat} {s : State} (hM : Sub ⟨0x80000, 0x0⟩ M) (hW : Wr M.r a)
    (hK : Keeps M s0 s) :
    Keeps M s0 (State.flag a i s) := by
  unfold State.flag
  repeat' first
    | with_reducible assumption
    | ((with_reducible apply hM.of) <;> rfl)
    | with_reducible apply State.wb_keeps
    | split
    | dsimp -zeta only

theorem State.count_keeps {M : Mask} {s0 : State} {a hi lo k : Nat} {s : State} (hM : Sub ⟨0x80000, 0x0⟩ M) (hW : Wr M.r a)
    (hK : Keeps M s0 s) :
    Keeps M s0 (State.count a hi lo k s) := by
  unfold State.count
  repeat' first
    | with_reducible assumption
    | ((with_reducible apply hM.of) <;> rfl)
    | with_reducible apply State.wf_keeps
    | split
    | dsimp -zeta only

theorem State.countSat_keeps {M : Mask} {s0 : State} {a hi lo : Nat} {s : State} (hM : Sub ⟨0x80000, 0x0⟩ M) (hW : Wr M.r a)
    (hK : Keeps M s0 s) :
    Keeps M s0 (State.countSat a hi lo s) := by
  unfold State.countSat
  repeat' first
    | with_reducible assumption
    | ((with_reducible apply hM.of) <;> rfl)
    | with_reducible apply State.wf_keeps
    | split
    | dsimp -zeta only

theorem State.resetRegs_keeps {M : Mask} {s0 : State} {p : Nat → Bool} {s : State} (hM : Sub ⟨0x80000, 0x8000000000000000000000000000000000000000⟩ M)
    (h : Keeps M s0 s) : Keeps M s0 (s.resetRegs p) :=
  h.set_regs (hM.bit 19 rfl) (twf_tclear _ _ _) fun _ hb => absurd (Wr.any (hM.reg 159 (by decide))) hb

/-- The register with the BADVAL bit of the block that holds an offset may change. -/
def WrBad (m : BitVec 160) (a : Nat) : Prop :=
  match badvalOf (a / 65536) with
  | some p => Wr m p.1
  | none => True

theorem WrBad.of {m : BitVec 160} {a b i : Nat} (e : badvalOf (a / 65536) = some (b, i)) (h : Wr m b) : WrBad m a := by
  unfold WrBad; rw [e]; exact h

theorem WrBad.any {m : BitVec 160} {a : Nat} (h : m.getLsbD 158 = true) : WrBad m a := by
  unfold WrBad
  split
  · rename_i p e; exact Wr.bad h e
  · trivial

theorem State.badval_keeps {M : Mask} {s0 : State} {a : Nat} {s : State} (hM : Sub ⟨0x80000, 0x0⟩ M)
    (hB : WrBad M.r a) (h : Keeps M s0 s) : Keeps M s0 (s.badval a) := by
  unfold State.badval
  unfold WrBad at hB
  split
  · rename_i e; rw [e] at hB; exact State.flag_keeps (hM.of rfl rfl) hB h
  · exact h

theorem State.writeReg_keeps {M : Mask} {s0 : State} {a : Nat} {data : Word} {s : State} (hM : Sub ⟨0x80000, 0x0⟩ M) (hW : Wr M.r a) (hB : WrBad M.r a)
    (hK : Keeps M s0 s) :
    Keeps M s0 (State.writeReg a data s) := by
  unfold State.writeReg
  repeat' first
    | with_reducible assumption
    | ((with_reducible apply hM.of) <;> rfl)
    | ((with_reducible apply hM.reg); decide)
    | with_reducible apply State.wr_keeps
    | with_reducible apply State.badval_keeps
    | with_reducible apply Keeps.ite
    | (extract_lets +onlyGivenNames x1; with_reducible refine Cut x1 ?_ ?_)
    | (intro _; clear_value x1; revert x1; intro _ _)
    | subst x1
    | (extract_lets +onlyGivenNames x1; subst x1)
    | exact rfl
    | split
    | dsimp -zeta only

theorem State.answer_keeps {M : Mask} {s0 : State} {m : Master} {w : Word} {s : State} (hM : Sub ⟨0x20000, 0x0⟩ M) (hK : Keeps M s0 s) :
    Keeps M s0 (State.answer m w s) := by
  unfold State.answer
  repeat' first
    | with_reducible assumption
    | ((with_reducible apply hM.of) <;> rfl)
    | with_reducible apply hM.bit
    | exact rfl
    | split
    | with_reducible apply Keeps.set_answers

theorem State.accessError_keeps {M : Mask} {s0 : State} {m : Master} {s : State} (hM : Sub ⟨0x4001, 0x0⟩ M) (hK : Keeps M s0 s) :
    Keeps M s0 (State.accessError m s) := by
  unfold State.accessError
  repeat' first
    | with_reducible assumption
    | ((with_reducible apply hM.of) <;> rfl)
    | with_reducible apply hM.bit
    | with_reducible apply Keeps.ite
    | (extract_lets +onlyGivenNames x1; with_reducible refine Cut x1 ?_ ?_)
    | (intro _; clear_value x1; revert x1; intro _ _)
    | subst x1
    | (extract_lets +onlyGivenNames x1; subst x1)
    | exact rfl
    | split
    | with_reducible apply Keeps.set_hri
    | with_reducible apply Keeps.set_link

theorem State.freeNat_keeps {M : Mask} {s0 : State} {s : State} (hM : Sub ⟨0x40000, 0x0⟩ M) (hK : Keeps M s0 s) :
    Keeps2 M s0 (State.freeNat s) := by
  unfold State.freeNat
  repeat' first
    | with_reducible assumption
    | ((with_reducible apply hM.of) <;> rfl)
    | with_reducible apply hM.bit
    | exact rfl
    | split
    | with_reducible apply Keeps.set_free
    | with_reducible apply Keeps2.mk

theorem State.freeBool_keeps {M : Mask} {s0 : State} {s : State} (hM : Sub ⟨0x40000, 0x0⟩ M) (hK : Keeps M s0 s) :
    Keeps2 M s0 (State.freeBool s) := by
  unfold State.freeBool
  repeat' first
    | with_reducible assumption
    | ((with_reducible apply hM.of) <;> rfl)
    | with_reducible apply hM.bit
    | exact rfl
    | split
    | with_reducible apply Keeps.set_free
    | with_reducible apply Keeps2.mk

end Sys2Proof.Machine
end

