-- ==== Sys2Proof/Laws/KeepsOps.lean ====
section
/-! SUPPORT. What each operation of Machine/Ops.lean keeps (Laws/Keeps.lean says what that means). -/

namespace Sys2Proof.Machine

theorem State.setQ_keeps {M : Mask} {s0 : State} {n : Nat} {q : Queue} {s : State} (hM : Sub ⟨0x1, 0x0⟩ M) (hK : Keeps M s0 s) :
    Keeps M s0 (State.setQ n q s) := by
  unfold State.setQ
  repeat' first
    | with_reducible assumption
    | ((with_reducible apply hM.of) <;> rfl)
    | with_reducible apply hM.bit
    | exact rfl
    | split
    | with_reducible apply Keeps.set_hri

theorem State.modQ_keeps {M : Mask} {s0 : State} {n : Nat} {f : Queue → Queue} {s : State} (hM : Sub ⟨0x1, 0x0⟩ M) (hK : Keeps M s0 s) :
    Keeps M s0 (State.modQ n f s) := by
  unfold State.modQ
  repeat' first
    | with_reducible assumption
    | ((with_reducible apply hM.of) <;> rfl)
    | with_reducible apply State.setQ_keeps
    | split
    | dsimp -zeta only

theorem State.setVec_keeps {M : Mask} {s0 : State} {v : Nat} {x : Vector'} {s : State} (hM : Sub ⟨0x1, 0x0⟩ M) (hK : Keeps M s0 s) :
    Keeps M s0 (State.setVec v x s) := by
  unfold State.setVec
  repeat' first
    | with_reducible assumption
    | ((with_reducible apply hM.of) <;> rfl)
    | with_reducible apply hM.bit
    | exact rfl
    | split
    | with_reducible apply Keeps.set_hri

theorem State.sendMsg_keeps {M : Mask} {s0 : State} {v : Nat} {s : State} (hM : Sub ⟨0x1, 0x0⟩ M) (hK : Keeps M s0 s) :
    Keeps M s0 (State.sendMsg v s) := by
  unfold State.sendMsg
  repeat' first
    | with_reducible assumption
    | ((with_reducible apply hM.of) <;> rfl)
    | with_reducible apply hM.bit
    | with_reducible apply State.setVec_keeps
    | (extract_lets +onlyGivenNames x1; with_reducible refine Cut x1 ?_ ?_)
    | (intro _; clear_value x1; revert x1; intro _ _)
    | subst x1
    | (extract_lets +onlyGivenNames x1; subst x1)
    | exact rfl
    | split

theorem State.signal_keeps {M : Mask} {s0 : State} {v : Nat} {s : State} (hM : Sub ⟨0x1, 0x0⟩ M) (hK : Keeps M s0 s) :
    Keeps M s0 (State.signal v s) := by
  unfold State.signal
  repeat' first
    | with_reducible assumption
    | ((with_reducible apply hM.of) <;> rfl)
    | with_reducible apply hM.bit
    | with_reducible apply State.setVec_keeps
    | with_reducible apply State.sendMsg_keeps
    | with_reducible apply Keeps.ite
    | (extract_lets +onlyGivenNames x1; with_reducible refine Cut x1 ?_ ?_)
    | (intro _; clear_value x1; revert x1; intro _ _)
    | subst x1
    | (extract_lets +onlyGivenNames x1; subst x1)
    | exact rfl
    | split

theorem State.sendPending_keeps {M : Mask} {s0 : State} {s : State} (hM : Sub ⟨0x1, 0x0⟩ M) (hK : Keeps M s0 s) :
    Keeps M s0 (State.sendPending s) := by
  unfold State.sendPending
  repeat' first
    | with_reducible assumption
    | ((with_reducible apply hM.of) <;> rfl)
    | with_reducible apply State.sendMsg_keeps
    | with_reducible apply Keeps.ite
    | (with_reducible apply Keeps.foldl; intro _ _ _)
    | split
    | dsimp -zeta only

theorem State.ringWritten_keeps {M : Mask} {s0 : State} {n : Nat} {urgent : Bool} {s : State} (hM : Sub ⟨0x1, 0x0⟩ M) (hK : Keeps M s0 s) :
    Keeps M s0 (State.ringWritten n urgent s) := by
  unfold State.ringWritten
  repeat' first
    | with_reducible assumption
    | ((with_reducible apply hM.of) <;> rfl)
    | with_reducible apply State.setQ_keeps
    | with_reducible apply State.signal_keeps
    | with_reducible apply Keeps.ite
    | (extract_lets +onlyGivenNames x1; with_reducible refine Cut x1 ?_ ?_)
    | (intro _; clear_value x1; revert x1; intro _ _)
    | subst x1
    | (extract_lets +onlyGivenNames x1; subst x1)
    | split
    | dsimp -zeta only

theorem tsorted_putBytes (l : List Byte) : ∀ (a : Nat) (m : List Host.Cell), tsorted m = true → tsorted (putBytes a l m) = true := by
  induction l with
  | nil => exact fun _ _ h => h
  | cons b r ih => exact fun a m h => ih _ _ (tsorted_tins a b m h)

theorem tsorted_putRanges (k : List (Nat × Nat)) : ∀ (l : List Byte) (m : List Host.Cell),
    tsorted m = true → tsorted (putRanges k l m) = true := by
  induction k with
  | nil => exact fun _ _ h => h
  | cons e r ih => exact fun l m h => ih _ _ (tsorted_putBytes _ _ _ h)

theorem State.hostWrite_keeps {M : Mask} {s0 : State} {a : Nat} {l : List Byte} {s : State} (hM : Sub ⟨0x1, 0x0⟩ M)
    (h : Keeps M s0 s) : Keeps M s0 (s.hostWrite a l) :=
  h.set_hri' (hM.bit 0 rfl) (tsorted_putBytes l a _)

theorem State.ringPut_keeps {M : Mask} {s0 : State} {n : Nat} {l : List Byte} {s : State} (hM : Sub ⟨0x1, 0x0⟩ M) (hK : Keeps M s0 s) :
    Keeps1 M s0 (State.ringPut n l s) := by
  unfold State.ringPut
  repeat' first
    | with_reducible assumption
    | ((with_reducible apply hM.of) <;> rfl)
    | with_reducible apply State.setQ_keeps
    | with_reducible apply State.hostWrite_keeps
    | with_reducible apply Keeps1.ite
    | with_reducible apply Keeps.ite
    | (extract_lets +onlyGivenNames x1; with_reducible refine Cut x1 ?_ ?_)
    | (intro _; clear_value x1; revert x1; intro _ _)
    | subst x1
    | (extract_lets +onlyGivenNames x1; subst x1)
    | split
    | with_reducible apply Keeps1.mk
    | dsimp -zeta only

theorem State.putEvent_keeps {M : Mask} {s0 : State} {e : Event} {s : State} (hM : Sub ⟨0x80001, 0x100000⟩ M) (hK : Keeps M s0 s) :
    Keeps M s0 (State.putEvent e s) := by
  unfold State.putEvent
  repeat' first
    | with_reducible assumption
    | ((with_reducible apply hM.of) <;> rfl)
    | with_reducible apply Wr.HRI_STAT
    | ((with_reducible apply hM.reg); decide)
    | with_reducible apply State.flag_keeps
    | with_reducible apply State.ringWritten_keeps
    | with_reducible apply State.ringPut_keeps
    | with_reducible apply Keeps.ite
    | (with_reducible apply Keeps1.of; with_reducible assumption)
    | with_reducible apply Keeps1.fst
    | (extract_lets +onlyGivenNames x1; with_reducible refine Cut x1 ?_ ?_)
    | (intro _; clear_value x1; revert x1; intro _ _)
    | subst x1
    | (extract_lets +onlyGivenNames x1; subst x1)
    | exact rfl
    | split
    | with_reducible apply Keeps1.mk
    | dsimp -zeta only

theorem State.newEvent_keeps {M : Mask} {s0 : State} {code : Nat} {sev : Nat} {source : Nat} {detail : Nat} {s : State} (hM : Sub ⟨0x1, 0x0⟩ M) (hK : Keeps M s0 s) :
    Keeps2 M s0 (State.newEvent code sev source detail s) := by
  unfold State.newEvent
  repeat' first
    | with_reducible assumption
    | ((with_reducible apply hM.of) <;> rfl)
    | with_reducible apply hM.bit
    | exact rfl
    | split
    | with_reducible apply Keeps.set_hri
    | with_reducible apply Keeps2.mk

theorem State.post_keeps {M : Mask} {s0 : State} {code sev source detail : Nat} {s : State} (hM : Sub ⟨0x80001, 0x100000⟩ M) (hK : Keeps M s0 s) :
    Keeps M s0 (State.post code sev source detail s) := by
  unfold State.post
  repeat' first
    | with_reducible assumption
    | ((with_reducible apply hM.of) <;> rfl)
    | with_reducible apply Wr.HRI_STAT
    | ((with_reducible apply hM.reg); decide)
    | with_reducible apply hM.bit
    | with_reducible apply State.count_keeps
    | with_reducible apply State.putEvent_keeps
    | with_reducible apply State.newEvent_keeps
    | with_reducible apply Keeps.ite
    | (with_reducible apply Keeps2.of; with_reducible assumption)
    | with_reducible apply Keeps2.snd
    | (extract_lets +onlyGivenNames x1; with_reducible refine Cut x1 ?_ ?_)
    | (intro _; clear_value x1; revert x1; intro _ _)
    | subst x1
    | (extract_lets +onlyGivenNames x1; subst x1)
    | exact rfl
    | split
    | with_reducible apply Keeps.set_hri
    | with_reducible apply Keeps2.mk

theorem drainHeld_keeps {M : Mask} {s0 : State} (hM : Sub ⟨0x80001, 0x100000⟩ M) (l : List Event) :
    ∀ {s : State}, Keeps M s0 s → Keeps M s0 (drainHeld l s) := by
  induction l with
  | nil => exact fun h => h.set_hri (hM.bit 0 rfl) rfl
  | cons e r ih =>
    intro s h
    unfold drainHeld
    split
    · exact ih (State.putEvent_keeps hM h)
    · exact h.set_hri (hM.bit 0 rfl) rfl

theorem State.drainEvents_keeps {M : Mask} {s0 : State} {s : State} (hM : Sub ⟨0x80001, 0x100000⟩ M) (hK : Keeps M s0 s) :
    Keeps M s0 (State.drainEvents s) := by
  unfold State.drainEvents
  repeat' first
    | with_reducible assumption
    | ((with_reducible apply hM.of) <;> rfl)
    | with_reducible apply hM.bit
    | with_reducible apply State.putEvent_keeps
    | with_reducible apply State.newEvent_keeps
    | with_reducible apply drainHeld_keeps
    | with_reducible apply Keeps.ite
    | (with_reducible apply Keeps2.of; with_reducible assumption)
    | with_reducible apply Keeps2.snd
    | (extract_lets +onlyGivenNames x1; with_reducible refine Cut x1 ?_ ?_)
    | (intro _; clear_value x1; revert x1; intro _ _)
    | subst x1
    | (extract_lets +onlyGivenNames x1; subst x1)
    | exact rfl
    | split
    | with_reducible apply Keeps.set_hri
    | with_reducible apply Keeps2.mk

theorem State.sramFixed_keeps {M : Mask} {s0 : State} {k : Nat} {s : State} (hM : Sub ⟨0x80000, 0x4⟩ M) (hK : Keeps M s0 s) :
    Keeps M s0 (State.sramFixed k s) := by
  unfold State.sramFixed
  repeat' first
    | with_reducible assumption
    | ((with_reducible apply hM.of) <;> rfl)
    | with_reducible apply Wr.GLB_STAT
    | ((with_reducible apply hM.reg); decide)
    | with_reducible apply State.count_keeps
    | exact rfl
    | split
    | dsimp -zeta only

theorem State.sramUe_keeps {M : Mask} {s0 : State} {source detail : Nat} {s : State} (hM : Sub ⟨0x80001, 0x100004⟩ M) (hK : Keeps M s0 s) :
    Keeps M s0 (State.sramUe source detail s) := by
  unfold State.sramUe
  repeat' first
    | with_reducible assumption
    | ((with_reducible apply hM.of) <;> rfl)
    | with_reducible apply Wr.GLB_STAT
    | ((with_reducible apply hM.reg); decide)
    | with_reducible apply State.flag_keeps
    | with_reducible apply State.post_keeps
    | exact rfl
    | split
    | dsimp -zeta only

theorem State.sramUeFree_keeps {M : Mask} {s0 : State} {detail : Nat} {s : State} (hM : Sub ⟨0xc0001, 0x100004⟩ M) (hK : Keeps M s0 s) :
    Keeps M s0 (State.sramUeFree detail s) := by
  unfold State.sramUeFree
  repeat' first
    | with_reducible assumption
    | ((with_reducible apply hM.of) <;> rfl)
    | with_reducible apply State.freeNat_keeps
    | with_reducible apply State.sramUe_keeps
    | (with_reducible apply Keeps2.of; with_reducible assumption)
    | with_reducible apply Keeps2.snd
    | (extract_lets +onlyGivenNames x1; with_reducible refine Cut x1 ?_ ?_)
    | (intro _; clear_value x1; revert x1; intro _ _)
    | subst x1
    | (extract_lets +onlyGivenNames x1; subst x1)
    | split
    | with_reducible apply Keeps2.mk
    | dsimp -zeta only

theorem State.sramUeGather_keeps {M : Mask} {s0 : State} {s : State} (hM : Sub ⟨0xc0001, 0x100004⟩ M) (hK : Keeps M s0 s) :
    Keeps M s0 (State.sramUeGather s) := by
  unfold State.sramUeGather
  repeat' first
    | with_reducible assumption
    | ((with_reducible apply hM.of) <;> rfl)
    | with_reducible apply State.freeNat_keeps
    | with_reducible apply State.sramUe_keeps
    | (with_reducible apply Keeps2.of; with_reducible assumption)
    | with_reducible apply Keeps2.snd
    | (extract_lets +onlyGivenNames x1; with_reducible refine Cut x1 ?_ ?_)
    | (intro _; clear_value x1; revert x1; intro _ _)
    | subst x1
    | (extract_lets +onlyGivenNames x1; subst x1)
    | split
    | with_reducible apply Keeps2.mk
    | dsimp -zeta only

theorem State.gatherRead_keeps {M : Mask} {s0 : State} {x : SramRead} {s : State} (hM : Sub ⟨0x80001, 0x100004⟩ M) (hK : Keeps M s0 s) :
    Keeps M s0 (State.gatherRead x s) := by
  unfold State.gatherRead
  repeat' first
    | with_reducible assumption
    | ((with_reducible apply hM.of) <;> rfl)
    | with_reducible apply State.sramFixed_keeps
    | with_reducible apply State.sramUe_keeps
    | (extract_lets +onlyGivenNames x1; with_reducible refine Cut x1 ?_ ?_)
    | (intro _; clear_value x1; revert x1; intro _ _)
    | subst x1
    | (extract_lets +onlyGivenNames x1; subst x1)
    | split
    | dsimp -zeta only

theorem State.putCompl_keeps {M : Mask} {s0 : State} {c : Compl} {s : State} (hM : Sub ⟨0x80001, 0x100000⟩ M) (hK : Keeps M s0 s) :
    Keeps M s0 (State.putCompl c s) := by
  unfold State.putCompl
  repeat' first
    | with_reducible assumption
    | ((with_reducible apply hM.of) <;> rfl)
    | with_reducible apply Wr.HRI_STAT
    | ((with_reducible apply hM.reg); decide)
    | with_reducible apply State.flag_keeps
    | with_reducible apply State.ringWritten_keeps
    | with_reducible apply State.ringPut_keeps
    | with_reducible apply State.post_keeps
    | with_reducible apply Keeps.ite
    | (with_reducible apply Keeps1.of; with_reducible assumption)
    | with_reducible apply Keeps1.fst
    | (extract_lets +onlyGivenNames x1; with_reducible refine Cut x1 ?_ ?_)
    | (intro _; clear_value x1; revert x1; intro _ _)
    | subst x1
    | (extract_lets +onlyGivenNames x1; subst x1)
    | exact rfl
    | split
    | with_reducible apply Keeps1.mk
    | dsimp -zeta only

theorem State.complete_keeps {M : Mask} {s0 : State} {c : Compl} {s : State} (hM : Sub ⟨0x80001, 0x100000⟩ M) (hK : Keeps M s0 s) :
    Keeps M s0 (State.complete c s) := by
  unfold State.complete
  repeat' first
    | with_reducible assumption
    | ((with_reducible apply hM.of) <;> rfl)
    | with_reducible apply hM.bit
    | with_reducible apply State.putCompl_keeps
    | with_reducible apply Keeps.ite
    | exact rfl
    | split
    | with_reducible apply Keeps.set_hri

theorem State.dropQueue_keeps {M : Mask} {s0 : State} {n : Nat} {s : State} (hM : Sub ⟨0x80001, 0x100000⟩ M) (hK : Keeps M s0 s) :
    Keeps M s0 (State.dropQueue n s) := by
  unfold State.dropQueue
  repeat' first
    | with_reducible assumption
    | ((with_reducible apply hM.of) <;> rfl)
    | with_reducible apply State.setQ_keeps
    | with_reducible apply State.modQ_keeps
    | with_reducible apply State.complete_keeps
    | (extract_lets +onlyGivenNames x1; with_reducible refine Cut x1 ?_ ?_)
    | (intro _; clear_value x1; revert x1; intro _ _)
    | subst x1
    | (extract_lets +onlyGivenNames x1; subst x1)
    | split
    | dsimp -zeta only

theorem State.dropDone_keeps {M : Mask} {s0 : State} {n : Nat} {s : State} (hM : Sub ⟨0x80001, 0x100000⟩ M) (hK : Keeps M s0 s) :
    Keeps M s0 (State.dropDone n s) := by
  unfold State.dropDone
  repeat' first
    | with_reducible assumption
    | ((with_reducible apply hM.of) <;> rfl)
    | with_reducible apply State.dropQueue_keeps
    | with_reducible apply Keeps.ite
    | (extract_lets +onlyGivenNames x1; with_reducible refine Cut x1 ?_ ?_)
    | (intro _; clear_value x1; revert x1; intro _ _)
    | subst x1
    | (extract_lets +onlyGivenNames x1; subst x1)
    | split
    | dsimp -zeta only

theorem State.retire_keeps {M : Mask} {s0 : State} {n tag : Nat} {s : State} (hM : Sub ⟨0x80001, 0x100000⟩ M) (hK : Keeps M s0 s) :
    Keeps M s0 (State.retire n tag s) := by
  unfold State.retire
  repeat' first
    | with_reducible assumption
    | ((with_reducible apply hM.of) <;> rfl)
    | with_reducible apply State.modQ_keeps
    | with_reducible apply State.dropDone_keeps
    | with_reducible apply Keeps.ite
    | split
    | dsimp -zeta only

theorem State.finish_keeps {M : Mask} {s0 : State} {n : Nat} {c : Cmd} {typ code result : Nat} {s : State} (hM : Sub ⟨0x80001, 0x100000⟩ M) (hK : Keeps M s0 s) :
    Keeps M s0 (State.finish n c typ code result s) := by
  unfold State.finish
  repeat' first
    | with_reducible assumption
    | ((with_reducible apply hM.of) <;> rfl)
    | with_reducible apply State.complete_keeps
    | with_reducible apply State.retire_keeps
    | split
    | dsimp -zeta only

theorem State.failed_keeps {M : Mask} {s0 : State} {n : Nat} {c : Cmd} {typ code result lba detail : Nat} {s : State} (hM : Sub ⟨0x80001, 0x100000⟩ M) (hK : Keeps M s0 s) :
    Keeps M s0 (State.failed n c typ code result lba detail s) := by
  unfold State.failed
  repeat' first
    | with_reducible assumption
    | ((with_reducible apply hM.of) <;> rfl)
    | with_reducible apply State.modQ_keeps
    | with_reducible apply State.complete_keeps
    | with_reducible apply Keeps.ite
    | (extract_lets +onlyGivenNames x1; with_reducible refine Cut x1 ?_ ?_)
    | (intro _; clear_value x1; revert x1; intro _ _)
    | subst x1
    | (extract_lets +onlyGivenNames x1; subst x1)
    | split
    | dsimp -zeta only

theorem State.fail_keeps {M : Mask} {s0 : State} {n : Nat} {c : Cmd} {typ code result lba detail : Nat} {s : State} (hM : Sub ⟨0x80001, 0x100000⟩ M) (hK : Keeps M s0 s) :
    Keeps M s0 (State.fail n c typ code result lba detail s) := by
  unfold State.fail
  repeat' first
    | with_reducible assumption
    | ((with_reducible apply hM.of) <;> rfl)
    | with_reducible apply State.retire_keeps
    | with_reducible apply State.failed_keeps
    | split
    | dsimp -zeta only

theorem State.declined_keeps {M : Mask} {s0 : State} {n : Nat} {c : Cmd} {typ code result : Nat} {s : State} (hM : Sub ⟨0x80001, 0x100000⟩ M) (hK : Keeps M s0 s) :
    Keeps M s0 (State.declined n c typ code result s) := by
  unfold State.declined
  repeat' first
    | with_reducible assumption
    | ((with_reducible apply hM.of) <;> rfl)
    | with_reducible apply State.modQ_keeps
    | with_reducible apply State.complete_keeps
    | with_reducible apply State.retire_keeps
    | (extract_lets +onlyGivenNames x1; with_reducible refine Cut x1 ?_ ?_)
    | (intro _; clear_value x1; revert x1; intro _ _)
    | subst x1
    | (extract_lets +onlyGivenNames x1; subst x1)
    | split
    | dsimp -zeta only

theorem State.release_keeps {M : Mask} {s0 : State} {s : State} {c : Compl} (hM : Sub ⟨0x80001, 0x100000⟩ M) (hK : Keeps M s0 s) :
    Keeps M s0 (State.release s c) := by
  unfold State.release
  repeat' first
    | with_reducible assumption
    | ((with_reducible apply hM.of) <;> rfl)
    | with_reducible apply State.modQ_keeps
    | with_reducible apply State.putCompl_keeps
    | with_reducible apply Keeps.ite
    | (extract_lets +onlyGivenNames x1; with_reducible refine Cut x1 ?_ ?_)
    | (intro _; clear_value x1; revert x1; intro _ _)
    | subst x1
    | (extract_lets +onlyGivenNames x1; subst x1)
    | split
    | dsimp -zeta only

theorem State.adminDone_keeps {M : Mask} {s0 : State} {c : Cmd} {typ code result : Nat} {s : State} (hM : Sub ⟨0x80001, 0x100000⟩ M) (hK : Keeps M s0 s) :
    Keeps M s0 (State.adminDone c typ code result s) := by
  unfold State.adminDone
  repeat' first
    | with_reducible assumption
    | ((with_reducible apply hM.of) <;> rfl)
    | with_reducible apply State.finish_keeps
    | split
    | dsimp -zeta only

theorem State.putBuffer_keeps {M : Mask} {s0 : State} {c : Cmd} {segs : Segs} {len off : Nat} {l : List Byte}
    {s : State} (hM : Sub ⟨0x1, 0x0⟩ M) (h : Keeps M s0 s) : Keeps M s0 (s.putBuffer c segs len off l) :=
  h.set_hri' (hM.bit 0 rfl) (tsorted_putRanges _ l _)

end Sys2Proof.Machine
end

