-- ==== Sys2Proof/Laws/KeepsEvents.lean ====
section
/-! SUPPORT. What each operation of Machine/Events.lean keeps (Laws/Keeps.lean says what that means). -/

namespace Sys2Proof.Machine

theorem State.ready_keeps {M : Mask} {s0 : State} {v : Nat} {s : State} (hM : Sub ⟨0x80000, 0x10⟩ M) (hK : Keeps M s0 s) :
    Keeps M s0 (State.ready v s) := by
  unfold State.ready
  repeat' first
    | with_reducible assumption
    | ((with_reducible apply hM.of) <;> rfl)
    | with_reducible apply Wr.PWR_STAT
    | ((with_reducible apply hM.reg); decide)
    | with_reducible apply State.wf_keeps
    | exact rfl
    | split
    | dsimp -zeta only

theorem State.startDozeWake_keeps {M : Mask} {s0 : State} {s : State} (hM : Sub ⟨0x80800, 0x10⟩ M) (hK : Keeps M s0 s) :
    Keeps M s0 (State.startDozeWake s) := by
  unfold State.startDozeWake
  repeat' first
    | with_reducible assumption
    | ((with_reducible apply hM.of) <;> rfl)
    | with_reducible apply Wr.PWR_STAT
    | ((with_reducible apply hM.reg); decide)
    | with_reducible apply hM.bit
    | with_reducible apply State.wf_keeps
    | with_reducible apply State.ready_keeps
    | (extract_lets +onlyGivenNames x1; with_reducible refine Cut x1 ?_ ?_)
    | (intro _; clear_value x1; revert x1; intro _ _)
    | subst x1
    | (extract_lets +onlyGivenNames x1; subst x1)
    | exact rfl
    | split
    | with_reducible apply Keeps.set_power

theorem State.startHushWake_keeps {M : Mask} {s0 : State} {s : State} (hM : Sub ⟨0x80800, 0x10⟩ M) (hK : Keeps M s0 s) :
    Keeps M s0 (State.startHushWake s) := by
  unfold State.startHushWake
  repeat' first
    | with_reducible assumption
    | ((with_reducible apply hM.of) <;> rfl)
    | with_reducible apply Wr.PWR_STAT
    | ((with_reducible apply hM.reg); decide)
    | with_reducible apply hM.bit
    | with_reducible apply State.wf_keeps
    | with_reducible apply State.ready_keeps
    | exact rfl
    | split
    | with_reducible apply Keeps.set_power

theorem State.wake_keeps {M : Mask} {s0 : State} {c : WakeSrc} {s : State} (hM : Sub ⟨0x80800, 0x80000000000000000000000000000000000110⟩ M) (hK : Keeps M s0 s) :
    Keeps M s0 (State.wake c s) := by
  unfold State.wake
  repeat' first
    | with_reducible assumption
    | ((with_reducible apply hM.of) <;> rfl)
    | with_reducible apply Wr.PWR_STAT
    | with_reducible apply Wr.PWR_WAKEST
    | with_reducible apply Wr.SMB_STAT
    | ((with_reducible apply hM.reg); decide)
    | with_reducible apply hM.bit
    | with_reducible apply State.wf_keeps
    | with_reducible apply State.flag_keeps
    | with_reducible apply State.startDozeWake_keeps
    | with_reducible apply State.startHushWake_keeps
    | with_reducible apply Keeps.ite
    | (extract_lets +onlyGivenNames x1; with_reducible refine Cut x1 ?_ ?_)
    | (intro _; clear_value x1; revert x1; intro _ _)
    | subst x1
    | (extract_lets +onlyGivenNames x1; subst x1)
    | exact rfl
    | split
    | with_reducible apply Keeps.set_power

theorem State.busyRun_keeps {M : Mask} {s0 : State} {s : State} (hM : Sub ⟨0x80000, 0x10⟩ M) (hK : Keeps M s0 s) :
    Keeps M s0 (State.busyRun s) := by
  unfold State.busyRun
  repeat' first
    | with_reducible assumption
    | ((with_reducible apply hM.of) <;> rfl)
    | with_reducible apply Wr.PWR_STAT
    | ((with_reducible apply hM.reg); decide)
    | with_reducible apply State.wf_keeps
    | with_reducible apply Keeps.ite
    | exact rfl
    | split
    | dsimp -zeta only

theorem State.newtBusy_keeps {M : Mask} {s0 : State} {n : Nat} {s : State} (hM : Sub ⟨0x80000, 0x10⟩ M) (hK : Keeps M s0 s) :
    Keeps M s0 (State.newtBusy n s) := by
  unfold State.newtBusy
  repeat' first
    | with_reducible assumption
    | ((with_reducible apply hM.of) <;> rfl)
    | with_reducible apply State.busyRun_keeps
    | with_reducible apply Keeps.ite
    | split
    | dsimp -zeta only

theorem State.setNewt_keeps {M : Mask} {s0 : State} {n : Nat} {x : Newt} {s : State} (hM : Sub ⟨0x40, 0x0⟩ M) (hK : Keeps M s0 s) :
    Keeps M s0 (State.setNewt n x s) := by
  unfold State.setNewt
  repeat' first
    | with_reducible assumption
    | ((with_reducible apply hM.of) <;> rfl)
    | with_reducible apply hM.bit
    | exact rfl
    | split
    | with_reducible apply Keeps.set_newts

theorem State.modNewt_keeps {M : Mask} {s0 : State} {n : Nat} {f : Newt → Newt} {s : State} (hM : Sub ⟨0x40, 0x0⟩ M) (hK : Keeps M s0 s) :
    Keeps M s0 (State.modNewt n f s) := by
  unfold State.modNewt
  repeat' first
    | with_reducible assumption
    | ((with_reducible apply hM.of) <;> rfl)
    | with_reducible apply State.setNewt_keeps
    | split
    | dsimp -zeta only

theorem State.pmcAdd_keeps {M : Mask} {s0 : State} {n k d : Nat} {s : State} (hM : Sub ⟨0x80000, 0x900000000000000000000000000000000000⟩ M) (hK : Keeps M s0 s) :
    Keeps M s0 (State.pmcAdd n k d s) := by
  unfold State.pmcAdd
  repeat' first
    | with_reducible assumption
    | ((with_reducible apply hM.of) <;> rfl)
    | with_reducible apply Wr.PMC_OVF
    | with_reducible apply Wr.PMC_CNT
    | ((with_reducible apply hM.reg); decide)
    | with_reducible apply State.wr_keeps
    | with_reducible apply State.flag_keeps
    | with_reducible apply Keeps.ite
    | (extract_lets +onlyGivenNames x1; with_reducible refine Cut x1 ?_ ?_)
    | (intro _; clear_value x1; revert x1; intro _ _)
    | subst x1
    | (extract_lets +onlyGivenNames x1; subst x1)
    | exact rfl
    | split
    | dsimp -zeta only

theorem State.pmc_keeps {M : Mask} {s0 : State} {n code d : Nat} {s : State} (hM : Sub ⟨0x80000, 0x900000000000000000000000000000000000⟩ M) (hK : Keeps M s0 s) :
    Keeps M s0 (State.pmc n code d s) := by
  unfold State.pmc
  repeat' first
    | with_reducible assumption
    | ((with_reducible apply hM.of) <;> rfl)
    | with_reducible apply State.pmcAdd_keeps
    | with_reducible apply Keeps.ite
    | (with_reducible apply Keeps.foldl; intro _ _ _)
    | split
    | dsimp -zeta only

theorem State.tokenSafe_keeps {M : Mask} {s0 : State} {r : Nat} {s : State} (hM : Sub ⟨0x80101, 0x100000⟩ M) (hK : Keeps M s0 s) :
    Keeps M s0 (State.tokenSafe r s) := by
  unfold State.tokenSafe
  repeat' first
    | with_reducible assumption
    | ((with_reducible apply hM.of) <;> rfl)
    | with_reducible apply hM.bit
    | with_reducible apply State.post_keeps
    | with_reducible apply Keeps.ite
    | exact rfl
    | split
    | with_reducible apply Keeps.set_roles

theorem State.markWait_keeps {M : Mask} {s0 : State} {s : State} (hM : Sub ⟨0x200, 0x0⟩ M) (hK : Keeps M s0 s) :
    Keeps M s0 (State.markWait s) := by
  unfold State.markWait
  repeat' first
    | with_reducible assumption
    | ((with_reducible apply hM.of) <;> rfl)
    | with_reducible apply hM.bit
    | with_reducible apply Keeps.ite
    | (with_reducible apply Keeps.foldl; intro _ _ _)
    | (extract_lets +onlyGivenNames x1; with_reducible refine Cut x1 ?_ ?_)
    | (intro _; clear_value x1; revert x1; intro _ _)
    | subst x1
    | (extract_lets +onlyGivenNames x1; subst x1)
    | exact rfl
    | split
    | with_reducible apply Keeps.set_pio

theorem State.outSafe_keeps {M : Mask} {s0 : State} {s : State} (hM : Sub ⟨0x80301, 0x100000⟩ M) (hK : Keeps M s0 s) :
    Keeps M s0 (State.outSafe s) := by
  unfold State.outSafe
  repeat' first
    | with_reducible assumption
    | ((with_reducible apply hM.of) <;> rfl)
    | with_reducible apply State.tokenSafe_keeps
    | with_reducible apply State.markWait_keeps
    | (with_reducible apply Keeps.foldl; intro _ _ _)
    | split
    | dsimp -zeta only

theorem State.outWritten_keeps {M : Mask} {s0 : State} {k : Nat} {s : State} (hM : Sub ⟨0x100, 0x0⟩ M) (hK : Keeps M s0 s) :
    Keeps M s0 (State.outWritten k s) := by
  unfold State.outWritten
  repeat' first
    | with_reducible assumption
    | ((with_reducible apply hM.of) <;> rfl)
    | with_reducible apply hM.bit
    | with_reducible apply Keeps.ite
    | exact rfl
    | split
    | with_reducible apply Keeps.set_roles

theorem State.adcTrigger_keeps {M : Mask} {s0 : State} {hop : Nat} {s : State} (hM : Sub ⟨0x80201, 0x10000000000000100000⟩ M) (hK : Keeps M s0 s) :
    Keeps M s0 (State.adcTrigger hop s) := by
  unfold State.adcTrigger
  repeat' first
    | with_reducible assumption
    | ((with_reducible apply hM.of) <;> rfl)
    | with_reducible apply Wr.PIO_STAT
    | ((with_reducible apply hM.reg); decide)
    | with_reducible apply hM.bit
    | with_reducible apply State.flag_keeps
    | with_reducible apply State.post_keeps
    | with_reducible apply Keeps.ite
    | exact rfl
    | split
    | with_reducible apply Keeps.set_pio

theorem State.pwmPeriod_keeps {M : Mask} {s0 : State} {up : Nat → Nat → State → State} {k hop : Nat} {s : State} (hM : Sub ⟨0x80201, 0x8010000000000000100000⟩ M) (hup : ∀ p h s, Keeps M s0 s → Keeps M s0 (up p h s))
    (hK : Keeps M s0 s) :
    Keeps M s0 (State.pwmPeriod up k hop s) := by
  unfold State.pwmPeriod
  repeat' first
    | with_reducible assumption
    | ((with_reducible apply hM.of) <;> rfl)
    | with_reducible apply Wr.PIO_PWMDUTY
    | ((with_reducible apply hM.reg); decide)
    | with_reducible apply hM.bit
    | with_reducible apply hup
    | with_reducible apply State.wf_keeps
    | with_reducible apply State.adcTrigger_keeps
    | with_reducible apply Keeps.ite
    | (extract_lets +onlyGivenNames x1; with_reducible refine Cut x1 ?_ ?_)
    | (intro _; clear_value x1; revert x1; intro _ _)
    | subst x1
    | (extract_lets +onlyGivenNames x1; subst x1)
    | exact rfl
    | split
    | with_reducible apply Keeps.set_pio

theorem State.merged_keeps {M : Mask} {s0 : State} {t : Nat} {s : State} (hM : Sub ⟨0x80001, 0x20000000000000000000100000⟩ M) (hK : Keeps M s0 s) :
    Keeps M s0 (State.merged t s) := by
  unfold State.merged
  repeat' first
    | with_reducible assumption
    | ((with_reducible apply hM.of) <;> rfl)
    | with_reducible apply Wr.EVM_MERGED
    | ((with_reducible apply hM.reg); decide)
    | with_reducible apply State.flag_keeps
    | with_reducible apply State.post_keeps
    | with_reducible apply Keeps.ite
    | (extract_lets +onlyGivenNames x1; with_reducible refine Cut x1 ?_ ?_)
    | (intro _; clear_value x1; revert x1; intro _ _)
    | subst x1
    | (extract_lets +onlyGivenNames x1; subst x1)
    | exact rfl
    | split
    | dsimp -zeta only

theorem State.newtInput_keeps {M : Mask} {s0 : State} {n k hop : Nat} {s : State} (hM : Sub ⟨0x80041, 0x900000000024000000000000000000100000⟩ M) (hK : Keeps M s0 s) :
    Keeps M s0 (State.newtInput n k hop s) := by
  unfold State.newtInput
  repeat' first
    | with_reducible assumption
    | ((with_reducible apply hM.of) <;> rfl)
    | with_reducible apply Wr.EVM_STAT
    | ((with_reducible apply hM.reg); decide)
    | with_reducible apply State.count_keeps
    | with_reducible apply State.setNewt_keeps
    | with_reducible apply State.pmc_keeps
    | with_reducible apply State.merged_keeps
    | with_reducible apply Keeps.ite
    | (extract_lets +onlyGivenNames x1; with_reducible refine Cut x1 ?_ ?_)
    | (intro _; clear_value x1; revert x1; intro _ _)
    | subst x1
    | (extract_lets +onlyGivenNames x1; subst x1)
    | exact rfl
    | split
    | dsimp -zeta only

theorem State.task_keeps {M : Mask} {s0 : State} {up : Nat → Nat → State → State} {hop : Nat} {s : State} {t : Nat} (hM : Sub ⟨0x80341, 0x90000000003440c010000000000000100000⟩ M) (hup : ∀ p h s, Keeps M s0 s → Keeps M s0 (up p h s))
    (hK : Keeps M s0 s) :
    Keeps M s0 (State.task up hop s t) := by
  unfold State.task
  repeat' first
    | with_reducible assumption
    | ((with_reducible apply hM.of) <;> rfl)
    | with_reducible apply Wr.PIO_PWMCFG
    | with_reducible apply Wr.PIO_ENCCAP
    | with_reducible apply Wr.EVM_TS
    | ((with_reducible apply hM.reg); decide)
    | with_reducible apply hM.bit
    | with_reducible apply hup
    | with_reducible apply State.wr_keeps
    | with_reducible apply State.wb_keeps
    | with_reducible apply State.post_keeps
    | with_reducible apply State.outSafe_keeps
    | with_reducible apply State.adcTrigger_keeps
    | with_reducible apply State.pwmPeriod_keeps
    | with_reducible apply State.newtInput_keeps
    | with_reducible apply Keeps.ite
    | (with_reducible apply Keeps.foldl; intro _ _ _)
    | (extract_lets +onlyGivenNames x1; with_reducible refine Cut x1 ?_ ?_)
    | (intro _; clear_value x1; revert x1; intro _ _)
    | subst x1
    | (extract_lets +onlyGivenNames x1; subst x1)
    | exact rfl
    | split
    | with_reducible apply Keeps.set_pio

theorem raiseN_keeps {M : Mask} {s0 : State} (hM : Sub ⟨0x80341, 0x90000000013440c010000000000000100000⟩ M) (n : Nat) :
    ∀ (p hop : Nat) (s : State), Keeps M s0 s → Keeps M s0 (raiseN n p hop s) := by
  induction n with
  | zero => exact fun _ _ _ h => h
  | succ n ih =>
    intro p hop s h
    unfold raiseN
    repeat' first
      | with_reducible assumption
      | ((with_reducible apply hM.of) <;> rfl)
      | with_reducible apply Wr.EVM_STAT
      | with_reducible apply Wr.EVM_CCTL
      | ((with_reducible apply hM.reg); decide)
      | with_reducible apply ih
      | (intro _ _ _ _)
      | with_reducible apply State.wf_keeps
      | with_reducible apply State.flag_keeps
      | with_reducible apply State.count_keeps
      | with_reducible apply State.post_keeps
      | with_reducible apply State.task_keeps
      | with_reducible apply Keeps.ite
      | (with_reducible apply Keeps.foldl; intro _ _ _)
      | with_reducible apply Keeps.ite
      | (extract_lets +onlyGivenNames x1; with_reducible refine Cut x1 ?_ ?_)
      | (intro _; clear_value x1; revert x1; intro _ _)
      | subst x1
      | (extract_lets +onlyGivenNames x1; subst x1)
      | exact rfl
      | split
      | dsimp -zeta only

theorem State.raise_keeps {M : Mask} {s0 : State} {p hop : Nat} {s : State} (hM : Sub ⟨0x80341, 0x90000000013440c010000000000000100000⟩ M) (hK : Keeps M s0 s) :
    Keeps M s0 (State.raise p hop s) := by
  unfold State.raise
  repeat' first
    | with_reducible assumption
    | ((with_reducible apply hM.of) <;> rfl)
    | with_reducible apply raiseN_keeps
    | split
    | dsimp -zeta only

theorem State.triggered_keeps {M : Mask} {s0 : State} {many : Bool} {t : Nat} {s : State} (hM : Sub ⟨0x80341, 0x90000000013440c010000000000000100000⟩ M) (hK : Keeps M s0 s) :
    Keeps M s0 (State.triggered many t s) := by
  unfold State.triggered
  repeat' first
    | with_reducible assumption
    | ((with_reducible apply hM.of) <;> rfl)
    | with_reducible apply State.merged_keeps
    | with_reducible apply State.newtInput_keeps
    | with_reducible apply State.task_keeps
    | with_reducible apply raiseN_keeps
    | with_reducible apply Keeps.ite
    | (extract_lets +onlyGivenNames x1; with_reducible refine Cut x1 ?_ ?_)
    | (intro _; clear_value x1; revert x1; intro _ _)
    | subst x1
    | (extract_lets +onlyGivenNames x1; subst x1)
    | split
    | dsimp -zeta only

theorem State.raiseTogether_keeps {M : Mask} {s0 : State} {ps : List Nat} {s : State} (hM : Sub ⟨0x80341, 0x90000000013440c010000000000000100000⟩ M) (hK : Keeps M s0 s) :
    Keeps M s0 (State.raiseTogether ps s) := by
  unfold State.raiseTogether
  repeat' first
    | with_reducible assumption
    | ((with_reducible apply hM.of) <;> rfl)
    | with_reducible apply Wr.EVM_CCTL
    | ((with_reducible apply hM.reg); decide)
    | with_reducible apply State.count_keeps
    | with_reducible apply State.triggered_keeps
    | with_reducible apply Keeps.ite
    | (with_reducible apply Keeps.foldl; intro _ _ _)
    | (extract_lets +onlyGivenNames x1; with_reducible refine Cut x1 ?_ ?_)
    | (intro _; clear_value x1; revert x1; intro _ _)
    | subst x1
    | (extract_lets +onlyGivenNames x1; subst x1)
    | exact rfl
    | split
    | dsimp -zeta only

theorem State.pwmStart_keeps {M : Mask} {s0 : State} {k hop : Nat} {s : State} (hM : Sub ⟨0x80341, 0x90000000013440c010000000000000100000⟩ M) (hK : Keeps M s0 s) :
    Keeps M s0 (State.pwmStart k hop s) := by
  unfold State.pwmStart
  repeat' first
    | with_reducible assumption
    | ((with_reducible apply hM.of) <;> rfl)
    | (intro _ _ _ _)
    | with_reducible apply State.pwmPeriod_keeps
    | with_reducible apply raiseN_keeps
    | split
    | dsimp -zeta only

end Sys2Proof.Machine
end

