-- ==== Sys2Proof/Laws/KeepsFlash.lean ====
section
/-! SUPPORT. What each operation of Machine/Flash.lean keeps (Laws/Keeps.lean says what that means). -/

namespace Sys2Proof.Machine

theorem State.setSector_keeps {M : Mask} {s0 : State} {k : Nat} {x : Sector} {s : State} (hM : Sub ⟨0x1000, 0x0⟩ M) (hK : Keeps M s0 s) :
    Keeps M s0 (State.setSector k x s) := by
  unfold State.setSector
  repeat' first
    | with_reducible assumption
    | ((with_reducible apply hM.of) <;> rfl)
    | with_reducible apply hM.bit
    | exact rfl
    | split
    | with_reducible apply Keeps.set_flash

theorem State.cflOwner_keeps {M : Mask} {s0 : State} {o : Option Master} {s : State} (hM : Sub ⟨0x81000, 0x400000000000000000000000000000⟩ M) (hK : Keeps M s0 s) :
    Keeps M s0 (State.cflOwner o s) := by
  unfold State.cflOwner
  repeat' first
    | with_reducible assumption
    | ((with_reducible apply hM.of) <;> rfl)
    | with_reducible apply Wr.CFL_STAT
    | ((with_reducible apply hM.reg); decide)
    | with_reducible apply hM.bit
    | with_reducible apply State.wf_keeps
    | (extract_lets +onlyGivenNames x1; with_reducible refine Cut x1 ?_ ?_)
    | (intro _; clear_value x1; revert x1; intro _ _)
    | subst x1
    | (extract_lets +onlyGivenNames x1; subst x1)
    | exact rfl
    | split
    | with_reducible apply Keeps.set_flash

theorem State.cflShow_keeps {M : Mask} {s0 : State} {s : State} (hM : Sub ⟨0x80000, 0x400000000000000000000000000000⟩ M) (hK : Keeps M s0 s) :
    Keeps M s0 (State.cflShow s) := by
  unfold State.cflShow
  repeat' first
    | with_reducible assumption
    | ((with_reducible apply hM.of) <;> rfl)
    | with_reducible apply Wr.CFL_STAT
    | ((with_reducible apply hM.reg); decide)
    | with_reducible apply State.wb_keeps
    | exact rfl
    | split
    | dsimp -zeta only

theorem State.cflResult_keeps {M : Mask} {s0 : State} {res : Nat} {s : State} (hM : Sub ⟨0x80000, 0x400000000000000000000000000000⟩ M) (hK : Keeps M s0 s) :
    Keeps M s0 (State.cflResult res s) := by
  unfold State.cflResult
  repeat' first
    | with_reducible assumption
    | ((with_reducible apply hM.of) <;> rfl)
    | with_reducible apply Wr.CFL_STAT
    | ((with_reducible apply hM.reg); decide)
    | with_reducible apply State.wf_keeps
    | with_reducible apply State.flag_keeps
    | with_reducible apply State.cflShow_keeps
    | exact rfl
    | split
    | dsimp -zeta only

theorem State.cflRelease_keeps {M : Mask} {s0 : State} {s : State} (hM : Sub ⟨0x81000, 0x400000000000000000000000000000⟩ M) (hK : Keeps M s0 s) :
    Keeps M s0 (State.cflRelease s) := by
  unfold State.cflRelease
  repeat' first
    | with_reducible assumption
    | ((with_reducible apply hM.of) <;> rfl)
    | with_reducible apply hM.bit
    | with_reducible apply State.cflOwner_keeps
    | with_reducible apply Keeps.ite
    | (extract_lets +onlyGivenNames x1; with_reducible refine Cut x1 ?_ ?_)
    | (intro _; clear_value x1; revert x1; intro _ _)
    | subst x1
    | (extract_lets +onlyGivenNames x1; subst x1)
    | exact rfl
    | split
    | with_reducible apply Keeps.set_flash

theorem State.cflAbandon_keeps {M : Mask} {s0 : State} {s : State} (hM : Sub ⟨0x81000, 0x400000000000000000000000000000⟩ M) (hK : Keeps M s0 s) :
    Keeps M s0 (State.cflAbandon s) := by
  unfold State.cflAbandon
  repeat' first
    | with_reducible assumption
    | ((with_reducible apply hM.of) <;> rfl)
    | with_reducible apply Wr.CFL_STAT
    | ((with_reducible apply hM.reg); decide)
    | with_reducible apply hM.bit
    | with_reducible apply State.wf_keeps
    | with_reducible apply State.flag_keeps
    | with_reducible apply State.cflOwner_keeps
    | exact rfl
    | split
    | with_reducible apply Keeps.set_flash

theorem State.cflStep_keeps {M : Mask} {s0 : State} {r : Nat} {w : Word} {s : State} (hM : Sub ⟨0x81000, 0x400000000000000000000000000000⟩ M) (hK : Keeps M s0 s) :
    Keeps M s0 (State.cflStep r w s) := by
  unfold State.cflStep
  repeat' first
    | with_reducible assumption
    | ((with_reducible apply hM.of) <;> rfl)
    | with_reducible apply hM.bit
    | with_reducible apply State.cflAbandon_keeps
    | with_reducible apply Keeps.ite
    | (extract_lets +onlyGivenNames x1; with_reducible refine Cut x1 ?_ ?_)
    | (intro _; clear_value x1; revert x1; intro _ _)
    | subst x1
    | (extract_lets +onlyGivenNames x1; subst x1)
    | exact rfl
    | split
    | with_reducible apply Keeps.set_flash

theorem State.cflWrite_keeps {M : Mask} {s0 : State} {m : Master} {r : Nat} {w : Word} {s : State} (hM : Sub ⟨0x81000, 0x400000000000000000000000000000⟩ M) (hK : Keeps M s0 s) :
    Keeps M s0 (State.cflWrite m r w s) := by
  unfold State.cflWrite
  repeat' first
    | with_reducible assumption
    | ((with_reducible apply hM.of) <;> rfl)
    | with_reducible apply Wr.CFL_STAT
    | ((with_reducible apply hM.reg); decide)
    | with_reducible apply hM.bit
    | with_reducible apply State.flag_keeps
    | with_reducible apply State.cflOwner_keeps
    | with_reducible apply State.cflAbandon_keeps
    | with_reducible apply State.cflStep_keeps
    | with_reducible apply Keeps.ite
    | exact rfl
    | split
    | with_reducible apply Keeps.set_flash

theorem twf_putFlash (l : List Byte) : ∀ (a : Nat) (t : Tbl Byte),
    twf (fun _ => (0xFF : Byte)) t = true → twf (fun _ => (0xFF : Byte)) (putFlash a l t) = true := by
  induction l with
  | nil => exact fun _ _ h => h
  | cons b r ih => exact fun a t h => ih _ _ (twf_tset _ _ _ _ h)

theorem State.startProgram_keeps {M : Mask} {s0 : State} {a : Nat} {l : List Byte} {s : State} (hM : Sub ⟨0x81000, 0x400000000000000000000000000000⟩ M) (hK : Keeps M s0 s) :
    Keeps M s0 (State.startProgram a l s) := by
  unfold State.startProgram
  repeat' first
    | with_reducible assumption
    | ((with_reducible apply hM.of) <;> rfl)
    | with_reducible apply hM.bit
    | (intro hx; dsimp only; exact twf_putFlash _ _ _ hx)
    | with_reducible apply State.setSector_keeps
    | with_reducible apply State.cflShow_keeps
    | (extract_lets +onlyGivenNames x1; with_reducible refine Cut x1 ?_ ?_)
    | (intro _; clear_value x1; revert x1; intro _ _)
    | subst x1
    | (extract_lets +onlyGivenNames x1; subst x1)
    | exact rfl
    | split
    | with_reducible apply Keeps.set_flash'

theorem State.startErase_keeps {M : Mask} {s0 : State} {k : Nat} {m : Option Master} {s : State} (hM : Sub ⟨0x81000, 0x400000000000000000000000000000⟩ M) (hK : Keeps M s0 s) :
    Keeps M s0 (State.startErase k m s) := by
  unfold State.startErase
  repeat' first
    | with_reducible assumption
    | ((with_reducible apply hM.of) <;> rfl)
    | with_reducible apply hM.bit
    | with_reducible apply State.setSector_keeps
    | with_reducible apply State.cflShow_keeps
    | (extract_lets +onlyGivenNames x1; with_reducible refine Cut x1 ?_ ?_)
    | (intro _; clear_value x1; revert x1; intro _ _)
    | subst x1
    | (extract_lets +onlyGivenNames x1; subst x1)
    | exact rfl
    | split
    | with_reducible apply Keeps.set_flash

theorem State.eraseArray_keeps {M : Mask} {s0 : State} {k : Nat} {s : State} (hM : Sub ⟨0x1000, 0x0⟩ M) (hK : Keeps M s0 s) :
    Keeps M s0 (State.eraseArray k s) := by
  unfold State.eraseArray
  repeat' first
    | with_reducible assumption
    | ((with_reducible apply hM.of) <;> rfl)
    | with_reducible apply hM.bit
    | (intro hx; dsimp only; exact twf_tclear _ _ _ hx)
    | with_reducible apply State.setSector_keeps
    | (extract_lets +onlyGivenNames x1; with_reducible refine Cut x1 ?_ ?_)
    | (intro _; clear_value x1; revert x1; intro _ _)
    | subst x1
    | (extract_lets +onlyGivenNames x1; subst x1)
    | exact rfl
    | split
    | with_reducible apply Keeps.set_flash'

theorem execProgramLine_keeps {M : Mask} {s0 : State} {s : State} (hM : Sub ⟨0x81000, 0x400000000000000000000000000000⟩ M) (hK : Keeps M s0 s) :
    Good M s0 (execProgramLine s) := by
  unfold execProgramLine
  repeat' first
    | with_reducible assumption
    | ((with_reducible apply hM.of) <;> rfl)
    | with_reducible apply hM.bit
    | with_reducible apply State.cflResult_keeps
    | with_reducible apply State.cflRelease_keeps
    | with_reducible apply State.startProgram_keeps
    | with_reducible apply Good.ite
    | with_reducible apply Good.next
    | with_reducible apply Keeps.ite
    | exact rfl
    | split
    | with_reducible apply Keeps.set_flash

theorem execEraseSector_keeps {M : Mask} {s0 : State} {s : State} (hM : Sub ⟨0x81000, 0x400000000000000000000000000000⟩ M) (hK : Keeps M s0 s) :
    Good M s0 (execEraseSector s) := by
  unfold execEraseSector
  repeat' first
    | with_reducible assumption
    | ((with_reducible apply hM.of) <;> rfl)
    | with_reducible apply hM.bit
    | with_reducible apply State.cflResult_keeps
    | with_reducible apply State.cflRelease_keeps
    | with_reducible apply State.startErase_keeps
    | with_reducible apply Good.ite
    | with_reducible apply Good.next
    | with_reducible apply Keeps.ite
    | exact rfl
    | split
    | with_reducible apply Keeps.set_flash

theorem State.flashDone_keeps {M : Mask} {s0 : State} {s : State} (hM : Sub ⟨0x81000, 0x400000000000000000000000000000⟩ M) (hK : Keeps M s0 s) :
    Keeps M s0 (State.flashDone s) := by
  unfold State.flashDone
  repeat' first
    | with_reducible assumption
    | ((with_reducible apply hM.of) <;> rfl)
    | with_reducible apply hM.bit
    | with_reducible apply State.cflResult_keeps
    | with_reducible apply State.cflRelease_keeps
    | with_reducible apply State.eraseArray_keeps
    | with_reducible apply Keeps.ite
    | exact rfl
    | split
    | with_reducible apply Keeps.set_flash

theorem State.programFailed_keeps {M : Mask} {s0 : State} {s : State} (hM : Sub ⟨0x81000, 0x400000000000000000000000000000⟩ M) (hK : Keeps M s0 s) :
    Keeps M s0 (State.programFailed s) := by
  unfold State.programFailed
  repeat' first
    | with_reducible assumption
    | ((with_reducible apply hM.of) <;> rfl)
    | with_reducible apply hM.bit
    | with_reducible apply State.cflResult_keeps
    | with_reducible apply State.cflRelease_keeps
    | exact rfl
    | split
    | with_reducible apply Keeps.set_flash

theorem State.eraseFailed_keeps {M : Mask} {s0 : State} {s : State} (hM : Sub ⟨0x81000, 0x400000000000000000000000000000⟩ M) (hK : Keeps M s0 s) :
    Keeps M s0 (State.eraseFailed s) := by
  unfold State.eraseFailed
  repeat' first
    | with_reducible assumption
    | ((with_reducible apply hM.of) <;> rfl)
    | with_reducible apply hM.bit
    | with_reducible apply State.setSector_keeps
    | with_reducible apply State.cflResult_keeps
    | with_reducible apply State.cflRelease_keeps
    | with_reducible apply Keeps.ite
    | (extract_lets +onlyGivenNames x1; with_reducible refine Cut x1 ?_ ?_)
    | (intro _; clear_value x1; revert x1; intro _ _)
    | subst x1
    | (extract_lets +onlyGivenNames x1; subst x1)
    | exact rfl
    | split
    | with_reducible apply Keeps.set_flash

theorem execEraseTimeout_keeps {M : Mask} {s0 : State} {s : State} (hM : Sub ⟨0x81000, 0x400000000000000000000000000000⟩ M) (hK : Keeps M s0 s) :
    Good M s0 (execEraseTimeout s) := by
  unfold execEraseTimeout
  repeat' first
    | with_reducible assumption
    | ((with_reducible apply hM.of) <;> rfl)
    | with_reducible apply State.eraseFailed_keeps
    | with_reducible apply Good.next
    | split
    | dsimp -zeta only

theorem execCflSequenceTimeout_keeps {M : Mask} {s0 : State} {s : State} (hM : Sub ⟨0x81000, 0x400000000000000000000000000000⟩ M) (hK : Keeps M s0 s) :
    Good M s0 (execCflSequenceTimeout s) := by
  unfold execCflSequenceTimeout
  repeat' first
    | with_reducible assumption
    | ((with_reducible apply hM.of) <;> rfl)
    | with_reducible apply State.cflAbandon_keeps
    | with_reducible apply Good.next
    | split
    | dsimp -zeta only

theorem State.cflCtl_keeps {M : Mask} {s0 : State} {w : Word} {s : State} (hM : Sub ⟨0x81000, 0xc00000000000000000000000000000⟩ M) (hK : Keeps M s0 s) :
    Keeps M s0 (State.cflCtl w s) := by
  unfold State.cflCtl
  repeat' first
    | with_reducible assumption
    | ((with_reducible apply hM.of) <;> rfl)
    | with_reducible apply Wr.CFL_STAT
    | with_reducible apply Wr.CFL_CTL
    | refine WrBad.of (by exact rfl) ?_
    | ((with_reducible apply hM.reg); decide)
    | with_reducible apply hM.bit
    | with_reducible apply State.flag_keeps
    | with_reducible apply State.writeReg_keeps
    | with_reducible apply State.cflOwner_keeps
    | with_reducible apply State.cflShow_keeps
    | with_reducible apply Keeps.ite
    | (extract_lets +onlyGivenNames x1; with_reducible refine Cut x1 ?_ ?_)
    | (intro _; clear_value x1; revert x1; intro _ _)
    | subst x1
    | (extract_lets +onlyGivenNames x1; subst x1)
    | exact rfl
    | split
    | with_reducible apply Keeps.set_flash

theorem State.cflWp_keeps {M : Mask} {s0 : State} {w : Word} {s : State} (hM : Sub ⟨0x80000, 0x20400000000000000000000000000000⟩ M) (hK : Keeps M s0 s) :
    Keeps M s0 (State.cflWp w s) := by
  unfold State.cflWp
  repeat' first
    | with_reducible assumption
    | ((with_reducible apply hM.of) <;> rfl)
    | with_reducible apply Wr.CFL_STAT
    | with_reducible apply Wr.CFL_WP
    | refine WrBad.of (by exact rfl) ?_
    | ((with_reducible apply hM.reg); decide)
    | with_reducible apply State.flag_keeps
    | with_reducible apply State.writeReg_keeps
    | with_reducible apply Keeps.ite
    | exact rfl
    | split
    | dsimp -zeta only

theorem State.eccSeen_keeps {M : Mask} {s0 : State} {a : Nat} {ue : Bool} {s : State} (hM : Sub ⟨0x1000, 0x0⟩ M) (hK : Keeps M s0 s) :
    Keeps M s0 (State.eccSeen a ue s) := by
  unfold State.eccSeen
  repeat' first
    | with_reducible assumption
    | ((with_reducible apply hM.of) <;> rfl)
    | with_reducible apply hM.bit
    | with_reducible apply Keeps.ite
    | (extract_lets +onlyGivenNames x1; with_reducible refine Cut x1 ?_ ?_)
    | (intro _; clear_value x1; revert x1; intro _ _)
    | subst x1
    | (extract_lets +onlyGivenNames x1; subst x1)
    | exact rfl
    | split
    | with_reducible apply Keeps.set_flash

theorem State.flashRead_keeps {M : Mask} {s0 : State} {a : Nat} {ecc : Ecc} {s : State} (hM : Sub ⟨0x81000, 0x100400000000000000000000000000000⟩ M) (hK : Keeps M s0 s) :
    Keeps2 M s0 (State.flashRead a ecc s) := by
  unfold State.flashRead
  repeat' first
    | with_reducible assumption
    | ((with_reducible apply hM.of) <;> rfl)
    | with_reducible apply Wr.CFL_STAT
    | with_reducible apply Wr.CFL_ECC
    | ((with_reducible apply hM.reg); decide)
    | with_reducible apply State.flag_keeps
    | with_reducible apply State.count_keeps
    | with_reducible apply State.eccSeen_keeps
    | with_reducible apply Keeps2.ite
    | with_reducible apply Keeps.ite
    | (extract_lets +onlyGivenNames x1; with_reducible refine Cut x1 ?_ ?_)
    | (intro _; clear_value x1; revert x1; intro _ _)
    | subst x1
    | (extract_lets +onlyGivenNames x1; subst x1)
    | exact rfl
    | split
    | with_reducible apply Keeps2.mk
    | dsimp -zeta only

theorem State.flashCut_keeps {M : Mask} {s0 : State} {s : State} (hM : Sub ⟨0x1000, 0x0⟩ M) (hK : Keeps M s0 s) :
    Keeps M s0 (State.flashCut s) := by
  unfold State.flashCut
  repeat' first
    | with_reducible assumption
    | ((with_reducible apply hM.of) <;> rfl)
    | with_reducible apply hM.bit
    | with_reducible apply State.setSector_keeps
    | (extract_lets +onlyGivenNames x1; with_reducible refine Cut x1 ?_ ?_)
    | (intro _; clear_value x1; revert x1; intro _ _)
    | subst x1
    | (extract_lets +onlyGivenNames x1; subst x1)
    | exact rfl
    | split
    | with_reducible apply Keeps.set_flash

theorem State.markerScan_keeps {M : Mask} {s0 : State} {s : State} (hM : Sub ⟨0x81000, 0x400000000000000000000000000000⟩ M) (hK : Keeps M s0 s) :
    Keeps M s0 (State.markerScan s) := by
  unfold State.markerScan
  repeat' first
    | with_reducible assumption
    | ((with_reducible apply hM.of) <;> rfl)
    | with_reducible apply State.setSector_keeps
    | with_reducible apply State.cflShow_keeps
    | with_reducible apply Keeps.ite
    | (with_reducible apply Keeps.foldl; intro _ _ _)
    | (extract_lets +onlyGivenNames x1; with_reducible refine Cut x1 ?_ ?_)
    | (intro _; clear_value x1; revert x1; intro _ _)
    | subst x1
    | (extract_lets +onlyGivenNames x1; subst x1)
    | split
    | dsimp -zeta only

theorem State.loadImage_keeps {M : Mask} {s0 : State} {n src : Nat} {s : State} (hM : Sub ⟨0x140, 0x0⟩ M) (hK : Keeps M s0 s) :
    Keeps M s0 (State.loadImage n src s) := by
  unfold State.loadImage
  repeat' first
    | with_reducible assumption
    | ((with_reducible apply hM.of) <;> rfl)
    | with_reducible apply hM.bit
    | with_reducible apply State.modNewt_keeps
    | (extract_lets +onlyGivenNames x1; with_reducible refine Cut x1 ?_ ?_)
    | (intro _; clear_value x1; revert x1; intro _ _)
    | subst x1
    | (extract_lets +onlyGivenNames x1; subst x1)
    | exact rfl
    | split
    | with_reducible apply Keeps.set_roles

end Sys2Proof.Machine
end

