-- ==== Sys2Proof/Laws/KeepsPerf.lean ====
section
/-! SUPPORT. What each operation of Machine/Perf.lean keeps (Laws/Keeps.lean says what that means). -/

namespace Sys2Proof.Machine

theorem State.writeSample_keeps {M : Mask} {s0 : State} {n addr lat events cyc : Nat} {s : State} (hM : Sub ⟨0x80040, 0x200000000000000000000000000000000000⟩ M) (hK : Keeps M s0 s) :
    Keeps M s0 (State.writeSample n addr lat events cyc s) := by
  unfold State.writeSample
  repeat' first
    | with_reducible assumption
    | ((with_reducible apply hM.of) <;> rfl)
    | with_reducible apply Wr.PMC_SCTL
    | ((with_reducible apply hM.reg); decide)
    | with_reducible apply State.wf_keeps
    | with_reducible apply State.wb_keeps
    | with_reducible apply State.setNewt_keeps
    | with_reducible apply Keeps.ite
    | (extract_lets +onlyGivenNames x1; with_reducible refine Cut x1 ?_ ?_)
    | (intro _; clear_value x1; revert x1; intro _ _)
    | subst x1
    | (extract_lets +onlyGivenNames x1; subst x1)
    | exact rfl
    | split
    | dsimp -zeta only

theorem State.closeRec_keeps {M : Mask} {s0 : State} {n : Nat} {s : State} {o : OpenRec} (hM : Sub ⟨0x80040, 0x200000000000000000000000000000000000⟩ M) (hK : Keeps M s0 s) :
    Keeps M s0 (State.closeRec n s o) := by
  unfold State.closeRec
  repeat' first
    | with_reducible assumption
    | ((with_reducible apply hM.of) <;> rfl)
    | with_reducible apply State.writeSample_keeps
    | split
    | dsimp -zeta only

theorem State.closeWhere_keeps {M : Mask} {s0 : State} {n : Nat} {p : OpenRec → Bool} {s : State} (hM : Sub ⟨0x80040, 0x200000000000000000000000000000000000⟩ M) (hK : Keeps M s0 s) :
    Keeps M s0 (State.closeWhere n p s) := by
  unfold State.closeWhere
  repeat' first
    | with_reducible assumption
    | ((with_reducible apply hM.of) <;> rfl)
    | with_reducible apply State.modNewt_keeps
    | with_reducible apply State.closeRec_keeps
    | (with_reducible apply Keeps.foldl; intro _ _ _)
    | (extract_lets +onlyGivenNames x1; with_reducible refine Cut x1 ?_ ?_)
    | (intro _; clear_value x1; revert x1; intro _ _)
    | subst x1
    | (extract_lets +onlyGivenNames x1; subst x1)
    | split
    | dsimp -zeta only

theorem State.closeAll_keeps {M : Mask} {s0 : State} {n : Nat} {s : State} (hM : Sub ⟨0x80040, 0x200000000000000000000000000000000000⟩ M) (hK : Keeps M s0 s) :
    Keeps M s0 (State.closeAll n s) := by
  unfold State.closeAll
  repeat' first
    | with_reducible assumption
    | ((with_reducible apply hM.of) <;> rfl)
    | with_reducible apply State.closeWhere_keeps
    | split
    | dsimp -zeta only

theorem State.closeWords_keeps {M : Mask} {s0 : State} {n : Nat} {s : State} (hM : Sub ⟨0x80040, 0x200000000000000000000000000000000000⟩ M) (hK : Keeps M s0 s) :
    Keeps M s0 (State.closeWords n s) := by
  unfold State.closeWords
  repeat' first
    | with_reducible assumption
    | ((with_reducible apply hM.of) <;> rfl)
    | with_reducible apply State.modNewt_keeps
    | with_reducible apply State.closeWhere_keeps
    | (extract_lets +onlyGivenNames x1; with_reducible refine Cut x1 ?_ ?_)
    | (intro _; clear_value x1; revert x1; intro _ _)
    | subst x1
    | (extract_lets +onlyGivenNames x1; subst x1)
    | split
    | dsimp -zeta only

theorem State.closeReg_keeps {M : Mask} {s0 : State} {n : Nat} {s : State} (hM : Sub ⟨0x80040, 0x200000000000000000000000000000000000⟩ M) (hK : Keeps M s0 s) :
    Keeps M s0 (State.closeReg n s) := by
  unfold State.closeReg
  repeat' first
    | with_reducible assumption
    | ((with_reducible apply hM.of) <;> rfl)
    | with_reducible apply State.modNewt_keeps
    | with_reducible apply State.closeWhere_keeps
    | (extract_lets +onlyGivenNames x1; with_reducible refine Cut x1 ?_ ?_)
    | (intro _; clear_value x1; revert x1; intro _ _)
    | subst x1
    | (extract_lets +onlyGivenNames x1; subst x1)
    | split
    | dsimp -zeta only

theorem State.closeMbx_keeps {M : Mask} {s0 : State} {n : Nat} {s : State} (hM : Sub ⟨0x80040, 0x200000000000000000000000000000000000⟩ M) (hK : Keeps M s0 s) :
    Keeps M s0 (State.closeMbx n s) := by
  unfold State.closeMbx
  repeat' first
    | with_reducible assumption
    | ((with_reducible apply hM.of) <;> rfl)
    | with_reducible apply State.closeWhere_keeps
    | split
    | dsimp -zeta only

theorem State.sampleClear_keeps {M : Mask} {s0 : State} {n : Nat} {s : State} (hM : Sub ⟨0x80040, 0x200000000000000000000000000000000000⟩ M) (hK : Keeps M s0 s) :
    Keeps M s0 (State.sampleClear n s) := by
  unfold State.sampleClear
  repeat' first
    | with_reducible assumption
    | ((with_reducible apply hM.of) <;> rfl)
    | with_reducible apply Wr.PMC_SCTL
    | ((with_reducible apply hM.reg); decide)
    | with_reducible apply State.wf_keeps
    | with_reducible apply State.wb_keeps
    | with_reducible apply State.modNewt_keeps
    | (extract_lets +onlyGivenNames x1; with_reducible refine Cut x1 ?_ ?_)
    | (intro _; clear_value x1; revert x1; intro _ _)
    | subst x1
    | (extract_lets +onlyGivenNames x1; subst x1)
    | exact rfl
    | split
    | dsimp -zeta only

theorem State.sctlWrite_keeps {M : Mask} {s0 : State} {n : Nat} {w : Word} {s : State} (hM : Sub ⟨0x80040, 0x4000220000000000000000000000000000000000⟩ M) (hK : Keeps M s0 s) :
    Keeps M s0 (State.sctlWrite n w s) := by
  unfold State.sctlWrite
  repeat' first
    | with_reducible assumption
    | ((with_reducible apply hM.of) <;> rfl)
    | with_reducible apply Wr.PMC_STAT
    | with_reducible apply Wr.PMC_SCTL
    | refine WrBad.of (by exact rfl) ?_
    | with_reducible apply WrBad.any
    | ((with_reducible apply hM.reg); decide)
    | with_reducible apply State.writeReg_keeps
    | with_reducible apply State.sampleClear_keeps
    | with_reducible apply Keeps.ite
    | (extract_lets +onlyGivenNames x1; with_reducible refine Cut x1 ?_ ?_)
    | (intro _; clear_value x1; revert x1; intro _ _)
    | subst x1
    | (extract_lets +onlyGivenNames x1; subst x1)
    | exact rfl
    | split
    | dsimp -zeta only

theorem State.cyclLatch_keeps {M : Mask} {s0 : State} {m : Master} {n : Nat} {s : State} (hM : Sub ⟨0x10000, 0x0⟩ M) (hK : Keeps M s0 s) :
    Keeps M s0 (State.cyclLatch m n s) := by
  unfold State.cyclLatch
  repeat' first
    | with_reducible assumption
    | ((with_reducible apply hM.of) <;> rfl)
    | with_reducible apply hM.bit
    | exact rfl
    | split
    | with_reducible apply Keeps.set_cycLatch

end Sys2Proof.Machine
end

