-- ==== Sys2Proof/Laws/KeepsRoles.lean ====
section
/-! SUPPORT. What each operation of Machine/Roles.lean keeps (Laws/Keeps.lean says what that means). -/

namespace Sys2Proof.Machine

theorem State.setRun_keeps {M : Mask} {s0 : State} {n v : Nat} {s : State} (hM : Sub ⟨0x80000, 0x4000000000000000000⟩ M) (hK : Keeps M s0 s) :
    Keeps M s0 (State.setRun n v s) := by
  unfold State.setRun
  repeat' first
    | with_reducible assumption
    | ((with_reducible apply hM.of) <;> rfl)
    | with_reducible apply Wr.NWT_CST
    | ((with_reducible apply hM.reg); decide)
    | with_reducible apply State.wf_keeps
    | exact rfl
    | split
    | dsimp -zeta only

theorem State.setParked_keeps {M : Mask} {s0 : State} {n : Nat} {s : State} (hM : Sub ⟨0x80000, 0xc000000000000000000⟩ M) (hK : Keeps M s0 s) :
    Keeps M s0 (State.setParked n s) := by
  unfold State.setParked
  repeat' first
    | with_reducible assumption
    | ((with_reducible apply hM.of) <;> rfl)
    | with_reducible apply Wr.NWT_FPC
    | ((with_reducible apply hM.reg); decide)
    | with_reducible apply State.wr_keeps
    | with_reducible apply State.setRun_keeps
    | exact rfl
    | split
    | dsimp -zeta only

theorem State.startNewt_keeps {M : Mask} {s0 : State} {n entry g0 g1 g2 : Nat} {s : State} (hM : Sub ⟨0x80040, 0xc000000000000000010⟩ M) (hK : Keeps M s0 s) :
    Keeps M s0 (State.startNewt n entry g0 g1 g2 s) := by
  unfold State.startNewt
  repeat' first
    | with_reducible assumption
    | ((with_reducible apply hM.of) <;> rfl)
    | with_reducible apply Wr.NWT_CST
    | with_reducible apply Wr.NWT_FPC
    | ((with_reducible apply hM.reg); decide)
    | with_reducible apply State.wr_keeps
    | with_reducible apply State.newtBusy_keeps
    | with_reducible apply State.modNewt_keeps
    | (extract_lets +onlyGivenNames x1; with_reducible refine Cut x1 ?_ ?_)
    | (intro _; clear_value x1; revert x1; intro _ _)
    | subst x1
    | (extract_lets +onlyGivenNames x1; subst x1)
    | exact rfl
    | split
    | dsimp -zeta only

theorem State.restNewt_keeps {M : Mask} {s0 : State} {n : Nat} {s : State} (hM : Sub ⟨0x80000, 0xc000000000000000000⟩ M) (hK : Keeps M s0 s) :
    Keeps M s0 (State.restNewt n s) := by
  unfold State.restNewt
  repeat' first
    | with_reducible assumption
    | ((with_reducible apply hM.of) <;> rfl)
    | with_reducible apply Wr.NWT_FPC
    | ((with_reducible apply hM.reg); decide)
    | with_reducible apply State.wf_keeps
    | with_reducible apply State.setRun_keeps
    | with_reducible apply Keeps.ite
    | exact rfl
    | split
    | dsimp -zeta only

theorem State.spareClass_keeps {M : Mask} {s0 : State} {process : Bool} {s : State} (hM : Sub ⟨0x80101, 0x100000⟩ M) (hK : Keeps M s0 s) :
    Keeps M s0 (State.spareClass process s) := by
  unfold State.spareClass
  repeat' first
    | with_reducible assumption
    | ((with_reducible apply hM.of) <;> rfl)
    | with_reducible apply hM.bit
    | with_reducible apply State.post_keeps
    | with_reducible apply Keeps.ite
    | (extract_lets +onlyGivenNames x1; with_reducible refine Cut x1 ?_ ?_)
    | (intro _; clear_value x1; revert x1; intro _ _)
    | subst x1
    | (extract_lets +onlyGivenNames x1; subst x1)
    | exact rfl
    | split
    | with_reducible apply Keeps.set_roles

theorem State.spares_keeps {M : Mask} {s0 : State} {s : State} (hM : Sub ⟨0x80101, 0x100000⟩ M) (hK : Keeps M s0 s) :
    Keeps M s0 (State.spares s) := by
  unfold State.spares
  repeat' first
    | with_reducible assumption
    | ((with_reducible apply hM.of) <;> rfl)
    | with_reducible apply State.spareClass_keeps
    | with_reducible apply Keeps.ite
    | split
    | dsimp -zeta only

theorem State.nwtBusy_keeps {M : Mask} {s0 : State} {s : State} (hM : Sub ⟨0x80000, 0x800000000000000000⟩ M) (hK : Keeps M s0 s) :
    Keeps M s0 (State.nwtBusy s) := by
  unfold State.nwtBusy
  repeat' first
    | with_reducible assumption
    | ((with_reducible apply hM.of) <;> rfl)
    | with_reducible apply Wr.NWT_STAT
    | ((with_reducible apply hM.reg); decide)
    | with_reducible apply State.wb_keeps
    | exact rfl
    | split
    | dsimp -zeta only

theorem State.res_keeps {M : Mask} {s0 : State} {v : Nat} {s : State} (hM : Sub ⟨0x80000, 0x800000000000000000⟩ M) (hK : Keeps M s0 s) :
    Keeps M s0 (State.res v s) := by
  unfold State.res
  repeat' first
    | with_reducible assumption
    | ((with_reducible apply hM.of) <;> rfl)
    | with_reducible apply Wr.NWT_STAT
    | ((with_reducible apply hM.reg); decide)
    | with_reducible apply State.wf_keeps
    | exact rfl
    | split
    | dsimp -zeta only

theorem State.putMsg_keeps {M : Mask} {s0 : State} {n : Nat} {m : Msg} {s : State} (hM : Sub ⟨0x80040, 0x900000000000000000000000000000000000⟩ M) (hK : Keeps M s0 s) :
    Keeps M s0 (State.putMsg n m s) := by
  unfold State.putMsg
  repeat' first
    | with_reducible assumption
    | ((with_reducible apply hM.of) <;> rfl)
    | with_reducible apply State.modNewt_keeps
    | with_reducible apply State.pmc_keeps
    | with_reducible apply Keeps.ite
    | (extract_lets +onlyGivenNames x1; with_reducible refine Cut x1 ?_ ?_)
    | (intro _; clear_value x1; revert x1; intro _ _)
    | subst x1
    | (extract_lets +onlyGivenNames x1; subst x1)
    | split
    | dsimp -zeta only

theorem State.giveMsg_keeps {M : Mask} {s0 : State} {n : Nat} {m : Msg} {s : State} (hM : Sub ⟨0x80940, 0x80900000000000000000000000000000000110⟩ M) (hK : Keeps M s0 s) :
    Keeps M s0 (State.giveMsg n m s) := by
  unfold State.giveMsg
  repeat' first
    | with_reducible assumption
    | ((with_reducible apply hM.of) <;> rfl)
    | with_reducible apply hM.bit
    | with_reducible apply State.wake_keeps
    | with_reducible apply State.putMsg_keeps
    | with_reducible apply Keeps.ite
    | exact rfl
    | split
    | with_reducible apply Keeps.set_roles

theorem State.bounce_keeps {M : Mask} {s0 : State} {m : Msg} {reason : Nat} {s : State} (hM : Sub ⟨0x80941, 0x80900000000000000000800000000000100110⟩ M) (hK : Keeps M s0 s) :
    Keeps M s0 (State.bounce m reason s) := by
  unfold State.bounce
  repeat' first
    | with_reducible assumption
    | ((with_reducible apply hM.of) <;> rfl)
    | with_reducible apply Wr.NWT_STAT
    | ((with_reducible apply hM.reg); decide)
    | with_reducible apply hM.bit
    | with_reducible apply State.count_keeps
    | with_reducible apply State.post_keeps
    | with_reducible apply State.giveMsg_keeps
    | with_reducible apply Keeps.ite
    | (extract_lets +onlyGivenNames x1; with_reducible refine Cut x1 ?_ ?_)
    | (intro _; clear_value x1; revert x1; intro _ _)
    | subst x1
    | (extract_lets +onlyGivenNames x1; subst x1)
    | exact rfl
    | split
    | with_reducible apply Keeps.set_roles

theorem State.astray_keeps {M : Mask} {s0 : State} {m : Msg} {s : State} (hM : Sub ⟨0x80941, 0x80900000000000000000800000000000100110⟩ M) (hK : Keeps M s0 s) :
    Keeps M s0 (State.astray m s) := by
  unfold State.astray
  repeat' first
    | with_reducible assumption
    | ((with_reducible apply hM.of) <;> rfl)
    | with_reducible apply hM.bit
    | with_reducible apply State.bounce_keeps
    | with_reducible apply Keeps.ite
    | (extract_lets +onlyGivenNames x1; with_reducible refine Cut x1 ?_ ?_)
    | (intro _; clear_value x1; revert x1; intro _ _)
    | subst x1
    | (extract_lets +onlyGivenNames x1; subst x1)
    | exact rfl
    | split
    | with_reducible apply Keeps.set_roles

theorem State.arrive_keeps {M : Mask} {s0 : State} {s : State} (hM : Sub ⟨0x80941, 0x80900000000000000000800000000000100110⟩ M) (hK : Keeps M s0 s) :
    Keeps M s0 (State.arrive s) := by
  unfold State.arrive
  repeat' first
    | with_reducible assumption
    | ((with_reducible apply hM.of) <;> rfl)
    | with_reducible apply hM.bit
    | with_reducible apply State.giveMsg_keeps
    | with_reducible apply State.bounce_keeps
    | with_reducible apply State.astray_keeps
    | with_reducible apply Keeps.ite
    | (extract_lets +onlyGivenNames x1; with_reducible refine Cut x1 ?_ ?_)
    | (intro _; clear_value x1; revert x1; intro _ _)
    | subst x1
    | (extract_lets +onlyGivenNames x1; subst x1)
    | exact rfl
    | split
    | with_reducible apply Keeps.set_roles

theorem State.tell_keeps {M : Mask} {s0 : State} {n type role : Nat} {s : State} (hM : Sub ⟨0x80940, 0x80900000000000000000000000000000000110⟩ M) (hK : Keeps M s0 s) :
    Keeps M s0 (State.tell n type role s) := by
  unfold State.tell
  repeat' first
    | with_reducible assumption
    | ((with_reducible apply hM.of) <;> rfl)
    | with_reducible apply State.giveMsg_keeps
    | split
    | dsimp -zeta only

theorem State.modRole_keeps {M : Mask} {s0 : State} {r : Nat} {f : Word → Word} {s : State} (hM : Sub ⟨0x80000, 0x200000000000000000⟩ M) (hK : Keeps M s0 s) :
    Keeps M s0 (State.modRole r f s) := by
  unfold State.modRole
  repeat' first
    | with_reducible assumption
    | ((with_reducible apply hM.of) <;> rfl)
    | with_reducible apply Wr.NWT_ROLE
    | ((with_reducible apply hM.reg); decide)
    | with_reducible apply State.wr_keeps
    | exact rfl
    | split
    | dsimp -zeta only

theorem State.setHeld_keeps {M : Mask} {s0 : State} {r holder : Nat} {s : State} (hM : Sub ⟨0x80000, 0x200000000000000000⟩ M) (hK : Keeps M s0 s) :
    Keeps M s0 (State.setHeld r holder s) := by
  unfold State.setHeld
  repeat' first
    | with_reducible assumption
    | ((with_reducible apply hM.of) <;> rfl)
    | with_reducible apply State.modRole_keeps
    | split
    | dsimp -zeta only

theorem State.setDeliveries_keeps {M : Mask} {s0 : State} {on : Bool} {l : List (Nat × Nat)} {s : State} (hM : Sub ⟨0x80000, 0x80000000000000000000000000⟩ M) (hK : Keeps M s0 s) :
    Keeps M s0 (State.setDeliveries on l s) := by
  unfold State.setDeliveries
  repeat' first
    | with_reducible assumption
    | ((with_reducible apply hM.of) <;> rfl)
    | with_reducible apply Wr.EVM_CMASK
    | ((with_reducible apply hM.reg); decide)
    | with_reducible apply State.wb_keeps
    | (with_reducible apply Keeps.foldl; intro _ _ _)
    | exact rfl
    | split
    | dsimp -zeta only

theorem State.dropDeliveries_keeps {M : Mask} {s0 : State} {n : Nat} {ks : List Nat} {s : State} (hM : Sub ⟨0x80000, 0x80000000000000000000000000⟩ M) (hK : Keeps M s0 s) :
    Keeps M s0 (State.dropDeliveries n ks s) := by
  unfold State.dropDeliveries
  repeat' first
    | with_reducible assumption
    | ((with_reducible apply hM.of) <;> rfl)
    | with_reducible apply State.setDeliveries_keeps
    | split
    | dsimp -zeta only

theorem State.unassign_keeps {M : Mask} {s0 : State} {r detail : Nat} {s : State} (hM : Sub ⟨0x80301, 0x200000000000100000⟩ M) (hK : Keeps M s0 s) :
    Keeps M s0 (State.unassign r detail s) := by
  unfold State.unassign
  repeat' first
    | with_reducible assumption
    | ((with_reducible apply hM.of) <;> rfl)
    | with_reducible apply hM.bit
    | with_reducible apply State.post_keeps
    | with_reducible apply State.tokenSafe_keeps
    | with_reducible apply State.markWait_keeps
    | with_reducible apply State.modRole_keeps
    | with_reducible apply Keeps.ite
    | (extract_lets +onlyGivenNames x1; with_reducible refine Cut x1 ?_ ?_)
    | (intro _; clear_value x1; revert x1; intro _ _)
    | subst x1
    | (extract_lets +onlyGivenNames x1; subst x1)
    | exact rfl
    | split
    | with_reducible apply Keeps.set_roles

theorem takeNext_keeps {M : Mask} {s0 : State} (hM : Sub ⟨0x80301, 0x200000000000100000⟩ M) (l : List (Nat × Nat × Nat)) :
    ∀ {s : State}, Keeps M s0 s → Keeps M s0 (takeNext l s) := by
  induction l with
  | nil => exact fun h => h.set_roles (hM.bit _ rfl)
  | cons e r ih =>
    intro s h
    unfold takeNext
    repeat' first
      | with_reducible assumption
      | ((with_reducible apply hM.of) <;> rfl)
      | with_reducible apply hM.bit
      | with_reducible apply ih
      | with_reducible apply State.modRole_keeps
      | with_reducible apply State.unassign_keeps
      | with_reducible apply Keeps.ite
      | with_reducible apply Keeps.ite
      | (extract_lets +onlyGivenNames x1; with_reducible refine Cut x1 ?_ ?_)
      | (intro _; clear_value x1; revert x1; intro _ _)
      | subst x1
      | (extract_lets +onlyGivenNames x1; subst x1)
      | exact rfl
      | split
      | with_reducible apply Keeps.set_roles

theorem State.testOp_keeps {M : Mask} {s0 : State} {n : Nat} {s : State} (hM : Sub ⟨0x80100, 0x800000000000000000⟩ M) (hK : Keeps M s0 s) :
    Keeps M s0 (State.testOp n s) := by
  unfold State.testOp
  repeat' first
    | with_reducible assumption
    | ((with_reducible apply hM.of) <;> rfl)
    | with_reducible apply hM.bit
    | with_reducible apply State.nwtBusy_keeps
    | with_reducible apply State.res_keeps
    | exact rfl
    | split
    | with_reducible apply Keeps.set_roles

theorem State.skipTest_keeps {M : Mask} {s0 : State} {n : Nat} {s : State} (hM : Sub ⟨0x80101, 0x2000000000000000000000000000000100000⟩ M) (hK : Keeps M s0 s) :
    Keeps M s0 (State.skipTest n s) := by
  unfold State.skipTest
  repeat' first
    | with_reducible assumption
    | ((with_reducible apply hM.of) <;> rfl)
    | with_reducible apply Wr.HLT_STAT
    | ((with_reducible apply hM.reg); decide)
    | with_reducible apply hM.bit
    | with_reducible apply State.count_keeps
    | with_reducible apply State.post_keeps
    | exact rfl
    | split
    | with_reducible apply Keeps.set_roles

theorem State.beginMove_keeps {M : Mask} {s0 : State} {r t : Nat} {persist : Bool} {s : State} (hM : Sub ⟨0x80100, 0xa00000000000000000⟩ M) (hK : Keeps M s0 s) :
    Keeps M s0 (State.beginMove r t persist s) := by
  unfold State.beginMove
  repeat' first
    | with_reducible assumption
    | ((with_reducible apply hM.of) <;> rfl)
    | with_reducible apply hM.bit
    | with_reducible apply State.nwtBusy_keeps
    | with_reducible apply State.res_keeps
    | with_reducible apply State.modRole_keeps
    | (extract_lets +onlyGivenNames x1; with_reducible refine Cut x1 ?_ ?_)
    | (intro _; clear_value x1; revert x1; intro _ _)
    | subst x1
    | (extract_lets +onlyGivenNames x1; subst x1)
    | exact rfl
    | split
    | with_reducible apply Keeps.set_roles

theorem State.rotate_keeps {M : Mask} {s0 : State} {s : State} (hM : Sub ⟨0x80101, 0x2000000000000000000a00000000000100000⟩ M) (hK : Keeps M s0 s) :
    Keeps M s0 (State.rotate s) := by
  unfold State.rotate
  repeat' first
    | with_reducible assumption
    | ((with_reducible apply hM.of) <;> rfl)
    | with_reducible apply State.testOp_keeps
    | with_reducible apply State.skipTest_keeps
    | with_reducible apply State.beginMove_keeps
    | with_reducible apply Keeps.ite
    | split
    | dsimp -zeta only

theorem State.settleMoves_keeps {M : Mask} {s0 : State} {s : State} (hM : Sub ⟨0x80301, 0x2000000000000000000a00000000000100000⟩ M) (hK : Keeps M s0 s) :
    Keeps M s0 (State.settleMoves s) := by
  unfold State.settleMoves
  repeat' first
    | with_reducible assumption
    | ((with_reducible apply hM.of) <;> rfl)
    | with_reducible apply State.spares_keeps
    | with_reducible apply State.nwtBusy_keeps
    | with_reducible apply takeNext_keeps
    | with_reducible apply State.rotate_keeps
    | split
    | dsimp -zeta only

theorem State.abandon_keeps {M : Mask} {s0 : State} {stopTarget : Bool} {s : State} (hM : Sub ⟨0x80940, 0x8090000000008000000c200000000000000110⟩ M) (hK : Keeps M s0 s) :
    Keeps M s0 (State.abandon stopTarget s) := by
  unfold State.abandon
  repeat' first
    | with_reducible assumption
    | ((with_reducible apply hM.of) <;> rfl)
    | with_reducible apply hM.bit
    | with_reducible apply State.modNewt_keeps
    | with_reducible apply State.restNewt_keeps
    | with_reducible apply State.tell_keeps
    | with_reducible apply State.setHeld_keeps
    | with_reducible apply State.setDeliveries_keeps
    | with_reducible apply Keeps.ite
    | (extract_lets +onlyGivenNames x1; with_reducible refine Cut x1 ?_ ?_)
    | (intro _; clear_value x1; revert x1; intro _ _)
    | subst x1
    | (extract_lets +onlyGivenNames x1; subst x1)
    | exact rfl
    | split
    | with_reducible apply Keeps.set_roles

theorem State.moveMail_keeps {M : Mask} {s0 : State} {r old new : Nat} {s : State} (hM : Sub ⟨0x80940, 0x80900000000000000000000000000000000110⟩ M) (hK : Keeps M s0 s) :
    Keeps M s0 (State.moveMail r old new s) := by
  unfold State.moveMail
  repeat' first
    | with_reducible assumption
    | ((with_reducible apply hM.of) <;> rfl)
    | with_reducible apply hM.bit
    | with_reducible apply State.modNewt_keeps
    | with_reducible apply State.giveMsg_keeps
    | (with_reducible apply Keeps.foldl; intro _ _ _)
    | (extract_lets +onlyGivenNames x1; with_reducible refine Cut x1 ?_ ?_)
    | (intro _; clear_value x1; revert x1; intro _ _)
    | subst x1
    | (extract_lets +onlyGivenNames x1; subst x1)
    | exact rfl
    | split
    | with_reducible apply Keeps.set_roles

theorem State.commit_keeps {M : Mask} {s0 : State} {forced : Bool} {s : State} (hM : Sub ⟨0x80941, 0x8090000040008000000ca00000000000100110⟩ M) (hK : Keeps M s0 s) :
    Keeps M s0 (State.commit forced s) := by
  unfold State.commit
  repeat' first
    | with_reducible assumption
    | ((with_reducible apply hM.of) <;> rfl)
    | with_reducible apply Wr.NWT_STAT
    | ((with_reducible apply hM.reg); decide)
    | with_reducible apply hM.bit
    | with_reducible apply State.flag_keeps
    | with_reducible apply State.post_keeps
    | with_reducible apply State.cflShow_keeps
    | with_reducible apply State.restNewt_keeps
    | with_reducible apply State.tell_keeps
    | with_reducible apply State.modRole_keeps
    | with_reducible apply State.setHeld_keeps
    | with_reducible apply State.dropDeliveries_keeps
    | with_reducible apply State.moveMail_keeps
    | with_reducible apply Keeps.ite
    | (extract_lets +onlyGivenNames x1; with_reducible refine Cut x1 ?_ ?_)
    | (intro _; clear_value x1; revert x1; intro _ _)
    | subst x1
    | (extract_lets +onlyGivenNames x1; subst x1)
    | exact rfl
    | split
    | with_reducible apply Keeps.set_roles

theorem State.loadTarget_keeps {M : Mask} {s0 : State} {m : Move} {s s' : State} (hM : Sub ⟨0x80140, 0x8000000c000000000000000010⟩ M)
    (hK : Keeps M s0 s) (e : State.loadTarget m s = some s') : Keeps M s0 s' := by
  have k : ∀ x, State.loadTarget m s = some x → Keeps M s0 x := by
    unfold State.loadTarget
    extract_lets bad s1 mirror s2 s3
    split
    · intro _ h; cases h
    intro x h
    cases h
    have k1 : Keeps M s0 s1 := Keeps.ite hK (State.loadImage_keeps (hM.of rfl rfl) hK)
    clear_value s1
    have k2 : Keeps M s0 s2 := Keeps.ite (Keeps.ite (State.startNewt_keeps (hM.of rfl rfl) k1)
      (State.startNewt_keeps (hM.of rfl rfl) k1)) k1
    clear_value s2
    have k3 : Keeps M s0 s3 := State.setDeliveries_keeps (hM.of rfl rfl) k2
    exact k3.set_roles (hM.bit _ rfl)
  exact k _ e

theorem State.commitLoaded_keeps {M : Mask} {s0 : State} {forced : Bool} {s : State} (hM : Sub ⟨0x80941, 0x8090000040008000000ca00000000000100110⟩ M) (hK : Keeps M s0 s) :
    Keeps2 M s0 (State.commitLoaded forced s) := by
  unfold State.commitLoaded
  repeat' first
    | with_reducible assumption
    | ((with_reducible apply hM.of) <;> rfl)
    | (with_reducible refine State.loadTarget_keeps ?_ ?_ (by assumption))
    | with_reducible apply State.res_keeps
    | with_reducible apply State.abandon_keeps
    | with_reducible apply State.commit_keeps
    | with_reducible apply Keeps2.ite
    | with_reducible apply Keeps.ite
    | split
    | with_reducible apply Keeps2.mk
    | dsimp -zeta only

theorem State.newtDown_keeps {M : Mask} {s0 : State} {n cause : Nat} {s : State} (hM : Sub ⟨0x80b41, 0x8290000040008000000ca00000000000100110⟩ M) (hK : Keeps M s0 s) :
    Keeps M s0 (State.newtDown n cause s) := by
  unfold State.newtDown
  repeat' first
    | with_reducible assumption
    | ((with_reducible apply hM.of) <;> rfl)
    | with_reducible apply hM.bit
    | (with_reducible refine State.loadTarget_keeps ?_ ?_ (by assumption))
    | with_reducible apply State.post_keeps
    | with_reducible apply State.unassign_keeps
    | with_reducible apply State.settleMoves_keeps
    | with_reducible apply State.abandon_keeps
    | with_reducible apply State.commitLoaded_keeps
    | with_reducible apply Keeps.ite
    | (with_reducible apply Keeps.foldl; intro _ _ _)
    | (with_reducible apply Keeps2.of; with_reducible assumption)
    | with_reducible apply Keeps2.snd
    | (extract_lets +onlyGivenNames x1; with_reducible refine Cut x1 ?_ ?_)
    | (intro _; clear_value x1; revert x1; intro _ _)
    | subst x1
    | (extract_lets +onlyGivenNames x1; subst x1)
    | exact rfl
    | split
    | with_reducible apply Keeps.set_roles
    | with_reducible apply Keeps2.mk

theorem State.newtFault_keeps {M : Mask} {s0 : State} {n cause slot pc : Nat} {s : State} (hM : Sub ⟨0x80b41, 0x82b0000040008000000ca00000000000100110⟩ M) (hK : Keeps M s0 s) :
    Keeps M s0 (State.newtFault n cause slot pc s) := by
  unfold State.newtFault
  repeat' first
    | with_reducible assumption
    | ((with_reducible apply hM.of) <;> rfl)
    | with_reducible apply Wr.NWT_CST
    | with_reducible apply Wr.NWT_FPC
    | ((with_reducible apply hM.reg); decide)
    | with_reducible apply State.wr_keeps
    | with_reducible apply State.modNewt_keeps
    | with_reducible apply State.closeAll_keeps
    | with_reducible apply State.newtDown_keeps
    | (extract_lets +onlyGivenNames x1; with_reducible refine Cut x1 ?_ ?_)
    | (intro _; clear_value x1; revert x1; intro _ _)
    | subst x1
    | (extract_lets +onlyGivenNames x1; subst x1)
    | exact rfl
    | split
    | dsimp -zeta only

theorem State.startMove_keeps {M : Mask} {s0 : State} {r t : Nat} {persist : Bool} {s : State} (hM : Sub ⟨0x80301, 0x2000000000000000000a00000000000100000⟩ M) (hK : Keeps M s0 s) :
    Keeps M s0 (State.startMove r t persist s) := by
  unfold State.startMove
  repeat' first
    | with_reducible assumption
    | ((with_reducible apply hM.of) <;> rfl)
    | with_reducible apply State.res_keeps
    | with_reducible apply State.beginMove_keeps
    | with_reducible apply State.settleMoves_keeps
    | split
    | dsimp -zeta only

theorem State.moveLoaded_keeps {M : Mask} {s0 : State} {s : State} (hM : Sub ⟨0x80b41, 0x8290000040008000000ca00000000000100110⟩ M) (hK : Keeps M s0 s) :
    Keeps M s0 (State.moveLoaded s) := by
  unfold State.moveLoaded
  repeat' first
    | with_reducible assumption
    | ((with_reducible apply hM.of) <;> rfl)
    | with_reducible apply hM.bit
    | (with_reducible refine State.loadTarget_keeps ?_ ?_ (by assumption))
    | with_reducible apply State.res_keeps
    | with_reducible apply State.tell_keeps
    | with_reducible apply State.setHeld_keeps
    | with_reducible apply State.unassign_keeps
    | with_reducible apply State.settleMoves_keeps
    | with_reducible apply State.abandon_keeps
    | with_reducible apply State.commit_keeps
    | with_reducible apply Keeps.ite
    | exact rfl
    | split
    | with_reducible apply Keeps.set_roles

theorem State.commitOp_keeps {M : Mask} {s0 : State} {r : Nat} {s : State} (hM : Sub ⟨0x80b41, 0x8290000040008000000ca00000000000100110⟩ M) (hK : Keeps M s0 s) :
    Keeps M s0 (State.commitOp r s) := by
  unfold State.commitOp
  repeat' first
    | with_reducible assumption
    | ((with_reducible apply hM.of) <;> rfl)
    | (with_reducible refine State.loadTarget_keeps ?_ ?_ (by assumption))
    | with_reducible apply State.res_keeps
    | with_reducible apply State.settleMoves_keeps
    | with_reducible apply State.commitLoaded_keeps
    | with_reducible apply Keeps.ite
    | (with_reducible apply Keeps2.of; with_reducible assumption)
    | with_reducible apply Keeps2.snd
    | (extract_lets +onlyGivenNames x1; with_reducible refine Cut x1 ?_ ?_)
    | (intro _; clear_value x1; revert x1; intro _ _)
    | subst x1
    | (extract_lets +onlyGivenNames x1; subst x1)
    | split
    | with_reducible apply Keeps2.mk
    | dsimp -zeta only

theorem State.unassignOp_keeps {M : Mask} {s0 : State} {r : Nat} {s : State} (hM : Sub ⟨0x80b41, 0x8290000000008000000ca00000000000100110⟩ M) (hK : Keeps M s0 s) :
    Keeps M s0 (State.unassignOp r s) := by
  unfold State.unassignOp
  repeat' first
    | with_reducible assumption
    | ((with_reducible apply hM.of) <;> rfl)
    | with_reducible apply State.restNewt_keeps
    | with_reducible apply State.res_keeps
    | with_reducible apply State.unassign_keeps
    | with_reducible apply State.settleMoves_keeps
    | with_reducible apply State.abandon_keeps
    | with_reducible apply Keeps.ite
    | (extract_lets +onlyGivenNames x1; with_reducible refine Cut x1 ?_ ?_)
    | (intro _; clear_value x1; revert x1; intro _ _)
    | subst x1
    | (extract_lets +onlyGivenNames x1; subst x1)
    | split
    | dsimp -zeta only

theorem State.takeToken_keeps {M : Mask} {s0 : State} {r : Nat} {s : State} (hM : Sub ⟨0x80101, 0xa00000000000100000⟩ M) (hK : Keeps M s0 s) :
    Keeps M s0 (State.takeToken r s) := by
  unfold State.takeToken
  repeat' first
    | with_reducible assumption
    | ((with_reducible apply hM.of) <;> rfl)
    | with_reducible apply State.tokenSafe_keeps
    | with_reducible apply State.res_keeps
    | with_reducible apply State.modRole_keeps
    | split
    | dsimp -zeta only

theorem State.releaseToken_keeps {M : Mask} {s0 : State} {r : Nat} {s : State} (hM : Sub ⟨0x80301, 0xa00000000000100000⟩ M) (hK : Keeps M s0 s) :
    Keeps M s0 (State.releaseToken r s) := by
  unfold State.releaseToken
  repeat' first
    | with_reducible assumption
    | ((with_reducible apply hM.of) <;> rfl)
    | with_reducible apply State.tokenSafe_keeps
    | with_reducible apply State.markWait_keeps
    | with_reducible apply State.res_keeps
    | with_reducible apply State.modRole_keeps
    | with_reducible apply Keeps.ite
    | split
    | dsimp -zeta only

theorem State.bootOp_keeps {M : Mask} {s0 : State} {n : Nat} {s : State} (hM : Sub ⟨0x80100, 0x800000000000000000⟩ M) (hK : Keeps M s0 s) :
    Keeps M s0 (State.bootOp n s) := by
  unfold State.bootOp
  repeat' first
    | with_reducible assumption
    | ((with_reducible apply hM.of) <;> rfl)
    | with_reducible apply hM.bit
    | with_reducible apply State.nwtBusy_keeps
    | with_reducible apply State.res_keeps
    | exact rfl
    | split
    | with_reducible apply Keeps.set_roles

theorem State.shed_keeps {M : Mask} {s0 : State} {n : Nat} {s : State} (hM : Sub ⟨0x80141, 0xc000000000000100000⟩ M) (hK : Keeps M s0 s) :
    Keeps M s0 (State.shed n s) := by
  unfold State.shed
  repeat' first
    | with_reducible assumption
    | ((with_reducible apply hM.of) <;> rfl)
    | with_reducible apply Wr.NWT_FPC
    | ((with_reducible apply hM.reg); decide)
    | with_reducible apply State.wr_keeps
    | with_reducible apply State.post_keeps
    | with_reducible apply State.modNewt_keeps
    | with_reducible apply State.loadImage_keeps
    | with_reducible apply State.setRun_keeps
    | with_reducible apply Keeps.ite
    | (extract_lets +onlyGivenNames x1; with_reducible refine Cut x1 ?_ ?_)
    | (intro _; clear_value x1; revert x1; intro _ _)
    | subst x1
    | (extract_lets +onlyGivenNames x1; subst x1)
    | exact rfl
    | split
    | dsimp -zeta only

theorem State.bootDone_keeps {M : Mask} {s0 : State} {s : State} (hM : Sub ⟨0x80341, 0x200000000000000000ca00000000000100000⟩ M) (hK : Keeps M s0 s) :
    Keeps M s0 (State.bootDone s) := by
  unfold State.bootDone
  repeat' first
    | with_reducible assumption
    | ((with_reducible apply hM.of) <;> rfl)
    | with_reducible apply hM.bit
    | with_reducible apply State.post_keeps
    | with_reducible apply State.res_keeps
    | with_reducible apply State.settleMoves_keeps
    | with_reducible apply State.shed_keeps
    | (extract_lets +onlyGivenNames x1; with_reducible refine Cut x1 ?_ ?_)
    | (intro _; clear_value x1; revert x1; intro _ _)
    | subst x1
    | (extract_lets +onlyGivenNames x1; subst x1)
    | exact rfl
    | split
    | with_reducible apply Keeps.set_roles

theorem State.selfTested_keeps {M : Mask} {s0 : State} {n : Nat} {passed : Bool} {s : State} (hM : Sub ⟨0x80101, 0x2000000000000000000000000000000100000⟩ M) (hK : Keeps M s0 s) :
    Keeps M s0 (State.selfTested n passed s) := by
  unfold State.selfTested
  repeat' first
    | with_reducible assumption
    | ((with_reducible apply hM.of) <;> rfl)
    | with_reducible apply Wr.HLT_STAT
    | ((with_reducible apply hM.reg); decide)
    | with_reducible apply hM.bit
    | with_reducible apply State.count_keeps
    | with_reducible apply State.post_keeps
    | with_reducible apply Keeps.ite
    | (extract_lets +onlyGivenNames x1; with_reducible refine Cut x1 ?_ ?_)
    | (intro _; clear_value x1; revert x1; intro _ _)
    | subst x1
    | (extract_lets +onlyGivenNames x1; subst x1)
    | exact rfl
    | split
    | with_reducible apply Keeps.set_roles

theorem State.testDone_keeps {M : Mask} {s0 : State} {failed : Option Nat} {s : State} (hM : Sub ⟨0x80341, 0x200000000000000000ea00000000000100000⟩ M) (hK : Keeps M s0 s) :
    Keeps M s0 (State.testDone failed s) := by
  unfold State.testDone
  repeat' first
    | with_reducible assumption
    | ((with_reducible apply hM.of) <;> rfl)
    | with_reducible apply Wr.NWT_BASK
    | ((with_reducible apply hM.reg); decide)
    | with_reducible apply hM.bit
    | with_reducible apply State.wb_keeps
    | with_reducible apply State.post_keeps
    | with_reducible apply State.modNewt_keeps
    | with_reducible apply State.setParked_keeps
    | with_reducible apply State.settleMoves_keeps
    | with_reducible apply State.shed_keeps
    | with_reducible apply State.selfTested_keeps
    | (extract_lets +onlyGivenNames x1; with_reducible refine Cut x1 ?_ ?_)
    | (intro _; clear_value x1; revert x1; intro _ _)
    | subst x1
    | (extract_lets +onlyGivenNames x1; subst x1)
    | exact rfl
    | split
    | with_reducible apply Keeps.set_roles

theorem State.nwtMove_keeps {M : Mask} {s0 : State} {m : Master} {w : Word} {s : State} (hM : Sub ⟨0x80b41, 0x8290000040008000000ca00000000000100110⟩ M) (hK : Keeps M s0 s) :
    Keeps M s0 (State.nwtMove m w s) := by
  unfold State.nwtMove
  repeat' first
    | with_reducible assumption
    | ((with_reducible apply hM.of) <;> rfl)
    | with_reducible apply Wr.NWT_STAT
    | ((with_reducible apply hM.reg); decide)
    | with_reducible apply State.flag_keeps
    | with_reducible apply State.testOp_keeps
    | with_reducible apply State.startMove_keeps
    | with_reducible apply State.commitOp_keeps
    | with_reducible apply State.unassignOp_keeps
    | with_reducible apply State.takeToken_keeps
    | with_reducible apply State.releaseToken_keeps
    | with_reducible apply State.bootOp_keeps
    | with_reducible apply Keeps.ite
    | (extract_lets +onlyGivenNames x1; with_reducible refine Cut x1 ?_ ?_)
    | (intro _; clear_value x1; revert x1; intro _ _)
    | subst x1
    | (extract_lets +onlyGivenNames x1; subst x1)
    | exact rfl
    | split
    | dsimp -zeta only

theorem execMoveImageLoaded_keeps {M : Mask} {s0 : State} {s : State} (hM : Sub ⟨0x80b41, 0x8290000040008000000ca00000000000100110⟩ M) (hK : Keeps M s0 s) :
    Good M s0 (execMoveImageLoaded s) := by
  unfold execMoveImageLoaded
  repeat' first
    | with_reducible assumption
    | ((with_reducible apply hM.of) <;> rfl)
    | with_reducible apply State.moveLoaded_keeps
    | with_reducible apply Good.next
    | split
    | dsimp -zeta only

theorem execHandoverTimeout_keeps {M : Mask} {s0 : State} {s : State} (hM : Sub ⟨0x80b41, 0x8290000040008000000ca00000000000100110⟩ M) (hK : Keeps M s0 s) :
    Good M s0 (execHandoverTimeout s) := by
  unfold execHandoverTimeout
  repeat' first
    | with_reducible assumption
    | ((with_reducible apply hM.of) <;> rfl)
    | with_reducible apply State.settleMoves_keeps
    | with_reducible apply State.commit_keeps
    | with_reducible apply Good.ite
    | with_reducible apply Good.next
    | with_reducible apply Keeps.ite
    | split
    | dsimp -zeta only

theorem State.copySlot_keeps {M : Mask} {s0 : State} {src dst : Nat} {s : State} (hM : Sub ⟨0x1100, 0x0⟩ M) (hK : Keeps M s0 s) :
    Keeps M s0 (State.copySlot src dst s) := by
  unfold State.copySlot
  repeat' first
    | with_reducible assumption
    | ((with_reducible apply hM.of) <;> rfl)
    | with_reducible apply hM.bit
    | (intro hx; dsimp only; exact twf_putFlash _ _ _ hx)
    | with_reducible apply State.setSector_keeps
    | with_reducible apply State.eraseArray_keeps
    | with_reducible apply Keeps.ite
    | (extract_lets +onlyGivenNames x1; with_reducible refine Cut x1 ?_ ?_)
    | (intro _; clear_value x1; revert x1; intro _ _)
    | subst x1
    | (extract_lets +onlyGivenNames x1; subst x1)
    | exact rfl
    | split
    | with_reducible apply Keeps.set_flash'

theorem execPersistCopyDone_keeps {M : Mask} {s0 : State} {s : State} (hM : Sub ⟨0x81100, 0x400000000000000000000000000000⟩ M) (hK : Keeps M s0 s) :
    Good M s0 (execPersistCopyDone s) := by
  unfold execPersistCopyDone
  repeat' first
    | with_reducible assumption
    | ((with_reducible apply hM.of) <;> rfl)
    | with_reducible apply hM.bit
    | with_reducible apply State.cflShow_keeps
    | with_reducible apply State.copySlot_keeps
    | with_reducible apply Good.next
    | exact rfl
    | split
    | with_reducible apply Keeps.set_roles

theorem execNewtBootDone_keeps {M : Mask} {s0 : State} {s : State} (hM : Sub ⟨0x80341, 0x200000000000000000ca00000000000100000⟩ M) (hK : Keeps M s0 s) :
    Good M s0 (execNewtBootDone s) := by
  unfold execNewtBootDone
  repeat' first
    | with_reducible assumption
    | ((with_reducible apply hM.of) <;> rfl)
    | with_reducible apply State.bootDone_keeps
    | with_reducible apply Good.next
    | split
    | dsimp -zeta only

theorem execNewtTestDone_keeps {M : Mask} {s0 : State} {failed : Option (Fin 3)} {s : State} (hM : Sub ⟨0x80341, 0x200000000000000000ea00000000000100000⟩ M) (hK : Keeps M s0 s) :
    Good M s0 (execNewtTestDone failed s) := by
  unfold execNewtTestDone
  repeat' first
    | with_reducible assumption
    | ((with_reducible apply hM.of) <;> rfl)
    | with_reducible apply State.testDone_keeps
    | with_reducible apply Good.next
    | split
    | dsimp -zeta only

theorem execFholdExpiry_keeps {M : Mask} {s0 : State} {role : Fin 64} {s : State} (hM : Sub ⟨0x80301, 0x100000⟩ M) (hK : Keeps M s0 s) :
    Good M s0 (execFholdExpiry role s) := by
  unfold execFholdExpiry
  repeat' first
    | with_reducible assumption
    | ((with_reducible apply hM.of) <;> rfl)
    | with_reducible apply hM.bit
    | with_reducible apply State.post_keeps
    | with_reducible apply State.markWait_keeps
    | with_reducible apply Good.ite
    | with_reducible apply Good.next
    | with_reducible apply Keeps.ite
    | (extract_lets +onlyGivenNames x1; with_reducible refine Cut x1 ?_ ?_)
    | (intro _; clear_value x1; revert x1; intro _ _)
    | subst x1
    | (extract_lets +onlyGivenNames x1; subst x1)
    | exact rfl
    | split
    | with_reducible apply Keeps.set_roles

theorem execMessageArrive_keeps {M : Mask} {s0 : State} {s : State} (hM : Sub ⟨0x80941, 0x80900000000000000000800000000000100110⟩ M) (hK : Keeps M s0 s) :
    Good M s0 (execMessageArrive s) := by
  unfold execMessageArrive
  repeat' first
    | with_reducible assumption
    | ((with_reducible apply hM.of) <;> rfl)
    | with_reducible apply State.arrive_keeps
    | with_reducible apply Good.next
    | split
    | dsimp -zeta only

theorem State.placeOne_keeps {M : Mask} {s0 : State} {n : Nat} {s : State} (hM : Sub ⟨0x80941, 0x80900000000000000000800000000000100110⟩ M) (hK : Keeps M s0 s) :
    Keeps M s0 (State.placeOne n s) := by
  unfold State.placeOne
  repeat' first
    | with_reducible assumption
    | ((with_reducible apply hM.of) <;> rfl)
    | with_reducible apply hM.bit
    | with_reducible apply State.putMsg_keeps
    | with_reducible apply State.astray_keeps
    | with_reducible apply Keeps.ite
    | (extract_lets +onlyGivenNames x1; with_reducible refine Cut x1 ?_ ?_)
    | (intro _; clear_value x1; revert x1; intro _ _)
    | subst x1
    | (extract_lets +onlyGivenNames x1; subst x1)
    | exact rfl
    | split
    | with_reducible apply Keeps.set_roles

theorem execHeldMessagePlace_keeps {M : Mask} {s0 : State} {n : Fin 16} {s : State} (hM : Sub ⟨0x80941, 0x80900000000000000000800000000000100110⟩ M) (hK : Keeps M s0 s) :
    Good M s0 (execHeldMessagePlace n s) := by
  unfold execHeldMessagePlace
  repeat' first
    | with_reducible assumption
    | ((with_reducible apply hM.of) <;> rfl)
    | with_reducible apply State.placeOne_keeps
    | with_reducible apply Good.next
    | split
    | dsimp -zeta only

end Sys2Proof.Machine
end

