-- ==== Sys2Proof/Laws/KeepsNewt.lean ====
section
/-! SUPPORT. What each operation of Machine/Newt.lean keeps (Laws/Keeps.lean says what that means). -/

namespace Sys2Proof.Machine

theorem State.setPort_keeps {M : Mask} {s0 : State} {n p : Nat} {v : Word} {s : State} (hM : Sub ⟨0x40, 0x0⟩ M) (hK : Keeps M s0 s) :
    Keeps M s0 (State.setPort n p v s) := by
  unfold State.setPort
  repeat' first
    | with_reducible assumption
    | ((with_reducible apply hM.of) <;> rfl)
    | with_reducible apply State.modNewt_keeps
    | split
    | dsimp -zeta only

theorem State.toLand_keeps {M : Mask} {s0 : State} {n left port : Nat} {v : Word} {sticky : Nat} {s : State} (hM : Sub ⟨0x40, 0x0⟩ M) (hK : Keeps M s0 s) :
    Keeps M s0 (State.toLand n left port v sticky s) := by
  unfold State.toLand
  repeat' first
    | with_reducible assumption
    | ((with_reducible apply hM.of) <;> rfl)
    | with_reducible apply State.modNewt_keeps
    | split
    | dsimp -zeta only

theorem State.macTrig_keeps {M : Mask} {s0 : State} {n : Nat} {m : Moved} {s : State} (hM : Sub ⟨0x80040, 0x900000000000000000000000000000000000⟩ M) (hK : Keeps M s0 s) :
    Keeps M s0 (State.macTrig n m s) := by
  unfold State.macTrig
  repeat' first
    | with_reducible assumption
    | ((with_reducible apply hM.of) <;> rfl)
    | with_reducible apply State.modNewt_keeps
    | with_reducible apply State.pmc_keeps
    | with_reducible apply State.toLand_keeps
    | with_reducible apply Keeps.ite
    | (extract_lets +onlyGivenNames x1; with_reducible refine Cut x1 ?_ ?_)
    | (intro _; clear_value x1; revert x1; intro _ _)
    | subst x1
    | (extract_lets +onlyGivenNames x1; subst x1)
    | split
    | dsimp -zeta only

theorem twf_memWrite (l : List Byte) : ∀ (a : Nat) (t : Tbl Byte),
    twf (fun _ => (0 : Byte)) t = true → twf (fun _ => (0 : Byte)) (memWrite a l t) = true := by
  induction l with
  | nil => exact fun _ _ h => h
  | cons b r ih => exact fun a t h => ih _ _ (twf_tset _ _ _ _ h)

theorem State.lsuTrig_keeps {M : Mask} {s0 : State} {n : Nat} {ue : Bool} {m : Moved} {s : State} (hM : Sub ⟨0x800c0, 0x900000000000000000000000000000000000⟩ M) (hK : Keeps M s0 s) :
    Keeps M s0 (State.lsuTrig n ue m s) := by
  unfold State.lsuTrig
  repeat' first
    | with_reducible assumption
    | ((with_reducible apply hM.of) <;> rfl)
    | with_reducible apply hM.bit
    | (intro hx; dsimp only; exact twf_memWrite _ _ _ hx)
    | exact twf_memWrite _ _ _
    | with_reducible apply State.modNewt_keeps
    | with_reducible apply State.pmc_keeps
    | with_reducible apply State.toLand_keeps
    | with_reducible apply Keeps.ite
    | (extract_lets +onlyGivenNames x1; with_reducible refine Cut x1 ?_ ?_)
    | (intro _; clear_value x1; revert x1; intro _ _)
    | subst x1
    | (extract_lets +onlyGivenNames x1; subst x1)
    | exact rfl
    | split
    | with_reducible apply Keeps.set_gather

theorem State.mbxTrig_keeps {M : Mask} {s0 : State} {n : Nat} {m : Moved} {s : State} (hM : Sub ⟨0x40, 0x0⟩ M) (hK : Keeps M s0 s) :
    Keeps M s0 (State.mbxTrig n m s) := by
  unfold State.mbxTrig
  repeat' first
    | with_reducible assumption
    | ((with_reducible apply hM.of) <;> rfl)
    | with_reducible apply State.modNewt_keeps
    | with_reducible apply State.setPort_keeps
    | with_reducible apply Keeps.ite
    | (extract_lets +onlyGivenNames x1; with_reducible refine Cut x1 ?_ ?_)
    | (intro _; clear_value x1; revert x1; intro _ _)
    | subst x1
    | (extract_lets +onlyGivenNames x1; subst x1)
    | split
    | dsimp -zeta only

theorem State.evtTrig_keeps {M : Mask} {s0 : State} {n : Nat} {m : Moved} {s : State} (hM : Sub ⟨0x80341, 0x90000000013440c010000000000000100000⟩ M) (hK : Keeps M s0 s) :
    Keeps M s0 (State.evtTrig n m s) := by
  unfold State.evtTrig
  repeat' first
    | with_reducible assumption
    | ((with_reducible apply hM.of) <;> rfl)
    | with_reducible apply State.setNewt_keeps
    | with_reducible apply State.raise_keeps
    | with_reducible apply Keeps.ite
    | (with_reducible apply Keeps.foldl; intro _ _ _)
    | (extract_lets +onlyGivenNames x1; with_reducible refine Cut x1 ?_ ?_)
    | (intro _; clear_value x1; revert x1; intro _ _)
    | subst x1
    | (extract_lets +onlyGivenNames x1; subst x1)
    | split
    | dsimp -zeta only

theorem State.trigger_keeps {M : Mask} {s0 : State} {n : Nat} {ue : Bool} {s : State} {m : Moved} (hM : Sub ⟨0x803c1, 0x90000000013440c010000000000000100000⟩ M) (hK : Keeps M s0 s) :
    Keeps M s0 (State.trigger n ue s m) := by
  unfold State.trigger
  repeat' first
    | with_reducible assumption
    | ((with_reducible apply hM.of) <;> rfl)
    | with_reducible apply State.modNewt_keeps
    | with_reducible apply State.setPort_keeps
    | with_reducible apply State.toLand_keeps
    | with_reducible apply State.macTrig_keeps
    | with_reducible apply State.lsuTrig_keeps
    | with_reducible apply State.mbxTrig_keeps
    | with_reducible apply State.evtTrig_keeps
    | with_reducible apply Keeps.ite
    | (extract_lets +onlyGivenNames x1; with_reducible refine Cut x1 ?_ ?_)
    | (intro _; clear_value x1; revert x1; intro _ _)
    | subst x1
    | (extract_lets +onlyGivenNames x1; subst x1)
    | split
    | dsimp -zeta only

theorem State.redirect_keeps {M : Mask} {s0 : State} {n : Nat} {new : Option Redirect} {s : State} (hM : Sub ⟨0x80b41, 0x82b0000040008000000ca00000000000100110⟩ M) (hK : Keeps M s0 s) :
    Keeps M s0 (State.redirect n new s) := by
  unfold State.redirect
  repeat' first
    | with_reducible assumption
    | ((with_reducible apply hM.of) <;> rfl)
    | with_reducible apply Wr.NWT_FPC
    | ((with_reducible apply hM.reg); decide)
    | with_reducible apply State.wr_keeps
    | with_reducible apply State.setNewt_keeps
    | with_reducible apply State.closeAll_keeps
    | with_reducible apply State.setRun_keeps
    | with_reducible apply State.newtDown_keeps
    | with_reducible apply Keeps.ite
    | (extract_lets +onlyGivenNames x1; with_reducible refine Cut x1 ?_ ?_)
    | (intro _; clear_value x1; revert x1; intro _ _)
    | subst x1
    | (extract_lets +onlyGivenNames x1; subst x1)
    | exact rfl
    | split
    | dsimp -zeta only

theorem State.sampled_keeps {M : Mask} {s0 : State} {n : Nat} {kinds : List Nat} {s : State} (hM : Sub ⟨0x40, 0x0⟩ M) (hK : Keeps M s0 s) :
    Keeps1 M s0 (State.sampled n kinds s) := by
  unfold State.sampled
  repeat' first
    | with_reducible assumption
    | ((with_reducible apply hM.of) <;> rfl)
    | with_reducible apply State.setNewt_keeps
    | with_reducible apply Keeps1.ite
    | with_reducible apply Keeps.ite
    | (extract_lets +onlyGivenNames x1; with_reducible refine Cut x1 ?_ ?_)
    | (intro _; clear_value x1; revert x1; intro _ _)
    | subst x1
    | (extract_lets +onlyGivenNames x1; subst x1)
    | split
    | with_reducible apply Keeps1.mk
    | dsimp -zeta only

theorem State.wordFault_keeps {M : Mask} {s0 : State} {n cause slot : Nat} {kinds : List Nat} {s : State} (hM : Sub ⟨0x80b41, 0x82b0000040008000000ca00000000000100110⟩ M) (hK : Keeps M s0 s) :
    Keeps M s0 (State.wordFault n cause slot kinds s) := by
  unfold State.wordFault
  repeat' first
    | with_reducible assumption
    | ((with_reducible apply hM.of) <;> rfl)
    | with_reducible apply State.writeSample_keeps
    | with_reducible apply State.newtFault_keeps
    | with_reducible apply State.sampled_keeps
    | with_reducible apply Keeps.ite
    | (with_reducible apply Keeps1.of; with_reducible assumption)
    | with_reducible apply Keeps1.fst
    | (extract_lets +onlyGivenNames x1; with_reducible refine Cut x1 ?_ ?_)
    | (intro _; clear_value x1; revert x1; intro _ _)
    | subst x1
    | (extract_lets +onlyGivenNames x1; subst x1)
    | split
    | with_reducible apply Keeps1.mk
    | dsimp -zeta only

theorem State.runWord_keeps {M : Mask} {s0 : State} {n stall sticky : Nat} {gue : Bool} {ws ts : List Moved} {y : Newt} {s : State} (hM : Sub ⟨0x80bc1, 0x82b000004001b440c01ca00000000000100110⟩ M) (hK : Keeps M s0 s) :
    Keeps M s0 (State.runWord n stall sticky gue ws ts y s) := by
  unfold State.runWord
  repeat' first
    | with_reducible assumption
    | ((with_reducible apply hM.of) <;> rfl)
    | with_reducible apply State.modNewt_keeps
    | with_reducible apply State.pmc_keeps
    | with_reducible apply State.trigger_keeps
    | with_reducible apply State.redirect_keeps
    | with_reducible apply State.sampled_keeps
    | with_reducible apply Keeps.ite
    | (with_reducible apply Keeps.foldl; intro _ _ _)
    | (with_reducible apply Keeps1.of; with_reducible assumption)
    | with_reducible apply Keeps1.fst
    | (extract_lets +onlyGivenNames x1; with_reducible refine Cut x1 ?_ ?_)
    | (intro _; clear_value x1; revert x1; intro _ _)
    | subst x1
    | (extract_lets +onlyGivenNames x1; subst x1)
    | split
    | with_reducible apply Keeps1.mk
    | dsimp -zeta only

theorem State.word_keeps {M : Mask} {s0 : State} {n stall : Nat} {sram : SramRead} {s : State} (hM : Sub ⟨0x80bc1, 0x82b000004001b440c01ca00000000000100114⟩ M) (hK : Keeps M s0 s) :
    Keeps M s0 (State.word n stall sram s) := by
  unfold State.word
  repeat' first
    | with_reducible assumption
    | ((with_reducible apply hM.of) <;> rfl)
    | with_reducible apply State.sramFixed_keeps
    | with_reducible apply State.sramUe_keeps
    | with_reducible apply State.setNewt_keeps
    | with_reducible apply State.closeWords_keeps
    | with_reducible apply State.newtFault_keeps
    | with_reducible apply State.wordFault_keeps
    | with_reducible apply State.runWord_keeps
    | with_reducible apply Keeps.ite
    | (with_reducible apply Keeps.foldl; intro _ _ _)
    | (extract_lets +onlyGivenNames x1; with_reducible refine Cut x1 ?_ ?_)
    | (intro _; clear_value x1; revert x1; intro _ _)
    | subst x1
    | (extract_lets +onlyGivenNames x1; subst x1)
    | split
    | dsimp -zeta only

theorem execNewtWordExecute_keeps {M : Mask} {s0 : State} {n : Fin 16} {stall : Nat} {sram : SramRead} {s : State} (hM : Sub ⟨0x80bc1, 0x82b000004001b440c01ca00000000000100114⟩ M) (hK : Keeps M s0 s) :
    Good M s0 (execNewtWordExecute n stall sram s) := by
  unfold execNewtWordExecute
  repeat' first
    | with_reducible assumption
    | ((with_reducible apply hM.of) <;> rfl)
    | with_reducible apply State.word_keeps
    | with_reducible apply Good.ite
    | with_reducible apply Good.next
    | with_reducible apply Keeps.ite
    | split
    | dsimp -zeta only

theorem State.waitEnd_keeps {M : Mask} {s0 : State} {n cycles : Nat} {s : State} (hM : Sub ⟨0x80b41, 0x82b0000040008000000ca00000000000100110⟩ M) (hK : Keeps M s0 s) :
    Keeps M s0 (State.waitEnd n cycles s) := by
  unfold State.waitEnd
  repeat' first
    | with_reducible assumption
    | ((with_reducible apply hM.of) <;> rfl)
    | with_reducible apply State.newtBusy_keeps
    | with_reducible apply State.setNewt_keeps
    | with_reducible apply State.modNewt_keeps
    | with_reducible apply State.pmc_keeps
    | with_reducible apply State.setRun_keeps
    | with_reducible apply State.newtFault_keeps
    | with_reducible apply Keeps.ite
    | (extract_lets +onlyGivenNames x1; with_reducible refine Cut x1 ?_ ?_)
    | (intro _; clear_value x1; revert x1; intro _ _)
    | subst x1
    | (extract_lets +onlyGivenNames x1; subst x1)
    | split
    | dsimp -zeta only

theorem execWaitEnd_keeps {M : Mask} {s0 : State} {n : Fin 16} {cycles : Nat} {s : State} (hM : Sub ⟨0x80b41, 0x82b0000040008000000ca00000000000100110⟩ M) (hK : Keeps M s0 s) :
    Good M s0 (execWaitEnd n cycles s) := by
  unfold execWaitEnd
  repeat' first
    | with_reducible assumption
    | ((with_reducible apply hM.of) <;> rfl)
    | with_reducible apply State.waitEnd_keeps
    | with_reducible apply Good.ite
    | with_reducible apply Good.next
    | with_reducible apply Keeps.ite
    | split
    | dsimp -zeta only

theorem State.timerExpiry_keeps {M : Mask} {s0 : State} {n : Nat} {s : State} (hM : Sub ⟨0x80040, 0x900000000000000000000000000000000000⟩ M) (hK : Keeps M s0 s) :
    Keeps M s0 (State.timerExpiry n s) := by
  unfold State.timerExpiry
  repeat' first
    | with_reducible assumption
    | ((with_reducible apply hM.of) <;> rfl)
    | with_reducible apply State.modNewt_keeps
    | with_reducible apply State.pmc_keeps
    | with_reducible apply Keeps.ite
    | (extract_lets +onlyGivenNames x1; with_reducible refine Cut x1 ?_ ?_)
    | (intro _; clear_value x1; revert x1; intro _ _)
    | subst x1
    | (extract_lets +onlyGivenNames x1; subst x1)
    | split
    | dsimp -zeta only

theorem execNewtTimerExpiry_keeps {M : Mask} {s0 : State} {n : Fin 16} {s : State} (hM : Sub ⟨0x80040, 0x900000000000000000000000000000000000⟩ M) (hK : Keeps M s0 s) :
    Good M s0 (execNewtTimerExpiry n s) := by
  unfold execNewtTimerExpiry
  repeat' first
    | with_reducible assumption
    | ((with_reducible apply hM.of) <;> rfl)
    | with_reducible apply State.timerExpiry_keeps
    | with_reducible apply Good.ite
    | with_reducible apply Good.next
    | with_reducible apply Keeps.ite
    | split
    | dsimp -zeta only

theorem State.mbxDone_keeps {M : Mask} {s0 : State} {n : Nat} {s : State} (hM : Sub ⟨0x80140, 0xb00000000000000000000000000000000000⟩ M) (h : Keeps M s0 s) :
    Keeps M s0 (State.mbxDone n s) := by
  unfold State.mbxDone
  split
  · assumption
  refine Cut (s.modNewt n fun x => { x with mbxOp := none }) (State.modNewt_keeps (hM.of rfl rfl) h) ?_
  generalize (s.modNewt n fun x => { x with mbxOp := none }) = x1
  intro h1
  refine State.closeMbx_keeps (hM.of rfl rfl) (State.setPort_keeps (hM.of rfl rfl) (Keeps2.snd ?_))
  split
  · dsimp only
    split
    · exact Keeps2.mk (Keeps.set_roles (hM.bit _ rfl) h1)
    · exact Keeps2.mk (State.pmc_keeps (hM.of rfl rfl) h1)
  · split
    · exact Keeps2.mk h1
    · exact Keeps2.mk (State.modNewt_keeps (hM.of rfl rfl) h1)

theorem execMailboxOpComplete_keeps {M : Mask} {s0 : State} {n : Fin 16} {s : State} (hM : Sub ⟨0x80140, 0xb00000000000000000000000000000000000⟩ M) (hK : Keeps M s0 s) :
    Good M s0 (execMailboxOpComplete n s) := by
  unfold execMailboxOpComplete
  repeat' first
    | with_reducible assumption
    | ((with_reducible apply hM.of) <;> rfl)
    | with_reducible apply State.mbxDone_keeps
    | with_reducible apply Good.next
    | split
    | dsimp -zeta only

end Sys2Proof.Machine
end

