-- ==== Sys2Proof/Laws/KeepsStore.lean ====
section
/-! SUPPORT. What each operation of Machine/Store.lean keeps (Laws/Keeps.lean says what that means). -/

namespace Sys2Proof.Machine

theorem State.stoCount_keeps {M : Mask} {s0 : State} {off k : Nat} {s : State} (hM : Sub ⟨0x2, 0x0⟩ M) (hK : Keeps M s0 s) :
    Keeps M s0 (State.stoCount off k s) := by
  unfold State.stoCount
  repeat' first
    | with_reducible assumption
    | ((with_reducible apply hM.of) <;> rfl)
    | with_reducible apply hM.bit
    | exact rfl
    | split
    | with_reducible apply Keeps.set_store

theorem State.showHealth_keeps {M : Mask} {s0 : State} {s : State} (hM : Sub ⟨0x80000, 0x200000000⟩ M) (hK : Keeps M s0 s) :
    Keeps M s0 (State.showHealth s) := by
  unfold State.showHealth
  repeat' first
    | with_reducible assumption
    | ((with_reducible apply hM.of) <;> rfl)
    | with_reducible apply Wr.STO_HEALTH
    | ((with_reducible apply hM.reg); decide)
    | with_reducible apply State.wf_keeps
    | with_reducible apply Keeps.ite
    | exact rfl
    | split
    | dsimp -zeta only

theorem State.setDie_keeps {M : Mask} {s0 : State} {d : Nat} {x : Die} {s : State} (hM : Sub ⟨0x2, 0x0⟩ M) (hK : Keeps M s0 s) :
    Keeps M s0 (State.setDie d x s) := by
  unfold State.setDie
  repeat' first
    | with_reducible assumption
    | ((with_reducible apply hM.of) <;> rfl)
    | with_reducible apply hM.bit
    | exact rfl
    | split
    | with_reducible apply Keeps.set_store

theorem State.dieAnswered_keeps {M : Mask} {s0 : State} {d : Nat} {s : State} (hM : Sub ⟨0x2, 0x0⟩ M) (hK : Keeps M s0 s) :
    Keeps M s0 (State.dieAnswered d s) := by
  unfold State.dieAnswered
  repeat' first
    | with_reducible assumption
    | ((with_reducible apply hM.of) <;> rfl)
    | with_reducible apply State.setDie_keeps
    | split
    | dsimp -zeta only

theorem State.program_keeps {M : Mask} {s0 : State} {l : List (Nat × Codeword)} {s : State} (hM : Sub ⟨0x80002, 0x200000000⟩ M) (hK : Keeps M s0 s) :
    Keeps M s0 (State.program l s) := by
  unfold State.program
  repeat' first
    | with_reducible assumption
    | ((with_reducible apply hM.of) <;> rfl)
    | with_reducible apply hM.bit
    | with_reducible apply State.stoCount_keeps
    | with_reducible apply State.showHealth_keeps
    | with_reducible apply State.dieAnswered_keeps
    | (with_reducible apply Keeps.foldl; intro _ _ _)
    | (extract_lets +onlyGivenNames x1; with_reducible refine Cut x1 ?_ ?_)
    | (intro _; clear_value x1; revert x1; intro _ _)
    | subst x1
    | (extract_lets +onlyGivenNames x1; subst x1)
    | exact rfl
    | split
    | with_reducible apply Keeps.set_store

theorem State.touchMap_keeps {M : Mask} {s0 : State} {lba : Nat} {dirty : Bool} {s : State} (hM : Sub ⟨0x2, 0x0⟩ M) (hK : Keeps M s0 s) :
    Keeps M s0 (State.touchMap lba dirty s) := by
  unfold State.touchMap
  repeat' first
    | with_reducible assumption
    | ((with_reducible apply hM.of) <;> rfl)
    | with_reducible apply hM.bit
    | (extract_lets +onlyGivenNames x1; with_reducible refine Cut x1 ?_ ?_)
    | (intro _; clear_value x1; revert x1; intro _ _)
    | subst x1
    | (extract_lets +onlyGivenNames x1; subst x1)
    | exact rfl
    | split
    | with_reducible apply Keeps.set_store

theorem State.rgDown_keeps {M : Mask} {s0 : State} {n : Nat} {s : State} (hM : Sub ⟨0x80000, 0x100000000⟩ M) (hK : Keeps M s0 s) :
    Keeps M s0 (State.rgDown n s) := by
  unfold State.rgDown
  repeat' first
    | with_reducible assumption
    | ((with_reducible apply hM.of) <;> rfl)
    | with_reducible apply Wr.STO_RGLEFT
    | ((with_reducible apply hM.reg); decide)
    | with_reducible apply State.wr_keeps
    | with_reducible apply Keeps.ite
    | exact rfl
    | split
    | dsimp -zeta only

theorem State.paneRebuilt_keeps {M : Mask} {s0 : State} {n : Nat} {s : State} (hM : Sub ⟨0x2, 0x0⟩ M) (hK : Keeps M s0 s) :
    Keeps M s0 (State.paneRebuilt n s) := by
  unfold State.paneRebuilt
  repeat' first
    | with_reducible assumption
    | ((with_reducible apply hM.of) <;> rfl)
    | with_reducible apply hM.bit
    | with_reducible apply Keeps.ite
    | (extract_lets +onlyGivenNames x1; with_reducible refine Cut x1 ?_ ?_)
    | (intro _; clear_value x1; revert x1; intro _ _)
    | subst x1
    | (extract_lets +onlyGivenNames x1; subst x1)
    | exact rfl
    | split
    | with_reducible apply Keeps.set_store

theorem State.setMap_keeps {M : Mask} {s0 : State} {lba : Nat} {e : Word} {s : State} (hM : Sub ⟨0x80002, 0x100000000⟩ M) (hK : Keeps M s0 s) :
    Keeps M s0 (State.setMap lba e s) := by
  unfold State.setMap
  repeat' first
    | with_reducible assumption
    | ((with_reducible apply hM.of) <;> rfl)
    | with_reducible apply hM.bit
    | with_reducible apply State.touchMap_keeps
    | with_reducible apply State.rgDown_keeps
    | with_reducible apply State.paneRebuilt_keeps
    | with_reducible apply Keeps.ite
    | (extract_lets +onlyGivenNames x1; with_reducible refine Cut x1 ?_ ?_)
    | (intro _; clear_value x1; revert x1; intro _ _)
    | subst x1
    | (extract_lets +onlyGivenNames x1; subst x1)
    | exact rfl
    | split
    | with_reducible apply Keeps.set_store

theorem State.dropOther_keeps {M : Mask} {s0 : State} {p : Nat → Bool} {s : State} (hM : Sub ⟨0x80002, 0x100000000⟩ M) (hK : Keeps M s0 s) :
    Keeps M s0 (State.dropOther p s) := by
  unfold State.dropOther
  repeat' first
    | with_reducible assumption
    | ((with_reducible apply hM.of) <;> rfl)
    | with_reducible apply hM.bit
    | with_reducible apply State.rgDown_keeps
    | with_reducible apply State.paneRebuilt_keeps
    | (with_reducible apply Keeps.foldl; intro _ _ _)
    | (extract_lets +onlyGivenNames x1; with_reducible refine Cut x1 ?_ ?_)
    | (intro _; clear_value x1; revert x1; intro _ _)
    | subst x1
    | (extract_lets +onlyGivenNames x1; subst x1)
    | exact rfl
    | split
    | with_reducible apply Keeps.set_store

theorem State.logRecs_keeps {M : Mask} {s0 : State} {l : List LogRec} {s : State} (hM : Sub ⟨0x2, 0x0⟩ M) (hK : Keeps M s0 s) :
    Keeps M s0 (State.logRecs l s) := by
  unfold State.logRecs
  repeat' first
    | with_reducible assumption
    | ((with_reducible apply hM.of) <;> rfl)
    | with_reducible apply hM.bit
    | exact rfl
    | split
    | with_reducible apply Keeps.set_store

theorem State.programLog_keeps {M : Mask} {s0 : State} {s : State} (hM : Sub ⟨0x2, 0x0⟩ M) (hK : Keeps M s0 s) :
    Keeps M s0 (State.programLog s) := by
  unfold State.programLog
  repeat' first
    | with_reducible assumption
    | ((with_reducible apply hM.of) <;> rfl)
    | with_reducible apply hM.bit
    | with_reducible apply State.stoCount_keeps
    | with_reducible apply State.dieAnswered_keeps
    | (with_reducible apply Keeps.foldl; intro _ _ _)
    | (extract_lets +onlyGivenNames x1; with_reducible refine Cut x1 ?_ ?_)
    | (intro _; clear_value x1; revert x1; intro _ _)
    | subst x1
    | (extract_lets +onlyGivenNames x1; subst x1)
    | exact rfl
    | split
    | with_reducible apply Keeps.set_store

theorem State.stageUnit_keeps {M : Mask} {s0 : State} {order first : Nat} {data : List Blk} {failed : Bool} {s : State} (hM : Sub ⟨0x2, 0x0⟩ M) (hK : Keeps M s0 s) :
    Keeps M s0 (State.stageUnit order first data failed s) := by
  unfold State.stageUnit
  repeat' first
    | with_reducible assumption
    | ((with_reducible apply hM.of) <;> rfl)
    | with_reducible apply hM.bit
    | (extract_lets +onlyGivenNames x1; with_reducible refine Cut x1 ?_ ?_)
    | (intro _; clear_value x1; revert x1; intro _ _)
    | subst x1
    | (extract_lets +onlyGivenNames x1; subst x1)
    | exact rfl
    | split
    | with_reducible apply Keeps.set_store

theorem State.stageUnits_keeps {M : Mask} {s0 : State} {order base : Nat} {data : List Blk} {us : List (Nat × Nat)} {failed : Bool} {s : State} (hM : Sub ⟨0x2, 0x0⟩ M) (hK : Keeps M s0 s) :
    Keeps M s0 (State.stageUnits order base data us failed s) := by
  unfold State.stageUnits
  repeat' first
    | with_reducible assumption
    | ((with_reducible apply hM.of) <;> rfl)
    | with_reducible apply State.stageUnit_keeps
    | (with_reducible apply Keeps.foldl; intro _ _ _)
    | split
    | dsimp -zeta only

theorem State.trimUnit_keeps {M : Mask} {s0 : State} {s : State} {u : Nat × Nat} (hM : Sub ⟨0x80002, 0x100000000⟩ M) (hK : Keeps M s0 s) :
    Keeps M s0 (State.trimUnit s u) := by
  unfold State.trimUnit
  repeat' first
    | with_reducible assumption
    | ((with_reducible apply hM.of) <;> rfl)
    | with_reducible apply hM.bit
    | with_reducible apply State.setMap_keeps
    | with_reducible apply State.logRecs_keeps
    | with_reducible apply Keeps.ite
    | (with_reducible apply Keeps.foldl; intro _ _ _)
    | (extract_lets +onlyGivenNames x1; with_reducible refine Cut x1 ?_ ?_)
    | (intro _; clear_value x1; revert x1; intro _ _)
    | subst x1
    | (extract_lets +onlyGivenNames x1; subst x1)
    | exact rfl
    | split
    | with_reducible apply Keeps.set_store

theorem State.commitUnit_keeps {M : Mask} {s0 : State} {id : Nat} {locs : List Nat} {s : State} (hM : Sub ⟨0x80002, 0x300000000⟩ M) (hK : Keeps M s0 s) :
    Keeps M s0 (State.commitUnit id locs s) := by
  unfold State.commitUnit
  repeat' first
    | with_reducible assumption
    | ((with_reducible apply hM.of) <;> rfl)
    | with_reducible apply hM.bit
    | with_reducible apply State.program_keeps
    | with_reducible apply State.setMap_keeps
    | with_reducible apply State.logRecs_keeps
    | with_reducible apply Keeps.ite
    | (with_reducible apply Keeps.foldl; intro _ _ _)
    | (extract_lets +onlyGivenNames x1; with_reducible refine Cut x1 ?_ ?_)
    | (intro _; clear_value x1; revert x1; intro _ _)
    | subst x1
    | (extract_lets +onlyGivenNames x1; subst x1)
    | exact rfl
    | split
    | with_reducible apply Keeps.set_store

theorem execUnitCommit_keeps {M : Mask} {s0 : State} {unit : Nat} {locs : List Nat} {s : State} (hM : Sub ⟨0x80002, 0x300000000⟩ M) (hK : Keeps M s0 s) :
    Good M s0 (execUnitCommit unit locs s) := by
  unfold execUnitCommit
  repeat' first
    | with_reducible assumption
    | ((with_reducible apply hM.of) <;> rfl)
    | with_reducible apply State.commitUnit_keeps
    | with_reducible apply Good.ite
    | with_reducible apply Good.next
    | with_reducible apply Keeps.ite
    | split
    | dsimp -zeta only

theorem State.ckptStart_keeps {M : Mask} {s0 : State} {s : State} (hM : Sub ⟨0x80002, 0x100000000⟩ M) (hK : Keeps M s0 s) :
    Keeps M s0 (State.ckptStart s) := by
  unfold State.ckptStart
  repeat' first
    | with_reducible assumption
    | ((with_reducible apply hM.of) <;> rfl)
    | with_reducible apply hM.bit
    | with_reducible apply State.dropOther_keeps
    | with_reducible apply Keeps.ite
    | (with_reducible apply Keeps.foldl; intro _ _ _)
    | (extract_lets +onlyGivenNames x1; with_reducible refine Cut x1 ?_ ?_)
    | (intro _; clear_value x1; revert x1; intro _ _)
    | subst x1
    | (extract_lets +onlyGivenNames x1; subst x1)
    | exact rfl
    | split
    | with_reducible apply Keeps.set_store

theorem State.releaseLog_keeps {M : Mask} {s0 : State} {s : State} (hM : Sub ⟨0x2, 0x0⟩ M) (hK : Keeps M s0 s) :
    Keeps M s0 (State.releaseLog s) := by
  unfold State.releaseLog
  repeat' first
    | with_reducible assumption
    | ((with_reducible apply hM.of) <;> rfl)
    | with_reducible apply hM.bit
    | with_reducible apply Keeps.ite
    | (extract_lets +onlyGivenNames x1; with_reducible refine Cut x1 ?_ ?_)
    | (intro _; clear_value x1; revert x1; intro _ _)
    | subst x1
    | (extract_lets +onlyGivenNames x1; subst x1)
    | exact rfl
    | split
    | with_reducible apply Keeps.set_store

theorem State.ckptDone_keeps {M : Mask} {s0 : State} {s : State} (hM : Sub ⟨0x80002, 0x100000000⟩ M) (hK : Keeps M s0 s) :
    Keeps M s0 (State.ckptDone s) := by
  unfold State.ckptDone
  repeat' first
    | with_reducible assumption
    | ((with_reducible apply hM.of) <;> rfl)
    | with_reducible apply hM.bit
    | with_reducible apply State.stoCount_keeps
    | with_reducible apply State.dieAnswered_keeps
    | with_reducible apply State.dropOther_keeps
    | with_reducible apply State.programLog_keeps
    | with_reducible apply State.releaseLog_keeps
    | with_reducible apply Keeps.ite
    | (with_reducible apply Keeps.foldl; intro _ _ _)
    | (extract_lets +onlyGivenNames x1; with_reducible refine Cut x1 ?_ ?_)
    | (intro _; clear_value x1; revert x1; intro _ _)
    | subst x1
    | (extract_lets +onlyGivenNames x1; subst x1)
    | exact rfl
    | split
    | with_reducible apply Keeps.set_store

theorem execCheckpointStart_keeps {M : Mask} {s0 : State} {s : State} (hM : Sub ⟨0x80002, 0x100000000⟩ M) (hK : Keeps M s0 s) :
    Good M s0 (execCheckpointStart s) := by
  unfold execCheckpointStart
  repeat' first
    | with_reducible assumption
    | ((with_reducible apply hM.of) <;> rfl)
    | with_reducible apply State.ckptStart_keeps
    | with_reducible apply Good.ite
    | with_reducible apply Good.next
    | with_reducible apply Keeps.ite
    | split
    | dsimp -zeta only

theorem execCheckpointDone_keeps {M : Mask} {s0 : State} {s : State} (hM : Sub ⟨0x80002, 0x100000000⟩ M) (hK : Keeps M s0 s) :
    Good M s0 (execCheckpointDone s) := by
  unfold execCheckpointDone
  repeat' first
    | with_reducible assumption
    | ((with_reducible apply hM.of) <;> rfl)
    | with_reducible apply State.ckptDone_keeps
    | with_reducible apply Good.ite
    | with_reducible apply Good.next
    | with_reducible apply Keeps.ite
    | split
    | dsimp -zeta only

theorem State.stallCmd_keeps {M : Mask} {s0 : State} {q : Nat} {c : Cmd} {s : State} (hM : Sub ⟨0x1, 0x0⟩ M) (hK : Keeps M s0 s) :
    Keeps M s0 (State.stallCmd q c s) := by
  unfold State.stallCmd
  repeat' first
    | with_reducible assumption
    | ((with_reducible apply hM.of) <;> rfl)
    | with_reducible apply State.modQ_keeps
    | with_reducible apply Keeps.ite
    | split
    | dsimp -zeta only

theorem State.stallOver_keeps {M : Mask} {s0 : State} {us : Nat} {s : State} (hM : Sub ⟨0x80001, 0x10100000⟩ M) (hK : Keeps M s0 s) :
    Keeps M s0 (State.stallOver us s) := by
  unfold State.stallOver
  repeat' first
    | with_reducible assumption
    | ((with_reducible apply hM.of) <;> rfl)
    | with_reducible apply Wr.STO_STAT
    | ((with_reducible apply hM.reg); decide)
    | with_reducible apply State.flag_keeps
    | with_reducible apply State.post_keeps
    | exact rfl
    | split
    | dsimp -zeta only

theorem State.mapRebuild_keeps {M : Mask} {s0 : State} {first n : Nat} {s : State} (hM : Sub ⟨0x2, 0x0⟩ M) (hK : Keeps M s0 s) :
    Keeps M s0 (State.mapRebuild first n s) := by
  unfold State.mapRebuild
  repeat' first
    | with_reducible assumption
    | ((with_reducible apply hM.of) <;> rfl)
    | with_reducible apply hM.bit
    | with_reducible apply Keeps.ite
    | (with_reducible apply Keeps.foldl; intro _ _ _)
    | (extract_lets +onlyGivenNames x1; with_reducible refine Cut x1 ?_ ?_)
    | (intro _; clear_value x1; revert x1; intro _ _)
    | subst x1
    | (extract_lets +onlyGivenNames x1; subst x1)
    | exact rfl
    | split
    | with_reducible apply Keeps.set_store

theorem execMapRebuild_keeps {M : Mask} {s0 : State} {first : Nat} {cacheLine : Bool} {s : State} (hM : Sub ⟨0xc0003, 0x100004⟩ M) (hK : Keeps M s0 s) :
    Good M s0 (execMapRebuild first cacheLine s) := by
  unfold execMapRebuild
  repeat' first
    | with_reducible assumption
    | ((with_reducible apply hM.of) <;> rfl)
    | with_reducible apply State.sramUeFree_keeps
    | with_reducible apply State.mapRebuild_keeps
    | with_reducible apply Good.ite
    | with_reducible apply Good.next
    | with_reducible apply Keeps.ite
    | split
    | dsimp -zeta only

theorem State.showDies_keeps {M : Mask} {s0 : State} {s : State} (hM : Sub ⟨0x80000, 0x10000000⟩ M) (hK : Keeps M s0 s) :
    Keeps M s0 (State.showDies s) := by
  unfold State.showDies
  repeat' first
    | with_reducible assumption
    | ((with_reducible apply hM.of) <;> rfl)
    | with_reducible apply Wr.STO_STAT
    | ((with_reducible apply hM.reg); decide)
    | with_reducible apply State.wf_keeps
    | with_reducible apply State.wb_keeps
    | (extract_lets +onlyGivenNames x1; with_reducible refine Cut x1 ?_ ?_)
    | (intro _; clear_value x1; revert x1; intro _ _)
    | subst x1
    | (extract_lets +onlyGivenNames x1; subst x1)
    | exact rfl
    | split
    | dsimp -zeta only

theorem State.regrowStart_keeps {M : Mask} {s0 : State} {s : State} (hM : Sub ⟨0x80002, 0x180000200⟩ M) (hK : Keeps M s0 s) :
    Keeps M s0 (State.regrowStart s) := by
  unfold State.regrowStart
  repeat' first
    | with_reducible assumption
    | ((with_reducible apply hM.of) <;> rfl)
    | with_reducible apply Wr.PWR_VETOD
    | with_reducible apply Wr.STO_RGTOTAL
    | with_reducible apply Wr.STO_RGLEFT
    | ((with_reducible apply hM.reg); decide)
    | with_reducible apply hM.bit
    | with_reducible apply State.wr_keeps
    | with_reducible apply State.wb_keeps
    | with_reducible apply Keeps.ite
    | (extract_lets +onlyGivenNames x1; with_reducible refine Cut x1 ?_ ?_)
    | (intro _; clear_value x1; revert x1; intro _ _)
    | subst x1
    | (extract_lets +onlyGivenNames x1; subst x1)
    | exact rfl
    | split
    | with_reducible apply Keeps.set_store

theorem State.showRegrowth_keeps {M : Mask} {s0 : State} {s : State} (hM : Sub ⟨0x80000, 0x180000000⟩ M) (hK : Keeps M s0 s) :
    Keeps M s0 (State.showRegrowth s) := by
  unfold State.showRegrowth
  repeat' first
    | with_reducible assumption
    | ((with_reducible apply hM.of) <;> rfl)
    | with_reducible apply Wr.STO_RGTOTAL
    | with_reducible apply Wr.STO_RGLEFT
    | ((with_reducible apply hM.reg); decide)
    | with_reducible apply State.wr_keeps
    | with_reducible apply Keeps.ite
    | (extract_lets +onlyGivenNames x1; with_reducible refine Cut x1 ?_ ?_)
    | (intro _; clear_value x1; revert x1; intro _ _)
    | subst x1
    | (extract_lets +onlyGivenNames x1; subst x1)
    | exact rfl
    | split
    | dsimp -zeta only

theorem State.closeOpened_keeps {M : Mask} {s0 : State} {s : State} (hM : Sub ⟨0x2, 0x0⟩ M) (hK : Keeps M s0 s) :
    Keeps M s0 (State.closeOpened s) := by
  unfold State.closeOpened
  repeat' first
    | with_reducible assumption
    | ((with_reducible apply hM.of) <;> rfl)
    | with_reducible apply hM.bit
    | with_reducible apply Keeps.ite
    | exact rfl
    | split
    | with_reducible apply Keeps.set_store

theorem State.dieFails_keeps {M : Mask} {s0 : State} {d detail : Nat} {s : State} (hM : Sub ⟨0x80003, 0x190100200⟩ M) (hK : Keeps M s0 s) :
    Keeps M s0 (State.dieFails d detail s) := by
  unfold State.dieFails
  repeat' first
    | with_reducible assumption
    | ((with_reducible apply hM.of) <;> rfl)
    | with_reducible apply hM.bit
    | with_reducible apply State.post_keeps
    | with_reducible apply State.showDies_keeps
    | with_reducible apply State.regrowStart_keeps
    | with_reducible apply State.closeOpened_keeps
    | with_reducible apply Keeps.ite
    | (extract_lets +onlyGivenNames x1; with_reducible refine Cut x1 ?_ ?_)
    | (intro _; clear_value x1; revert x1; intro _ _)
    | subst x1
    | (extract_lets +onlyGivenNames x1; subst x1)
    | exact rfl
    | split
    | with_reducible apply Keeps.set_store

theorem execNandTimeout_keeps {M : Mask} {s0 : State} {die : Fin 5} {s : State} (hM : Sub ⟨0x80003, 0x190100200⟩ M) (hK : Keeps M s0 s) :
    Good M s0 (execNandTimeout die s) := by
  unfold execNandTimeout
  repeat' first
    | with_reducible assumption
    | ((with_reducible apply hM.of) <;> rfl)
    | with_reducible apply State.setDie_keeps
    | with_reducible apply State.dieFails_keeps
    | with_reducible apply Good.ite
    | with_reducible apply Good.next
    | with_reducible apply Keeps.ite
    | (extract_lets +onlyGivenNames x1; with_reducible refine Cut x1 ?_ ?_)
    | (intro _; clear_value x1; revert x1; intro _ _)
    | subst x1
    | (extract_lets +onlyGivenNames x1; subst x1)
    | split
    | dsimp -zeta only

theorem State.queueRefresh_keeps {M : Mask} {s0 : State} {d block : Nat} {s : State} (hM : Sub ⟨0x2, 0x0⟩ M) (hK : Keeps M s0 s) :
    Keeps M s0 (State.queueRefresh d block s) := by
  unfold State.queueRefresh
  repeat' first
    | with_reducible assumption
    | ((with_reducible apply hM.of) <;> rfl)
    | with_reducible apply State.setDie_keeps
    | with_reducible apply Keeps.ite
    | (extract_lets +onlyGivenNames x1; with_reducible refine Cut x1 ?_ ?_)
    | (intro _; clear_value x1; revert x1; intro _ _)
    | subst x1
    | (extract_lets +onlyGivenNames x1; subst x1)
    | split
    | dsimp -zeta only

theorem State.tier3Failed_keeps {M : Mask} {s0 : State} {d block : Nat} {s : State} (hM : Sub ⟨0x80003, 0x190100200⟩ M) (hK : Keeps M s0 s) :
    Keeps M s0 (State.tier3Failed d block s) := by
  unfold State.tier3Failed
  repeat' first
    | with_reducible assumption
    | ((with_reducible apply hM.of) <;> rfl)
    | with_reducible apply State.setDie_keeps
    | with_reducible apply State.dieFails_keeps
    | with_reducible apply Keeps.ite
    | (extract_lets +onlyGivenNames x1; with_reducible refine Cut x1 ?_ ?_)
    | (intro _; clear_value x1; revert x1; intro _ _)
    | subst x1
    | (extract_lets +onlyGivenNames x1; subst x1)
    | split
    | dsimp -zeta only

theorem State.replaceBlock_keeps {M : Mask} {s0 : State} {d block repl : Nat} {s : State} (hM : Sub ⟨0x2, 0x0⟩ M) (hK : Keeps M s0 s) :
    Keeps M s0 (State.replaceBlock d block repl s) := by
  unfold State.replaceBlock
  repeat' first
    | with_reducible assumption
    | ((with_reducible apply hM.of) <;> rfl)
    | with_reducible apply hM.bit
    | with_reducible apply Keeps.ite
    | (extract_lets +onlyGivenNames x1; with_reducible refine Cut x1 ?_ ?_)
    | (intro _; clear_value x1; revert x1; intro _ _)
    | subst x1
    | (extract_lets +onlyGivenNames x1; subst x1)
    | exact rfl
    | split
    | with_reducible apply Keeps.set_store

theorem State.retireBlock_keeps {M : Mask} {s0 : State} {d block : Nat} {s : State} (hM : Sub ⟨0x2, 0x0⟩ M) (hK : Keeps M s0 s) :
    Keeps M s0 (State.retireBlock d block s) := by
  unfold State.retireBlock
  repeat' first
    | with_reducible assumption
    | ((with_reducible apply hM.of) <;> rfl)
    | with_reducible apply hM.bit
    | with_reducible apply State.setDie_keeps
    | with_reducible apply Keeps.ite
    | (with_reducible apply Keeps.foldl; intro _ _ _)
    | (extract_lets +onlyGivenNames x1; with_reducible refine Cut x1 ?_ ?_)
    | (intro _; clear_value x1; revert x1; intro _ _)
    | subst x1
    | (extract_lets +onlyGivenNames x1; subst x1)
    | exact rfl
    | split
    | with_reducible apply Keeps.set_store

theorem execBlockRetire_keeps {M : Mask} {s0 : State} {die : Fin 5} {block : Nat} {repl : Option Nat} {s : State} (hM : Sub ⟨0x80003, 0x390100200⟩ M) (hK : Keeps M s0 s) :
    Good M s0 (execBlockRetire die block repl s) := by
  unfold execBlockRetire
  repeat' first
    | with_reducible assumption
    | ((with_reducible apply hM.of) <;> rfl)
    | with_reducible apply State.post_keeps
    | with_reducible apply State.showHealth_keeps
    | with_reducible apply State.dieFails_keeps
    | with_reducible apply State.replaceBlock_keeps
    | with_reducible apply State.retireBlock_keeps
    | with_reducible apply Good.ite
    | with_reducible apply Good.next
    | with_reducible apply Keeps.ite
    | (extract_lets +onlyGivenNames x1; with_reducible refine Cut x1 ?_ ?_)
    | (intro _; clear_value x1; revert x1; intro _ _)
    | subst x1
    | (extract_lets +onlyGivenNames x1; subst x1)
    | split
    | dsimp -zeta only

theorem State.stoCtlWrite_keeps {M : Mask} {s0 : State} {w : Word} {s : State} (hM : Sub ⟨0x80003, 0x1b0100200⟩ M) (hK : Keeps M s0 s) :
    Keeps M s0 (State.stoCtlWrite w s) := by
  unfold State.stoCtlWrite
  repeat' first
    | with_reducible assumption
    | ((with_reducible apply hM.of) <;> rfl)
    | with_reducible apply Wr.STO_STAT
    | with_reducible apply Wr.STO_CTL
    | refine WrBad.of (by exact rfl) ?_
    | ((with_reducible apply hM.reg); decide)
    | with_reducible apply State.flag_keeps
    | with_reducible apply State.writeReg_keeps
    | with_reducible apply State.dieFails_keeps
    | with_reducible apply Keeps.ite
    | (extract_lets +onlyGivenNames x1; with_reducible refine Cut x1 ?_ ?_)
    | (intro _; clear_value x1; revert x1; intro _ _)
    | subst x1
    | (extract_lets +onlyGivenNames x1; subst x1)
    | exact rfl
    | split
    | dsimp -zeta only

theorem execRegrowthDone_keeps {M : Mask} {s0 : State} {secs : Word} {s : State} (hM : Sub ⟨0x80003, 0x10100200⟩ M) (hK : Keeps M s0 s) :
    Good M s0 (execRegrowthDone secs s) := by
  unfold execRegrowthDone
  repeat' first
    | with_reducible assumption
    | ((with_reducible apply hM.of) <;> rfl)
    | with_reducible apply Wr.PWR_VETOD
    | ((with_reducible apply hM.reg); decide)
    | with_reducible apply hM.bit
    | with_reducible apply State.wb_keeps
    | with_reducible apply State.post_keeps
    | with_reducible apply State.showDies_keeps
    | with_reducible apply Good.ite
    | with_reducible apply Good.next
    | with_reducible apply Keeps.ite
    | exact rfl
    | split
    | with_reducible apply Keeps.set_store

theorem State.startMoves_keeps {M : Mask} {s0 : State} {why : Nat} {moves : List (Nat × Nat)} {s : State} (hM : Sub ⟨0x80002, 0x200000000⟩ M) (hK : Keeps M s0 s) :
    Keeps M s0 (State.startMoves why moves s) := by
  unfold State.startMoves
  repeat' first
    | with_reducible assumption
    | ((with_reducible apply hM.of) <;> rfl)
    | with_reducible apply hM.bit
    | with_reducible apply State.program_keeps
    | (extract_lets +onlyGivenNames x1; with_reducible refine Cut x1 ?_ ?_)
    | (intro _; clear_value x1; revert x1; intro _ _)
    | subst x1
    | (extract_lets +onlyGivenNames x1; subst x1)
    | exact rfl
    | split
    | with_reducible apply Keeps.set_store
    | with_reducible apply Keeps.set_store_free
    | ((with_reducible apply hM.sub); rfl)

theorem execFoldBegin_keeps {M : Mask} {s0 : State} {moves : List (Nat × Nat)} {s : State} (hM : Sub ⟨0x80002, 0x200000000⟩ M) (hK : Keeps M s0 s) :
    Good M s0 (execFoldBegin moves s) := by
  unfold execFoldBegin
  repeat' first
    | with_reducible assumption
    | ((with_reducible apply hM.of) <;> rfl)
    | with_reducible apply hM.bit
    | with_reducible apply State.startMoves_keeps
    | with_reducible apply Good.ite
    | with_reducible apply Good.next
    | with_reducible apply Keeps.ite
    | exact rfl
    | split
    | with_reducible apply Keeps.set_store

theorem execGcStart_keeps {M : Mask} {s0 : State} {moves : List (Nat × Nat)} {s : State} (hM : Sub ⟨0x80002, 0x380000200⟩ M) (hK : Keeps M s0 s) :
    Good M s0 (execGcStart moves s) := by
  unfold execGcStart
  repeat' first
    | with_reducible assumption
    | ((with_reducible apply hM.of) <;> rfl)
    | with_reducible apply State.regrowStart_keeps
    | with_reducible apply State.startMoves_keeps
    | with_reducible apply Good.ite
    | with_reducible apply Good.next
    | with_reducible apply Keeps.ite
    | (extract_lets +onlyGivenNames x1; with_reducible refine Cut x1 ?_ ?_)
    | (intro _; clear_value x1; revert x1; intro _ _)
    | subst x1
    | (extract_lets +onlyGivenNames x1; subst x1)
    | split
    | dsimp -zeta only

theorem State.dropMove_keeps {M : Mask} {s0 : State} {m : Moving} {s : State} (hM : Sub ⟨0x2, 0x0⟩ M) (hK : Keeps M s0 s) :
    Keeps M s0 (State.dropMove m s) := by
  unfold State.dropMove
  repeat' first
    | with_reducible assumption
    | ((with_reducible apply hM.of) <;> rfl)
    | with_reducible apply hM.bit
    | (extract_lets +onlyGivenNames x1; with_reducible refine Cut x1 ?_ ?_)
    | (intro _; clear_value x1; revert x1; intro _ _)
    | subst x1
    | (extract_lets +onlyGivenNames x1; subst x1)
    | exact rfl
    | split
    | with_reducible apply Keeps.set_store

theorem State.moveDone_keeps {M : Mask} {s0 : State} {m : Moving} {s : State} (hM : Sub ⟨0x80002, 0x100000000⟩ M) (hK : Keeps M s0 s) :
    Keeps M s0 (State.moveDone m s) := by
  unfold State.moveDone
  repeat' first
    | with_reducible assumption
    | ((with_reducible apply hM.of) <;> rfl)
    | with_reducible apply hM.bit
    | with_reducible apply State.stoCount_keeps
    | with_reducible apply State.paneRebuilt_keeps
    | with_reducible apply State.setMap_keeps
    | with_reducible apply State.dropOther_keeps
    | with_reducible apply State.logRecs_keeps
    | with_reducible apply State.programLog_keeps
    | with_reducible apply State.dropMove_keeps
    | with_reducible apply Keeps.ite
    | (extract_lets +onlyGivenNames x1; with_reducible refine Cut x1 ?_ ?_)
    | (intro _; clear_value x1; revert x1; intro _ _)
    | subst x1
    | (extract_lets +onlyGivenNames x1; subst x1)
    | exact rfl
    | split
    | with_reducible apply Keeps.set_store

theorem execReleaseFold_keeps {M : Mask} {s0 : State} {lba target : Nat} {verified next : Bool} {s : State} (hM : Sub ⟨0x80002, 0x100000000⟩ M) (hK : Keeps M s0 s) :
    Good M s0 (execReleaseFold lba target verified next s) := by
  unfold execReleaseFold
  repeat' first
    | with_reducible assumption
    | ((with_reducible apply hM.of) <;> rfl)
    | with_reducible apply State.setDie_keeps
    | with_reducible apply State.dieAnswered_keeps
    | with_reducible apply State.dropMove_keeps
    | with_reducible apply State.moveDone_keeps
    | with_reducible apply Good.ite
    | with_reducible apply Good.next
    | with_reducible apply Keeps.ite
    | (extract_lets +onlyGivenNames x1; with_reducible refine Cut x1 ?_ ?_)
    | (intro _; clear_value x1; revert x1; intro _ _)
    | subst x1
    | (extract_lets +onlyGivenNames x1; subst x1)
    | split
    | dsimp -zeta only

theorem execScanRefresh_keeps {M : Mask} {s0 : State} {die : Fin 5} {block : Nat} {s : State} (hM : Sub ⟨0x2, 0x0⟩ M) (hK : Keeps M s0 s) :
    Good M s0 (execScanRefresh die block s) := by
  unfold execScanRefresh
  repeat' first
    | with_reducible assumption
    | ((with_reducible apply hM.of) <;> rfl)
    | with_reducible apply State.queueRefresh_keeps
    | with_reducible apply Good.ite
    | with_reducible apply Good.next
    | with_reducible apply Keeps.ite
    | split
    | dsimp -zeta only

theorem execPfailnFall_keeps {M : Mask} {s0 : State} {s : State} (hM : Sub ⟨0x80800, 0x10000000⟩ M) (hK : Keeps M s0 s) :
    Good M s0 (execPfailnFall s) := by
  unfold execPfailnFall
  repeat' first
    | with_reducible assumption
    | ((with_reducible apply hM.of) <;> rfl)
    | with_reducible apply Wr.STO_STAT
    | ((with_reducible apply hM.reg); decide)
    | with_reducible apply hM.bit
    | with_reducible apply State.wb_keeps
    | with_reducible apply Good.next
    | exact rfl
    | split
    | with_reducible apply Keeps.set_power

theorem State.trim_keeps {M : Mask} {s0 : State} {q : Nat} {c : Cmd} {s : State} (hM : Sub ⟨0xc0003, 0x110100000⟩ M) (hK : Keeps M s0 s) :
    Keeps M s0 (State.trim q c s) := by
  unfold State.trim
  repeat' first
    | with_reducible assumption
    | ((with_reducible apply hM.of) <;> rfl)
    | with_reducible apply hM.bit
    | with_reducible apply State.freeNat_keeps
    | with_reducible apply State.finish_keeps
    | with_reducible apply State.fail_keeps
    | with_reducible apply State.trimUnit_keeps
    | with_reducible apply State.stallCmd_keeps
    | with_reducible apply State.stallOver_keeps
    | with_reducible apply Keeps.ite
    | (with_reducible apply Keeps.foldl; intro _ _ _)
    | (with_reducible apply Keeps2.of; with_reducible assumption)
    | with_reducible apply Keeps2.snd
    | (extract_lets +onlyGivenNames x1; with_reducible refine Cut x1 ?_ ?_)
    | (intro _; clear_value x1; revert x1; intro _ _)
    | subst x1
    | (extract_lets +onlyGivenNames x1; subst x1)
    | exact rfl
    | split
    | with_reducible apply Keeps.set_store
    | with_reducible apply Keeps2.mk

theorem execTrim_keeps {M : Mask} {s0 : State} {q : Fin 37} {tag : Half} {s : State} (hM : Sub ⟨0xc0003, 0x110100000⟩ M) (hK : Keeps M s0 s) :
    Good M s0 (execTrim q tag s) := by
  unfold execTrim
  repeat' first
    | with_reducible assumption
    | ((with_reducible apply hM.of) <;> rfl)
    | with_reducible apply State.trim_keeps
    | with_reducible apply Good.ite
    | with_reducible apply Good.next
    | with_reducible apply Keeps.ite
    | split
    | dsimp -zeta only

theorem execFlush_keeps {M : Mask} {s0 : State} {q : Fin 37} {tag : Half} {s : State} (hM : Sub ⟨0x1, 0x0⟩ M) (hK : Keeps M s0 s) :
    Good M s0 (execFlush q tag s) := by
  unfold execFlush
  repeat' first
    | with_reducible assumption
    | ((with_reducible apply hM.of) <;> rfl)
    | with_reducible apply State.modQ_keeps
    | with_reducible apply Good.ite
    | with_reducible apply Good.next
    | with_reducible apply Keeps.ite
    | split
    | dsimp -zeta only

theorem State.flushDone_keeps {M : Mask} {s0 : State} {q : Nat} {c : Cmd} {s : State} (hM : Sub ⟨0x80003, 0x100000⟩ M) (hK : Keeps M s0 s) :
    Keeps M s0 (State.flushDone q c s) := by
  unfold State.flushDone
  repeat' first
    | with_reducible assumption
    | ((with_reducible apply hM.of) <;> rfl)
    | with_reducible apply hM.bit
    | with_reducible apply State.finish_keeps
    | with_reducible apply State.fail_keeps
    | with_reducible apply State.stoCount_keeps
    | with_reducible apply State.programLog_keeps
    | with_reducible apply Keeps.ite
    | (extract_lets +onlyGivenNames x1; with_reducible refine Cut x1 ?_ ?_)
    | (intro _; clear_value x1; revert x1; intro _ _)
    | subst x1
    | (extract_lets +onlyGivenNames x1; subst x1)
    | exact rfl
    | split
    | with_reducible apply Keeps.set_store

theorem execFlushComplete_keeps {M : Mask} {s0 : State} {q : Fin 37} {tag : Half} {s : State} (hM : Sub ⟨0x80003, 0x100000⟩ M) (hK : Keeps M s0 s) :
    Good M s0 (execFlushComplete q tag s) := by
  unfold execFlushComplete
  repeat' first
    | with_reducible assumption
    | ((with_reducible apply hM.of) <;> rfl)
    | with_reducible apply State.flushDone_keeps
    | with_reducible apply Good.ite
    | with_reducible apply Good.next
    | with_reducible apply Keeps.ite
    | split
    | dsimp -zeta only

end Sys2Proof.Machine
end

