-- ==== Sys2Proof/Laws/KeepsJournal.lean ====
section
/-! SUPPORT. What each operation of Machine/Journal.lean keeps (Laws/Keeps.lean says what that means). -/

namespace Sys2Proof.Machine

theorem State.modLast_keeps {M : Mask} {s0 : State} {f : Clutch → Clutch} {s : State} (hM : Sub ⟨0x10, 0x0⟩ M) (hK : Keeps M s0 s) :
    Keeps M s0 (State.modLast f s) := by
  unfold State.modLast
  repeat' first
    | with_reducible assumption
    | ((with_reducible apply hM.of) <;> rfl)
    | with_reducible apply hM.bit
    | exact rfl
    | split
    | with_reducible apply Keeps.set_jnl

theorem State.jnlShow_keeps {M : Mask} {s0 : State} {s : State} (hM : Sub ⟨0x80000, 0xe000000000⟩ M) (hK : Keeps M s0 s) :
    Keeps M s0 (State.jnlShow s) := by
  unfold State.jnlShow
  repeat' first
    | with_reducible assumption
    | ((with_reducible apply hM.of) <;> rfl)
    | with_reducible apply Wr.JNL_CLSEQ
    | with_reducible apply Wr.JNL_OLDEST
    | with_reducible apply Wr.JNL_PINS
    | ((with_reducible apply hM.reg); decide)
    | with_reducible apply State.wr_keeps
    | (extract_lets +onlyGivenNames x1; with_reducible refine Cut x1 ?_ ?_)
    | (intro _; clear_value x1; revert x1; intro _ _)
    | subst x1
    | (extract_lets +onlyGivenNames x1; subst x1)
    | exact rfl
    | split
    | dsimp -zeta only

theorem State.clearSlot_keeps {M : Mask} {s0 : State} {slot : Nat} {s : State} (hM : Sub ⟨0x80012, 0x100000000⟩ M) (hK : Keeps M s0 s) :
    Keeps M s0 (State.clearSlot slot s) := by
  unfold State.clearSlot
  repeat' first
    | with_reducible assumption
    | ((with_reducible apply hM.of) <;> rfl)
    | with_reducible apply hM.bit
    | with_reducible apply State.dropOther_keeps
    | with_reducible apply Keeps.ite
    | (with_reducible apply Keeps.foldl; intro _ _ _)
    | (extract_lets +onlyGivenNames x1; with_reducible refine Cut x1 ?_ ?_)
    | (intro _; clear_value x1; revert x1; intro _ _)
    | subst x1
    | (extract_lets +onlyGivenNames x1; subst x1)
    | exact rfl
    | split
    | with_reducible apply Keeps.set_jnl
    | with_reducible apply Keeps.set_store
    | with_reducible apply Keeps.set_store_jnl
    | ((with_reducible apply hM.sub); rfl)

theorem State.newClutch_keeps {M : Mask} {s0 : State} {s : State} (hM : Sub ⟨0x80012, 0xe100000000⟩ M) (hK : Keeps M s0 s) :
    Keeps M s0 (State.newClutch s) := by
  unfold State.newClutch
  repeat' first
    | with_reducible assumption
    | ((with_reducible apply hM.of) <;> rfl)
    | with_reducible apply hM.bit
    | with_reducible apply State.jnlShow_keeps
    | with_reducible apply State.clearSlot_keeps
    | (extract_lets +onlyGivenNames x1; with_reducible refine Cut x1 ?_ ?_)
    | (intro _; clear_value x1; revert x1; intro _ _)
    | subst x1
    | (extract_lets +onlyGivenNames x1; subst x1)
    | exact rfl
    | split
    | with_reducible apply Keeps.set_jnl

theorem State.putRecord_keeps {M : Mask} {s0 : State} {p : Nat} {r : Record} {s : State} (hM : Sub ⟨0x10, 0x0⟩ M) (hK : Keeps M s0 s) :
    Keeps M s0 (State.putRecord p r s) := by
  unfold State.putRecord
  repeat' first
    | with_reducible assumption
    | ((with_reducible apply hM.of) <;> rfl)
    | with_reducible apply hM.bit
    | with_reducible apply State.modLast_keeps
    | (extract_lets +onlyGivenNames x1; with_reducible refine Cut x1 ?_ ?_)
    | (intro _; clear_value x1; revert x1; intro _ _)
    | subst x1
    | (extract_lets +onlyGivenNames x1; subst x1)
    | exact rfl
    | split
    | with_reducible apply Keeps.set_jnl

theorem State.ctxNote_keeps {M : Mask} {s0 : State} {more : Nat} {s : State} (hM : Sub ⟨0x80000, 0x10000000000000000⟩ M) (hK : Keeps M s0 s) :
    Keeps M s0 (State.ctxNote more s) := by
  unfold State.ctxNote
  repeat' first
    | with_reducible assumption
    | ((with_reducible apply hM.of) <;> rfl)
    | with_reducible apply Wr.CIP_STAT
    | ((with_reducible apply hM.reg); decide)
    | with_reducible apply State.wf_keeps
    | (extract_lets +onlyGivenNames x1; with_reducible refine Cut x1 ?_ ?_)
    | (intro _; clear_value x1; revert x1; intro _ _)
    | subst x1
    | (extract_lets +onlyGivenNames x1; subst x1)
    | exact rfl
    | split
    | dsimp -zeta only

theorem State.putCommit_keeps {M : Mask} {s0 : State} {s : State} (hM : Sub ⟨0x80030, 0x10000000000000000⟩ M) (h : Keeps M s0 s) :
    Keeps M s0 (State.putCommit s) := by
  unfold State.putCommit
  split
  · assumption
  extract_lets g rs ctr hdr nonce tag payload r s1
  have h1 : Keeps M s0 s1 := State.putRecord_keeps (hM.of rfl rfl) h
  clear_value s1
  refine Keeps.ite h ?_
  exact State.ctxNote_keeps (hM.of rfl rfl) (Keeps.upd (m := 0x30#20) (hM.sub rfl) h1 ⟨rfl, .inr rfl, .inr rfl, .inr rfl, .inr rfl, .inl rfl, .inl rfl, .inr rfl, .inr rfl, .inr rfl, .inr rfl, .inr rfl, .inr rfl, .inr rfl, .inr rfl, .inr rfl, .inr rfl, .inr rfl, .inr rfl, .inr rfl, .inr rfl⟩ rfl rfl rfl rfl rfl rfl rfl rfl rfl)

theorem State.commitGroup_keeps {M : Mask} {s0 : State} {s : State} (hM : Sub ⟨0x80030, 0x10000000000000000⟩ M) (hK : Keeps M s0 s) :
    Keeps M s0 (State.commitGroup s) := by
  unfold State.commitGroup
  repeat' first
    | with_reducible assumption
    | ((with_reducible apply hM.of) <;> rfl)
    | with_reducible apply State.putCommit_keeps
    | with_reducible apply Keeps.ite
    | split
    | dsimp -zeta only

theorem State.sealClutch_keeps {M : Mask} {s0 : State} {why : Nat} {s : State} (hM : Sub ⟨0x80031, 0x10000000000100000⟩ M) (hK : Keeps M s0 s) :
    Keeps M s0 (State.sealClutch why s) := by
  unfold State.sealClutch
  repeat' first
    | with_reducible assumption
    | ((with_reducible apply hM.of) <;> rfl)
    | with_reducible apply State.post_keeps
    | with_reducible apply State.modLast_keeps
    | with_reducible apply State.putRecord_keeps
    | with_reducible apply State.putCommit_keeps
    | with_reducible apply State.commitGroup_keeps
    | with_reducible apply Keeps.ite
    | (extract_lets +onlyGivenNames x1; with_reducible refine Cut x1 ?_ ?_)
    | (intro _; clear_value x1; revert x1; intro _ _)
    | subst x1
    | (extract_lets +onlyGivenNames x1; subst x1)
    | split
    | dsimp -zeta only

theorem State.sealLeft_keeps {M : Mask} {s0 : State} {s : State} (hM : Sub ⟨0x80031, 0x10000000000100000⟩ M) (hK : Keeps M s0 s) :
    Keeps M s0 (State.sealLeft s) := by
  unfold State.sealLeft
  repeat' first
    | with_reducible assumption
    | ((with_reducible apply hM.of) <;> rfl)
    | with_reducible apply State.sealClutch_keeps
    | with_reducible apply Keeps.ite
    | split
    | dsimp -zeta only

theorem State.placeAs_keeps {M : Mask} {s0 : State} {tick : Option Word} {r : Record} {s : State} (hM : Sub ⟨0x80033, 0x1000000e100100000⟩ M) (hK : Keeps M s0 s) :
    Keeps M s0 (State.placeAs tick r s) := by
  unfold State.placeAs
  repeat' first
    | with_reducible assumption
    | ((with_reducible apply hM.of) <;> rfl)
    | with_reducible apply hM.bit
    | with_reducible apply State.newClutch_keeps
    | with_reducible apply State.putRecord_keeps
    | with_reducible apply State.ctxNote_keeps
    | with_reducible apply State.commitGroup_keeps
    | with_reducible apply State.sealClutch_keeps
    | with_reducible apply State.sealLeft_keeps
    | with_reducible apply Keeps.ite
    | (extract_lets +onlyGivenNames x1; with_reducible refine Cut x1 ?_ ?_)
    | (intro _; clear_value x1; revert x1; intro _ _)
    | subst x1
    | (extract_lets +onlyGivenNames x1; subst x1)
    | exact rfl
    | split
    | with_reducible apply Keeps.set_jnl

theorem State.placeRecord_keeps {M : Mask} {s0 : State} {r : Record} {s : State} (hM : Sub ⟨0x80033, 0x1000000e100100000⟩ M) (hK : Keeps M s0 s) :
    Keeps M s0 (State.placeRecord r s) := by
  unfold State.placeRecord
  repeat' first
    | with_reducible assumption
    | ((with_reducible apply hM.of) <;> rfl)
    | with_reducible apply State.placeAs_keeps
    | split
    | dsimp -zeta only

theorem State.lossMarker_keeps {M : Mask} {s0 : State} {count source : Nat} {s : State} (hM : Sub ⟨0x80033, 0x1000000e100100000⟩ M) (hK : Keeps M s0 s) :
    Keeps M s0 (State.lossMarker count source s) := by
  unfold State.lossMarker
  repeat' first
    | with_reducible assumption
    | ((with_reducible apply hM.of) <;> rfl)
    | with_reducible apply State.post_keeps
    | with_reducible apply State.placeRecord_keeps
    | split
    | dsimp -zeta only

theorem State.append_keeps {M : Mask} {s0 : State} {r : Record} {s : State} (hM : Sub ⟨0x80033, 0x1000001e900100000⟩ M) (hK : Keeps M s0 s) :
    Keeps M s0 (State.append r s) := by
  unfold State.append
  repeat' first
    | with_reducible assumption
    | ((with_reducible apply hM.of) <;> rfl)
    | with_reducible apply Wr.JNL_STAT
    | with_reducible apply Wr.JNL_LOST
    | ((with_reducible apply hM.reg); decide)
    | with_reducible apply hM.bit
    | with_reducible apply State.wr_keeps
    | with_reducible apply State.flag_keeps
    | with_reducible apply State.placeRecord_keeps
    | with_reducible apply State.lossMarker_keeps
    | with_reducible apply Keeps.ite
    | (extract_lets +onlyGivenNames x1; with_reducible refine Cut x1 ?_ ?_)
    | (intro _; clear_value x1; revert x1; intro _ _)
    | subst x1
    | (extract_lets +onlyGivenNames x1; subst x1)
    | exact rfl
    | split
    | with_reducible apply Keeps.set_jnl

theorem State.lostMarker_keeps {M : Mask} {s0 : State} {node cseq : Nat} {s : State} (hM : Sub ⟨0x80033, 0x1000001e900100000⟩ M) (hK : Keeps M s0 s) :
    Keeps M s0 (State.lostMarker node cseq s) := by
  unfold State.lostMarker
  repeat' first
    | with_reducible assumption
    | ((with_reducible apply hM.of) <;> rfl)
    | with_reducible apply State.append_keeps
    | split
    | dsimp -zeta only

theorem State.stagingLost_keeps {M : Mask} {s0 : State} {at' n : Nat} {s : State} (hM : Sub ⟨0x80033, 0x1000001e900100000⟩ M) (hK : Keeps M s0 s) :
    Keeps M s0 (State.stagingLost at' n s) := by
  unfold State.stagingLost
  repeat' first
    | with_reducible assumption
    | ((with_reducible apply hM.of) <;> rfl)
    | with_reducible apply Wr.JNL_STAT
    | with_reducible apply Wr.JNL_LOST
    | ((with_reducible apply hM.reg); decide)
    | with_reducible apply hM.bit
    | with_reducible apply State.wr_keeps
    | with_reducible apply State.flag_keeps
    | with_reducible apply State.post_keeps
    | with_reducible apply State.modLast_keeps
    | with_reducible apply State.placeAs_keeps
    | with_reducible apply Keeps.ite
    | (with_reducible apply Keeps.foldl; intro _ _ _)
    | (extract_lets +onlyGivenNames x1; with_reducible refine Cut x1 ?_ ?_)
    | (intro _; clear_value x1; revert x1; intro _ _)
    | subst x1
    | (extract_lets +onlyGivenNames x1; subst x1)
    | exact rfl
    | split
    | with_reducible apply Keeps.set_jnl

theorem execCommitTimer_keeps {M : Mask} {s0 : State} {sram : SramRead} {s : State} (hM : Sub ⟨0xc0833, 0x8000000000000000000001000001e900100114⟩ M) (hK : Keeps M s0 s) :
    Good M s0 (execCommitTimer sram s) := by
  unfold execCommitTimer
  repeat' first
    | with_reducible assumption
    | ((with_reducible apply hM.of) <;> rfl)
    | with_reducible apply State.sramFixed_keeps
    | with_reducible apply State.sramUeFree_keeps
    | with_reducible apply State.wake_keeps
    | with_reducible apply State.commitGroup_keeps
    | with_reducible apply State.stagingLost_keeps
    | with_reducible apply Good.ite
    | with_reducible apply Good.next
    | with_reducible apply Keeps.ite
    | (extract_lets +onlyGivenNames x1; with_reducible refine Cut x1 ?_ ?_)
    | (intro _; clear_value x1; revert x1; intro _ _)
    | subst x1
    | (extract_lets +onlyGivenNames x1; subst x1)
    | split
    | dsimp -zeta only

theorem State.jnlCut_keeps {M : Mask} {s0 : State} {s : State} (hM : Sub ⟨0x10, 0x0⟩ M) (hK : Keeps M s0 s) :
    Keeps M s0 (State.jnlCut s) := by
  unfold State.jnlCut
  repeat' first
    | with_reducible assumption
    | ((with_reducible apply hM.of) <;> rfl)
    | with_reducible apply hM.bit
    | with_reducible apply Keeps.ite
    | (extract_lets +onlyGivenNames x1; with_reducible refine Cut x1 ?_ ?_)
    | (intro _; clear_value x1; revert x1; intro _ _)
    | subst x1
    | (extract_lets +onlyGivenNames x1; subst x1)
    | exact rfl
    | split
    | with_reducible apply Keeps.set_jnl

theorem State.jnlRestart_keeps {M : Mask} {s0 : State} {s : State} (hM : Sub ⟨0x80031, 0x1000000f000100000⟩ M) (hK : Keeps M s0 s) :
    Keeps M s0 (State.jnlRestart s) := by
  unfold State.jnlRestart
  repeat' first
    | with_reducible assumption
    | ((with_reducible apply hM.of) <;> rfl)
    | with_reducible apply Wr.JNL_CSEQ
    | ((with_reducible apply hM.reg); decide)
    | with_reducible apply State.wr_keeps
    | with_reducible apply State.jnlShow_keeps
    | with_reducible apply State.sealLeft_keeps
    | (extract_lets +onlyGivenNames x1; with_reducible refine Cut x1 ?_ ?_)
    | (intro _; clear_value x1; revert x1; intro _ _)
    | subst x1
    | (extract_lets +onlyGivenNames x1; subst x1)
    | exact rfl
    | split
    | dsimp -zeta only

theorem State.jnlErase_keeps {M : Mask} {s0 : State} {s : State} (hM : Sub ⟨0x80010, 0x1000000c000000000⟩ M) (hK : Keeps M s0 s) :
    Keeps M s0 (State.jnlErase s) := by
  unfold State.jnlErase
  repeat' first
    | with_reducible assumption
    | ((with_reducible apply hM.of) <;> rfl)
    | with_reducible apply Wr.JNL_OLDEST
    | with_reducible apply Wr.JNL_PINS
    | ((with_reducible apply hM.reg); decide)
    | with_reducible apply hM.bit
    | with_reducible apply State.wr_keeps
    | with_reducible apply State.ctxNote_keeps
    | (extract_lets +onlyGivenNames x1; with_reducible refine Cut x1 ?_ ?_)
    | (intro _; clear_value x1; revert x1; intro _ _)
    | subst x1
    | (extract_lets +onlyGivenNames x1; subst x1)
    | exact rfl
    | split
    | with_reducible apply Keeps.set_jnl

theorem State.jnlTimeSet_keeps {M : Mask} {s0 : State} {s : State} (hM : Sub ⟨0x80031, 0x10000000000100000⟩ M) (hK : Keeps M s0 s) :
    Keeps M s0 (State.jnlTimeSet s) := by
  unfold State.jnlTimeSet
  repeat' first
    | with_reducible assumption
    | ((with_reducible apply hM.of) <;> rfl)
    | with_reducible apply State.sealClutch_keeps
    | split
    | dsimp -zeta only

theorem State.jnlCtlWrite_keeps {M : Mask} {s0 : State} {w : Word} {s : State} (hM : Sub ⟨0x80031, 0x10000000c00100000⟩ M) (hK : Keeps M s0 s) :
    Keeps M s0 (State.jnlCtlWrite w s) := by
  unfold State.jnlCtlWrite
  repeat' first
    | with_reducible assumption
    | ((with_reducible apply hM.of) <;> rfl)
    | with_reducible apply Wr.JNL_CTL
    | with_reducible apply Wr.JNL_STAT
    | refine WrBad.of (by exact rfl) ?_
    | ((with_reducible apply hM.reg); decide)
    | with_reducible apply State.writeReg_keeps
    | with_reducible apply State.sealClutch_keeps
    | with_reducible apply Keeps.ite
    | (extract_lets +onlyGivenNames x1; with_reducible refine Cut x1 ?_ ?_)
    | (intro _; clear_value x1; revert x1; intro _ _)
    | subst x1
    | (extract_lets +onlyGivenNames x1; subst x1)
    | exact rfl
    | split
    | dsimp -zeta only

theorem execJournalIndexReady_keeps {M : Mask} {s0 : State} {ms : Word} {s : State} (hM : Sub ⟨0x80001, 0x800100000⟩ M) (hK : Keeps M s0 s) :
    Good M s0 (execJournalIndexReady ms s) := by
  unfold execJournalIndexReady
  repeat' first
    | with_reducible assumption
    | ((with_reducible apply hM.of) <;> rfl)
    | with_reducible apply Wr.JNL_STAT
    | ((with_reducible apply hM.reg); decide)
    | with_reducible apply State.flag_keeps
    | with_reducible apply State.post_keeps
    | with_reducible apply Good.ite
    | with_reducible apply Good.next
    | with_reducible apply Keeps.ite
    | exact rfl
    | split
    | dsimp -zeta only

theorem State.jnlProgram_keeps {M : Mask} {s0 : State} {c : Clutch} {s : State} {k : Nat} (hM : Sub ⟨0x12, 0x0⟩ M) (hK : Keeps M s0 s) :
    Keeps M s0 (State.jnlProgram c s k) := by
  unfold State.jnlProgram
  repeat' first
    | with_reducible assumption
    | ((with_reducible apply hM.of) <;> rfl)
    | with_reducible apply hM.bit
    | with_reducible apply State.stoCount_keeps
    | with_reducible apply State.dieAnswered_keeps
    | (extract_lets +onlyGivenNames x1; with_reducible refine Cut x1 ?_ ?_)
    | (intro _; clear_value x1; revert x1; intro _ _)
    | subst x1
    | (extract_lets +onlyGivenNames x1; subst x1)
    | exact rfl
    | split
    | with_reducible apply Keeps.set_jnl
    | with_reducible apply Keeps.set_store
    | with_reducible apply Keeps.set_store_jnl
    | ((with_reducible apply hM.sub); rfl)

theorem State.jnlParity_keeps {M : Mask} {s0 : State} {c : Clutch} {s : State} (hM : Sub ⟨0x12, 0x0⟩ M) (hK : Keeps M s0 s) :
    Keeps M s0 (State.jnlParity c s) := by
  unfold State.jnlParity
  repeat' first
    | with_reducible assumption
    | ((with_reducible apply hM.of) <;> rfl)
    | with_reducible apply hM.bit
    | (with_reducible apply Keeps.foldl; intro _ _ _)
    | (extract_lets +onlyGivenNames x1; with_reducible refine Cut x1 ?_ ?_)
    | (intro _; clear_value x1; revert x1; intro _ _)
    | subst x1
    | (extract_lets +onlyGivenNames x1; subst x1)
    | exact rfl
    | split
    | with_reducible apply Keeps.set_jnl
    | with_reducible apply Keeps.set_store
    | with_reducible apply Keeps.set_store_jnl
    | ((with_reducible apply hM.sub); rfl)

theorem State.programGroup_keeps {M : Mask} {s0 : State} {g : Word} {s : State} (hM : Sub ⟨0x12, 0x0⟩ M) (hK : Keeps M s0 s) :
    Keeps M s0 (State.programGroup g s) := by
  unfold State.programGroup
  repeat' first
    | with_reducible assumption
    | ((with_reducible apply hM.of) <;> rfl)
    | with_reducible apply State.jnlProgram_keeps
    | with_reducible apply State.jnlParity_keeps
    | (with_reducible apply Keeps.foldl; intro _ _ _)
    | (extract_lets +onlyGivenNames x1; with_reducible refine Cut x1 ?_ ?_)
    | (intro _; clear_value x1; revert x1; intro _ _)
    | subst x1
    | (extract_lets +onlyGivenNames x1; subst x1)
    | split
    | dsimp -zeta only

theorem execGroupDurable_keeps {M : Mask} {s0 : State} {s : State} (hM : Sub ⟨0x80353, 0x90000000013440c010000000001000100000⟩ M) (hK : Keeps M s0 s) :
    Good M s0 (execGroupDurable s) := by
  unfold execGroupDurable
  repeat' first
    | with_reducible assumption
    | ((with_reducible apply hM.of) <;> rfl)
    | with_reducible apply Wr.JNL_CSEQ
    | ((with_reducible apply hM.reg); decide)
    | with_reducible apply hM.bit
    | with_reducible apply State.wr_keeps
    | with_reducible apply State.raise_keeps
    | with_reducible apply State.programGroup_keeps
    | with_reducible apply Good.ite
    | with_reducible apply Good.next
    | with_reducible apply Keeps.ite
    | exact rfl
    | split
    | with_reducible apply Keeps.set_jnl

theorem State.setPins_keeps {M : Mask} {s0 : State} {p : Clutch → Bool} {on : Bool} {s : State} (hM : Sub ⟨0x80010, 0xe000000000⟩ M) (hK : Keeps M s0 s) :
    Keeps M s0 (State.setPins p on s) := by
  unfold State.setPins
  repeat' first
    | with_reducible assumption
    | ((with_reducible apply hM.of) <;> rfl)
    | with_reducible apply hM.bit
    | with_reducible apply State.jnlShow_keeps
    | with_reducible apply Keeps.ite
    | exact rfl
    | split
    | with_reducible apply Keeps.set_jnl

theorem execJnlPin_keeps {M : Mask} {s0 : State} {s : State} (hM : Sub ⟨0x80011, 0xe000100000⟩ M) (hK : Keeps M s0 s) :
    Good M s0 (execJnlPin s) := by
  unfold execJnlPin
  repeat' first
    | with_reducible assumption
    | ((with_reducible apply hM.of) <;> rfl)
    | with_reducible apply State.adminDone_keeps
    | with_reducible apply State.setPins_keeps
    | with_reducible apply Good.ite
    | with_reducible apply Good.next
    | with_reducible apply Keeps.ite
    | (extract_lets +onlyGivenNames x1; with_reducible refine Cut x1 ?_ ?_)
    | (intro _; clear_value x1; revert x1; intro _ _)
    | subst x1
    | (extract_lets +onlyGivenNames x1; subst x1)
    | split
    | dsimp -zeta only

theorem execJnlUnpin_keeps {M : Mask} {s0 : State} {s : State} (hM : Sub ⟨0x80011, 0xe000100000⟩ M) (hK : Keeps M s0 s) :
    Good M s0 (execJnlUnpin s) := by
  unfold execJnlUnpin
  repeat' first
    | with_reducible assumption
    | ((with_reducible apply hM.of) <;> rfl)
    | with_reducible apply State.adminDone_keeps
    | with_reducible apply State.setPins_keeps
    | with_reducible apply Good.next
    | (extract_lets +onlyGivenNames x1; with_reducible refine Cut x1 ?_ ?_)
    | (intro _; clear_value x1; revert x1; intro _ _)
    | subst x1
    | (extract_lets +onlyGivenNames x1; subst x1)
    | split
    | dsimp -zeta only

theorem execJnlSeal_keeps {M : Mask} {s0 : State} {s : State} (hM : Sub ⟨0x80031, 0x10000000000100000⟩ M) (hK : Keeps M s0 s) :
    Good M s0 (execJnlSeal s) := by
  unfold execJnlSeal
  repeat' first
    | with_reducible assumption
    | ((with_reducible apply hM.of) <;> rfl)
    | with_reducible apply State.adminDone_keeps
    | with_reducible apply State.sealClutch_keeps
    | with_reducible apply Good.next
    | split
    | dsimp -zeta only

end Sys2Proof.Machine
end

