-- ==== Sys2Proof/Laws/KeepsPio.lean ====
section
/-! SUPPORT. What each operation of Machine/Pio.lean keeps (Laws/Keeps.lean says what that means). -/

namespace Sys2Proof.Machine

theorem State.clearInh_keeps {M : Mask} {s0 : State} {n : Nat} {s : State} (hM : Sub ⟨0x80001, 0x400000000000000100000⟩ M) (hK : Keeps M s0 s) :
    Keeps M s0 (State.clearInh n s) := by
  unfold State.clearInh
  repeat' first
    | with_reducible assumption
    | ((with_reducible apply hM.of) <;> rfl)
    | with_reducible apply Wr.PIO_CMP
    | ((with_reducible apply hM.reg); decide)
    | with_reducible apply State.wb_keeps
    | with_reducible apply State.post_keeps
    | with_reducible apply Keeps.ite
    | (extract_lets +onlyGivenNames x1; with_reducible refine Cut x1 ?_ ?_)
    | (intro _; clear_value x1; revert x1; intro _ _)
    | subst x1
    | (extract_lets +onlyGivenNames x1; subst x1)
    | exact rfl
    | split
    | dsimp -zeta only

theorem State.cmpStop_keeps {M : Mask} {s0 : State} {n : Nat} {s : State} (hM : Sub ⟨0x80201, 0x400000000000000100000⟩ M) (hK : Keeps M s0 s) :
    Keeps M s0 (State.cmpStop n s) := by
  unfold State.cmpStop
  repeat' first
    | with_reducible assumption
    | ((with_reducible apply hM.of) <;> rfl)
    | with_reducible apply Wr.PIO_CMP
    | ((with_reducible apply hM.reg); decide)
    | with_reducible apply hM.bit
    | with_reducible apply State.wb_keeps
    | with_reducible apply State.clearInh_keeps
    | with_reducible apply Keeps.ite
    | (extract_lets +onlyGivenNames x1; with_reducible refine Cut x1 ?_ ?_)
    | (intro _; clear_value x1; revert x1; intro _ _)
    | subst x1
    | (extract_lets +onlyGivenNames x1; subst x1)
    | exact rfl
    | split
    | with_reducible apply Keeps.set_pio

theorem State.cmpWrite_keeps {M : Mask} {s0 : State} {n : Nat} {w : Word} {s : State} (hM : Sub ⟨0x80201, 0x4000000000000000000410000000000000100000⟩ M) (hK : Keeps M s0 s) :
    Keeps M s0 (State.cmpWrite n w s) := by
  unfold State.cmpWrite
  repeat' first
    | with_reducible assumption
    | ((with_reducible apply hM.of) <;> rfl)
    | with_reducible apply Wr.PIO_STAT
    | with_reducible apply Wr.PIO_CMP
    | with_reducible apply WrBad.any
    | ((with_reducible apply hM.reg); decide)
    | with_reducible apply hM.bit
    | with_reducible apply State.flag_keeps
    | with_reducible apply State.writeReg_keeps
    | with_reducible apply State.clearInh_keeps
    | with_reducible apply State.cmpStop_keeps
    | with_reducible apply Keeps.ite
    | (extract_lets +onlyGivenNames x1; with_reducible refine Cut x1 ?_ ?_)
    | (intro _; clear_value x1; revert x1; intro _ _)
    | subst x1
    | (extract_lets +onlyGivenNames x1; subst x1)
    | exact rfl
    | split
    | with_reducible apply Keeps.set_pio

theorem State.cmpTrip_keeps {M : Mask} {s0 : State} {n : Nat} {s : State} (hM : Sub ⟨0x80b41, 0x8090000000013440e410000000000000100110⟩ M) (hK : Keeps M s0 s) :
    Keeps M s0 (State.cmpTrip n s) := by
  unfold State.cmpTrip
  repeat' first
    | with_reducible assumption
    | ((with_reducible apply hM.of) <;> rfl)
    | with_reducible apply Wr.PIO_CMP
    | with_reducible apply Wr.PIO_CMPBAK
    | ((with_reducible apply hM.reg); decide)
    | with_reducible apply hM.bit
    | with_reducible apply State.flag_keeps
    | with_reducible apply State.post_keeps
    | with_reducible apply State.wake_keeps
    | with_reducible apply State.markWait_keeps
    | with_reducible apply State.raise_keeps
    | with_reducible apply Keeps.ite
    | (extract_lets +onlyGivenNames x1; with_reducible refine Cut x1 ?_ ?_)
    | (intro _; clear_value x1; revert x1; intro _ _)
    | subst x1
    | (extract_lets +onlyGivenNames x1; subst x1)
    | exact rfl
    | split
    | with_reducible apply Keeps.set_pio

theorem State.cmpRelease_keeps {M : Mask} {s0 : State} {n : Nat} {s : State} (hM : Sub ⟨0x80341, 0x90000000013440c410000000000000100000⟩ M) (hK : Keeps M s0 s) :
    Keeps M s0 (State.cmpRelease n s) := by
  unfold State.cmpRelease
  repeat' first
    | with_reducible assumption
    | ((with_reducible apply hM.of) <;> rfl)
    | with_reducible apply Wr.PIO_CMP
    | ((with_reducible apply hM.reg); decide)
    | with_reducible apply State.wb_keeps
    | with_reducible apply State.raise_keeps
    | with_reducible apply State.clearInh_keeps
    | with_reducible apply Keeps.ite
    | (extract_lets +onlyGivenNames x1; with_reducible refine Cut x1 ?_ ?_)
    | (intro _; clear_value x1; revert x1; intro _ _)
    | subst x1
    | (extract_lets +onlyGivenNames x1; subst x1)
    | exact rfl
    | split
    | dsimp -zeta only

theorem execComparatorTrip_keeps {M : Mask} {s0 : State} {n : Fin 4} {s : State} (hM : Sub ⟨0x80b41, 0x8090000000013440e410000000000000100110⟩ M) (hK : Keeps M s0 s) :
    Good M s0 (execComparatorTrip n s) := by
  unfold execComparatorTrip
  repeat' first
    | with_reducible assumption
    | ((with_reducible apply hM.of) <;> rfl)
    | with_reducible apply State.cmpTrip_keeps
    | with_reducible apply Good.next
    | split
    | dsimp -zeta only

theorem execComparatorRelease_keeps {M : Mask} {s0 : State} {n : Fin 4} {s : State} (hM : Sub ⟨0x80341, 0x90000000013440c410000000000000100000⟩ M) (hK : Keeps M s0 s) :
    Good M s0 (execComparatorRelease n s) := by
  unfold execComparatorRelease
  repeat' first
    | with_reducible assumption
    | ((with_reducible apply hM.of) <;> rfl)
    | with_reducible apply State.cmpRelease_keeps
    | with_reducible apply Good.next
    | split
    | dsimp -zeta only

theorem execComparatorArmExpiry_keeps {M : Mask} {s0 : State} {n : Fin 4} {s : State} (hM : Sub ⟨0x200, 0x0⟩ M) (hK : Keeps M s0 s) :
    Good M s0 (execComparatorArmExpiry n s) := by
  unfold execComparatorArmExpiry
  repeat' first
    | with_reducible assumption
    | ((with_reducible apply hM.of) <;> rfl)
    | with_reducible apply hM.bit
    | with_reducible apply Good.next
    | exact rfl
    | split
    | with_reducible apply Keeps.set_pio

theorem State.pwmDutyWrite_keeps {M : Mask} {s0 : State} {m : Master} {k : Nat} {w : Word} {s : State} (hM : Sub ⟨0x80100, 0x4000000000000000008010800000000000000000⟩ M) (hK : Keeps M s0 s) :
    Keeps M s0 (State.pwmDutyWrite m k w s) := by
  unfold State.pwmDutyWrite
  repeat' first
    | with_reducible assumption
    | ((with_reducible apply hM.of) <;> rfl)
    | with_reducible apply Wr.NWT_STAT
    | with_reducible apply Wr.PIO_STAT
    | with_reducible apply Wr.PIO_PWMDUTY
    | refine WrBad.of (by exact rfl) ?_
    | with_reducible apply WrBad.any
    | ((with_reducible apply hM.reg); decide)
    | with_reducible apply State.count_keeps
    | with_reducible apply State.writeReg_keeps
    | with_reducible apply State.outWritten_keeps
    | with_reducible apply Keeps.ite
    | exact rfl
    | split
    | dsimp -zeta only

theorem State.pwmCfgWrite_keeps {M : Mask} {s0 : State} {k : Nat} {w : Word} {s : State} (hM : Sub ⟨0x80341, 0x400090000000013440c010000000000000100000⟩ M) (hK : Keeps M s0 s) :
    Keeps M s0 (State.pwmCfgWrite k w s) := by
  unfold State.pwmCfgWrite
  repeat' first
    | with_reducible assumption
    | ((with_reducible apply hM.of) <;> rfl)
    | with_reducible apply Wr.PIO_STAT
    | with_reducible apply Wr.PIO_PWMCFG
    | refine WrBad.of (by exact rfl) ?_
    | with_reducible apply WrBad.any
    | ((with_reducible apply hM.reg); decide)
    | with_reducible apply hM.bit
    | with_reducible apply State.writeReg_keeps
    | with_reducible apply State.outSafe_keeps
    | with_reducible apply State.pwmStart_keeps
    | with_reducible apply Keeps.ite
    | (extract_lets +onlyGivenNames x1; with_reducible refine Cut x1 ?_ ?_)
    | (intro _; clear_value x1; revert x1; intro _ _)
    | subst x1
    | (extract_lets +onlyGivenNames x1; subst x1)
    | exact rfl
    | split
    | with_reducible apply Keeps.set_pio

theorem State.gpioCfgWrite_keeps {M : Mask} {s0 : State} {k : Nat} {w : Word} {s : State} (hM : Sub ⟨0x80301, 0x4000000000000000020010000000000000100000⟩ M) (hK : Keeps M s0 s) :
    Keeps M s0 (State.gpioCfgWrite k w s) := by
  unfold State.gpioCfgWrite
  repeat' first
    | with_reducible assumption
    | ((with_reducible apply hM.of) <;> rfl)
    | with_reducible apply Wr.PIO_STAT
    | with_reducible apply Wr.PIO_GPIOCFG
    | refine WrBad.of (by exact rfl) ?_
    | with_reducible apply WrBad.any
    | ((with_reducible apply hM.reg); decide)
    | with_reducible apply hM.bit
    | with_reducible apply State.writeReg_keeps
    | with_reducible apply State.outSafe_keeps
    | (extract_lets +onlyGivenNames x1; with_reducible refine Cut x1 ?_ ?_)
    | (intro _; clear_value x1; revert x1; intro _ _)
    | subst x1
    | (extract_lets +onlyGivenNames x1; subst x1)
    | exact rfl
    | split
    | with_reducible apply Keeps.set_pio

theorem State.gpioOutWrite_keeps {M : Mask} {s0 : State} {m : Master} {w : Word} {s : State} (hM : Sub ⟨0x80100, 0x40000800000000000000000⟩ M) (hK : Keeps M s0 s) :
    Keeps M s0 (State.gpioOutWrite m w s) := by
  unfold State.gpioOutWrite
  repeat' first
    | with_reducible assumption
    | ((with_reducible apply hM.of) <;> rfl)
    | with_reducible apply Wr.NWT_STAT
    | with_reducible apply Wr.PIO_GPIOOUT
    | ((with_reducible apply hM.reg); decide)
    | with_reducible apply State.wr_keeps
    | with_reducible apply State.count_keeps
    | with_reducible apply State.outWritten_keeps
    | with_reducible apply Keeps.ite
    | (with_reducible apply Keeps.foldl; intro _ _ _)
    | (extract_lets +onlyGivenNames x1; with_reducible refine Cut x1 ?_ ?_)
    | (intro _; clear_value x1; revert x1; intro _ _)
    | subst x1
    | (extract_lets +onlyGivenNames x1; subst x1)
    | exact rfl
    | split
    | dsimp -zeta only

theorem State.outWrite_keeps {M : Mask} {s0 : State} {k : Nat} {w : Word} {s : State} (hM : Sub ⟨0x80301, 0x4000000000000000010010000000000000100000⟩ M) (hK : Keeps M s0 s) :
    Keeps M s0 (State.outWrite k w s) := by
  unfold State.outWrite
  repeat' first
    | with_reducible assumption
    | ((with_reducible apply hM.of) <;> rfl)
    | with_reducible apply Wr.PIO_STAT
    | with_reducible apply Wr.PIO_OUT
    | refine WrBad.of (by exact rfl) ?_
    | with_reducible apply WrBad.any
    | ((with_reducible apply hM.reg); decide)
    | with_reducible apply State.writeReg_keeps
    | with_reducible apply State.outSafe_keeps
    | exact rfl
    | split
    | dsimp -zeta only

theorem State.adcSeqWrite_keeps {M : Mask} {s0 : State} {w : Word} {s : State} (hM : Sub ⟨0x80201, 0x50000000000000100000⟩ M) (hK : Keeps M s0 s) :
    Keeps M s0 (State.adcSeqWrite w s) := by
  unfold State.adcSeqWrite
  repeat' first
    | with_reducible assumption
    | ((with_reducible apply hM.of) <;> rfl)
    | with_reducible apply Wr.PIO_STAT
    | with_reducible apply Wr.PIO_ADCSEQ
    | refine WrBad.of (by exact rfl) ?_
    | ((with_reducible apply hM.reg); decide)
    | with_reducible apply State.writeReg_keeps
    | with_reducible apply State.adcTrigger_keeps
    | with_reducible apply Keeps.ite
    | (extract_lets +onlyGivenNames x1; with_reducible refine Cut x1 ?_ ?_)
    | (intro _; clear_value x1; revert x1; intro _ _)
    | subst x1
    | (extract_lets +onlyGivenNames x1; subst x1)
    | exact rfl
    | split
    | dsimp -zeta only

theorem State.adcResRead_keeps {M : Mask} {s0 : State} {m : Nat} {s : State} (hM : Sub ⟨0x80000, 0x200000000000000000000⟩ M) (hK : Keeps M s0 s) :
    Keeps M s0 (State.adcResRead m s) := by
  unfold State.adcResRead
  repeat' first
    | with_reducible assumption
    | ((with_reducible apply hM.of) <;> rfl)
    | with_reducible apply Wr.PIO_ADCRES
    | ((with_reducible apply hM.reg); decide)
    | with_reducible apply State.wf_keeps
    | exact rfl
    | split
    | dsimp -zeta only

theorem execAdcTimerExpiry_keeps {M : Mask} {s0 : State} {s : State} (hM : Sub ⟨0x80201, 0x10000000000000100000⟩ M) (hK : Keeps M s0 s) :
    Good M s0 (execAdcTimerExpiry s) := by
  unfold execAdcTimerExpiry
  repeat' first
    | with_reducible assumption
    | ((with_reducible apply hM.of) <;> rfl)
    | with_reducible apply State.adcTrigger_keeps
    | with_reducible apply Good.ite
    | with_reducible apply Good.next
    | with_reducible apply Keeps.ite
    | split
    | dsimp -zeta only

theorem State.adcDone_keeps {M : Mask} {s0 : State} {vin : Int} {vref : Nat} {settled : Bool} {s : State} (hM : Sub ⟨0xc0341, 0x90000000013440c210000000000000100000⟩ M) (hK : Keeps M s0 s) :
    Keeps M s0 (State.adcDone vin vref settled s) := by
  unfold State.adcDone
  repeat' first
    | with_reducible assumption
    | ((with_reducible apply hM.of) <;> rfl)
    | with_reducible apply Wr.PIO_STAT
    | with_reducible apply Wr.PIO_ADCRES
    | ((with_reducible apply hM.reg); decide)
    | with_reducible apply hM.bit
    | with_reducible apply State.wr_keeps
    | with_reducible apply State.wb_keeps
    | with_reducible apply State.freeNat_keeps
    | with_reducible apply State.raise_keeps
    | with_reducible apply Keeps.ite
    | (with_reducible apply Keeps2.of; with_reducible assumption)
    | with_reducible apply Keeps2.snd
    | (extract_lets +onlyGivenNames x1; with_reducible refine Cut x1 ?_ ?_)
    | (intro _; clear_value x1; revert x1; intro _ _)
    | subst x1
    | (extract_lets +onlyGivenNames x1; subst x1)
    | exact rfl
    | split
    | with_reducible apply Keeps.set_pio
    | with_reducible apply Keeps2.mk

theorem execAdcConversionDone_keeps {M : Mask} {s0 : State} {vin : Int} {vref : Nat} {settled : Bool} {s : State} (hM : Sub ⟨0xc0341, 0x90000000013440c210000000000000100000⟩ M) (hK : Keeps M s0 s) :
    Good M s0 (execAdcConversionDone vin vref settled s) := by
  unfold execAdcConversionDone
  repeat' first
    | with_reducible assumption
    | ((with_reducible apply hM.of) <;> rfl)
    | with_reducible apply State.adcDone_keeps
    | with_reducible apply Good.ite
    | with_reducible apply Good.next
    | with_reducible apply Keeps.ite
    | split
    | dsimp -zeta only

theorem execPwmPeriodStart_keeps {M : Mask} {s0 : State} {k : Fin 12} {s : State} (hM : Sub ⟨0x80341, 0x90000000013440c010000000000000100000⟩ M) (hK : Keeps M s0 s) :
    Good M s0 (execPwmPeriodStart k s) := by
  unfold execPwmPeriodStart
  repeat' first
    | with_reducible assumption
    | ((with_reducible apply hM.of) <;> rfl)
    | with_reducible apply State.pwmStart_keeps
    | with_reducible apply Good.ite
    | with_reducible apply Good.next
    | with_reducible apply Keeps.ite
    | split
    | dsimp -zeta only

theorem State.gpioEdge_keeps {M : Mask} {s0 : State} {k : Nat} {level : Bool} {s : State} (hM : Sub ⟨0x80b41, 0x8090000000013440c010000000000000100110⟩ M) (hK : Keeps M s0 s) :
    Keeps M s0 (State.gpioEdge k level s) := by
  unfold State.gpioEdge
  repeat' first
    | with_reducible assumption
    | ((with_reducible apply hM.of) <;> rfl)
    | with_reducible apply hM.bit
    | with_reducible apply State.wake_keeps
    | with_reducible apply State.raise_keeps
    | with_reducible apply Keeps.ite
    | (extract_lets +onlyGivenNames x1; with_reducible refine Cut x1 ?_ ?_)
    | (intro _; clear_value x1; revert x1; intro _ _)
    | subst x1
    | (extract_lets +onlyGivenNames x1; subst x1)
    | exact rfl
    | split
    | with_reducible apply Keeps.set_pio

theorem execGpioInputEdge_keeps {M : Mask} {s0 : State} {k : Fin 24} {level : Bool} {s : State} (hM : Sub ⟨0x80b41, 0x8090000000013440c010000000000000100110⟩ M) (hK : Keeps M s0 s) :
    Good M s0 (execGpioInputEdge k level s) := by
  unfold execGpioInputEdge
  repeat' first
    | with_reducible assumption
    | ((with_reducible apply hM.of) <;> rfl)
    | with_reducible apply State.gpioEdge_keeps
    | with_reducible apply Good.next
    | split
    | dsimp -zeta only

theorem State.encCount_keeps {M : Mask} {s0 : State} {e : Nat} {up : Bool} {cycles : Word} {s : State} (hM : Sub ⟨0x80000, 0xa00000000000000000000000⟩ M) (hK : Keeps M s0 s) :
    Keeps M s0 (State.encCount e up cycles s) := by
  unfold State.encCount
  repeat' first
    | with_reducible assumption
    | ((with_reducible apply hM.of) <;> rfl)
    | with_reducible apply Wr.PIO_ENCPOS
    | with_reducible apply Wr.PIO_ENCPER
    | ((with_reducible apply hM.reg); decide)
    | with_reducible apply State.wr_keeps
    | with_reducible apply Keeps.ite
    | (extract_lets +onlyGivenNames x1; with_reducible refine Cut x1 ?_ ?_)
    | (intro _; clear_value x1; revert x1; intro _ _)
    | subst x1
    | (extract_lets +onlyGivenNames x1; subst x1)
    | exact rfl
    | split
    | dsimp -zeta only

theorem State.encEdge_keeps {M : Mask} {s0 : State} {e : Nat} {a b : Bool} {cycles : Word} {s : State} (hM : Sub ⟨0x80341, 0x900000000134e0c010000000000000100000⟩ M) (hK : Keeps M s0 s) :
    Keeps M s0 (State.encEdge e a b cycles s) := by
  unfold State.encEdge
  repeat' first
    | with_reducible assumption
    | ((with_reducible apply hM.of) <;> rfl)
    | with_reducible apply Wr.PIO_STAT
    | ((with_reducible apply hM.reg); decide)
    | with_reducible apply hM.bit
    | with_reducible apply State.flag_keeps
    | with_reducible apply State.post_keeps
    | with_reducible apply State.raise_keeps
    | with_reducible apply State.encCount_keeps
    | with_reducible apply Keeps.ite
    | (extract_lets +onlyGivenNames x1; with_reducible refine Cut x1 ?_ ?_)
    | (intro _; clear_value x1; revert x1; intro _ _)
    | subst x1
    | (extract_lets +onlyGivenNames x1; subst x1)
    | exact rfl
    | split
    | with_reducible apply Keeps.set_pio

theorem execEncoderEdge_keeps {M : Mask} {s0 : State} {e : Fin 4} {a b : Bool} {cycles : Word} {s : State} (hM : Sub ⟨0x80341, 0x900000000134e0c010000000000000100000⟩ M) (hK : Keeps M s0 s) :
    Good M s0 (execEncoderEdge e a b cycles s) := by
  unfold execEncoderEdge
  repeat' first
    | with_reducible assumption
    | ((with_reducible apply hM.of) <;> rfl)
    | with_reducible apply State.encEdge_keeps
    | with_reducible apply Good.ite
    | with_reducible apply Good.next
    | with_reducible apply Keeps.ite
    | split
    | dsimp -zeta only

theorem State.encIndex_keeps {M : Mask} {s0 : State} {e : Nat} {s : State} (hM : Sub ⟨0x80341, 0x90000000013460c010000000000000100000⟩ M) (hK : Keeps M s0 s) :
    Keeps M s0 (State.encIndex e s) := by
  unfold State.encIndex
  repeat' first
    | with_reducible assumption
    | ((with_reducible apply hM.of) <;> rfl)
    | with_reducible apply Wr.PIO_ENCPOS
    | with_reducible apply Wr.PIO_ENCCAP
    | ((with_reducible apply hM.reg); decide)
    | with_reducible apply State.wr_keeps
    | with_reducible apply State.raise_keeps
    | with_reducible apply Keeps.ite
    | (extract_lets +onlyGivenNames x1; with_reducible refine Cut x1 ?_ ?_)
    | (intro _; clear_value x1; revert x1; intro _ _)
    | subst x1
    | (extract_lets +onlyGivenNames x1; subst x1)
    | exact rfl
    | split
    | dsimp -zeta only

theorem execEncoderIndex_keeps {M : Mask} {s0 : State} {e : Fin 4} {s : State} (hM : Sub ⟨0x80341, 0x90000000013460c010000000000000100000⟩ M) (hK : Keeps M s0 s) :
    Good M s0 (execEncoderIndex e s) := by
  unfold execEncoderIndex
  repeat' first
    | with_reducible assumption
    | ((with_reducible apply hM.of) <;> rfl)
    | with_reducible apply State.encIndex_keeps
    | with_reducible apply Good.ite
    | with_reducible apply Good.next
    | with_reducible apply Keeps.ite
    | split
    | dsimp -zeta only

theorem State.spEffect_keeps {M : Mask} {s0 : State} {kind index : Nat} {v : Word} {s : State} (hM : Sub ⟨0x80341, 0x90000000013744c010000000000000100000⟩ M) (hK : Keeps M s0 s) :
    Keeps M s0 (State.spEffect kind index v s) := by
  unfold State.spEffect
  repeat' first
    | with_reducible assumption
    | ((with_reducible apply hM.of) <;> rfl)
    | with_reducible apply Wr.PIO_PWMDUTY
    | with_reducible apply Wr.PIO_GPIOOUT
    | with_reducible apply Wr.PIO_SP
    | with_reducible apply Wr.PIO_SPNEW
    | ((with_reducible apply hM.reg); decide)
    | with_reducible apply State.wr_keeps
    | with_reducible apply State.wf_keeps
    | with_reducible apply State.wb_keeps
    | with_reducible apply State.flag_keeps
    | with_reducible apply State.raise_keeps
    | with_reducible apply Keeps.ite
    | exact rfl
    | split
    | dsimp -zeta only

theorem State.spReply_keeps {M : Mask} {s0 : State} {p : Setpoint} {bound : Bool} {s : State} (hM : Sub ⟨0x80001, 0x100000⟩ M) (hK : Keeps M s0 s) :
    Keeps M s0 (State.spReply p bound s) := by
  unfold State.spReply
  repeat' first
    | with_reducible assumption
    | ((with_reducible apply hM.of) <;> rfl)
    | with_reducible apply State.finish_keeps
    | with_reducible apply State.fail_keeps
    | with_reducible apply Keeps.ite
    | split
    | dsimp -zeta only

theorem State.spApply_keeps {M : Mask} {s0 : State} {p : Setpoint} {s : State} (hM : Sub ⟨0x80341, 0x90000000013744c010000000000000100000⟩ M) (hK : Keeps M s0 s) :
    Keeps M s0 (State.spApply p s) := by
  unfold State.spApply
  repeat' first
    | with_reducible assumption
    | ((with_reducible apply hM.of) <;> rfl)
    | with_reducible apply State.spEffect_keeps
    | with_reducible apply State.spReply_keeps
    | with_reducible apply Keeps.ite
    | split
    | dsimp -zeta only

theorem applyDue_keeps {M : Mask} {s0 : State} (hM : Sub ⟨0x80341, 0x90000000013744c010000000000000100000⟩ M) (n : Nat) :
    ∀ {s : State}, Keeps M s0 s → Keeps M s0 (applyDue n s) := by
  induction n with
  | zero => exact fun h => h
  | succ n ih =>
    intro s h
    unfold applyDue
    repeat' first
      | with_reducible assumption
      | ((with_reducible apply hM.of) <;> rfl)
      | with_reducible apply hM.bit
      | with_reducible apply ih
      | with_reducible apply State.spApply_keeps
      | exact rfl
      | split
      | with_reducible apply Keeps.set_hri

theorem State.spAccept_keeps {M : Mask} {s0 : State} {c : Cmd} {s : State} (hM : Sub ⟨0x80341, 0x90000000013744c010000000000000100000⟩ M) (hK : Keeps M s0 s) :
    Keeps M s0 (State.spAccept c s) := by
  unfold State.spAccept
  repeat' first
    | with_reducible assumption
    | ((with_reducible apply hM.of) <;> rfl)
    | with_reducible apply hM.bit
    | with_reducible apply State.modQ_keeps
    | with_reducible apply State.fail_keeps
    | with_reducible apply State.declined_keeps
    | with_reducible apply State.spApply_keeps
    | with_reducible apply Keeps.ite
    | (extract_lets +onlyGivenNames x1; with_reducible refine Cut x1 ?_ ?_)
    | (intro _; clear_value x1; revert x1; intro _ _)
    | subst x1
    | (extract_lets +onlyGivenNames x1; subst x1)
    | exact rfl
    | split
    | with_reducible apply Keeps.set_hri

theorem State.spKeep_keeps {M : Mask} {s0 : State} {s : State} {c : Cmd} (hM : Sub ⟨0x80341, 0x90000000013744c010000000000000100000⟩ M) (hK : Keeps M s0 s) :
    Keeps M s0 (State.spKeep s c) := by
  unfold State.spKeep
  repeat' first
    | with_reducible assumption
    | ((with_reducible apply hM.of) <;> rfl)
    | with_reducible apply hM.bit
    | with_reducible apply State.spApply_keeps
    | with_reducible apply Keeps.ite
    | (extract_lets +onlyGivenNames x1; with_reducible refine Cut x1 ?_ ?_)
    | (intro _; clear_value x1; revert x1; intro _ _)
    | subst x1
    | (extract_lets +onlyGivenNames x1; subst x1)
    | exact rfl
    | split
    | with_reducible apply Keeps.set_hri

theorem execSetpoint_keeps {M : Mask} {s0 : State} {tag : Half} {s : State} (hM : Sub ⟨0x80341, 0x90000000013744c010000000000000100000⟩ M) (hK : Keeps M s0 s) :
    Good M s0 (execSetpoint tag s) := by
  unfold execSetpoint
  repeat' first
    | with_reducible assumption
    | ((with_reducible apply hM.of) <;> rfl)
    | with_reducible apply State.spAccept_keeps
    | with_reducible apply Good.next
    | split
    | dsimp -zeta only

theorem execSetpointApply_keeps {M : Mask} {s0 : State} {tag : Half} {s : State} (hM : Sub ⟨0x80341, 0x90000000013744c010000000000000100000⟩ M) (hK : Keeps M s0 s) :
    Good M s0 (execSetpointApply tag s) := by
  unfold execSetpointApply
  repeat' first
    | with_reducible assumption
    | ((with_reducible apply hM.of) <;> rfl)
    | with_reducible apply hM.bit
    | with_reducible apply State.spApply_keeps
    | with_reducible apply Good.ite
    | with_reducible apply Good.next
    | with_reducible apply Keeps.ite
    | exact rfl
    | split
    | with_reducible apply Keeps.set_hri

theorem State.spAfterHush_keeps {M : Mask} {s0 : State} {s : State} (hM : Sub ⟨0x80341, 0x90000000013744c010000000000000100000⟩ M) (hK : Keeps M s0 s) :
    Keeps M s0 (State.spAfterHush s) := by
  unfold State.spAfterHush
  repeat' first
    | with_reducible assumption
    | ((with_reducible apply hM.of) <;> rfl)
    | with_reducible apply Wr.PIO_STAT
    | ((with_reducible apply hM.reg); decide)
    | with_reducible apply State.flag_keeps
    | with_reducible apply applyDue_keeps
    | with_reducible apply Keeps.ite
    | exact rfl
    | split
    | dsimp -zeta only

end Sys2Proof.Machine
end

