-- ==== Sys2Proof/Laws/KeepsRings.lean ====
section
/-! SUPPORT. What each operation of Machine/Rings.lean keeps (Laws/Keeps.lean says what that means). -/

namespace Sys2Proof.Machine

theorem State.radioCount_keeps {M : Mask} {s0 : State} {off k : Nat} {s : State} (hM : Sub ⟨0x4, 0x0⟩ M) (hK : Keeps M s0 s) :
    Keeps M s0 (State.radioCount off k s) := by
  unfold State.radioCount
  repeat' first
    | with_reducible assumption
    | ((with_reducible apply hM.of) <;> rfl)
    | with_reducible apply hM.bit
    | exact rfl
    | split
    | with_reducible apply Keeps.set_radio

theorem State.abandonSends_keeps {M : Mask} {s0 : State} {s : State} (hM : Sub ⟨0x8, 0x0⟩ M) (hK : Keeps M s0 s) :
    Keeps M s0 (State.abandonSends s) := by
  unfold State.abandonSends
  repeat' first
    | with_reducible assumption
    | ((with_reducible apply hM.of) <;> rfl)
    | with_reducible apply hM.bit
    | exact rfl
    | split
    | with_reducible apply Keeps.set_mac

theorem State.settleUnit_keeps {M : Mask} {s0 : State} {c : Cmd} {s : State} {u : Nat × Nat} (hM : Sub ⟨0xc0002, 0x100000000⟩ M) (hK : Keeps M s0 s) :
    Keeps M s0 (State.settleUnit c s u) := by
  unfold State.settleUnit
  repeat' first
    | with_reducible assumption
    | ((with_reducible apply hM.of) <;> rfl)
    | with_reducible apply hM.bit
    | with_reducible apply State.freeBool_keeps
    | with_reducible apply State.stageUnit_keeps
    | with_reducible apply State.trimUnit_keeps
    | with_reducible apply Keeps.ite
    | (with_reducible apply Keeps2.of; with_reducible assumption)
    | with_reducible apply Keeps2.snd
    | (extract_lets +onlyGivenNames x1; with_reducible refine Cut x1 ?_ ?_)
    | (intro _; clear_value x1; revert x1; intro _ _)
    | subst x1
    | (extract_lets +onlyGivenNames x1; subst x1)
    | exact rfl
    | split
    | with_reducible apply Keeps.set_store
    | with_reducible apply Keeps2.mk

theorem State.abandonRead_keeps {M : Mask} {s0 : State} {c : Cmd} {s : State} (hM : Sub ⟨0x40001, 0x0⟩ M)
    (hK : Keeps M s0 s) : Keeps M s0 (State.abandonRead c s) := by
  unfold State.abandonRead
  extract_lets f l n bytes s1
  have k : Keeps M s0 s1 := hK.set_free (hM.bit _ rfl)
  clear_value s1
  exact k.set_hri' (hM.bit _ rfl) (tsorted_putRanges _ _ _)

theorem State.settleCmd_keeps {M : Mask} {s0 : State} {s : State} {c : Cmd} (hM : Sub ⟨0xc0003, 0x100000000⟩ M) (hK : Keeps M s0 s) :
    Keeps M s0 (State.settleCmd s c) := by
  unfold State.settleCmd
  repeat' first
    | with_reducible assumption
    | ((with_reducible apply hM.of) <;> rfl)
    | with_reducible apply State.settleUnit_keeps
    | with_reducible apply State.abandonRead_keeps
    | with_reducible apply Keeps.ite
    | (with_reducible apply Keeps.foldl; intro _ _ _)
    | split
    | dsimp -zeta only

theorem State.settleQueue_keeps {M : Mask} {s0 : State} {s : State} {n : Nat} (hM : Sub ⟨0xc0003, 0x100000000⟩ M) (hK : Keeps M s0 s) :
    Keeps M s0 (State.settleQueue s n) := by
  unfold State.settleQueue
  repeat' first
    | with_reducible assumption
    | ((with_reducible apply hM.of) <;> rfl)
    | with_reducible apply State.settleCmd_keeps
    | with_reducible apply Keeps.ite
    | (with_reducible apply Keeps.foldl; intro _ _ _)
    | split
    | dsimp -zeta only

theorem State.abandonQueue_keeps {M : Mask} {s0 : State} {n : Nat} {s : State} (hM : Sub ⟨0xc000b, 0x100000000⟩ M) (hK : Keeps M s0 s) :
    Keeps M s0 (State.abandonQueue n s) := by
  unfold State.abandonQueue
  repeat' first
    | with_reducible assumption
    | ((with_reducible apply hM.of) <;> rfl)
    | with_reducible apply hM.bit
    | with_reducible apply State.modQ_keeps
    | with_reducible apply State.abandonSends_keeps
    | with_reducible apply State.settleQueue_keeps
    | with_reducible apply Keeps.ite
    | (extract_lets +onlyGivenNames x1; with_reducible refine Cut x1 ?_ ?_)
    | (intro _; clear_value x1; revert x1; intro _ _)
    | subst x1
    | (extract_lets +onlyGivenNames x1; subst x1)
    | exact rfl
    | split
    | with_reducible apply Keeps.set_hri

theorem State.freshQueue_keeps {M : Mask} {s0 : State} {n : Nat} {s : State} (hM : Sub ⟨0x1, 0x0⟩ M) (hK : Keeps M s0 s) :
    Keeps M s0 (State.freshQueue n s) := by
  unfold State.freshQueue
  repeat' first
    | with_reducible assumption
    | ((with_reducible apply hM.of) <;> rfl)
    | with_reducible apply State.setQ_keeps
    | split
    | dsimp -zeta only

theorem State.resetQueue_keeps {M : Mask} {s0 : State} {n : Nat} {s : State} (hM : Sub ⟨0xc000b, 0x100000000⟩ M) (hK : Keeps M s0 s) :
    Keeps M s0 (State.resetQueue n s) := by
  unfold State.resetQueue
  repeat' first
    | with_reducible assumption
    | ((with_reducible apply hM.of) <;> rfl)
    | with_reducible apply State.abandonQueue_keeps
    | with_reducible apply State.freshQueue_keeps
    | split
    | dsimp -zeta only

theorem State.dropDeliveries34_keeps {M : Mask} {s0 : State} {s : State} (hM : Sub ⟨0x5, 0x0⟩ M) (hK : Keeps M s0 s) :
    Keeps M s0 (State.dropDeliveries34 s) := by
  unfold State.dropDeliveries34
  repeat' first
    | with_reducible assumption
    | ((with_reducible apply hM.of) <;> rfl)
    | with_reducible apply hM.bit
    | with_reducible apply State.radioCount_keeps
    | exact rfl
    | split
    | with_reducible apply Keeps.set_hri

theorem State.hriStop_keeps {M : Mask} {s0 : State} {s : State} (hM : Sub ⟨0xc234f, 0x90000000013744c010000000000100180000⟩ M) (h : Keeps M s0 s) :
    Keeps M s0 (State.hriStop s) := by
  unfold State.hriStop
  extract_lets s1 s2 x0 s3 x
  have k1 : Keeps M s0 s1 := Keeps.foldl (fun _ _ => State.settleQueue_keeps (hM.of rfl rfl)) _
    (State.dropDeliveries34_keeps (hM.of rfl rfl) h)
  clear_value s1
  have k : Keeps M s0 s2 := Keeps.foldl (fun _ _ => State.spKeep_keeps (hM.of rfl rfl)) _ k1
  clear_value s2
  have k3 : Keeps M s0 s3 := k.set_svc (hM.bit _ rfl)
  clear_value s3
  exact State.abandonSends_keeps (hM.of rfl rfl) (State.wb_keeps (hM.of rfl rfl)
    (Wr.HRI_STAT (hM.reg _ (by decide))) (State.wb_keeps (hM.of rfl rfl) (Wr.HRI_CTL (hM.reg _ (by decide)))
    (k3.set_hri (hM.bit _ rfl) rfl)))

theorem State.hostLinkReset_keeps {M : Mask} {s0 : State} {s : State} (hM : Sub ⟨0xc234f, 0x800090000000013744c010000000000100180000⟩ M) (h : Keeps M s0 s) :
    Keeps M s0 (State.hostLinkReset s) := by
  unfold State.hostLinkReset
  extract_lets s1 x
  have k : Keeps M s0 s1 := State.resetRegs_keeps (hM.of rfl rfl) (State.hriStop_keeps (hM.of rfl rfl) h)
  clear_value s1
  exact k.set_hri (hM.bit _ rfl) rfl

end Sys2Proof.Machine
end

