-- ==== Sys2Proof/Laws/KeepsKeys.lean ====
section
/-! SUPPORT. What each operation of Machine/Keys.lean keeps (Laws/Keeps.lean says what that means). -/

namespace Sys2Proof.Machine

theorem State.setSlot_keeps {M : Mask} {s0 : State} {k : Nat} {x : KeySlot} {s : State} (hM : Sub ⟨0x20, 0x0⟩ M) (hK : Keeps M s0 s) :
    Keeps M s0 (State.setSlot k x s) := by
  unfold State.setSlot
  repeat' first
    | with_reducible assumption
    | ((with_reducible apply hM.of) <;> rfl)
    | with_reducible apply hM.bit
    | exact rfl
    | split
    | with_reducible apply Keeps.set_keys

theorem State.keyShow_keeps {M : Mask} {s0 : State} {s : State} (hM : Sub ⟨0x80000, 0x140000000000000000⟩ M) (hK : Keeps M s0 s) :
    Keeps M s0 (State.keyShow s) := by
  unfold State.keyShow
  repeat' first
    | with_reducible assumption
    | ((with_reducible apply hM.of) <;> rfl)
    | with_reducible apply Wr.KEY_LCS
    | with_reducible apply Wr.KEY_STAT
    | ((with_reducible apply hM.reg); decide)
    | with_reducible apply State.wr_keeps
    | with_reducible apply State.wf_keeps
    | with_reducible apply State.wb_keeps
    | (extract_lets +onlyGivenNames x1; with_reducible refine Cut x1 ?_ ?_)
    | (intro _; clear_value x1; revert x1; intro _ _)
    | subst x1
    | (extract_lets +onlyGivenNames x1; subst x1)
    | exact rfl
    | split
    | dsimp -zeta only

theorem State.preempt_keeps {M : Mask} {s0 : State} {urgent : Bool} {s : State} (hM : Sub ⟨0xc0000, 0x20000000000000000⟩ M) (hK : Keeps M s0 s) :
    Keeps M s0 (State.preempt urgent s) := by
  unfold State.preempt
  repeat' first
    | with_reducible assumption
    | ((with_reducible apply hM.of) <;> rfl)
    | with_reducible apply Wr.CIP_CNT
    | ((with_reducible apply hM.reg); decide)
    | with_reducible apply State.count_keeps
    | with_reducible apply State.freeBool_keeps
    | with_reducible apply Keeps.ite
    | (with_reducible apply Keeps2.of; with_reducible assumption)
    | with_reducible apply Keeps2.snd
    | (extract_lets +onlyGivenNames x1; with_reducible refine Cut x1 ?_ ?_)
    | (intro _; clear_value x1; revert x1; intro _ _)
    | subst x1
    | (extract_lets +onlyGivenNames x1; subst x1)
    | exact rfl
    | split
    | with_reducible apply Keeps2.mk
    | dsimp -zeta only

theorem State.putBlob_keeps {M : Mask} {s0 : State} {k origin : Nat} {key : BitVec 256} {s : State} (hM : Sub ⟨0x80020, 0x10000000000000000⟩ M) (hK : Keeps M s0 s) :
    Keeps M s0 (State.putBlob k origin key s) := by
  unfold State.putBlob
  repeat' first
    | with_reducible assumption
    | ((with_reducible apply hM.of) <;> rfl)
    | with_reducible apply hM.bit
    | with_reducible apply State.ctxNote_keeps
    | exact rfl
    | split
    | with_reducible apply Keeps.set_keys

theorem State.wrapSlot_keeps {M : Mask} {s0 : State} {k origin : Nat} {key : BitVec 256} {s : State} (hM : Sub ⟨0x80020, 0x10000000000000000⟩ M) (hK : Keeps M s0 s) :
    Keeps M s0 (State.wrapSlot k origin key s) := by
  unfold State.wrapSlot
  repeat' first
    | with_reducible assumption
    | ((with_reducible apply hM.of) <;> rfl)
    | with_reducible apply State.setSlot_keeps
    | with_reducible apply State.putBlob_keeps
    | split
    | dsimp -zeta only

theorem State.genSlot_keeps {M : Mask} {s0 : State} {k : Nat} {s : State} (hM : Sub ⟨0xc0020, 0x10000000000000000⟩ M) (hK : Keeps M s0 s) :
    Keeps M s0 (State.genSlot k s) := by
  unfold State.genSlot
  repeat' first
    | with_reducible assumption
    | ((with_reducible apply hM.of) <;> rfl)
    | with_reducible apply State.freeNat_keeps
    | with_reducible apply State.wrapSlot_keeps
    | (with_reducible apply Keeps2.of; with_reducible assumption)
    | with_reducible apply Keeps2.snd
    | (extract_lets +onlyGivenNames x1; with_reducible refine Cut x1 ?_ ?_)
    | (intro _; clear_value x1; revert x1; intro _ _)
    | subst x1
    | (extract_lets +onlyGivenNames x1; subst x1)
    | split
    | with_reducible apply Keeps2.mk
    | dsimp -zeta only

theorem State.genMissing_keeps {M : Mask} {s0 : State} {s : State} (hM : Sub ⟨0xc0020, 0x10000000000000000⟩ M) (hK : Keeps M s0 s) :
    Keeps M s0 (State.genMissing s) := by
  unfold State.genMissing
  repeat' first
    | with_reducible assumption
    | ((with_reducible apply hM.of) <;> rfl)
    | with_reducible apply State.genSlot_keeps
    | with_reducible apply Keeps.ite
    | (with_reducible apply Keeps.foldl; intro _ _ _)
    | split
    | dsimp -zeta only

theorem State.unwrapSlot_keeps {M : Mask} {s0 : State} {s : State} {k : Nat} (hM : Sub ⟨0x80020, 0x10000000000000000⟩ M) (hK : Keeps M s0 s) :
    Keeps M s0 (State.unwrapSlot s k) := by
  unfold State.unwrapSlot
  repeat' first
    | with_reducible assumption
    | ((with_reducible apply hM.of) <;> rfl)
    | with_reducible apply State.ctxNote_keeps
    | with_reducible apply State.setSlot_keeps
    | split
    | dsimp -zeta only

theorem State.keysBoot_keeps {M : Mask} {s0 : State} {s : State} (hM : Sub ⟨0xc0020, 0x150000000000000000⟩ M) (hK : Keeps M s0 s) :
    Keeps M s0 (State.keysBoot s) := by
  unfold State.keysBoot
  repeat' first
    | with_reducible assumption
    | ((with_reducible apply hM.of) <;> rfl)
    | with_reducible apply State.keyShow_keeps
    | with_reducible apply State.genMissing_keeps
    | with_reducible apply State.unwrapSlot_keeps
    | (with_reducible apply Keeps.foldl; intro _ _ _)
    | split
    | dsimp -zeta only

theorem State.keysCut_keeps {M : Mask} {s0 : State} {s : State} (hM : Sub ⟨0x28, 0x0⟩ M) (hK : Keeps M s0 s) :
    Keeps M s0 (State.keysCut s) := by
  unfold State.keysCut
  repeat' first
    | with_reducible assumption
    | ((with_reducible apply hM.of) <;> rfl)
    | with_reducible apply hM.bit
    | (extract_lets +onlyGivenNames x1; with_reducible refine Cut x1 ?_ ?_)
    | (intro _; clear_value x1; revert x1; intro _ _)
    | subst x1
    | (extract_lets +onlyGivenNames x1; subst x1)
    | exact rfl
    | split
    | with_reducible apply Keeps.set_keys
    | with_reducible apply Keeps.set_mac
    | with_reducible apply Keeps.set_keys_mac
    | ((with_reducible apply hM.sub); rfl)

theorem execLedgerRecord_keeps {M : Mask} {s0 : State} {journal ok : Bool} {s : State} (hM : Sub ⟨0x80020, 0x10000000000000000⟩ M) (hK : Keeps M s0 s) :
    Good M s0 (execLedgerRecord journal ok s) := by
  unfold execLedgerRecord
  repeat' first
    | with_reducible assumption
    | ((with_reducible apply hM.of) <;> rfl)
    | with_reducible apply Wr.CIP_STAT
    | ((with_reducible apply hM.reg); decide)
    | with_reducible apply hM.bit
    | with_reducible apply State.flag_keeps
    | with_reducible apply Good.ite
    | with_reducible apply Good.next
    | with_reducible apply Keeps.ite
    | (extract_lets +onlyGivenNames x1; with_reducible refine Cut x1 ?_ ?_)
    | (intro _; clear_value x1; revert x1; intro _ _)
    | subst x1
    | (extract_lets +onlyGivenNames x1; subst x1)
    | exact rfl
    | split
    | with_reducible apply Keeps.set_keys

theorem execRngHealthFail_keeps {M : Mask} {s0 : State} {s : State} (hM : Sub ⟨0x80000, 0x10000000000000000⟩ M) (hK : Keeps M s0 s) :
    Good M s0 (execRngHealthFail s) := by
  unfold execRngHealthFail
  repeat' first
    | with_reducible assumption
    | ((with_reducible apply hM.of) <;> rfl)
    | with_reducible apply Wr.CIP_STAT
    | ((with_reducible apply hM.reg); decide)
    | with_reducible apply State.flag_keeps
    | with_reducible apply Good.ite
    | with_reducible apply Good.next
    | with_reducible apply Keeps.ite
    | exact rfl
    | split
    | dsimp -zeta only

theorem State.tokenOk_keeps {M : Mask} {s0 : State} {action signer : Nat} {basfort : Bool} {tok : BitVec 512} {s : State} (hM : Sub ⟨0x80020, 0x140000000000000000⟩ M) (hK : Keeps M s0 s) :
    Keeps2 M s0 (State.tokenOk action signer basfort tok s) := by
  unfold State.tokenOk
  repeat' first
    | with_reducible assumption
    | ((with_reducible apply hM.of) <;> rfl)
    | with_reducible apply hM.bit
    | with_reducible apply State.keyShow_keeps
    | (extract_lets +onlyGivenNames x1; with_reducible refine Cut x1 ?_ ?_)
    | (intro _; clear_value x1; revert x1; intro _ _)
    | subst x1
    | (extract_lets +onlyGivenNames x1; subst x1)
    | exact rfl
    | split
    | with_reducible apply Keeps.set_keys
    | with_reducible apply Keeps2.mk

/-- What a key command leaves. -/
def KeepsK (M : Mask) (s : State) (r : KeyRes) : Prop := Keeps M s r.s

theorem KeepsK.lit {M : Mask} {s0 s : State} {w : Bool} {a b c d : Nat} {o : List Byte} (h : Keeps M s0 s) :
    KeepsK M s0 ⟨s, w, a, b, c, o, d⟩ := h
theorem KeepsK.st {M : Mask} {s0 : State} {r : KeyRes} (h : KeepsK M s0 r) : Keeps M s0 r.s := h
theorem KeepsK.ite {M : Mask} {s0 : State} {c : Prop} [Decidable c] {a b : KeyRes} (ha : KeepsK M s0 a)
    (hb : KeepsK M s0 b) : KeepsK M s0 (if c then a else b) := by split <;> assumption

theorem bput_true {w : Nat} (i j : Nat) (v : BitVec w) (h : v.getLsbD j = true) : (bput i true v).getLsbD j = true := by
  simp [bput, h]

theorem FuseLe.enroll (s : State) (i : Nat) (x : Tbl (BitVec 512)) :
    FuseLe s { s with keys.custKeys := x, keys.enrolled := bput i true s.keys.enrolled } :=
  ⟨Nat.le_refl _, id, fun _ h => bput_true _ _ _ h, fun _ h => h, id⟩

theorem FuseLe.revoke (s : State) (i : Nat) :
    FuseLe s { s with keys.revoked := bput i true s.keys.revoked } :=
  ⟨Nat.le_refl _, id, fun _ h => h, fun _ h => bput_true _ _ _ h, id⟩

theorem FuseLe.scrap (s : State) :
    FuseLe s { s with keys := { s.keys with scrapped := true, revoked := s.keys.revoked ||| s.keys.enrolled } } :=
  ⟨Nat.le_refl _, fun _ => rfl, fun _ h => h, fun i h => by simp [h], id⟩

theorem FuseLe.step (s : State) : FuseLe s { s with keys.steps := s.keys.steps + 1 } :=
  ⟨Nat.le_succ _, id, fun _ h => h, fun _ h => h, id⟩

theorem State.keyErr_keeps {M : Mask} {s0 : State} {code : Nat} {s : State} (_ : Sub ⟨0x0, 0x0⟩ M) (hK : Keeps M s0 s) :
    KeepsK M s0 (State.keyErr code s) := by
  unfold State.keyErr
  repeat' first
    | with_reducible assumption
    | split
    | with_reducible apply KeepsK.lit
    | dsimp -zeta only

theorem State.badField_keeps {M : Mask} {s0 : State} {off : Nat} {s : State} (_ : Sub ⟨0x0, 0x0⟩ M) (hK : Keeps M s0 s) :
    KeepsK M s0 (State.badField off s) := by
  unfold State.badField
  repeat' first
    | with_reducible assumption
    | split
    | with_reducible apply KeepsK.lit
    | dsimp -zeta only

theorem State.noData_keeps {M : Mask} {s0 : State} {s : State} (_ : Sub ⟨0x0, 0x0⟩ M) (hK : Keeps M s0 s) :
    KeepsK M s0 (State.noData s) := by
  unfold State.noData
  repeat' first
    | with_reducible assumption
    | split
    | with_reducible apply KeepsK.lit
    | dsimp -zeta only

theorem State.keyOk_keeps {M : Mask} {s0 : State} {result : Nat} {s : State} (_ : Sub ⟨0x0, 0x0⟩ M) (hK : Keeps M s0 s) :
    KeepsK M s0 (State.keyOk result s) := by
  unfold State.keyOk
  repeat' first
    | with_reducible assumption
    | split
    | with_reducible apply KeepsK.lit
    | dsimp -zeta only

theorem State.loadSlot_keeps {M : Mask} {s0 : State} {slot origin : Nat} {key : BitVec 256} {txfc : Nat} {s : State} (hM : Sub ⟨0x80028, 0x10000000000000000⟩ M) (hK : Keeps M s0 s) :
    Keeps M s0 (State.loadSlot slot origin key txfc s) := by
  unfold State.loadSlot
  repeat' first
    | with_reducible assumption
    | ((with_reducible apply hM.of) <;> rfl)
    | with_reducible apply hM.bit
    | with_reducible apply State.setSlot_keeps
    | with_reducible apply State.wrapSlot_keeps
    | with_reducible apply Keeps.ite
    | (extract_lets +onlyGivenNames x1; with_reducible refine Cut x1 ?_ ?_)
    | (intro _; clear_value x1; revert x1; intro _ _)
    | subst x1
    | (extract_lets +onlyGivenNames x1; subst x1)
    | exact rfl
    | split
    | with_reducible apply Keeps.set_mac

theorem State.keyLoad_keeps {M : Mask} {s0 : State} {r : KeyReq} {s : State} (hM : Sub ⟨0x80028, 0x10000000000000000⟩ M) (hK : Keeps M s0 s) :
    KeepsK M s0 (State.keyLoad r s) := by
  unfold State.keyLoad
  repeat' first
    | with_reducible assumption
    | ((with_reducible apply hM.of) <;> rfl)
    | with_reducible apply State.ctxNote_keeps
    | with_reducible apply State.keyErr_keeps
    | with_reducible apply State.noData_keeps
    | with_reducible apply State.keyOk_keeps
    | with_reducible apply State.loadSlot_keeps
    | with_reducible apply KeepsK.ite
    | with_reducible apply Keeps.ite
    | with_reducible apply KeepsK.st
    | (extract_lets +onlyGivenNames x1; with_reducible refine Cut x1 ?_ ?_)
    | (intro _; clear_value x1; revert x1; intro _ _)
    | subst x1
    | (extract_lets +onlyGivenNames x1; subst x1)
    | split
    | with_reducible apply KeepsK.lit
    | dsimp -zeta only

theorem State.keyClear_keeps {M : Mask} {s0 : State} {r : KeyReq} {s : State} (hM : Sub ⟨0x80028, 0x10000000000000000⟩ M) (hK : Keeps M s0 s) :
    KeepsK M s0 (State.keyClear r s) := by
  unfold State.keyClear
  repeat' first
    | with_reducible assumption
    | ((with_reducible apply hM.of) <;> rfl)
    | with_reducible apply hM.bit
    | with_reducible apply State.ctxNote_keeps
    | with_reducible apply State.keyErr_keeps
    | with_reducible apply State.keyOk_keeps
    | with_reducible apply KeepsK.ite
    | with_reducible apply Keeps.ite
    | with_reducible apply KeepsK.st
    | (extract_lets +onlyGivenNames x1; with_reducible refine Cut x1 ?_ ?_)
    | (intro _; clear_value x1; revert x1; intro _ _)
    | subst x1
    | (extract_lets +onlyGivenNames x1; subst x1)
    | exact rfl
    | split
    | with_reducible apply Keeps.set_keys
    | with_reducible apply Keeps.set_mac
    | with_reducible apply Keeps.set_keys_mac
    | ((with_reducible apply hM.sub); rfl)
    | with_reducible apply KeepsK.lit

theorem State.keyStat_keeps {M : Mask} {s0 : State} {s : State} (_ : Sub ⟨0x0, 0x0⟩ M) (hK : Keeps M s0 s) :
    KeepsK M s0 (State.keyStat s) := by
  unfold State.keyStat
  repeat' first
    | with_reducible assumption
    | split
    | with_reducible apply KeepsK.lit
    | dsimp -zeta only

theorem State.keyEnroll_keeps {M : Mask} {s0 : State} {r : KeyReq} {s : State} (hM : Sub ⟨0x80020, 0x140000000000000000⟩ M) (hK : Keeps M s0 s) :
    KeepsK M s0 (State.keyEnroll r s) := by
  unfold State.keyEnroll
  repeat' first
    | with_reducible assumption
    | ((with_reducible apply hM.of) <;> rfl)
    | with_reducible apply Wr.KEY_STAT
    | ((with_reducible apply hM.reg); decide)
    | with_reducible apply hM.bit
    | exact FuseLe.enroll _ _ _
    | with_reducible apply State.flag_keeps
    | with_reducible apply State.keyShow_keeps
    | with_reducible apply State.keyErr_keeps
    | with_reducible apply State.noData_keeps
    | with_reducible apply State.keyOk_keeps
    | with_reducible apply KeepsK.ite
    | with_reducible apply Keeps.ite
    | with_reducible apply KeepsK.st
    | (extract_lets +onlyGivenNames x1; with_reducible refine Cut x1 ?_ ?_)
    | (intro _; clear_value x1; revert x1; intro _ _)
    | subst x1
    | (extract_lets +onlyGivenNames x1; subst x1)
    | exact rfl
    | split
    | with_reducible apply Keeps.set_keys'
    | with_reducible apply KeepsK.lit

theorem State.keyRevoke_keeps {M : Mask} {s0 : State} {r : KeyReq} {s : State} (hM : Sub ⟨0x80020, 0x140000000000000000⟩ M) (hK : Keeps M s0 s) :
    KeepsK M s0 (State.keyRevoke r s) := by
  unfold State.keyRevoke
  repeat' first
    | with_reducible assumption
    | ((with_reducible apply hM.of) <;> rfl)
    | with_reducible apply Wr.KEY_STAT
    | ((with_reducible apply hM.reg); decide)
    | with_reducible apply hM.bit
    | exact FuseLe.revoke _ _
    | with_reducible apply State.flag_keeps
    | with_reducible apply State.keyShow_keeps
    | with_reducible apply State.tokenOk_keeps
    | with_reducible apply State.keyErr_keeps
    | with_reducible apply State.badField_keeps
    | with_reducible apply State.noData_keeps
    | with_reducible apply State.keyOk_keeps
    | with_reducible apply KeepsK.ite
    | with_reducible apply Keeps.ite
    | (with_reducible apply Keeps2.of; with_reducible assumption)
    | with_reducible apply Keeps2.snd
    | with_reducible apply KeepsK.st
    | (extract_lets +onlyGivenNames x1; with_reducible refine Cut x1 ?_ ?_)
    | (intro _; clear_value x1; revert x1; intro _ _)
    | subst x1
    | (extract_lets +onlyGivenNames x1; subst x1)
    | exact rfl
    | split
    | with_reducible apply Keeps.set_keys'
    | with_reducible apply KeepsK.lit
    | with_reducible apply Keeps2.mk

theorem State.idSign_keeps {M : Mask} {s0 : State} {l : List Byte} {s : State} (hM : Sub ⟨0x40000, 0x0⟩ M) (hK : Keeps M s0 s) :
    Keeps2 M s0 (State.idSign l s) := by
  unfold State.idSign
  repeat' first
    | with_reducible assumption
    | ((with_reducible apply hM.of) <;> rfl)
    | with_reducible apply State.freeNat_keeps
    | (with_reducible apply Keeps2.of; with_reducible assumption)
    | with_reducible apply Keeps2.snd
    | (extract_lets +onlyGivenNames x1; with_reducible refine Cut x1 ?_ ?_)
    | (intro _; clear_value x1; revert x1; intro _ _)
    | subst x1
    | (extract_lets +onlyGivenNames x1; subst x1)
    | split
    | with_reducible apply Keeps2.mk
    | dsimp -zeta only

theorem State.sessionOpen_keeps {M : Mask} {s0 : State} {r : KeyReq} {s : State} (hM : Sub ⟨0xc0020, 0x10000000000000000⟩ M) (hK : Keeps M s0 s) :
    KeepsK M s0 (State.sessionOpen r s) := by
  unfold State.sessionOpen
  repeat' first
    | with_reducible assumption
    | ((with_reducible apply hM.of) <;> rfl)
    | with_reducible apply State.freeNat_keeps
    | with_reducible apply State.ctxNote_keeps
    | with_reducible apply State.setSlot_keeps
    | with_reducible apply State.keyErr_keeps
    | with_reducible apply State.noData_keeps
    | with_reducible apply State.idSign_keeps
    | with_reducible apply KeepsK.ite
    | with_reducible apply Keeps.ite
    | (with_reducible apply Keeps2.of; with_reducible assumption)
    | with_reducible apply Keeps2.snd
    | with_reducible apply KeepsK.st
    | (extract_lets +onlyGivenNames x1; with_reducible refine Cut x1 ?_ ?_)
    | (intro _; clear_value x1; revert x1; intro _ _)
    | subst x1
    | (extract_lets +onlyGivenNames x1; subst x1)
    | split
    | with_reducible apply KeepsK.lit
    | with_reducible apply Keeps2.mk
    | dsimp -zeta only

theorem State.sessionClose_keeps {M : Mask} {s0 : State} {r : KeyReq} {s : State} (hM : Sub ⟨0x80020, 0x10000000000000000⟩ M) (hK : Keeps M s0 s) :
    KeepsK M s0 (State.sessionClose r s) := by
  unfold State.sessionClose
  repeat' first
    | with_reducible assumption
    | ((with_reducible apply hM.of) <;> rfl)
    | with_reducible apply State.ctxNote_keeps
    | with_reducible apply State.setSlot_keeps
    | with_reducible apply State.keyErr_keeps
    | with_reducible apply State.keyOk_keeps
    | with_reducible apply KeepsK.ite
    | with_reducible apply Keeps.ite
    | with_reducible apply KeepsK.st
    | (extract_lets +onlyGivenNames x1; with_reducible refine Cut x1 ?_ ?_)
    | (intro _; clear_value x1; revert x1; intro _ _)
    | subst x1
    | (extract_lets +onlyGivenNames x1; subst x1)
    | split
    | with_reducible apply KeepsK.lit
    | dsimp -zeta only

theorem State.idCert_keeps {M : Mask} {s0 : State} {s : State} (_ : Sub ⟨0x0, 0x0⟩ M) (hK : Keeps M s0 s) :
    KeepsK M s0 (State.idCert s) := by
  unfold State.idCert
  repeat' first
    | with_reducible assumption
    | (extract_lets +onlyGivenNames x1; with_reducible refine Cut x1 ?_ ?_)
    | (intro _; clear_value x1; revert x1; intro _ _)
    | subst x1
    | (extract_lets +onlyGivenNames x1; subst x1)
    | split
    | with_reducible apply KeepsK.lit
    | dsimp -zeta only

theorem State.idAttest_keeps {M : Mask} {s0 : State} {r : KeyReq} {s : State} (hM : Sub ⟨0x40000, 0x0⟩ M) (hK : Keeps M s0 s) :
    KeepsK M s0 (State.idAttest r s) := by
  unfold State.idAttest
  repeat' first
    | with_reducible assumption
    | ((with_reducible apply hM.of) <;> rfl)
    | with_reducible apply State.keyErr_keeps
    | with_reducible apply State.noData_keeps
    | with_reducible apply State.idSign_keeps
    | with_reducible apply KeepsK.ite
    | with_reducible apply Keeps.ite
    | (with_reducible apply Keeps2.of; with_reducible assumption)
    | with_reducible apply Keeps2.snd
    | with_reducible apply KeepsK.st
    | (extract_lets +onlyGivenNames x1; with_reducible refine Cut x1 ?_ ?_)
    | (intro _; clear_value x1; revert x1; intro _ _)
    | subst x1
    | (extract_lets +onlyGivenNames x1; subst x1)
    | split
    | with_reducible apply KeepsK.lit
    | with_reducible apply Keeps2.mk
    | dsimp -zeta only

theorem State.lcChallenge_keeps {M : Mask} {s0 : State} {s : State} (hM : Sub ⟨0xc0020, 0x140000000000000000⟩ M) (hK : Keeps M s0 s) :
    KeepsK M s0 (State.lcChallenge s) := by
  unfold State.lcChallenge
  repeat' first
    | with_reducible assumption
    | ((with_reducible apply hM.of) <;> rfl)
    | with_reducible apply hM.bit
    | with_reducible apply State.freeNat_keeps
    | with_reducible apply State.keyShow_keeps
    | with_reducible apply State.keyErr_keeps
    | with_reducible apply KeepsK.ite
    | with_reducible apply Keeps.ite
    | (with_reducible apply Keeps2.of; with_reducible assumption)
    | with_reducible apply Keeps2.snd
    | with_reducible apply KeepsK.st
    | (extract_lets +onlyGivenNames x1; with_reducible refine Cut x1 ?_ ?_)
    | (intro _; clear_value x1; revert x1; intro _ _)
    | subst x1
    | (extract_lets +onlyGivenNames x1; subst x1)
    | exact rfl
    | split
    | with_reducible apply Keeps.set_keys
    | with_reducible apply KeepsK.lit
    | with_reducible apply Keeps2.mk

theorem State.wipeSlots_keeps {M : Mask} {s0 : State} {s : State} (hM : Sub ⟨0x80028, 0x10000000000000000⟩ M) (hK : Keeps M s0 s) :
    Keeps M s0 (State.wipeSlots s) := by
  unfold State.wipeSlots
  repeat' first
    | with_reducible assumption
    | ((with_reducible apply hM.of) <;> rfl)
    | with_reducible apply hM.bit
    | with_reducible apply State.ctxNote_keeps
    | exact rfl
    | split
    | with_reducible apply Keeps.set_keys
    | with_reducible apply Keeps.set_mac
    | with_reducible apply Keeps.set_keys_mac
    | ((with_reducible apply hM.sub); rfl)

theorem State.wipeMap_keeps {M : Mask} {s0 : State} {s : State} (hM : Sub ⟨0x80012, 0x1000000c180000000⟩ M) (hK : Keeps M s0 s) :
    Keeps M s0 (State.wipeMap s) := by
  unfold State.wipeMap
  repeat' first
    | with_reducible assumption
    | ((with_reducible apply hM.of) <;> rfl)
    | with_reducible apply hM.bit
    | with_reducible apply State.stoCount_keeps
    | with_reducible apply State.showRegrowth_keeps
    | with_reducible apply State.jnlErase_keeps
    | (with_reducible apply Keeps.foldl; intro _ _ _)
    | (extract_lets +onlyGivenNames x1; with_reducible refine Cut x1 ?_ ?_)
    | (intro _; clear_value x1; revert x1; intro _ _)
    | subst x1
    | (extract_lets +onlyGivenNames x1; subst x1)
    | exact rfl
    | split
    | with_reducible apply Keeps.set_store

theorem State.wipeStore_keeps {M : Mask} {s0 : State} {s : State} (hM : Sub ⟨0xc0032, 0x15000000c180000000⟩ M) (h : Keeps M s0 s) :
    Keeps M s0 (State.wipeStore s) := by
  unfold State.wipeStore
  split
  · exact State.keyShow_keeps (hM.of rfl rfl) (h.set_keys (hM.bit _ rfl) rfl rfl rfl rfl rfl)
  extract_lets s1 s2 x
  have k : Keeps M s0 s1 := State.genMissing_keeps (hM.of rfl rfl) h
  split
  · have k2 : Keeps M s0 s2 := State.wipeMap_keeps (hM.of rfl rfl) k
    subst x; clear_value s2
    exact State.keyShow_keeps (hM.of rfl rfl) (k2.set_keys (hM.bit _ rfl) rfl rfl rfl rfl rfl)
  · exact State.keyShow_keeps (hM.of rfl rfl) k

theorem State.lcFinish_keeps {M : Mask} {s0 : State} {s : State} (hM : Sub ⟨0xc0032, 0x15000000c180000000⟩ M) (h : Keeps M s0 s) :
    KeepsK M s0 (State.lcFinish s) := by
  unfold State.lcFinish
  extract_lets s1
  have k : Keeps M s0 s1 := State.wipeStore_keeps (hM.of rfl rfl) h
  clear_value s1
  split
  · exact State.keyOk_keeps (hM.of rfl rfl) k
  split
  · exact State.keyErr_keeps (hM.of rfl rfl) k
  split
  · exact State.keyErr_keeps (hM.of rfl rfl) k
  · exact KeepsK.lit k

theorem State.lcCommit_keeps {M : Mask} {s0 : State} {target : Nat} {fuseOk midway : Bool} {s : State} (hM : Sub ⟨0xc003a, 0x15000000c180000000⟩ M) (h : Keeps M s0 s) :
    KeepsK M s0 (State.lcCommit target fuseOk midway s) := by
  unfold State.lcCommit
  split
  · exact State.keyErr_keeps (hM.of rfl rfl) (State.flag_keeps (hM.of rfl rfl) (Wr.KEY_STAT (hM.reg _ (by decide))) h)
  have e : FuseLe s { s with keys := if target = 4
      then { s.keys with scrapped := true, revoked := s.keys.revoked ||| s.keys.enrolled }
      else { s.keys with steps := s.keys.steps + 1 } } := by
    split
    · exact FuseLe.scrap s
    · exact FuseLe.step s
  generalize (if target = 4 then _ else _ : Keys) = k at *
  dsimp only
  split
  · have h2 := State.keyShow_keeps (M := M) (hM.of rfl rfl) (State.wipeSlots_keeps (hM.of rfl rfl)
      (h.set_keys' (x := { k with wipePend := true, blobs := k.blobs.filter fun p => p.2.epoch == k.visits })
        (hM.bit _ rfl) ⟨e.steps, e.scrapped, e.enrolled, e.revoked, e.chgLock⟩))
    generalize State.keyShow _ = s2 at *
    split
    · exact KeepsK.lit h2
    · exact State.lcFinish_keeps (hM.of rfl rfl) h2
  · exact State.keyOk_keeps (hM.of rfl rfl) (State.keyShow_keeps (hM.of rfl rfl) (h.set_keys' (hM.bit _ rfl) e))

theorem State.lcAdvance_keeps {M : Mask} {s0 : State} {r : KeyReq} {s : State} (hM : Sub ⟨0xc237f, 0x90000000013744c01015000000c180180000⟩ M) (hK : Keeps M s0 s) :
    KeepsK M s0 (State.lcAdvance r s) := by
  unfold State.lcAdvance
  repeat' first
    | with_reducible assumption
    | ((with_reducible apply hM.of) <;> rfl)
    | with_reducible apply State.hriStop_keeps
    | with_reducible apply State.tokenOk_keeps
    | with_reducible apply State.keyErr_keeps
    | with_reducible apply State.badField_keeps
    | with_reducible apply State.noData_keeps
    | with_reducible apply State.lcFinish_keeps
    | with_reducible apply State.lcCommit_keeps
    | with_reducible apply KeepsK.ite
    | with_reducible apply Keeps.ite
    | (with_reducible apply Keeps2.of; with_reducible assumption)
    | with_reducible apply Keeps2.snd
    | with_reducible apply KeepsK.st
    | (extract_lets +onlyGivenNames x1; with_reducible refine Cut x1 ?_ ?_)
    | (intro _; clear_value x1; revert x1; intro _ _)
    | subst x1
    | (extract_lets +onlyGivenNames x1; subst x1)
    | split
    | with_reducible apply KeepsK.lit
    | with_reducible apply Keeps2.mk
    | dsimp -zeta only

theorem State.keyRun_keeps {M : Mask} {s0 : State} {r : KeyReq} {s : State} (hM : Sub ⟨0xc237f, 0x90000000013744c01015000000c180180000⟩ M) (hK : Keeps M s0 s) :
    KeepsK M s0 (State.keyRun r s) := by
  unfold State.keyRun
  repeat' first
    | with_reducible assumption
    | ((with_reducible apply hM.of) <;> rfl)
    | with_reducible apply State.keyLoad_keeps
    | with_reducible apply State.keyClear_keeps
    | with_reducible apply State.keyStat_keeps
    | with_reducible apply State.keyEnroll_keeps
    | with_reducible apply State.keyRevoke_keeps
    | with_reducible apply State.sessionOpen_keeps
    | with_reducible apply State.sessionClose_keeps
    | with_reducible apply State.idCert_keeps
    | with_reducible apply State.idAttest_keeps
    | with_reducible apply State.lcChallenge_keeps
    | with_reducible apply State.lcAdvance_keeps
    | with_reducible apply KeepsK.st
    | split
    | with_reducible apply KeepsK.lit
    | dsimp -zeta only

theorem State.wipeGoOn_keeps {M : Mask} {s0 : State} {s : State} (hM : Sub ⟨0xc0032, 0x15000000c180000000⟩ M) (hK : Keeps M s0 s) :
    Keeps M s0 (State.wipeGoOn s) := by
  unfold State.wipeGoOn
  repeat' first
    | with_reducible assumption
    | ((with_reducible apply hM.of) <;> rfl)
    | with_reducible apply State.wipeStore_keeps
    | with_reducible apply Keeps.ite
    | split
    | dsimp -zeta only

theorem State.keyPassed_keeps {M : Mask} {s0 : State} {s : State} (hM : Sub ⟨0x2000, 0x0⟩ M) (hK : Keeps M s0 s) :
    Keeps M s0 (State.keyPassed s) := by
  unfold State.keyPassed
  repeat' first
    | with_reducible assumption
    | ((with_reducible apply hM.of) <;> rfl)
    | with_reducible apply hM.bit
    | exact rfl
    | split
    | with_reducible apply Keeps.set_svc

theorem KeyRes.toHost_keeps {M : Mask} {s0 : State} {r : KeyRes} {c : Cmd} {xferOk : Bool} (hM : Sub ⟨0x80001, 0x100000⟩ M)
    (hK : KeepsK M s0 r) : Keeps M s0 (r.toHost c xferOk) := by
  unfold KeyRes.toHost
  replace hK := hK.st
  repeat' first
    | with_reducible assumption
    | ((with_reducible apply hM.of) <;> rfl)
    | with_reducible apply State.adminDone_keeps
    | with_reducible apply State.putBuffer_keeps
    | with_reducible apply Keeps.ite
    | with_reducible apply Keeps.ite
    | split
    | dsimp -zeta only

theorem State.keyRow_keeps {M : Mask} {s0 : State} {op : Nat} {buf : Option (List Byte)} {xferOk fuseOk midway : Bool} {s : State} (hM : Sub ⟨0xc237f, 0x90000000013744c01015000000c180180000⟩ M) (hK : Keeps M s0 s) :
    Keeps M s0 (State.keyRow op buf xferOk fuseOk midway s) := by
  unfold State.keyRow
  repeat' first
    | with_reducible assumption
    | ((with_reducible apply hM.of) <;> rfl)
    | with_reducible apply hM.bit
    | with_reducible apply State.modQ_keeps
    | with_reducible apply State.keyRun_keeps
    | with_reducible apply State.wipeGoOn_keeps
    | with_reducible apply State.keyPassed_keeps
    | with_reducible apply KeyRes.toHost_keeps
    | with_reducible apply Keeps.ite
    | with_reducible apply KeepsK.st
    | (extract_lets +onlyGivenNames x1; with_reducible refine Cut x1 ?_ ?_)
    | (intro _; clear_value x1; revert x1; intro _ _)
    | subst x1
    | (extract_lets +onlyGivenNames x1; subst x1)
    | exact rfl
    | split
    | with_reducible apply Keeps.set_svc

theorem execKeyLoad_keeps {M : Mask} {s0 : State} {buf : Option (BitVec 512)} {s : State} (hM : Sub ⟨0xc237f, 0x90000000013744c01015000000c180180000⟩ M) (hK : Keeps M s0 s) :
    Good M s0 (execKeyLoad buf s) := by
  unfold execKeyLoad
  repeat' first
    | with_reducible assumption
    | ((with_reducible apply hM.of) <;> rfl)
    | with_reducible apply State.keyRow_keeps
    | with_reducible apply Good.next
    | split
    | dsimp -zeta only

theorem execKeyClear_keeps {M : Mask} {s0 : State} {s : State} (hM : Sub ⟨0xc237f, 0x90000000013744c01015000000c180180000⟩ M) (hK : Keeps M s0 s) :
    Good M s0 (execKeyClear s) := by
  unfold execKeyClear
  repeat' first
    | with_reducible assumption
    | ((with_reducible apply hM.of) <;> rfl)
    | with_reducible apply State.keyRow_keeps
    | with_reducible apply Good.next
    | split
    | dsimp -zeta only

theorem execKeyStat_keeps {M : Mask} {s0 : State} {xferOk : Bool} {s : State} (hM : Sub ⟨0xc237f, 0x90000000013744c01015000000c180180000⟩ M) (hK : Keeps M s0 s) :
    Good M s0 (execKeyStat xferOk s) := by
  unfold execKeyStat
  repeat' first
    | with_reducible assumption
    | ((with_reducible apply hM.of) <;> rfl)
    | with_reducible apply State.keyRow_keeps
    | with_reducible apply Good.next
    | split
    | dsimp -zeta only

theorem execKeyEnroll_keeps {M : Mask} {s0 : State} {pub : Option (BitVec 512)} {fuseOk : Bool} {s : State} (hM : Sub ⟨0xc237f, 0x90000000013744c01015000000c180180000⟩ M) (hK : Keeps M s0 s) :
    Good M s0 (execKeyEnroll pub fuseOk s) := by
  unfold execKeyEnroll
  repeat' first
    | with_reducible assumption
    | ((with_reducible apply hM.of) <;> rfl)
    | with_reducible apply State.keyRow_keeps
    | with_reducible apply Good.next
    | split
    | dsimp -zeta only

theorem execKeyRevoke_keeps {M : Mask} {s0 : State} {token : Option (BitVec 512)} {fuseOk : Bool} {s : State} (hM : Sub ⟨0xc237f, 0x90000000013744c01015000000c180180000⟩ M) (hK : Keeps M s0 s) :
    Good M s0 (execKeyRevoke token fuseOk s) := by
  unfold execKeyRevoke
  repeat' first
    | with_reducible assumption
    | ((with_reducible apply hM.of) <;> rfl)
    | with_reducible apply State.keyRow_keeps
    | with_reducible apply Good.next
    | split
    | dsimp -zeta only

theorem execSessionOpen_keeps {M : Mask} {s0 : State} {toolpub : Option (BitVec 512)} {s : State} (hM : Sub ⟨0xc237f, 0x90000000013744c01015000000c180180000⟩ M) (hK : Keeps M s0 s) :
    Good M s0 (execSessionOpen toolpub s) := by
  unfold execSessionOpen
  repeat' first
    | with_reducible assumption
    | ((with_reducible apply hM.of) <;> rfl)
    | with_reducible apply State.keyRow_keeps
    | with_reducible apply Good.next
    | split
    | dsimp -zeta only

theorem execSessionClose_keeps {M : Mask} {s0 : State} {s : State} (hM : Sub ⟨0xc237f, 0x90000000013744c01015000000c180180000⟩ M) (hK : Keeps M s0 s) :
    Good M s0 (execSessionClose s) := by
  unfold execSessionClose
  repeat' first
    | with_reducible assumption
    | ((with_reducible apply hM.of) <;> rfl)
    | with_reducible apply State.keyRow_keeps
    | with_reducible apply Good.next
    | split
    | dsimp -zeta only

theorem execIdCert_keeps {M : Mask} {s0 : State} {xferOk : Bool} {s : State} (hM : Sub ⟨0xc237f, 0x90000000013744c01015000000c180180000⟩ M) (hK : Keeps M s0 s) :
    Good M s0 (execIdCert xferOk s) := by
  unfold execIdCert
  repeat' first
    | with_reducible assumption
    | ((with_reducible apply hM.of) <;> rfl)
    | with_reducible apply State.keyRow_keeps
    | with_reducible apply Good.next
    | split
    | dsimp -zeta only

theorem execIdAttest_keeps {M : Mask} {s0 : State} {nonce : Option (BitVec 256)} {s : State} (hM : Sub ⟨0xc237f, 0x90000000013744c01015000000c180180000⟩ M) (hK : Keeps M s0 s) :
    Good M s0 (execIdAttest nonce s) := by
  unfold execIdAttest
  repeat' first
    | with_reducible assumption
    | ((with_reducible apply hM.of) <;> rfl)
    | with_reducible apply State.keyRow_keeps
    | with_reducible apply Good.next
    | split
    | dsimp -zeta only

theorem execLcChallenge_keeps {M : Mask} {s0 : State} {xferOk : Bool} {s : State} (hM : Sub ⟨0xc237f, 0x90000000013744c01015000000c180180000⟩ M) (hK : Keeps M s0 s) :
    Good M s0 (execLcChallenge xferOk s) := by
  unfold execLcChallenge
  repeat' first
    | with_reducible assumption
    | ((with_reducible apply hM.of) <;> rfl)
    | with_reducible apply State.keyRow_keeps
    | with_reducible apply Good.next
    | split
    | dsimp -zeta only

theorem execLifeCycleAdvance_keeps {M : Mask} {s0 : State} {token : Option (BitVec 512)} {fuseOk midway : Bool} {s : State} (hM : Sub ⟨0xc237f, 0x90000000013744c01015000000c180180000⟩ M) (hK : Keeps M s0 s) :
    Good M s0 (execLifeCycleAdvance token fuseOk midway s) := by
  unfold execLifeCycleAdvance
  repeat' first
    | with_reducible assumption
    | ((with_reducible apply hM.of) <;> rfl)
    | with_reducible apply State.keyRow_keeps
    | with_reducible apply Good.next
    | split
    | dsimp -zeta only

end Sys2Proof.Machine
end

