-- ==== Sys2Proof/Laws/KeepsLehr.lean ====
section
/-! SUPPORT. What each operation of Machine/Lehr.lean keeps (Laws/Keeps.lean says what that means). -/

namespace Sys2Proof.Machine

theorem State.secondEnds_keeps {M : Mask} {s0 : State} {frac : Nat} {s : State} (hM : Sub ⟨0x80741, 0x90000000013440c010000000000000100000⟩ M) (hK : Keeps M s0 s) :
    Keeps M s0 (State.secondEnds frac s) := by
  unfold State.secondEnds
  repeat' first
    | with_reducible assumption
    | ((with_reducible apply hM.of) <;> rfl)
    | with_reducible apply hM.bit
    | with_reducible apply State.raise_keeps
    | with_reducible apply Keeps.ite
    | (extract_lets +onlyGivenNames x1; with_reducible refine Cut x1 ?_ ?_)
    | (intro _; clear_value x1; revert x1; intro _ _)
    | subst x1
    | (extract_lets +onlyGivenNames x1; subst x1)
    | exact rfl
    | split
    | with_reducible apply Keeps.set_lehr

theorem State.trimNext_keeps {M : Mask} {s0 : State} {s : State} (hM : Sub ⟨0x400, 0x0⟩ M) (hK : Keeps M s0 s) :
    Keeps M s0 (State.trimNext s) := by
  unfold State.trimNext
  repeat' first
    | with_reducible assumption
    | ((with_reducible apply hM.of) <;> rfl)
    | with_reducible apply hM.bit
    | exact rfl
    | split
    | with_reducible apply Keeps.set_lehr

theorem State.macTick_keeps {M : Mask} {s0 : State} {n : Nat} {s : State} (hM : Sub ⟨0x8, 0x0⟩ M) (hK : Keeps M s0 s) :
    Keeps M s0 (State.macTick n s) := by
  unfold State.macTick
  repeat' first
    | with_reducible assumption
    | ((with_reducible apply hM.of) <;> rfl)
    | with_reducible apply hM.bit
    | with_reducible apply Keeps.ite
    | (extract_lets +onlyGivenNames x1; with_reducible refine Cut x1 ?_ ?_)
    | (intro _; clear_value x1; revert x1; intro _ _)
    | subst x1
    | (extract_lets +onlyGivenNames x1; subst x1)
    | exact rfl
    | split
    | with_reducible apply Keeps.set_mac

theorem State.rtcTick_keeps {M : Mask} {s0 : State} {s : State} (hM : Sub ⟨0x80741, 0x90000000013440c010000000000000100000⟩ M) (hK : Keeps M s0 s) :
    Keeps M s0 (State.rtcTick s) := by
  unfold State.rtcTick
  repeat' first
    | with_reducible assumption
    | ((with_reducible apply hM.of) <;> rfl)
    | with_reducible apply hM.bit
    | with_reducible apply State.secondEnds_keeps
    | with_reducible apply State.trimNext_keeps
    | with_reducible apply Keeps.ite
    | (extract_lets +onlyGivenNames x1; with_reducible refine Cut x1 ?_ ?_)
    | (intro _; clear_value x1; revert x1; intro _ _)
    | subst x1
    | (extract_lets +onlyGivenNames x1; subst x1)
    | exact rfl
    | split
    | with_reducible apply Keeps.set_lehr

theorem State.clockTick_keeps {M : Mask} {s0 : State} {s : State} (hM : Sub ⟨0x80749, 0x90000000013440c010000000000000100000⟩ M) (hK : Keeps M s0 s) :
    Keeps M s0 (State.clockTick s) := by
  unfold State.clockTick
  repeat' first
    | with_reducible assumption
    | ((with_reducible apply hM.of) <;> rfl)
    | with_reducible apply State.macTick_keeps
    | with_reducible apply State.rtcTick_keeps
    | split
    | dsimp -zeta only

theorem execRtcSecond_keeps {M : Mask} {s0 : State} {s : State} (hM : Sub ⟨0x80749, 0x90000000013440c010000000000000100000⟩ M) (hK : Keeps M s0 s) :
    Good M s0 (execRtcSecond s) := by
  unfold execRtcSecond
  repeat' first
    | with_reducible assumption
    | ((with_reducible apply hM.of) <;> rfl)
    | with_reducible apply hM.bit
    | with_reducible apply State.secondEnds_keeps
    | with_reducible apply State.macTick_keeps
    | with_reducible apply Good.ite
    | with_reducible apply Good.next
    | with_reducible apply Keeps.ite
    | (extract_lets +onlyGivenNames x1; with_reducible refine Cut x1 ?_ ?_)
    | (intro _; clear_value x1; revert x1; intro _ _)
    | subst x1
    | (extract_lets +onlyGivenNames x1; subst x1)
    | exact rfl
    | split
    | with_reducible apply Keeps.set_lehr

theorem execTrimIntervalEnd_keeps {M : Mask} {s0 : State} {s : State} (hM : Sub ⟨0x400, 0x0⟩ M) (hK : Keeps M s0 s) :
    Good M s0 (execTrimIntervalEnd s) := by
  unfold execTrimIntervalEnd
  repeat' first
    | with_reducible assumption
    | ((with_reducible apply hM.of) <;> rfl)
    | with_reducible apply State.trimNext_keeps
    | with_reducible apply Good.ite
    | with_reducible apply Good.next
    | with_reducible apply Keeps.ite
    | split
    | dsimp -zeta only

theorem State.setShadow_keeps {M : Mask} {s0 : State} {m : Master} {x : Shadow} {s : State} (hM : Sub ⟨0x400, 0x0⟩ M) (hK : Keeps M s0 s) :
    Keeps M s0 (State.setShadow m x s) := by
  unfold State.setShadow
  repeat' first
    | with_reducible assumption
    | ((with_reducible apply hM.of) <;> rfl)
    | with_reducible apply hM.bit
    | exact rfl
    | split
    | with_reducible apply Keeps.set_lehr

theorem State.timeRead_keeps {M : Mask} {s0 : State} {m : Master} {which : TimeWord} {s : State} (hM : Sub ⟨0x400, 0x0⟩ M) (hK : Keeps M s0 s) :
    Keeps2 M s0 (State.timeRead m which s) := by
  unfold State.timeRead
  repeat' first
    | with_reducible assumption
    | ((with_reducible apply hM.of) <;> rfl)
    | with_reducible apply State.setShadow_keeps
    | with_reducible apply Keeps2.ite
    | with_reducible apply Keeps.ite
    | (extract_lets +onlyGivenNames x1; with_reducible refine Cut x1 ?_ ?_)
    | (intro _; clear_value x1; revert x1; intro _ _)
    | subst x1
    | (extract_lets +onlyGivenNames x1; subst x1)
    | split
    | with_reducible apply Keeps2.mk
    | dsimp -zeta only

theorem execShadowTimeout_keeps {M : Mask} {s0 : State} {m : Master} {s : State} (hM : Sub ⟨0x400, 0x0⟩ M) (hK : Keeps M s0 s) :
    Good M s0 (execShadowTimeout m s) := by
  unfold execShadowTimeout
  repeat' first
    | with_reducible assumption
    | ((with_reducible apply hM.of) <;> rfl)
    | with_reducible apply State.setShadow_keeps
    | with_reducible apply Good.ite
    | with_reducible apply Good.next
    | with_reducible apply Keeps.ite
    | split
    | dsimp -zeta only

theorem State.setStage_keeps {M : Mask} {s0 : State} {m : Master} {x : Staged} {s : State} (hM : Sub ⟨0x400, 0x0⟩ M) (hK : Keeps M s0 s) :
    Keeps M s0 (State.setStage m x s) := by
  unfold State.setStage
  repeat' first
    | with_reducible assumption
    | ((with_reducible apply hM.of) <;> rfl)
    | with_reducible apply hM.bit
    | exact rfl
    | split
    | with_reducible apply Keeps.set_lehr

theorem State.setCount_keeps {M : Mask} {s0 : State} {m : Master} {sec : Nat} {s : State} (hM : Sub ⟨0x80771, 0x90000000033744c010010000000000100000⟩ M) (hK : Keeps M s0 s) :
    Keeps M s0 (State.setCount m sec s) := by
  unfold State.setCount
  repeat' first
    | with_reducible assumption
    | ((with_reducible apply hM.of) <;> rfl)
    | with_reducible apply Wr.LEHR_STAT
    | ((with_reducible apply hM.reg); decide)
    | with_reducible apply hM.bit
    | with_reducible apply State.wb_keeps
    | with_reducible apply State.post_keeps
    | with_reducible apply State.jnlTimeSet_keeps
    | with_reducible apply applyDue_keeps
    | with_reducible apply State.setShadow_keeps
    | with_reducible apply Keeps.ite
    | (extract_lets +onlyGivenNames x1; with_reducible refine Cut x1 ?_ ?_)
    | (intro _; clear_value x1; revert x1; intro _ _)
    | subst x1
    | (extract_lets +onlyGivenNames x1; subst x1)
    | exact rfl
    | split
    | with_reducible apply Keeps.set_lehr

theorem State.countStage_keeps {M : Mask} {s0 : State} {m : Master} {w : Word} {s : State} (hM : Sub ⟨0x400, 0x0⟩ M) (hK : Keeps M s0 s) :
    Keeps M s0 (State.countStage m w s) := by
  unfold State.countStage
  repeat' first
    | with_reducible assumption
    | ((with_reducible apply hM.of) <;> rfl)
    | with_reducible apply State.setStage_keeps
    | split
    | dsimp -zeta only

theorem State.countCommit_keeps {M : Mask} {s0 : State} {m : Master} {w : Word} {s : State} (hM : Sub ⟨0x80771, 0x90000000033744c010010000000000100000⟩ M) (hK : Keeps M s0 s) :
    Keeps M s0 (State.countCommit m w s) := by
  unfold State.countCommit
  repeat' first
    | with_reducible assumption
    | ((with_reducible apply hM.of) <;> rfl)
    | with_reducible apply Wr.LEHR_STAT
    | refine WrBad.of (by exact rfl) ?_
    | ((with_reducible apply hM.reg); decide)
    | with_reducible apply State.badval_keeps
    | with_reducible apply State.setStage_keeps
    | with_reducible apply State.setCount_keeps
    | exact rfl
    | split
    | dsimp -zeta only

theorem State.calStage_keeps {M : Mask} {s0 : State} {m : Master} {w : Word} {s : State} (hM : Sub ⟨0x400, 0x0⟩ M) (hK : Keeps M s0 s) :
    Keeps M s0 (State.calStage m w s) := by
  unfold State.calStage
  repeat' first
    | with_reducible assumption
    | ((with_reducible apply hM.of) <;> rfl)
    | with_reducible apply State.setStage_keeps
    | split
    | dsimp -zeta only

theorem State.calCommit_keeps {M : Mask} {s0 : State} {m : Master} {w : Word} {s : State} (hM : Sub ⟨0x80771, 0x90000000033744c010010000000000100000⟩ M) (hK : Keeps M s0 s) :
    Keeps M s0 (State.calCommit m w s) := by
  unfold State.calCommit
  repeat' first
    | with_reducible assumption
    | ((with_reducible apply hM.of) <;> rfl)
    | with_reducible apply Wr.LEHR_STAT
    | refine WrBad.of (by exact rfl) ?_
    | ((with_reducible apply hM.reg); decide)
    | with_reducible apply State.flag_keeps
    | with_reducible apply State.badval_keeps
    | with_reducible apply State.setStage_keeps
    | with_reducible apply State.setCount_keeps
    | (extract_lets +onlyGivenNames x1; with_reducible refine Cut x1 ?_ ?_)
    | (intro _; clear_value x1; revert x1; intro _ _)
    | subst x1
    | (extract_lets +onlyGivenNames x1; subst x1)
    | exact rfl
    | split
    | dsimp -zeta only

theorem State.dstCommand_keeps {M : Mask} {s0 : State} {plus : Bool} {s : State} (hM : Sub ⟨0x80000, 0x8200000000000000000000000000⟩ M) (hK : Keeps M s0 s) :
    Keeps M s0 (State.dstCommand plus s) := by
  unfold State.dstCommand
  repeat' first
    | with_reducible assumption
    | ((with_reducible apply hM.of) <;> rfl)
    | with_reducible apply Wr.LEHR_STAT
    | with_reducible apply Wr.LEHR_OFS
    | refine WrBad.of (by exact rfl) ?_
    | ((with_reducible apply hM.reg); decide)
    | with_reducible apply State.wf_keeps
    | with_reducible apply State.wb_keeps
    | with_reducible apply State.flag_keeps
    | with_reducible apply State.badval_keeps
    | with_reducible apply Keeps.ite
    | (extract_lets +onlyGivenNames x1; with_reducible refine Cut x1 ?_ ?_)
    | (intro _; clear_value x1; revert x1; intro _ _)
    | subst x1
    | (extract_lets +onlyGivenNames x1; subst x1)
    | exact rfl
    | split
    | dsimp -zeta only

theorem State.chargeNow_keeps {M : Mask} {s0 : State} {s : State} (hM : Sub ⟨0x400, 0x0⟩ M) (hK : Keeps M s0 s) :
    Keeps M s0 (State.chargeNow s) := by
  unfold State.chargeNow
  repeat' first
    | with_reducible assumption
    | ((with_reducible apply hM.of) <;> rfl)
    | with_reducible apply hM.bit
    | (extract_lets +onlyGivenNames x1; with_reducible refine Cut x1 ?_ ?_)
    | (intro _; clear_value x1; revert x1; intro _ _)
    | subst x1
    | (extract_lets +onlyGivenNames x1; subst x1)
    | exact rfl
    | split
    | with_reducible apply Keeps.set_lehr

theorem State.blowPrilock_keeps {M : Mask} {s0 : State} {w : Word} {s : State} (hM : Sub ⟨0x80420, 0x100200000000000000000000000000⟩ M) (hK : Keeps M s0 s) :
    Keeps M s0 (State.blowPrilock w s) := by
  unfold State.blowPrilock
  repeat' first
    | with_reducible assumption
    | ((with_reducible apply hM.of) <;> rfl)
    | with_reducible apply Wr.LEHR_STAT
    | with_reducible apply Wr.LEHR_CHG
    | refine WrBad.of (by exact rfl) ?_
    | ((with_reducible apply hM.reg); decide)
    | with_reducible apply hM.bit
    | exact ⟨Nat.le_refl _, id, fun _ h => h, fun _ h => h, fun _ => rfl⟩
    | with_reducible apply State.wr_keeps
    | with_reducible apply State.badval_keeps
    | with_reducible apply State.chargeNow_keeps
    | with_reducible apply Keeps.ite
    | exact rfl
    | split
    | with_reducible apply Keeps.set_keys'

theorem State.lehrCtlWrite_keeps {M : Mask} {s0 : State} {w : Word} {s : State} (hM : Sub ⟨0x80420, 0x108600000000000000000000000000⟩ M) (hK : Keeps M s0 s) :
    Keeps M s0 (State.lehrCtlWrite w s) := by
  unfold State.lehrCtlWrite
  repeat' first
    | with_reducible assumption
    | ((with_reducible apply hM.of) <;> rfl)
    | with_reducible apply Wr.LEHR_STAT
    | with_reducible apply Wr.LEHR_CTL
    | refine WrBad.of (by exact rfl) ?_
    | ((with_reducible apply hM.reg); decide)
    | with_reducible apply State.wb_keeps
    | with_reducible apply State.badval_keeps
    | with_reducible apply State.writeReg_keeps
    | with_reducible apply State.dstCommand_keeps
    | with_reducible apply State.blowPrilock_keeps
    | with_reducible apply Keeps.ite
    | (extract_lets +onlyGivenNames x1; with_reducible refine Cut x1 ?_ ?_)
    | (intro _; clear_value x1; revert x1; intro _ _)
    | subst x1
    | (extract_lets +onlyGivenNames x1; subst x1)
    | exact rfl
    | split
    | dsimp -zeta only

theorem State.alarmCommit_keeps {M : Mask} {s0 : State} {w : Word} {s : State} (hM : Sub ⟨0x80400, 0x20200000000000000000000000000⟩ M) (hK : Keeps M s0 s) :
    Keeps M s0 (State.alarmCommit w s) := by
  unfold State.alarmCommit
  repeat' first
    | with_reducible assumption
    | ((with_reducible apply hM.of) <;> rfl)
    | with_reducible apply Wr.LEHR_STAT
    | with_reducible apply Wr.LEHR_ALM1
    | refine WrBad.of (by exact rfl) ?_
    | ((with_reducible apply hM.reg); decide)
    | with_reducible apply hM.bit
    | with_reducible apply State.writeReg_keeps
    | (extract_lets +onlyGivenNames x1; with_reducible refine Cut x1 ?_ ?_)
    | (intro _; clear_value x1; revert x1; intro _ _)
    | subst x1
    | (extract_lets +onlyGivenNames x1; subst x1)
    | exact rfl
    | split
    | with_reducible apply Keeps.set_lehr

theorem State.perWrite_keeps {M : Mask} {s0 : State} {w : Word} {s : State} (hM : Sub ⟨0x80400, 0x40200000000000000000000000000⟩ M) (hK : Keeps M s0 s) :
    Keeps M s0 (State.perWrite w s) := by
  unfold State.perWrite
  repeat' first
    | with_reducible assumption
    | ((with_reducible apply hM.of) <;> rfl)
    | with_reducible apply Wr.LEHR_STAT
    | with_reducible apply Wr.LEHR_PER
    | refine WrBad.of (by exact rfl) ?_
    | ((with_reducible apply hM.reg); decide)
    | with_reducible apply hM.bit
    | with_reducible apply State.badval_keeps
    | with_reducible apply State.writeReg_keeps
    | with_reducible apply Keeps.ite
    | exact rfl
    | split
    | with_reducible apply Keeps.set_lehr

theorem State.chgWrite_keeps {M : Mask} {s0 : State} {w : Word} {s : State} (hM : Sub ⟨0x80400, 0x100200000000000000000000000000⟩ M) (hK : Keeps M s0 s) :
    Keeps M s0 (State.chgWrite w s) := by
  unfold State.chgWrite
  repeat' first
    | with_reducible assumption
    | ((with_reducible apply hM.of) <;> rfl)
    | with_reducible apply Wr.LEHR_STAT
    | with_reducible apply Wr.LEHR_CHG
    | refine WrBad.of (by exact rfl) ?_
    | ((with_reducible apply hM.reg); decide)
    | with_reducible apply State.badval_keeps
    | with_reducible apply State.writeReg_keeps
    | with_reducible apply State.chargeNow_keeps
    | with_reducible apply Keeps.ite
    | exact rfl
    | split
    | dsimp -zeta only

theorem execAlarmFire_keeps {M : Mask} {s0 : State} {s : State} (hM : Sub ⟨0x80b41, 0x8090000002033440c010000000000000100110⟩ M) (hK : Keeps M s0 s) :
    Good M s0 (execAlarmFire s) := by
  unfold execAlarmFire
  repeat' first
    | with_reducible assumption
    | ((with_reducible apply hM.of) <;> rfl)
    | with_reducible apply Wr.LEHR_STAT
    | with_reducible apply Wr.LEHR_ALM1
    | ((with_reducible apply hM.reg); decide)
    | with_reducible apply State.wb_keeps
    | with_reducible apply State.flag_keeps
    | with_reducible apply State.wake_keeps
    | with_reducible apply State.raise_keeps
    | with_reducible apply Good.ite
    | with_reducible apply Good.next
    | with_reducible apply Keeps.ite
    | (extract_lets +onlyGivenNames x1; with_reducible refine Cut x1 ?_ ?_)
    | (intro _; clear_value x1; revert x1; intro _ _)
    | subst x1
    | (extract_lets +onlyGivenNames x1; subst x1)
    | exact rfl
    | split
    | dsimp -zeta only

theorem execPeriodicFire_keeps {M : Mask} {s0 : State} {s : State} (hM : Sub ⟨0x80f41, 0x8090000000033440c010000000000000100110⟩ M) (hK : Keeps M s0 s) :
    Good M s0 (execPeriodicFire s) := by
  unfold execPeriodicFire
  repeat' first
    | with_reducible assumption
    | ((with_reducible apply hM.of) <;> rfl)
    | with_reducible apply Wr.LEHR_STAT
    | ((with_reducible apply hM.reg); decide)
    | with_reducible apply hM.bit
    | with_reducible apply State.flag_keeps
    | with_reducible apply State.wake_keeps
    | with_reducible apply State.raise_keeps
    | with_reducible apply Good.ite
    | with_reducible apply Good.next
    | with_reducible apply Keeps.ite
    | (extract_lets +onlyGivenNames x1; with_reducible refine Cut x1 ?_ ?_)
    | (intro _; clear_value x1; revert x1; intro _ _)
    | subst x1
    | (extract_lets +onlyGivenNames x1; subst x1)
    | exact rfl
    | split
    | with_reducible apply Keeps.set_lehr

theorem execVbakCheck_keeps {M : Mask} {s0 : State} {mv : Nat} {s : State} (hM : Sub ⟨0x80001, 0x200000000000000000000100000⟩ M) (hK : Keeps M s0 s) :
    Good M s0 (execVbakCheck mv s) := by
  unfold execVbakCheck
  repeat' first
    | with_reducible assumption
    | ((with_reducible apply hM.of) <;> rfl)
    | with_reducible apply Wr.LEHR_STAT
    | ((with_reducible apply hM.reg); decide)
    | with_reducible apply State.wb_keeps
    | with_reducible apply State.post_keeps
    | with_reducible apply Good.ite
    | with_reducible apply Good.next
    | with_reducible apply Keeps.ite
    | (extract_lets +onlyGivenNames x1; with_reducible refine Cut x1 ?_ ?_)
    | (intro _; clear_value x1; revert x1; intro _ _)
    | subst x1
    | (extract_lets +onlyGivenNames x1; subst x1)
    | exact rfl
    | split
    | dsimp -zeta only

theorem execVaoLoss_keeps {M : Mask} {s0 : State} {s : State} (hM : Sub ⟨0x400, 0x0⟩ M) (hK : Keeps M s0 s) :
    Good M s0 (execVaoLoss s) := by
  unfold execVaoLoss
  repeat' first
    | with_reducible assumption
    | ((with_reducible apply hM.of) <;> rfl)
    | with_reducible apply hM.bit
    | with_reducible apply Good.ite
    | with_reducible apply Good.next
    | with_reducible apply Keeps.ite
    | exact rfl
    | split
    | with_reducible apply Keeps.set_lehr

theorem State.lehrFresh_keeps {M : Mask} {s0 : State} {s : State} (hM : Sub ⟨0x80400, 0x8000000000000000000000000000000000000000⟩ M) (hK : Keeps M s0 s) :
    Keeps M s0 (State.lehrFresh s) := by
  unfold State.lehrFresh
  repeat' first
    | with_reducible assumption
    | ((with_reducible apply hM.of) <;> rfl)
    | with_reducible apply hM.bit
    | with_reducible apply State.resetRegs_keeps
    | (extract_lets +onlyGivenNames x1; with_reducible refine Cut x1 ?_ ?_)
    | (intro _; clear_value x1; revert x1; intro _ _)
    | subst x1
    | (extract_lets +onlyGivenNames x1; subst x1)
    | exact rfl
    | split
    | with_reducible apply Keeps.set_lehr

theorem execLehrRestart_keeps {M : Mask} {s0 : State} {s : State} (hM : Sub ⟨0x80400, 0x8000000000000000000000000000000000000000⟩ M) (hK : Keeps M s0 s) :
    Good M s0 (execLehrRestart s) := by
  unfold execLehrRestart
  repeat' first
    | with_reducible assumption
    | ((with_reducible apply hM.of) <;> rfl)
    | with_reducible apply State.lehrFresh_keeps
    | with_reducible apply Good.ite
    | with_reducible apply Good.next
    | with_reducible apply Keeps.ite
    | split
    | dsimp -zeta only

theorem State.lehrPosts_keeps {M : Mask} {s0 : State} {s : State} (hM : Sub ⟨0x80401, 0x100000⟩ M) (hK : Keeps M s0 s) :
    Keeps M s0 (State.lehrPosts s) := by
  unfold State.lehrPosts
  repeat' first
    | with_reducible assumption
    | ((with_reducible apply hM.of) <;> rfl)
    | with_reducible apply hM.bit
    | with_reducible apply State.post_keeps
    | with_reducible apply Keeps.ite
    | (extract_lets +onlyGivenNames x1; with_reducible refine Cut x1 ?_ ?_)
    | (intro _; clear_value x1; revert x1; intro _ _)
    | subst x1
    | (extract_lets +onlyGivenNames x1; subst x1)
    | exact rfl
    | split
    | with_reducible apply Keeps.set_lehr

theorem State.lehrCut_keeps {M : Mask} {s0 : State} {s : State} (hM : Sub ⟨0x80400, 0x400000000000000000000000000⟩ M) (hK : Keeps M s0 s) :
    Keeps M s0 (State.lehrCut s) := by
  unfold State.lehrCut
  repeat' first
    | with_reducible assumption
    | ((with_reducible apply hM.of) <;> rfl)
    | with_reducible apply Wr.LEHR_CTL
    | ((with_reducible apply hM.reg); decide)
    | with_reducible apply hM.bit
    | with_reducible apply State.wb_keeps
    | exact rfl
    | split
    | with_reducible apply Keeps.set_lehr

end Sys2Proof.Machine
end

