-- ==== Sys2Proof/Laws/KeepsStorage.lean ====
section
/-! SUPPORT. What each operation of Machine/Storage.lean keeps (Laws/Keeps.lean says what that means). -/

namespace Sys2Proof.Machine

theorem State.unitRead_keeps {M : Mask} {s0 : State} {d k : Nat} {o : UnitOut} {s : State} (hM : Sub ⟨0x80003, 0x190100200⟩ M) (hK : Keeps M s0 s) :
    Keeps M s0 (State.unitRead d k o s) := by
  unfold State.unitRead
  repeat' first
    | with_reducible assumption
    | ((with_reducible apply hM.of) <;> rfl)
    | with_reducible apply State.stoCount_keeps
    | with_reducible apply State.dieAnswered_keeps
    | with_reducible apply State.queueRefresh_keeps
    | with_reducible apply State.tier3Failed_keeps
    | with_reducible apply Keeps.ite
    | (extract_lets +onlyGivenNames x1; with_reducible refine Cut x1 ?_ ?_)
    | (intro _; clear_value x1; revert x1; intro _ _)
    | subst x1
    | (extract_lets +onlyGivenNames x1; subst x1)
    | split
    | dsimp -zeta only

theorem State.readUnit_keeps {M : Mask} {s0 : State} {e : Word} {o : UnitOut} {s : State} (hM : Sub ⟨0x80003, 0x190100200⟩ M) (hK : Keeps M s0 s) :
    Keeps3 M s0 (State.readUnit e o s) := by
  unfold State.readUnit
  repeat' first
    | with_reducible assumption
    | ((with_reducible apply hM.of) <;> rfl)
    | with_reducible apply hM.bit
    | with_reducible apply State.unitRead_keeps
    | with_reducible apply Keeps3.ite
    | with_reducible apply Keeps.ite
    | (extract_lets +onlyGivenNames x1; with_reducible refine Cut x1 ?_ ?_)
    | (intro _; clear_value x1; revert x1; intro _ _)
    | subst x1
    | (extract_lets +onlyGivenNames x1; subst x1)
    | exact rfl
    | split
    | with_reducible apply Keeps.set_store
    | with_reducible apply Keeps3.mk

theorem State.readUnit2_keeps {M : Mask} {s0 : State} {b : Nat} {o : UnitOut} {s : State} (hM : Sub ⟨0x80003, 0x190100200⟩ M) (hK : Keeps M s0 s) :
    Keeps3 M s0 (State.readUnit2 b o s) := by
  unfold State.readUnit2
  repeat' first
    | with_reducible assumption
    | ((with_reducible apply hM.of) <;> rfl)
    | with_reducible apply hM.bit
    | with_reducible apply State.unitRead_keeps
    | with_reducible apply Keeps3.ite
    | with_reducible apply Keeps.ite
    | (extract_lets +onlyGivenNames x1; with_reducible refine Cut x1 ?_ ?_)
    | (intro _; clear_value x1; revert x1; intro _ _)
    | subst x1
    | (extract_lets +onlyGivenNames x1; subst x1)
    | exact rfl
    | split
    | with_reducible apply Keeps.set_store
    | with_reducible apply Keeps3.mk

theorem ReadRun.block_keeps {M : Mask} {s0 : State} {r : ReadRun} {lba : Nat} (hM : Sub ⟨0x80003, 0x190100200⟩ M)
    (hK : Keeps M s0 r.s) : Keeps M s0 (r.block lba).s := by
  unfold ReadRun.block
  repeat' first
    | with_reducible assumption
    | ((with_reducible apply hM.of) <;> rfl)
    | with_reducible apply State.touchMap_keeps
    | with_reducible apply State.readUnit_keeps
    | with_reducible apply Keeps.ite
    | with_reducible apply Keeps.ite
    | (with_reducible apply Keeps3.of; with_reducible assumption)
    | with_reducible apply Keeps3.trd
    | (extract_lets +onlyGivenNames x1; with_reducible refine Cut x1 ?_ ?_)
    | (intro _; clear_value x1; revert x1; intro _ _)
    | subst x1
    | (extract_lets +onlyGivenNames x1; subst x1)
    | split
    | with_reducible apply Keeps3.mk
    | dsimp -zeta only

theorem ReadRun.blocks_keeps {M : Mask} {s0 : State} {b : Nat} (hM : Sub ⟨0x80003, 0x190100200⟩ M) (l : List Nat) :
    ∀ {r : ReadRun}, Keeps M s0 r.s → Keeps M s0 (l.foldl (fun r i => r.block (b + i)) r).s := by
  induction l with
  | nil => exact fun h => h
  | cons i l ih => exact fun h => ih (ReadRun.block_keeps hM h)

theorem ReadRun.block2_keeps {M : Mask} {s0 : State} {r : ReadRun} {b : Nat} (hM : Sub ⟨0x80003, 0x190100200⟩ M)
    (hK : Keeps M s0 r.s) : Keeps M s0 (r.block2 b).s := by
  unfold ReadRun.block2
  repeat' first
    | with_reducible assumption
    | ((with_reducible apply hM.of) <;> rfl)
    | with_reducible apply State.readUnit2_keeps
    | with_reducible apply Keeps.ite
    | with_reducible apply Keeps.ite
    | (with_reducible apply Keeps3.of; with_reducible assumption)
    | with_reducible apply Keeps3.trd
    | (extract_lets +onlyGivenNames x1; with_reducible refine Cut x1 ?_ ?_)
    | (intro _; clear_value x1; revert x1; intro _ _)
    | subst x1
    | (extract_lets +onlyGivenNames x1; subst x1)
    | split
    | with_reducible apply Keeps3.mk
    | dsimp -zeta only

theorem ReadRun.blocks2_keeps {M : Mask} {s0 : State} {b : Nat} (hM : Sub ⟨0x80003, 0x190100200⟩ M) (l : List Nat) :
    ∀ {r : ReadRun}, Keeps M s0 r.s → Keeps M s0 (l.foldl (fun r i => r.block2 (b + i)) r).s := by
  induction l with
  | nil => exact fun h => h
  | cons i l ih => exact fun h => ih (ReadRun.block2_keeps hM h)

theorem putBlocks_keeps {M : Mask} {s0 : State} {c : Cmd} {segs : Segs} {len : Nat} (hM : Sub ⟨0x1, 0x0⟩ M)
    (l : List (Option Blk)) : ∀ {k : Nat} {s : State}, Keeps M s0 s → Keeps M s0 (putBlocks c segs len k l s) := by
  induction l with
  | nil => exact fun h => h
  | cons b r ih =>
    intro k s h
    unfold putBlocks
    repeat' first
      | with_reducible assumption
      | ((with_reducible apply hM.of) <;> rfl)
      | with_reducible apply ih
      | with_reducible apply State.putBuffer_keeps
      | split
      | dsimp -zeta only

theorem ReadRun.finish_keeps {M : Mask} {s0 : State} {q : Nat} {c : Cmd} {segs : Segs} {xferOk : Bool} {r : ReadRun} (hM : Sub ⟨0xc0003, 0x100004⟩ M) (hK : Keeps M s0 r.s) :
    Keeps M s0 (ReadRun.finish q c segs xferOk r) := by
  unfold ReadRun.finish
  repeat' first
    | with_reducible assumption
    | ((with_reducible apply hM.of) <;> rfl)
    | with_reducible apply State.sramUeGather_keeps
    | with_reducible apply State.finish_keeps
    | with_reducible apply State.fail_keeps
    | with_reducible apply State.stoCount_keeps
    | with_reducible apply putBlocks_keeps
    | with_reducible apply Keeps.ite
    | (extract_lets +onlyGivenNames x1; with_reducible refine Cut x1 ?_ ?_)
    | (intro _; clear_value x1; revert x1; intro _ _)
    | subst x1
    | (extract_lets +onlyGivenNames x1; subst x1)
    | split
    | dsimp -zeta only

theorem State.read_keeps {M : Mask} {s0 : State} {q : Nat} {c : Cmd} {segs : Segs} {outs : List UnitOut} {xferOk : Bool} {s : State} (hM : Sub ⟨0xc0003, 0x190100204⟩ M) (hK : Keeps M s0 s) :
    Keeps M s0 (State.read q c segs outs xferOk s) := by
  unfold State.read
  repeat' first
    | with_reducible assumption
    | ((with_reducible apply hM.of) <;> rfl)
    | with_reducible apply ReadRun.blocks_keeps
    | with_reducible apply ReadRun.blocks2_keeps
    | with_reducible apply State.fail_keeps
    | with_reducible apply ReadRun.block_keeps
    | with_reducible apply ReadRun.block2_keeps
    | with_reducible apply ReadRun.finish_keeps
    | with_reducible apply Keeps.ite
    | (with_reducible apply Keeps.foldl; intro _ _ _)
    | (extract_lets +onlyGivenNames x1; with_reducible refine Cut x1 ?_ ?_)
    | (intro _; clear_value x1; revert x1; intro _ _)
    | subst x1
    | (extract_lets +onlyGivenNames x1; subst x1)
    | split
    | dsimp -zeta only

theorem execReadBlocks_keeps {M : Mask} {s0 : State} {q : Fin 37} {tag : Half} {segs : Segs} {outs : List UnitOut} {xferOk : Bool} {fixed : Nat} {s : State} (hM : Sub ⟨0xc0003, 0x190100204⟩ M) (hK : Keeps M s0 s) :
    Good M s0 (execReadBlocks q tag segs outs xferOk fixed s) := by
  unfold execReadBlocks
  repeat' first
    | with_reducible assumption
    | ((with_reducible apply hM.of) <;> rfl)
    | with_reducible apply State.sramFixed_keeps
    | with_reducible apply State.read_keeps
    | with_reducible apply Good.ite
    | with_reducible apply Good.next
    | with_reducible apply Keeps.ite
    | split
    | dsimp -zeta only

theorem readCws_keeps {M : Mask} {s0 : State} {reads : List (Nat × UnitOut)} (hM : Sub ⟨0x80003, 0x190100200⟩ M) (l : List Nat) :
    ∀ {s : State}, Keeps M s0 s → Keeps2 M s0 (readCws reads l s) := by
  induction l with
  | nil => exact fun h => Keeps2.mk h
  | cons b r ih =>
    intro s h
    unfold readCws
    repeat' first
      | with_reducible assumption
      | ((with_reducible apply hM.of) <;> rfl)
      | with_reducible apply ih
      | with_reducible apply State.readUnit2_keeps
      | with_reducible apply Keeps2.ite
      | with_reducible apply Keeps.ite
      | (with_reducible apply Keeps3.of; with_reducible assumption)
      | with_reducible apply Keeps3.trd
      | (with_reducible apply Keeps2.of; with_reducible assumption)
      | (extract_lets +onlyGivenNames x1; with_reducible refine Cut x1 ?_ ?_)
      | (intro _; clear_value x1; revert x1; intro _ _)
      | subst x1
      | (extract_lets +onlyGivenNames x1; subst x1)
      | split
      | with_reducible apply Keeps2.mk
      | with_reducible apply Keeps3.mk
      | dsimp -zeta only

theorem State.jrAnswer_keeps {M : Mask} {s0 : State} {q : Nat} {c : Cmd} {segs : Segs} {nodes : BitVec 4096} {unreadable : List Nat} {badTag : List Word} {xferOk : Bool} {s : State} (hM : Sub ⟨0xc0003, 0x100000⟩ M) (hK : Keeps M s0 s) :
    Keeps M s0 (State.jrAnswer q c segs nodes unreadable badTag xferOk s) := by
  unfold State.jrAnswer
  repeat' first
    | with_reducible assumption
    | ((with_reducible apply hM.of) <;> rfl)
    | with_reducible apply hM.bit
    | with_reducible apply State.finish_keeps
    | with_reducible apply State.fail_keeps
    | with_reducible apply State.putBuffer_keeps
    | with_reducible apply State.stoCount_keeps
    | with_reducible apply Keeps.ite
    | (extract_lets +onlyGivenNames x1; with_reducible refine Cut x1 ?_ ?_)
    | (intro _; clear_value x1; revert x1; intro _ _)
    | subst x1
    | (extract_lets +onlyGivenNames x1; subst x1)
    | exact rfl
    | split
    | with_reducible apply Keeps.set_free

theorem State.journalRead_keeps {M : Mask} {s0 : State} {q : Nat} {c : Cmd} {segs : Segs} {nodeset : Option (BitVec 4096)} {reads : List (Nat × UnitOut)} {badTag : List Word} {xferOk : Bool} {sram : SramRead} {s : State} (hM : Sub ⟨0xc0003, 0x190100204⟩ M) (hK : Keeps M s0 s) :
    Keeps M s0 (State.journalRead q c segs nodeset reads badTag xferOk sram s) := by
  unfold State.journalRead
  repeat' first
    | with_reducible assumption
    | ((with_reducible apply hM.of) <;> rfl)
    | with_reducible apply State.freeNat_keeps
    | with_reducible apply State.gatherRead_keeps
    | with_reducible apply State.finish_keeps
    | with_reducible apply State.fail_keeps
    | with_reducible apply readCws_keeps
    | with_reducible apply State.jrAnswer_keeps
    | with_reducible apply Keeps.ite
    | (with_reducible apply Keeps2.of; with_reducible assumption)
    | with_reducible apply Keeps2.snd
    | (extract_lets +onlyGivenNames x1; with_reducible refine Cut x1 ?_ ?_)
    | (intro _; clear_value x1; revert x1; intro _ _)
    | subst x1
    | (extract_lets +onlyGivenNames x1; subst x1)
    | split
    | with_reducible apply Keeps2.mk
    | dsimp -zeta only

theorem execReadJournal_keeps {M : Mask} {s0 : State} {q : Fin 37} {tag : Half} {segs : Segs} {nodeset : Option (BitVec 4096)} {reads : List (Nat × UnitOut)} {badTag : List Word} {xferOk : Bool} {sram : SramRead} {s : State} (hM : Sub ⟨0xc0003, 0x190100204⟩ M) (hK : Keeps M s0 s) :
    Good M s0 (execReadJournal q tag segs nodeset reads badTag xferOk sram s) := by
  unfold execReadJournal
  repeat' first
    | with_reducible assumption
    | ((with_reducible apply hM.of) <;> rfl)
    | with_reducible apply State.journalRead_keeps
    | with_reducible apply Good.ite
    | with_reducible apply Good.next
    | with_reducible apply Keeps.ite
    | split
    | dsimp -zeta only

theorem State.accept_keeps {M : Mask} {s0 : State} {q : Nat} {c : Cmd} {data : List Blk} {s : State} (hM : Sub ⟨0x80003, 0x100000⟩ M) (hK : Keeps M s0 s) :
    Keeps M s0 (State.accept q c data s) := by
  unfold State.accept
  repeat' first
    | with_reducible assumption
    | ((with_reducible apply hM.of) <;> rfl)
    | with_reducible apply State.finish_keeps
    | with_reducible apply State.stoCount_keeps
    | with_reducible apply State.stageUnits_keeps
    | (extract_lets +onlyGivenNames x1; with_reducible refine Cut x1 ?_ ?_)
    | (intro _; clear_value x1; revert x1; intro _ _)
    | subst x1
    | (extract_lets +onlyGivenNames x1; subst x1)
    | split
    | dsimp -zeta only

theorem State.gathered_keeps {M : Mask} {s0 : State} {q : Nat} {c : Cmd} {data : List Blk} {s : State} (hM : Sub ⟨0x1, 0x0⟩ M) (hK : Keeps M s0 s) :
    Keeps M s0 (State.gathered q c data s) := by
  unfold State.gathered
  repeat' first
    | with_reducible assumption
    | ((with_reducible apply hM.of) <;> rfl)
    | with_reducible apply State.modQ_keeps
    | with_reducible apply Keeps.ite
    | split
    | dsimp -zeta only

theorem State.place_keeps {M : Mask} {s0 : State} {q : Nat} {c : Cmd} {data : List Blk} {place : Placement} {s : State} (hM : Sub ⟨0xc0003, 0x10100004⟩ M) (hK : Keeps M s0 s) :
    Keeps M s0 (State.place q c data place s) := by
  unfold State.place
  repeat' first
    | with_reducible assumption
    | ((with_reducible apply hM.of) <;> rfl)
    | with_reducible apply State.freeNat_keeps
    | with_reducible apply State.sramUeGather_keeps
    | with_reducible apply State.fail_keeps
    | with_reducible apply State.stageUnits_keeps
    | with_reducible apply State.stallOver_keeps
    | with_reducible apply State.accept_keeps
    | with_reducible apply State.gathered_keeps
    | with_reducible apply Keeps.ite
    | (with_reducible apply Keeps2.of; with_reducible assumption)
    | with_reducible apply Keeps2.snd
    | (extract_lets +onlyGivenNames x1; with_reducible refine Cut x1 ?_ ?_)
    | (intro _; clear_value x1; revert x1; intro _ _)
    | subst x1
    | (extract_lets +onlyGivenNames x1; subst x1)
    | split
    | with_reducible apply Keeps2.mk
    | dsimp -zeta only

theorem State.write_keeps {M : Mask} {s0 : State} {q : Nat} {c : Cmd} {segs : Segs} {data : Option (List Blk)} {place : Placement} {s : State} (hM : Sub ⟨0xc0003, 0x10100004⟩ M) (hK : Keeps M s0 s) :
    Keeps M s0 (State.write q c segs data place s) := by
  unfold State.write
  repeat' first
    | with_reducible assumption
    | ((with_reducible apply hM.of) <;> rfl)
    | with_reducible apply Wr.STO_STAT
    | ((with_reducible apply hM.reg); decide)
    | with_reducible apply State.flag_keeps
    | with_reducible apply State.post_keeps
    | with_reducible apply State.fail_keeps
    | with_reducible apply State.stallCmd_keeps
    | with_reducible apply State.gathered_keeps
    | with_reducible apply State.place_keeps
    | with_reducible apply Keeps.ite
    | (extract_lets +onlyGivenNames x1; with_reducible refine Cut x1 ?_ ?_)
    | (intro _; clear_value x1; revert x1; intro _ _)
    | subst x1
    | (extract_lets +onlyGivenNames x1; subst x1)
    | exact rfl
    | split
    | dsimp -zeta only

theorem execWriteBlocks_keeps {M : Mask} {s0 : State} {q : Fin 37} {tag : Half} {segs : Segs} {data : Option (List Blk)} {place : Placement} {fixed : Nat} {s : State} (hM : Sub ⟨0xc0003, 0x10100004⟩ M) (hK : Keeps M s0 s) :
    Good M s0 (execWriteBlocks q tag segs data place fixed s) := by
  unfold execWriteBlocks
  repeat' first
    | with_reducible assumption
    | ((with_reducible apply hM.of) <;> rfl)
    | with_reducible apply State.sramFixed_keeps
    | with_reducible apply State.write_keeps
    | with_reducible apply Good.ite
    | with_reducible apply Good.next
    | with_reducible apply Keeps.ite
    | split
    | dsimp -zeta only

theorem State.ckptFailed_keeps {M : Mask} {s0 : State} {slot : Nat} {ok : Bool} {s : State} (hM : Sub ⟨0x80003, 0x10100000⟩ M) (hK : Keeps M s0 s) :
    Keeps M s0 (State.ckptFailed slot ok s) := by
  unfold State.ckptFailed
  repeat' first
    | with_reducible assumption
    | ((with_reducible apply hM.of) <;> rfl)
    | with_reducible apply Wr.STO_STAT
    | ((with_reducible apply hM.reg); decide)
    | with_reducible apply hM.bit
    | with_reducible apply State.flag_keeps
    | with_reducible apply State.post_keeps
    | with_reducible apply Keeps.ite
    | (extract_lets +onlyGivenNames x1; with_reducible refine Cut x1 ?_ ?_)
    | (intro _; clear_value x1; revert x1; intro _ _)
    | subst x1
    | (extract_lets +onlyGivenNames x1; subst x1)
    | exact rfl
    | split
    | with_reducible apply Keeps.set_store

theorem State.wipeResume_keeps {M : Mask} {s0 : State} {s : State} (hM : Sub ⟨0xc0032, 0x15000000c180000000⟩ M) (hK : Keeps M s0 s) :
    Keeps M s0 (State.wipeResume s) := by
  unfold State.wipeResume
  repeat' first
    | with_reducible assumption
    | ((with_reducible apply hM.of) <;> rfl)
    | with_reducible apply State.wipeStore_keeps
    | with_reducible apply Keeps.ite
    | split
    | dsimp -zeta only

theorem State.storeUp_keeps {M : Mask} {s0 : State} {s : State} (hM : Sub ⟨0xc0033, 0x4800000000000000000015000000f390100200⟩ M) (hK : Keeps M s0 s) :
    Keeps M s0 (State.storeUp s) := by
  unfold State.storeUp
  repeat' first
    | with_reducible assumption
    | ((with_reducible apply hM.of) <;> rfl)
    | with_reducible apply Wr.STO_STAT
    | with_reducible apply Wr.HLT_EVER
    | with_reducible apply Wr.HLT_CNT
    | ((with_reducible apply hM.reg); decide)
    | with_reducible apply State.wr_keeps
    | with_reducible apply State.wf_keeps
    | with_reducible apply State.flag_keeps
    | with_reducible apply State.showHealth_keeps
    | with_reducible apply State.showDies_keeps
    | with_reducible apply State.regrowStart_keeps
    | with_reducible apply State.showRegrowth_keeps
    | with_reducible apply State.jnlRestart_keeps
    | with_reducible apply State.keyShow_keeps
    | with_reducible apply State.wipeResume_keeps
    | (extract_lets +onlyGivenNames x1; with_reducible refine Cut x1 ?_ ?_)
    | (intro _; clear_value x1; revert x1; intro _ _)
    | subst x1
    | (extract_lets +onlyGivenNames x1; subst x1)
    | exact rfl
    | split
    | dsimp -zeta only

theorem execStoreReady_keeps {M : Mask} {s0 : State} {aOk bOk : Bool} {extra : Nat} {s : State} (hM : Sub ⟨0xc0033, 0x4800000000000000000015000000f390100200⟩ M) (hK : Keeps M s0 s) :
    Good M s0 (execStoreReady aOk bOk extra s) := by
  unfold execStoreReady
  repeat' first
    | with_reducible assumption
    | ((with_reducible apply hM.of) <;> rfl)
    | with_reducible apply Wr.STO_STAT
    | ((with_reducible apply hM.reg); decide)
    | with_reducible apply hM.bit
    | with_reducible apply State.wb_keeps
    | with_reducible apply State.freeNat_keeps
    | with_reducible apply State.post_keeps
    | with_reducible apply State.genMissing_keeps
    | with_reducible apply State.ckptFailed_keeps
    | with_reducible apply State.storeUp_keeps
    | with_reducible apply Good.ite
    | with_reducible apply Good.next
    | with_reducible apply Keeps.ite
    | (with_reducible apply Keeps2.of; with_reducible assumption)
    | with_reducible apply Keeps2.snd
    | (extract_lets +onlyGivenNames x1; with_reducible refine Cut x1 ?_ ?_)
    | (intro _; clear_value x1; revert x1; intro _ _)
    | subst x1
    | (extract_lets +onlyGivenNames x1; subst x1)
    | exact rfl
    | split
    | with_reducible apply Keeps.set_store
    | with_reducible apply Keeps2.mk

theorem execMapScanned_keeps {M : Mask} {s0 : State} {unreadable : List Nat} {s : State} (hM : Sub ⟨0x80002, 0x190000200⟩ M) (hK : Keeps M s0 s) :
    Good M s0 (execMapScanned unreadable s) := by
  unfold execMapScanned
  repeat' first
    | with_reducible assumption
    | ((with_reducible apply hM.of) <;> rfl)
    | with_reducible apply Wr.STO_STAT
    | ((with_reducible apply hM.reg); decide)
    | with_reducible apply hM.bit
    | with_reducible apply State.wb_keeps
    | with_reducible apply State.regrowStart_keeps
    | with_reducible apply State.showRegrowth_keeps
    | with_reducible apply Good.ite
    | with_reducible apply Good.next
    | with_reducible apply Keeps.ite
    | (extract_lets +onlyGivenNames x1; with_reducible refine Cut x1 ?_ ?_)
    | (intro _; clear_value x1; revert x1; intro _ _)
    | subst x1
    | (extract_lets +onlyGivenNames x1; subst x1)
    | exact rfl
    | split
    | with_reducible apply Keeps.set_store

theorem execPfailnRise_keeps {M : Mask} {s0 : State} {us : Word} {s : State} (hM : Sub ⟨0xc0833, 0x15000000c190100000⟩ M) (hK : Keeps M s0 s) :
    Good M s0 (execPfailnRise us s) := by
  unfold execPfailnRise
  repeat' first
    | with_reducible assumption
    | ((with_reducible apply hM.of) <;> rfl)
    | with_reducible apply Wr.STO_STAT
    | ((with_reducible apply hM.reg); decide)
    | with_reducible apply hM.bit
    | with_reducible apply State.wb_keeps
    | with_reducible apply State.flag_keeps
    | with_reducible apply State.post_keeps
    | with_reducible apply State.closeOpened_keeps
    | with_reducible apply State.wipeResume_keeps
    | with_reducible apply Good.ite
    | with_reducible apply Good.next
    | with_reducible apply Keeps.ite
    | (extract_lets +onlyGivenNames x1; with_reducible refine Cut x1 ?_ ?_)
    | (intro _; clear_value x1; revert x1; intro _ _)
    | subst x1
    | (extract_lets +onlyGivenNames x1; subst x1)
    | exact rfl
    | split
    | with_reducible apply Keeps.set_power

end Sys2Proof.Machine
end

