-- ==== Sys2Proof/Laws/KeepsRadio.lean ====
section
/-! SUPPORT. What each operation of Machine/Radio.lean keeps (Laws/Keeps.lean says what that means). -/

namespace Sys2Proof.Machine

theorem State.setChain_keeps {M : Mask} {s0 : State} {c : Chain} {x : ChainState} {s : State} (hM : Sub ⟨0x4, 0x0⟩ M) (hK : Keeps M s0 s) :
    Keeps M s0 (State.setChain c x s) := by
  unfold State.setChain
  repeat' first
    | with_reducible assumption
    | ((with_reducible apply hM.of) <;> rfl)
    | with_reducible apply hM.bit
    | exact rfl
    | split
    | with_reducible apply Keeps.set_radio

theorem State.force_keeps {M : Mask} {s0 : State} {a : Nat} {s : State} (hM : Sub ⟨0x4, 0x0⟩ M) (hK : Keeps M s0 s) :
    Keeps M s0 (State.force a s) := by
  unfold State.force
  repeat' first
    | with_reducible assumption
    | ((with_reducible apply hM.of) <;> rfl)
    | with_reducible apply hM.bit
    | exact rfl
    | split
    | with_reducible apply Keeps.set_radio

theorem State.forceLead_keeps {M : Mask} {s0 : State} {n : Nat} {s : State} (hM : Sub ⟨0x80004, 0x10000000000000⟩ M) (hK : Keeps M s0 s) :
    Keeps M s0 (State.forceLead n s) := by
  unfold State.forceLead
  repeat' first
    | with_reducible assumption
    | ((with_reducible apply hM.of) <;> rfl)
    | with_reducible apply Wr.RFS_TYMCNT
    | ((with_reducible apply hM.reg); decide)
    | with_reducible apply State.wr_keeps
    | with_reducible apply State.force_keeps
    | with_reducible apply Keeps.ite
    | (extract_lets +onlyGivenNames x1; with_reducible refine Cut x1 ?_ ?_)
    | (intro _; clear_value x1; revert x1; intro _ _)
    | subst x1
    | (extract_lets +onlyGivenNames x1; subst x1)
    | exact rfl
    | split
    | dsimp -zeta only

theorem State.setRx_keeps {M : Mask} {s0 : State} {ch : RxChan} {v : RxState} {s : State} (hM : Sub ⟨0x4, 0x0⟩ M) (hK : Keeps M s0 s) :
    Keeps M s0 (State.setRx ch v s) := by
  unfold State.setRx
  repeat' first
    | with_reducible assumption
    | ((with_reducible apply hM.of) <;> rfl)
    | with_reducible apply State.setChain_keeps
    | (extract_lets +onlyGivenNames x1; with_reducible refine Cut x1 ?_ ?_)
    | (intro _; clear_value x1; revert x1; intro _ _)
    | subst x1
    | (extract_lets +onlyGivenNames x1; subst x1)
    | split
    | dsimp -zeta only

theorem State.ch24Now_keeps {M : Mask} {s0 : State} {s : State} (hM : Sub ⟨0x4, 0x0⟩ M) (hK : Keeps M s0 s) :
    Keeps M s0 (State.ch24Now s) := by
  unfold State.ch24Now
  repeat' first
    | with_reducible assumption
    | ((with_reducible apply hM.of) <;> rfl)
    | with_reducible apply hM.bit
    | exact rfl
    | split
    | with_reducible apply Keeps.set_radio

theorem State.blank_keeps {M : Mask} {s0 : State} {c : Chain} {s : State} (hM : Sub ⟨0x80004, 0x40000000000⟩ M) (hK : Keeps M s0 s) :
    Keeps M s0 (State.blank c s) := by
  unfold State.blank
  repeat' first
    | with_reducible assumption
    | ((with_reducible apply hM.of) <;> rfl)
    | with_reducible apply Wr.RFS_STAT
    | ((with_reducible apply hM.reg); decide)
    | with_reducible apply State.wb_keeps
    | with_reducible apply State.radioCount_keeps
    | with_reducible apply State.setChain_keeps
    | (extract_lets +onlyGivenNames x1; with_reducible refine Cut x1 ?_ ?_)
    | (intro _; clear_value x1; revert x1; intro _ _)
    | subst x1
    | (extract_lets +onlyGivenNames x1; subst x1)
    | exact rfl
    | split
    | dsimp -zeta only

theorem State.unblank_keeps {M : Mask} {s0 : State} {c : Chain} {s : State} (hM : Sub ⟨0x80004, 0x40000000000⟩ M) (hK : Keeps M s0 s) :
    Keeps M s0 (State.unblank c s) := by
  unfold State.unblank
  repeat' first
    | with_reducible assumption
    | ((with_reducible apply hM.of) <;> rfl)
    | with_reducible apply Wr.RFS_STAT
    | ((with_reducible apply hM.reg); decide)
    | with_reducible apply State.wb_keeps
    | with_reducible apply State.setChain_keeps
    | (extract_lets +onlyGivenNames x1; with_reducible refine Cut x1 ?_ ?_)
    | (intro _; clear_value x1; revert x1; intro _ _)
    | subst x1
    | (extract_lets +onlyGivenNames x1; subst x1)
    | exact rfl
    | split
    | dsimp -zeta only

theorem State.calShow_keeps {M : Mask} {s0 : State} {s : State} (hM : Sub ⟨0x80000, 0x800000000000⟩ M) (hK : Keeps M s0 s) :
    Keeps M s0 (State.calShow s) := by
  unfold State.calShow
  repeat' first
    | with_reducible assumption
    | ((with_reducible apply hM.of) <;> rfl)
    | with_reducible apply Wr.RFS_CAL
    | ((with_reducible apply hM.reg); decide)
    | with_reducible apply State.wf_keeps
    | with_reducible apply State.wb_keeps
    | with_reducible apply Keeps.ite
    | (extract_lets +onlyGivenNames x1; with_reducible refine Cut x1 ?_ ?_)
    | (intro _; clear_value x1; revert x1; intro _ _)
    | subst x1
    | (extract_lets +onlyGivenNames x1; subst x1)
    | exact rfl
    | split
    | dsimp -zeta only

theorem State.calStart_keeps {M : Mask} {s0 : State} {c : Chain} {s : State} (hM : Sub ⟨0x80004, 0x840000000000⟩ M) (hK : Keeps M s0 s) :
    Keeps M s0 (State.calStart c s) := by
  unfold State.calStart
  repeat' first
    | with_reducible assumption
    | ((with_reducible apply hM.of) <;> rfl)
    | with_reducible apply State.setChain_keeps
    | with_reducible apply State.ch24Now_keeps
    | with_reducible apply State.blank_keeps
    | with_reducible apply State.calShow_keeps
    | with_reducible apply Keeps.ite
    | (extract_lets +onlyGivenNames x1; with_reducible refine Cut x1 ?_ ?_)
    | (intro _; clear_value x1; revert x1; intro _ _)
    | subst x1
    | (extract_lets +onlyGivenNames x1; subst x1)
    | split
    | dsimp -zeta only

theorem State.calPoll_keeps {M : Mask} {s0 : State} {c : Chain} {s : State} (hM : Sub ⟨0x80004, 0x840000000000⟩ M) (hK : Keeps M s0 s) :
    Keeps M s0 (State.calPoll c s) := by
  unfold State.calPoll
  repeat' first
    | with_reducible assumption
    | ((with_reducible apply hM.of) <;> rfl)
    | with_reducible apply State.calStart_keeps
    | with_reducible apply Keeps.ite
    | (extract_lets +onlyGivenNames x1; with_reducible refine Cut x1 ?_ ?_)
    | (intro _; clear_value x1; revert x1; intro _ _)
    | subst x1
    | (extract_lets +onlyGivenNames x1; subst x1)
    | split
    | dsimp -zeta only

theorem State.calRequest_keeps {M : Mask} {s0 : State} {c : Chain} {rx tx : Bool} {s : State} (hM : Sub ⟨0x80004, 0x840000000000⟩ M) (hK : Keeps M s0 s) :
    Keeps M s0 (State.calRequest c rx tx s) := by
  unfold State.calRequest
  repeat' first
    | with_reducible assumption
    | ((with_reducible apply hM.of) <;> rfl)
    | with_reducible apply State.setChain_keeps
    | with_reducible apply State.calShow_keeps
    | with_reducible apply State.calPoll_keeps
    | with_reducible apply Keeps.ite
    | (extract_lets +onlyGivenNames x1; with_reducible refine Cut x1 ?_ ?_)
    | (intro _; clear_value x1; revert x1; intro _ _)
    | subst x1
    | (extract_lets +onlyGivenNames x1; subst x1)
    | split
    | dsimp -zeta only

theorem State.calForce_keeps {M : Mask} {s0 : State} {c : Chain} {s : State} (hM : Sub ⟨0x80004, 0x840000000000⟩ M) (hK : Keeps M s0 s) :
    Keeps M s0 (State.calForce c s) := by
  unfold State.calForce
  repeat' first
    | with_reducible assumption
    | ((with_reducible apply hM.of) <;> rfl)
    | with_reducible apply State.setChain_keeps
    | with_reducible apply State.calShow_keeps
    | with_reducible apply State.calPoll_keeps
    | with_reducible apply Keeps.ite
    | (extract_lets +onlyGivenNames x1; with_reducible refine Cut x1 ?_ ?_)
    | (intro _; clear_value x1; revert x1; intro _ _)
    | subst x1
    | (extract_lets +onlyGivenNames x1; subst x1)
    | split
    | dsimp -zeta only

theorem State.calClamp_keeps {M : Mask} {s0 : State} {r : CalResult} {s : State} (hM : Sub ⟨0x80000, 0x2000000000000⟩ M) (hK : Keeps M s0 s) :
    Keeps M s0 (State.calClamp r s) := by
  unfold State.calClamp
  repeat' first
    | with_reducible assumption
    | ((with_reducible apply hM.of) <;> rfl)
    | with_reducible apply Wr.RFS_PCLAMP
    | ((with_reducible apply hM.reg); decide)
    | with_reducible apply State.wf_keeps
    | with_reducible apply Keeps.ite
    | (extract_lets +onlyGivenNames x1; with_reducible refine Cut x1 ?_ ?_)
    | (intro _; clear_value x1; revert x1; intro _ _)
    | subst x1
    | (extract_lets +onlyGivenNames x1; subst x1)
    | exact rfl
    | split
    | dsimp -zeta only

theorem State.calStat_keeps {M : Mask} {s0 : State} {x : ChainState} {r : CalResult} {first run : Nat} {s : State} (hM : Sub ⟨0x80000, 0x3000000000000⟩ M) (hK : Keeps M s0 s) :
    Keeps M s0 (State.calStat x r first run s) := by
  unfold State.calStat
  repeat' first
    | with_reducible assumption
    | ((with_reducible apply hM.of) <;> rfl)
    | with_reducible apply Wr.RFS_CALSTAT
    | ((with_reducible apply hM.reg); decide)
    | with_reducible apply State.wf_keeps
    | with_reducible apply State.wb_keeps
    | with_reducible apply State.calClamp_keeps
    | with_reducible apply Keeps.ite
    | (extract_lets +onlyGivenNames x1; with_reducible refine Cut x1 ?_ ?_)
    | (intro _; clear_value x1; revert x1; intro _ _)
    | subst x1
    | (extract_lets +onlyGivenNames x1; subst x1)
    | exact rfl
    | split
    | dsimp -zeta only

theorem State.calDone_keeps {M : Mask} {s0 : State} {c : Chain} {r : CalResult} {s : State} (hM : Sub ⟨0x80005, 0x40000000000000000000000003840000100000⟩ M) (hK : Keeps M s0 s) :
    Keeps M s0 (State.calDone c r s) := by
  unfold State.calDone
  repeat' first
    | with_reducible assumption
    | ((with_reducible apply hM.of) <;> rfl)
    | with_reducible apply Wr.HLT_CNT
    | ((with_reducible apply hM.reg); decide)
    | with_reducible apply State.wf_keeps
    | with_reducible apply State.post_keeps
    | with_reducible apply State.radioCount_keeps
    | with_reducible apply State.setChain_keeps
    | with_reducible apply State.unblank_keeps
    | with_reducible apply State.calShow_keeps
    | with_reducible apply State.calPoll_keeps
    | with_reducible apply State.calStat_keeps
    | with_reducible apply Keeps.ite
    | (extract_lets +onlyGivenNames x1; with_reducible refine Cut x1 ?_ ?_)
    | (intro _; clear_value x1; revert x1; intro _ _)
    | subst x1
    | (extract_lets +onlyGivenNames x1; subst x1)
    | exact rfl
    | split
    | dsimp -zeta only

theorem execCalComplete_keeps {M : Mask} {s0 : State} {chain : Chain} {r : CalResult} {s : State} (hM : Sub ⟨0x80005, 0x40000000000000000000000003840000100000⟩ M) (hK : Keeps M s0 s) :
    Good M s0 (execCalComplete chain r s) := by
  unfold execCalComplete
  repeat' first
    | with_reducible assumption
    | ((with_reducible apply hM.of) <;> rfl)
    | with_reducible apply State.calDone_keeps
    | with_reducible apply Good.ite
    | with_reducible apply Good.next
    | with_reducible apply Keeps.ite
    | split
    | dsimp -zeta only

theorem execCalNoschedTimeout_keeps {M : Mask} {s0 : State} {chain : Chain} {s : State} (hM : Sub ⟨0x80004, 0x840000000000⟩ M) (hK : Keeps M s0 s) :
    Good M s0 (execCalNoschedTimeout chain s) := by
  unfold execCalNoschedTimeout
  repeat' first
    | with_reducible assumption
    | ((with_reducible apply hM.of) <;> rfl)
    | with_reducible apply State.calForce_keeps
    | with_reducible apply Good.ite
    | with_reducible apply Good.next
    | with_reducible apply Keeps.ite
    | split
    | dsimp -zeta only

theorem execCalWakeTimeout_keeps {M : Mask} {s0 : State} {s : State} (hM : Sub ⟨0x80004, 0x840000000000⟩ M) (hK : Keeps M s0 s) :
    Good M s0 (execCalWakeTimeout s) := by
  unfold execCalWakeTimeout
  repeat' first
    | with_reducible assumption
    | ((with_reducible apply hM.of) <;> rfl)
    | with_reducible apply hM.bit
    | with_reducible apply State.calRequest_keeps
    | with_reducible apply Good.ite
    | with_reducible apply Good.next
    | with_reducible apply Keeps.ite
    | exact rfl
    | split
    | with_reducible apply Keeps.set_radio

theorem State.tempCal_keeps {M : Mask} {s0 : State} {s : State} (hM : Sub ⟨0x80004, 0x840000000000⟩ M) (hK : Keeps M s0 s) :
    Keeps M s0 (State.tempCal s) := by
  unfold State.tempCal
  repeat' first
    | with_reducible assumption
    | ((with_reducible apply hM.of) <;> rfl)
    | with_reducible apply State.calRequest_keeps
    | with_reducible apply Keeps.ite
    | (extract_lets +onlyGivenNames x1; with_reducible refine Cut x1 ?_ ?_)
    | (intro _; clear_value x1; revert x1; intro _ _)
    | subst x1
    | (extract_lets +onlyGivenNames x1; subst x1)
    | split
    | dsimp -zeta only

theorem State.applyOne_keeps {M : Mask} {s0 : State} {s : State} {n : Nat} (hM : Sub ⟨0x80004, 0x10000000000000⟩ M) (hK : Keeps M s0 s) :
    Keeps M s0 (State.applyOne s n) := by
  unfold State.applyOne
  repeat' first
    | with_reducible assumption
    | ((with_reducible apply hM.of) <;> rfl)
    | with_reducible apply hM.bit
    | with_reducible apply State.forceLead_keeps
    | (extract_lets +onlyGivenNames x1; with_reducible refine Cut x1 ?_ ?_)
    | (intro _; clear_value x1; revert x1; intro _ _)
    | subst x1
    | (extract_lets +onlyGivenNames x1; subst x1)
    | exact rfl
    | split
    | with_reducible apply Keeps.set_radio

theorem State.applyLead_keeps {M : Mask} {s0 : State} {n : Nat} {s : State} (hM : Sub ⟨0x80004, 0x10000000000000⟩ M) (hK : Keeps M s0 s) :
    Keeps M s0 (State.applyLead n s) := by
  unfold State.applyLead
  repeat' first
    | with_reducible assumption
    | ((with_reducible apply hM.of) <;> rfl)
    | with_reducible apply State.applyOne_keeps
    | (with_reducible apply Keeps.foldl; intro _ _ _)
    | split
    | dsimp -zeta only

theorem State.applyWin_keeps {M : Mask} {s0 : State} {s : State} (hM : Sub ⟨0x4, 0x0⟩ M) (hK : Keeps M s0 s) :
    Keeps M s0 (State.applyWin s) := by
  unfold State.applyWin
  repeat' first
    | with_reducible assumption
    | ((with_reducible apply hM.of) <;> rfl)
    | with_reducible apply hM.bit
    | with_reducible apply State.force_keeps
    | exact rfl
    | split
    | with_reducible apply Keeps.set_radio

theorem State.applyProgress_keeps {M : Mask} {s0 : State} {s : State} (hM : Sub ⟨0x80004, 0x40000000000⟩ M) (hK : Keeps M s0 s) :
    Keeps M s0 (State.applyProgress s) := by
  unfold State.applyProgress
  repeat' first
    | with_reducible assumption
    | ((with_reducible apply hM.of) <;> rfl)
    | with_reducible apply Wr.RFS_STAT
    | ((with_reducible apply hM.reg); decide)
    | with_reducible apply State.wb_keeps
    | with_reducible apply State.applyWin_keeps
    | with_reducible apply Keeps.ite
    | (extract_lets +onlyGivenNames x1; with_reducible refine Cut x1 ?_ ?_)
    | (intro _; clear_value x1; revert x1; intro _ _)
    | subst x1
    | (extract_lets +onlyGivenNames x1; subst x1)
    | exact rfl
    | split
    | dsimp -zeta only

theorem State.restage_keeps {M : Mask} {s0 : State} {s : State} (hM : Sub ⟨0x80000, 0x4080000000000⟩ M) (hK : Keeps M s0 s) :
    Keeps M s0 (State.restage s) := by
  unfold State.restage
  repeat' first
    | with_reducible assumption
    | ((with_reducible apply hM.of) <;> rfl)
    | with_reducible apply Wr.RFS_WIN
    | with_reducible apply Wr.RFS_TYMCFG
    | ((with_reducible apply hM.reg); decide)
    | with_reducible apply State.wr_keeps
    | (with_reducible apply Keeps.foldl; intro _ _ _)
    | exact rfl
    | split
    | dsimp -zeta only

theorem State.applyGo_keeps {M : Mask} {s0 : State} {wait : Bool} {s : State} (hM : Sub ⟨0x80005, 0x140c0000100000⟩ M) (hK : Keeps M s0 s) :
    Keeps M s0 (State.applyGo wait s) := by
  unfold State.applyGo
  repeat' first
    | with_reducible assumption
    | ((with_reducible apply hM.of) <;> rfl)
    | with_reducible apply Wr.RFS_STAT
    | ((with_reducible apply hM.reg); decide)
    | with_reducible apply hM.bit
    | with_reducible apply State.wf_keeps
    | with_reducible apply State.flag_keeps
    | with_reducible apply State.post_keeps
    | with_reducible apply State.radioCount_keeps
    | with_reducible apply State.applyOne_keeps
    | with_reducible apply State.applyLead_keeps
    | with_reducible apply State.applyWin_keeps
    | with_reducible apply State.applyProgress_keeps
    | with_reducible apply State.restage_keeps
    | with_reducible apply Keeps.ite
    | (with_reducible apply Keeps.foldl; intro _ _ _)
    | (extract_lets +onlyGivenNames x1; with_reducible refine Cut x1 ?_ ?_)
    | (intro _; clear_value x1; revert x1; intro _ _)
    | subst x1
    | (extract_lets +onlyGivenNames x1; subst x1)
    | exact rfl
    | split
    | with_reducible apply Keeps.set_radio

theorem State.rfsApply_keeps {M : Mask} {s0 : State} {w : Word} {s : State} (hM : Sub ⟨0x80005, 0x148c0000100000⟩ M) (hK : Keeps M s0 s) :
    Keeps M s0 (State.rfsApply w s) := by
  unfold State.rfsApply
  repeat' first
    | with_reducible assumption
    | ((with_reducible apply hM.of) <;> rfl)
    | with_reducible apply Wr.RFS_STAT
    | ((with_reducible apply hM.reg); decide)
    | with_reducible apply State.flag_keeps
    | with_reducible apply State.calPoll_keeps
    | with_reducible apply State.applyGo_keeps
    | with_reducible apply Keeps.ite
    | exact rfl
    | split
    | dsimp -zeta only

theorem State.rfsStage_keeps {M : Mask} {s0 : State} {a : Nat} {w : Word} {s : State} (hM : Sub ⟨0x80000, 0x40000000000⟩ M) (hW : Wr M.r a) (hB : WrBad M.r a)
    (hK : Keeps M s0 s) :
    Keeps M s0 (State.rfsStage a w s) := by
  unfold State.rfsStage
  repeat' first
    | with_reducible assumption
    | ((with_reducible apply hM.of) <;> rfl)
    | with_reducible apply Wr.RFS_STAT
    | ((with_reducible apply hM.reg); decide)
    | with_reducible apply State.flag_keeps
    | with_reducible apply State.writeReg_keeps
    | with_reducible apply Keeps.ite
    | exact rfl
    | split
    | dsimp -zeta only

theorem execApplyTakesEffect_keeps {M : Mask} {s0 : State} {lead : Fin 16} {s : State} (hM : Sub ⟨0x80004, 0x10840000000000⟩ M) (hK : Keeps M s0 s) :
    Good M s0 (execApplyTakesEffect lead s) := by
  unfold execApplyTakesEffect
  repeat' first
    | with_reducible assumption
    | ((with_reducible apply hM.of) <;> rfl)
    | with_reducible apply State.calPoll_keeps
    | with_reducible apply State.applyLead_keeps
    | with_reducible apply State.applyProgress_keeps
    | with_reducible apply Good.ite
    | with_reducible apply Good.next
    | with_reducible apply Keeps.ite
    | (extract_lets +onlyGivenNames x1; with_reducible refine Cut x1 ?_ ?_)
    | (intro _; clear_value x1; revert x1; intro _ _)
    | subst x1
    | (extract_lets +onlyGivenNames x1; subst x1)
    | split
    | dsimp -zeta only

theorem execRxRelockDone_keeps {M : Mask} {s0 : State} {s : State} (hM : Sub ⟨0x80004, 0x840000000000⟩ M) (hK : Keeps M s0 s) :
    Good M s0 (execRxRelockDone s) := by
  unfold execRxRelockDone
  repeat' first
    | with_reducible assumption
    | ((with_reducible apply hM.of) <;> rfl)
    | with_reducible apply hM.bit
    | with_reducible apply State.calPoll_keeps
    | with_reducible apply State.applyProgress_keeps
    | with_reducible apply Good.ite
    | with_reducible apply Good.next
    | with_reducible apply Keeps.ite
    | exact rfl
    | split
    | with_reducible apply Keeps.set_radio

theorem execDetectionStart_keeps {M : Mask} {s0 : State} {ch : RxChan} {s : State} (hM : Sub ⟨0x4, 0x0⟩ M) (hK : Keeps M s0 s) :
    Good M s0 (execDetectionStart ch s) := by
  unfold execDetectionStart
  repeat' first
    | with_reducible assumption
    | ((with_reducible apply hM.of) <;> rfl)
    | with_reducible apply State.setRx_keeps
    | with_reducible apply Good.ite
    | with_reducible apply Good.next
    | with_reducible apply Keeps.ite
    | split
    | dsimp -zeta only

theorem execQualifierPass_keeps {M : Mask} {s0 : State} {ch : RxChan} {s : State} (hM : Sub ⟨0x4, 0x0⟩ M) (hK : Keeps M s0 s) :
    Good M s0 (execQualifierPass ch s) := by
  unfold execQualifierPass
  repeat' first
    | with_reducible assumption
    | ((with_reducible apply hM.of) <;> rfl)
    | with_reducible apply State.setRx_keeps
    | with_reducible apply Good.ite
    | with_reducible apply Good.next
    | with_reducible apply Keeps.ite
    | split
    | dsimp -zeta only

theorem execFalseDetection_keeps {M : Mask} {s0 : State} {ch : RxChan} {s : State} (hM : Sub ⟨0x80004, 0x110840000000000⟩ M) (hK : Keeps M s0 s) :
    Good M s0 (execFalseDetection ch s) := by
  unfold execFalseDetection
  repeat' first
    | with_reducible assumption
    | ((with_reducible apply hM.of) <;> rfl)
    | with_reducible apply Wr.RFS_TYMCNT
    | with_reducible apply Wr.RF2_STAT
    | ((with_reducible apply hM.reg); decide)
    | with_reducible apply State.count_keeps
    | with_reducible apply State.setRx_keeps
    | with_reducible apply State.calPoll_keeps
    | with_reducible apply Good.ite
    | with_reducible apply Good.next
    | with_reducible apply Keeps.ite
    | (extract_lets +onlyGivenNames x1; with_reducible refine Cut x1 ?_ ?_)
    | (intro _; clear_value x1; revert x1; intro _ _)
    | subst x1
    | (extract_lets +onlyGivenNames x1; subst x1)
    | exact rfl
    | split
    | dsimp -zeta only

theorem State.timerTo_keeps {M : Mask} {s0 : State} {t : Word} {s : State} (hM : Sub ⟨0x8, 0x0⟩ M) (hK : Keeps M s0 s) :
    Keeps M s0 (State.timerTo t s) := by
  unfold State.timerTo
  repeat' first
    | with_reducible assumption
    | ((with_reducible apply hM.of) <;> rfl)
    | with_reducible apply hM.bit
    | with_reducible apply Keeps.ite
    | exact rfl
    | split
    | with_reducible apply Keeps.set_mac

theorem execFrameDecoded_keeps {M : Mask} {s0 : State} {ch : RxChan} {r : Decode} {s : State} (hM : Sub ⟨0x8000c, 0x10840000000000⟩ M) (hK : Keeps M s0 s) :
    Good M s0 (execFrameDecoded ch r s) := by
  unfold execFrameDecoded
  repeat' first
    | with_reducible assumption
    | ((with_reducible apply hM.of) <;> rfl)
    | with_reducible apply Wr.RFS_TYMCNT
    | ((with_reducible apply hM.reg); decide)
    | with_reducible apply hM.bit
    | with_reducible apply State.count_keeps
    | with_reducible apply State.radioCount_keeps
    | with_reducible apply State.setRx_keeps
    | with_reducible apply State.ch24Now_keeps
    | with_reducible apply State.calPoll_keeps
    | with_reducible apply State.timerTo_keeps
    | with_reducible apply Good.ite
    | with_reducible apply Good.next
    | with_reducible apply Keeps.ite
    | (extract_lets +onlyGivenNames x1; with_reducible refine Cut x1 ?_ ?_)
    | (intro _; clear_value x1; revert x1; intro _ _)
    | subst x1
    | (extract_lets +onlyGivenNames x1; subst x1)
    | exact rfl
    | split
    | with_reducible apply Keeps.set_mac

theorem execAgcStep_keeps {M : Mask} {s0 : State} {up : Bool} {s : State} (hM : Sub ⟨0x4, 0x0⟩ M) (hK : Keeps M s0 s) :
    Good M s0 (execAgcStep up s) := by
  unfold execAgcStep
  repeat' first
    | with_reducible assumption
    | ((with_reducible apply hM.of) <;> rfl)
    | with_reducible apply hM.bit
    | with_reducible apply State.radioCount_keeps
    | with_reducible apply Good.ite
    | with_reducible apply Good.next
    | with_reducible apply Keeps.ite
    | (extract_lets +onlyGivenNames x1; with_reducible refine Cut x1 ?_ ?_)
    | (intro _; clear_value x1; revert x1; intro _ _)
    | subst x1
    | (extract_lets +onlyGivenNames x1; subst x1)
    | exact rfl
    | split
    | with_reducible apply Keeps.set_radio

theorem State.energyStart_keeps {M : Mask} {s0 : State} {ch : RxChan} {s : State} (hM : Sub ⟨0x4, 0x0⟩ M) (hK : Keeps M s0 s) :
    Keeps M s0 (State.energyStart ch s) := by
  unfold State.energyStart
  repeat' first
    | with_reducible assumption
    | ((with_reducible apply hM.of) <;> rfl)
    | with_reducible apply State.radioCount_keeps
    | with_reducible apply State.setChain_keeps
    | with_reducible apply Keeps.ite
    | (extract_lets +onlyGivenNames x1; with_reducible refine Cut x1 ?_ ?_)
    | (intro _; clear_value x1; revert x1; intro _ _)
    | subst x1
    | (extract_lets +onlyGivenNames x1; subst x1)
    | split
    | dsimp -zeta only

theorem execEnergyDetect_keeps {M : Mask} {s0 : State} {ch : RxChan} {s : State} (hM : Sub ⟨0x4, 0x0⟩ M) (hK : Keeps M s0 s) :
    Good M s0 (execEnergyDetect ch s) := by
  unfold execEnergyDetect
  repeat' first
    | with_reducible assumption
    | ((with_reducible apply hM.of) <;> rfl)
    | with_reducible apply State.energyStart_keeps
    | with_reducible apply Good.next
    | split
    | dsimp -zeta only

theorem State.loLost_keeps {M : Mask} {s0 : State} {c : Chain} {s : State} (hM : Sub ⟨0x80000, 0x100040000000000⟩ M) (hK : Keeps M s0 s) :
    Keeps M s0 (State.loLost c s) := by
  unfold State.loLost
  repeat' first
    | with_reducible assumption
    | ((with_reducible apply hM.of) <;> rfl)
    | with_reducible apply Wr.RFS_STAT
    | with_reducible apply Wr.RF2_STAT
    | ((with_reducible apply hM.reg); decide)
    | with_reducible apply State.wb_keeps
    | exact rfl
    | split
    | dsimp -zeta only

theorem State.strobe_keeps {M : Mask} {s0 : State} {t : TxReq} {s : State} (hM : Sub ⟨0x80804, 0x100040000000000⟩ M) (hK : Keeps M s0 s) :
    Keeps M s0 (State.strobe t s) := by
  unfold State.strobe
  repeat' first
    | with_reducible assumption
    | ((with_reducible apply hM.of) <;> rfl)
    | with_reducible apply Wr.RFS_STAT
    | with_reducible apply Wr.RF2_STAT
    | ((with_reducible apply hM.reg); decide)
    | with_reducible apply hM.bit
    | with_reducible apply State.wb_keeps
    | with_reducible apply State.radioCount_keeps
    | with_reducible apply State.setChain_keeps
    | with_reducible apply State.blank_keeps
    | with_reducible apply Keeps.ite
    | (extract_lets +onlyGivenNames x1; with_reducible refine Cut x1 ?_ ?_)
    | (intro _; clear_value x1; revert x1; intro _ _)
    | subst x1
    | (extract_lets +onlyGivenNames x1; subst x1)
    | exact rfl
    | split
    | with_reducible apply Keeps.set_power
    | with_reducible apply Keeps.set_radio
    | with_reducible apply Keeps.set_radio_power
    | ((with_reducible apply hM.sub); rfl)

theorem State.txOff_keeps {M : Mask} {s0 : State} {c : Chain} {s : State} (hM : Sub ⟨0x80004, 0x100040000000000⟩ M) (hK : Keeps M s0 s) :
    Keeps M s0 (State.txOff c s) := by
  unfold State.txOff
  repeat' first
    | with_reducible assumption
    | ((with_reducible apply hM.of) <;> rfl)
    | with_reducible apply Wr.RFS_STAT
    | with_reducible apply Wr.RF2_STAT
    | ((with_reducible apply hM.reg); decide)
    | with_reducible apply State.wb_keeps
    | with_reducible apply State.setChain_keeps
    | with_reducible apply State.ch24Now_keeps
    | (extract_lets +onlyGivenNames x1; with_reducible refine Cut x1 ?_ ?_)
    | (intro _; clear_value x1; revert x1; intro _ _)
    | subst x1
    | (extract_lets +onlyGivenNames x1; subst x1)
    | exact rfl
    | split
    | dsimp -zeta only

theorem execBlankingEnd_keeps {M : Mask} {s0 : State} {chain : Chain} {s : State} (hM : Sub ⟨0x80004, 0x840000000000⟩ M) (hK : Keeps M s0 s) :
    Good M s0 (execBlankingEnd chain s) := by
  unfold execBlankingEnd
  repeat' first
    | with_reducible assumption
    | ((with_reducible apply hM.of) <;> rfl)
    | with_reducible apply State.unblank_keeps
    | with_reducible apply State.calPoll_keeps
    | with_reducible apply Good.ite
    | with_reducible apply Good.next
    | with_reducible apply Keeps.ite
    | (extract_lets +onlyGivenNames x1; with_reducible refine Cut x1 ?_ ?_)
    | (intro _; clear_value x1; revert x1; intro _ _)
    | subst x1
    | (extract_lets +onlyGivenNames x1; subst x1)
    | split
    | dsimp -zeta only

theorem State.txcfgWrite_keeps {M : Mask} {s0 : State} {w : Word} {s : State} (hM : Sub ⟨0x80001, 0x240000100000⟩ M) (hK : Keeps M s0 s) :
    Keeps M s0 (State.txcfgWrite w s) := by
  unfold State.txcfgWrite
  repeat' first
    | with_reducible assumption
    | ((with_reducible apply hM.of) <;> rfl)
    | with_reducible apply Wr.RFS_STAT
    | with_reducible apply Wr.RFS_TXCFG
    | refine WrBad.of (by exact rfl) ?_
    | ((with_reducible apply hM.reg); decide)
    | with_reducible apply State.wb_keeps
    | with_reducible apply State.flag_keeps
    | with_reducible apply State.writeReg_keeps
    | with_reducible apply State.post_keeps
    | with_reducible apply Keeps.ite
    | (extract_lets +onlyGivenNames x1; with_reducible refine Cut x1 ?_ ?_)
    | (intro _; clear_value x1; revert x1; intro _ _)
    | subst x1
    | (extract_lets +onlyGivenNames x1; subst x1)
    | exact rfl
    | split
    | dsimp -zeta only

theorem State.tableWrite_keeps {M : Mask} {s0 : State} {a : Nat} {w : Word} {s : State} (hM : Sub ⟨0x80000, 0x240000000000⟩ M) (hW : Wr M.r a) (hB : WrBad M.r a)
    (hK : Keeps M s0 s) :
    Keeps M s0 (State.tableWrite a w s) := by
  unfold State.tableWrite
  repeat' first
    | with_reducible assumption
    | ((with_reducible apply hM.of) <;> rfl)
    | with_reducible apply Wr.RFS_STAT
    | with_reducible apply Wr.RFS_TXCFG
    | ((with_reducible apply hM.reg); decide)
    | with_reducible apply State.wb_keeps
    | with_reducible apply State.writeReg_keeps
    | with_reducible apply Keeps.ite
    | (extract_lets +onlyGivenNames x1; with_reducible refine Cut x1 ?_ ?_)
    | (intro _; clear_value x1; revert x1; intro _ _)
    | subst x1
    | (extract_lets +onlyGivenNames x1; subst x1)
    | exact rfl
    | split
    | dsimp -zeta only

theorem State.chainSwitch_keeps {M : Mask} {s0 : State} {c : Chain} {old : Bool} {s : State} (hM : Sub ⟨0x80004, 0x840000000000⟩ M) (hK : Keeps M s0 s) :
    Keeps M s0 (State.chainSwitch c old s) := by
  unfold State.chainSwitch
  repeat' first
    | with_reducible assumption
    | ((with_reducible apply hM.of) <;> rfl)
    | with_reducible apply State.setChain_keeps
    | with_reducible apply State.unblank_keeps
    | with_reducible apply State.calShow_keeps
    | with_reducible apply State.calRequest_keeps
    | with_reducible apply Keeps.ite
    | (extract_lets +onlyGivenNames x1; with_reducible refine Cut x1 ?_ ?_)
    | (intro _; clear_value x1; revert x1; intro _ _)
    | subst x1
    | (extract_lets +onlyGivenNames x1; subst x1)
    | split
    | dsimp -zeta only

theorem State.rxenNow_keeps {M : Mask} {s0 : State} {c : Chain} {s : State} (hM : Sub ⟨0x4, 0x0⟩ M) (hK : Keeps M s0 s) :
    Keeps M s0 (State.rxenNow c s) := by
  unfold State.rxenNow
  repeat' first
    | with_reducible assumption
    | ((with_reducible apply hM.of) <;> rfl)
    | with_reducible apply State.setChain_keeps
    | with_reducible apply Keeps.ite
    | (extract_lets +onlyGivenNames x1; with_reducible refine Cut x1 ?_ ?_)
    | (intro _; clear_value x1; revert x1; intro _ _)
    | subst x1
    | (extract_lets +onlyGivenNames x1; subst x1)
    | split
    | dsimp -zeta only

theorem State.rfsCtlWrite_keeps {M : Mask} {s0 : State} {w : Word} {s : State} (hM : Sub ⟨0x80004, 0x860000000000⟩ M) (hK : Keeps M s0 s) :
    Keeps M s0 (State.rfsCtlWrite w s) := by
  unfold State.rfsCtlWrite
  repeat' first
    | with_reducible assumption
    | ((with_reducible apply hM.of) <;> rfl)
    | with_reducible apply Wr.RFS_CTL
    | with_reducible apply Wr.RFS_STAT
    | refine WrBad.of (by exact rfl) ?_
    | ((with_reducible apply hM.reg); decide)
    | with_reducible apply State.wb_keeps
    | with_reducible apply State.writeReg_keeps
    | with_reducible apply State.chainSwitch_keeps
    | with_reducible apply State.rxenNow_keeps
    | (extract_lets +onlyGivenNames x1; with_reducible refine Cut x1 ?_ ?_)
    | (intro _; clear_value x1; revert x1; intro _ _)
    | subst x1
    | (extract_lets +onlyGivenNames x1; subst x1)
    | exact rfl
    | split
    | dsimp -zeta only

theorem State.rf2CtlWrite_keeps {M : Mask} {s0 : State} {w : Word} {s : State} (hM : Sub ⟨0x80004, 0x180840000000000⟩ M) (hK : Keeps M s0 s) :
    Keeps M s0 (State.rf2CtlWrite w s) := by
  unfold State.rf2CtlWrite
  repeat' first
    | with_reducible assumption
    | ((with_reducible apply hM.of) <;> rfl)
    | with_reducible apply Wr.RF2_CTL
    | with_reducible apply Wr.RF2_STAT
    | refine WrBad.of (by exact rfl) ?_
    | ((with_reducible apply hM.reg); decide)
    | with_reducible apply hM.bit
    | with_reducible apply State.wb_keeps
    | with_reducible apply State.writeReg_keeps
    | with_reducible apply State.ch24Now_keeps
    | with_reducible apply State.chainSwitch_keeps
    | with_reducible apply State.rxenNow_keeps
    | with_reducible apply Keeps.ite
    | (extract_lets +onlyGivenNames x1; with_reducible refine Cut x1 ?_ ?_)
    | (intro _; clear_value x1; revert x1; intro _ _)
    | subst x1
    | (extract_lets +onlyGivenNames x1; subst x1)
    | exact rfl
    | split
    | with_reducible apply Keeps.set_radio

theorem State.rfsCalWrite_keeps {M : Mask} {s0 : State} {w : Word} {s : State} (hM : Sub ⟨0x80004, 0x840000000000⟩ M) (hK : Keeps M s0 s) :
    Keeps M s0 (State.rfsCalWrite w s) := by
  unfold State.rfsCalWrite
  repeat' first
    | with_reducible assumption
    | ((with_reducible apply hM.of) <;> rfl)
    | with_reducible apply Wr.RFS_STAT
    | with_reducible apply Wr.RFS_CAL
    | refine WrBad.of (by exact rfl) ?_
    | ((with_reducible apply hM.reg); decide)
    | with_reducible apply State.writeReg_keeps
    | with_reducible apply State.calRequest_keeps
    | with_reducible apply Keeps.ite
    | (extract_lets +onlyGivenNames x1; with_reducible refine Cut x1 ?_ ?_)
    | (intro _; clear_value x1; revert x1; intro _ _)
    | subst x1
    | (extract_lets +onlyGivenNames x1; subst x1)
    | exact rfl
    | split
    | dsimp -zeta only

theorem State.firCheck_keeps {M : Mask} {s0 : State} {s : State} (hM : Sub ⟨0x80000, 0x40000000000⟩ M) (hK : Keeps M s0 s) :
    Keeps M s0 (State.firCheck s) := by
  unfold State.firCheck
  repeat' first
    | with_reducible assumption
    | ((with_reducible apply hM.of) <;> rfl)
    | with_reducible apply Wr.RFS_STAT
    | ((with_reducible apply hM.reg); decide)
    | with_reducible apply State.wb_keeps
    | exact rfl
    | split
    | dsimp -zeta only

theorem State.radioAfterHush_keeps {M : Mask} {s0 : State} {s : State} (hM : Sub ⟨0x80004, 0x8000000000000000000000000100040000000000⟩ M) (hK : Keeps M s0 s) :
    Keeps M s0 (State.radioAfterHush s) := by
  unfold State.radioAfterHush
  repeat' first
    | with_reducible assumption
    | ((with_reducible apply hM.of) <;> rfl)
    | with_reducible apply Wr.RFS_STAT
    | with_reducible apply Wr.RF2_STAT
    | ((with_reducible apply hM.reg); decide)
    | with_reducible apply hM.bit
    | with_reducible apply State.wb_keeps
    | with_reducible apply State.resetRegs_keeps
    | with_reducible apply State.firCheck_keeps
    | (extract_lets +onlyGivenNames x1; with_reducible refine Cut x1 ?_ ?_)
    | (intro _; clear_value x1; revert x1; intro _ _)
    | subst x1
    | (extract_lets +onlyGivenNames x1; subst x1)
    | exact rfl
    | split
    | with_reducible apply Keeps.set_radio

theorem State.setRail_keeps {M : Mask} {s0 : State} {r : RadioRail} {down : Bool} {s : State} (hM : Sub ⟨0x4, 0x0⟩ M) (hK : Keeps M s0 s) :
    Keeps M s0 (State.setRail r down s) := by
  unfold State.setRail
  repeat' first
    | with_reducible assumption
    | ((with_reducible apply hM.of) <;> rfl)
    | with_reducible apply hM.bit
    | with_reducible apply Keeps.ite
    | (extract_lets +onlyGivenNames x1; with_reducible refine Cut x1 ?_ ?_)
    | (intro _; clear_value x1; revert x1; intro _ _)
    | subst x1
    | (extract_lets +onlyGivenNames x1; subst x1)
    | exact rfl
    | split
    | with_reducible apply Keeps.set_radio

theorem State.railShow_keeps {M : Mask} {s0 : State} {s : State} {r : RadioRail} (hM : Sub ⟨0x80001, 0x100040000100000⟩ M) (hK : Keeps M s0 s) :
    Keeps M s0 (State.railShow s r) := by
  unfold State.railShow
  repeat' first
    | with_reducible assumption
    | ((with_reducible apply hM.of) <;> rfl)
    | with_reducible apply Wr.RFS_STAT
    | with_reducible apply Wr.RF2_STAT
    | ((with_reducible apply hM.reg); decide)
    | with_reducible apply State.flag_keeps
    | with_reducible apply State.post_keeps
    | with_reducible apply Keeps.ite
    | (extract_lets +onlyGivenNames x1; with_reducible refine Cut x1 ?_ ?_)
    | (intro _; clear_value x1; revert x1; intro _ _)
    | subst x1
    | (extract_lets +onlyGivenNames x1; subst x1)
    | exact rfl
    | split
    | dsimp -zeta only

theorem State.railsSeen_keeps {M : Mask} {s0 : State} {s : State} (hM : Sub ⟨0x80005, 0x100040000100000⟩ M) (hK : Keeps M s0 s) :
    Keeps M s0 (State.railsSeen s) := by
  unfold State.railsSeen
  repeat' first
    | with_reducible assumption
    | ((with_reducible apply hM.of) <;> rfl)
    | with_reducible apply hM.bit
    | with_reducible apply State.railShow_keeps
    | (with_reducible apply Keeps.foldl; intro _ _ _)
    | exact rfl
    | split
    | with_reducible apply Keeps.set_radio

end Sys2Proof.Machine
end

