-- ==== Sys2Proof/Laws/KeepsNodes.lean ====
section
/-! SUPPORT. What each operation of Machine/Nodes.lean keeps (Laws/Keeps.lean says what that means). -/

namespace Sys2Proof.Machine

theorem State.setDram_keeps {M : Mask} {s0 : State} {i : Nat} {n : Node} {s : State} (hM : Sub ⟨0x8, 0x0⟩ M) (hK : Keeps M s0 s) :
    Keeps M s0 (State.setDram i n s) := by
  unfold State.setDram
  repeat' first
    | with_reducible assumption
    | ((with_reducible apply hM.of) <;> rfl)
    | with_reducible apply hM.bit
    | exact rfl
    | split
    | with_reducible apply Keeps.set_mac

theorem State.dropCached_keeps {M : Mask} {s0 : State} {i : Nat} {s : State} (hM : Sub ⟨0x8, 0x0⟩ M) (hK : Keeps M s0 s) :
    Keeps M s0 (State.dropCached i s) := by
  unfold State.dropCached
  repeat' first
    | with_reducible assumption
    | ((with_reducible apply hM.of) <;> rfl)
    | with_reducible apply hM.bit
    | exact rfl
    | split
    | with_reducible apply Keeps.set_mac

theorem State.writeBack_keeps {M : Mask} {s0 : State} {i : Nat} {s : State} (hM : Sub ⟨0x8, 0x0⟩ M) (hK : Keeps M s0 s) :
    Keeps M s0 (State.writeBack i s) := by
  unfold State.writeBack
  repeat' first
    | with_reducible assumption
    | ((with_reducible apply hM.of) <;> rfl)
    | with_reducible apply State.setDram_keeps
    | with_reducible apply Keeps.ite
    | split
    | dsimp -zeta only

theorem State.evict_keeps {M : Mask} {s0 : State} {i : Nat} {s : State} (hM : Sub ⟨0x8, 0x0⟩ M) (hK : Keeps M s0 s) :
    Keeps M s0 (State.evict i s) := by
  unfold State.evict
  repeat' first
    | with_reducible assumption
    | ((with_reducible apply hM.of) <;> rfl)
    | with_reducible apply State.dropCached_keeps
    | with_reducible apply State.writeBack_keeps
    | split
    | dsimp -zeta only

theorem State.touch_keeps {M : Mask} {s0 : State} {i : Nat} {s : State} (hM : Sub ⟨0x8, 0x0⟩ M) (hK : Keeps M s0 s) :
    Keeps M s0 (State.touch i s) := by
  unfold State.touch
  repeat' first
    | with_reducible assumption
    | ((with_reducible apply hM.of) <;> rfl)
    | with_reducible apply hM.bit
    | with_reducible apply State.evict_keeps
    | with_reducible apply Keeps.ite
    | (extract_lets +onlyGivenNames x1; with_reducible refine Cut x1 ?_ ?_)
    | (intro _; clear_value x1; revert x1; intro _ _)
    | subst x1
    | (extract_lets +onlyGivenNames x1; subst x1)
    | exact rfl
    | split
    | with_reducible apply Keeps.set_mac

theorem State.modNode_keeps {M : Mask} {s0 : State} {i : Nat} {f : Node → Node} {s : State} (hM : Sub ⟨0x8, 0x0⟩ M) (hK : Keeps M s0 s) :
    Keeps M s0 (State.modNode i f s) := by
  unfold State.modNode
  repeat' first
    | with_reducible assumption
    | ((with_reducible apply hM.of) <;> rfl)
    | with_reducible apply hM.bit
    | with_reducible apply State.touch_keeps
    | (extract_lets +onlyGivenNames x1; with_reducible refine Cut x1 ?_ ?_)
    | (intro _; clear_value x1; revert x1; intro _ _)
    | subst x1
    | (extract_lets +onlyGivenNames x1; subst x1)
    | exact rfl
    | split
    | with_reducible apply Keeps.set_mac

theorem State.nodesBack_keeps {M : Mask} {s0 : State} {s : State} (hM : Sub ⟨0x8, 0x0⟩ M) (hK : Keeps M s0 s) :
    Keeps M s0 (State.nodesBack s) := by
  unfold State.nodesBack
  repeat' first
    | with_reducible assumption
    | ((with_reducible apply hM.of) <;> rfl)
    | with_reducible apply State.writeBack_keeps
    | (with_reducible apply Keeps.foldl; intro _ _ _)
    | split
    | dsimp -zeta only

theorem State.freeCell_keeps {M : Mask} {s0 : State} {i : Nat} {s : State} (hM : Sub ⟨0x80009, 0x100000⟩ M) (hK : Keeps M s0 s) :
    Keeps M s0 (State.freeCell i s) := by
  unfold State.freeCell
  repeat' first
    | with_reducible assumption
    | ((with_reducible apply hM.of) <;> rfl)
    | with_reducible apply State.post_keeps
    | with_reducible apply State.modNode_keeps
    | (extract_lets +onlyGivenNames x1; with_reducible refine Cut x1 ?_ ?_)
    | (intro _; clear_value x1; revert x1; intro _ _)
    | subst x1
    | (extract_lets +onlyGivenNames x1; subst x1)
    | split
    | dsimp -zeta only

theorem State.adriftNow_keeps {M : Mask} {s0 : State} {e : Expect} {s : State} (hM : Sub ⟨0x80009, 0x100000⟩ M) (hK : Keeps M s0 s) :
    Keeps M s0 (State.adriftNow e s) := by
  unfold State.adriftNow
  repeat' first
    | with_reducible assumption
    | ((with_reducible apply hM.of) <;> rfl)
    | with_reducible apply State.post_keeps
    | with_reducible apply State.modNode_keeps
    | with_reducible apply Keeps.ite
    | split
    | dsimp -zeta only

theorem State.contact_keeps {M : Mask} {s0 : State} {i : Nat} {s : State} (hM : Sub ⟨0x80009, 0x100000⟩ M) (hK : Keeps M s0 s) :
    Keeps M s0 (State.contact i s) := by
  unfold State.contact
  repeat' first
    | with_reducible assumption
    | ((with_reducible apply hM.of) <;> rfl)
    | with_reducible apply hM.bit
    | with_reducible apply State.post_keeps
    | with_reducible apply State.modNode_keeps
    | with_reducible apply State.adriftNow_keeps
    | with_reducible apply Keeps.ite
    | (with_reducible apply Keeps.foldl; intro _ _ _)
    | (extract_lets +onlyGivenNames x1; with_reducible refine Cut x1 ?_ ?_)
    | (intro _; clear_value x1; revert x1; intro _ _)
    | subst x1
    | (extract_lets +onlyGivenNames x1; subst x1)
    | exact rfl
    | split
    | with_reducible apply Keeps.set_mac

theorem State.croakMissed_keeps {M : Mask} {s0 : State} {e : Expect} {s : State} (hM : Sub ⟨0x8003b, 0x1000001e900100000⟩ M) (hK : Keeps M s0 s) :
    Keeps M s0 (State.croakMissed e s) := by
  unfold State.croakMissed
  repeat' first
    | with_reducible assumption
    | ((with_reducible apply hM.of) <;> rfl)
    | with_reducible apply State.post_keeps
    | with_reducible apply State.lostMarker_keeps
    | with_reducible apply State.modNode_keeps
    | with_reducible apply State.adriftNow_keeps
    | with_reducible apply Keeps.ite
    | (extract_lets +onlyGivenNames x1; with_reducible refine Cut x1 ?_ ?_)
    | (intro _; clear_value x1; revert x1; intro _ _)
    | subst x1
    | (extract_lets +onlyGivenNames x1; subst x1)
    | split
    | dsimp -zeta only

theorem State.nodeWrite_keeps {M : Mask} {s0 : State} {c : Cmd} {b : BitVec 1024} {s : State} (hM : Sub ⟨0x80009, 0x100000⟩ M) (hK : Keeps M s0 s) :
    Keeps M s0 (State.nodeWrite c b s) := by
  unfold State.nodeWrite
  repeat' first
    | with_reducible assumption
    | ((with_reducible apply hM.of) <;> rfl)
    | with_reducible apply hM.bit
    | with_reducible apply State.adminDone_keeps
    | with_reducible apply State.setDram_keeps
    | with_reducible apply Keeps.ite
    | (extract_lets +onlyGivenNames x1; with_reducible refine Cut x1 ?_ ?_)
    | (intro _; clear_value x1; revert x1; intro _ _)
    | subst x1
    | (extract_lets +onlyGivenNames x1; subst x1)
    | exact rfl
    | split
    | with_reducible apply Keeps.set_mac

theorem execNodeWrite_keeps {M : Mask} {s0 : State} {buf : Option (BitVec 1024)} {s : State} (hM : Sub ⟨0x80009, 0x100000⟩ M) (hK : Keeps M s0 s) :
    Good M s0 (execNodeWrite buf s) := by
  unfold execNodeWrite
  repeat' first
    | with_reducible assumption
    | ((with_reducible apply hM.of) <;> rfl)
    | with_reducible apply State.adminDone_keeps
    | with_reducible apply State.nodeWrite_keeps
    | with_reducible apply Good.ite
    | with_reducible apply Good.next
    | with_reducible apply Keeps.ite
    | split
    | dsimp -zeta only

theorem execNodeInvalidate_keeps {M : Mask} {s0 : State} {s : State} (hM : Sub ⟨0x80009, 0x100000⟩ M) (hK : Keeps M s0 s) :
    Good M s0 (execNodeInvalidate s) := by
  unfold execNodeInvalidate
  repeat' first
    | with_reducible assumption
    | ((with_reducible apply hM.of) <;> rfl)
    | with_reducible apply State.adminDone_keeps
    | with_reducible apply State.evict_keeps
    | with_reducible apply Good.ite
    | (with_reducible apply Keeps.foldl; intro _ _ _)
    | with_reducible apply Good.next
    | with_reducible apply Keeps.ite
    | split
    | dsimp -zeta only

theorem execNodeRead_keeps {M : Mask} {s0 : State} {xferOk : Bool} {s : State} (hM : Sub ⟨0x80001, 0x100000⟩ M) (hK : Keeps M s0 s) :
    Good M s0 (execNodeRead xferOk s) := by
  unfold execNodeRead
  repeat' first
    | with_reducible assumption
    | ((with_reducible apply hM.of) <;> rfl)
    | with_reducible apply State.adminDone_keeps
    | with_reducible apply State.putBuffer_keeps
    | with_reducible apply Good.ite
    | with_reducible apply Good.next
    | with_reducible apply Keeps.ite
    | (extract_lets +onlyGivenNames x1; with_reducible refine Cut x1 ?_ ?_)
    | (intro _; clear_value x1; revert x1; intro _ _)
    | subst x1
    | (extract_lets +onlyGivenNames x1; subst x1)
    | split
    | dsimp -zeta only

theorem State.planDone_keeps {M : Mask} {s0 : State} {l : List Word} {late : Bool} {s : State} (hM : Sub ⟨0x8, 0x0⟩ M) (hK : Keeps M s0 s) :
    Keeps M s0 (State.planDone l late s) := by
  unfold State.planDone
  repeat' first
    | with_reducible assumption
    | ((with_reducible apply hM.of) <;> rfl)
    | with_reducible apply hM.bit
    | with_reducible apply Keeps.ite
    | (extract_lets +onlyGivenNames x1; with_reducible refine Cut x1 ?_ ?_)
    | (intro _; clear_value x1; revert x1; intro _ _)
    | subst x1
    | (extract_lets +onlyGivenNames x1; subst x1)
    | exact rfl
    | split
    | with_reducible apply Keeps.set_mac

theorem execPlanWrite_keeps {M : Mask} {s0 : State} {segs : Segs} {plan : Option (List Word)} {late : Bool} {s : State} (hM : Sub ⟨0x80009, 0x100000⟩ M) (hK : Keeps M s0 s) :
    Good M s0 (execPlanWrite segs plan late s) := by
  unfold execPlanWrite
  repeat' first
    | with_reducible assumption
    | ((with_reducible apply hM.of) <;> rfl)
    | with_reducible apply State.adminDone_keeps
    | with_reducible apply State.planDone_keeps
    | with_reducible apply Good.ite
    | with_reducible apply Good.next
    | with_reducible apply Keeps.ite
    | (extract_lets +onlyGivenNames x1; with_reducible refine Cut x1 ?_ ?_)
    | (intro _; clear_value x1; revert x1; intro _ _)
    | subst x1
    | (extract_lets +onlyGivenNames x1; subst x1)
    | split
    | dsimp -zeta only

end Sys2Proof.Machine
end

