-- ==== Sys2Proof/Laws/KeepsMac.lean ====
section
/-! SUPPORT. What each operation of Machine/Mac.lean keeps (Laws/Keeps.lean says what that means). -/

namespace Sys2Proof.Machine

theorem State.keyExh_keeps {M : Mask} {s0 : State} {k : Nat} {s : State} (hM : Sub ⟨0x80009, 0x400000000100000⟩ M) (hK : Keeps M s0 s) :
    Keeps M s0 (State.keyExh k s) := by
  unfold State.keyExh
  repeat' first
    | with_reducible assumption
    | ((with_reducible apply hM.of) <;> rfl)
    | with_reducible apply Wr.MAC_STAT
    | ((with_reducible apply hM.reg); decide)
    | with_reducible apply hM.bit
    | with_reducible apply State.flag_keeps
    | with_reducible apply State.post_keeps
    | with_reducible apply Keeps.ite
    | (extract_lets +onlyGivenNames x1; with_reducible refine Cut x1 ?_ ?_)
    | (intro _; clear_value x1; revert x1; intro _ _)
    | subst x1
    | (extract_lets +onlyGivenNames x1; subst x1)
    | exact rfl
    | split
    | with_reducible apply Keeps.set_mac

theorem State.takeFc_keeps {M : Mask} {s0 : State} {k : Nat} {s : State} (hM : Sub ⟨0x80029, 0x400000000100000⟩ M) (hK : Keeps M s0 s) :
    Keeps2 M s0 (State.takeFc k s) := by
  unfold State.takeFc
  repeat' first
    | with_reducible assumption
    | ((with_reducible apply hM.of) <;> rfl)
    | with_reducible apply State.setSlot_keeps
    | with_reducible apply State.keyExh_keeps
    | with_reducible apply Keeps2.ite
    | with_reducible apply Keeps.ite
    | (extract_lets +onlyGivenNames x1; with_reducible refine Cut x1 ?_ ?_)
    | (intro _; clear_value x1; revert x1; intro _ _)
    | subst x1
    | (extract_lets +onlyGivenNames x1; subst x1)
    | split
    | with_reducible apply Keeps2.mk
    | dsimp -zeta only

theorem State.authFail_keeps {M : Mask} {s0 : State} {i : Option Nat} {s : State} (hM : Sub ⟨0x80008, 0x8000000000000000⟩ M) (hK : Keeps M s0 s) :
    Keeps M s0 (State.authFail i s) := by
  unfold State.authFail
  repeat' first
    | with_reducible assumption
    | ((with_reducible apply hM.of) <;> rfl)
    | with_reducible apply Wr.MAC_CNT
    | ((with_reducible apply hM.reg); decide)
    | with_reducible apply State.count_keeps
    | with_reducible apply State.modNode_keeps
    | with_reducible apply Keeps.ite
    | (extract_lets +onlyGivenNames x1; with_reducible refine Cut x1 ?_ ?_)
    | (intro _; clear_value x1; revert x1; intro _ _)
    | subst x1
    | (extract_lets +onlyGivenNames x1; subst x1)
    | exact rfl
    | split
    | dsimp -zeta only

theorem State.croakHeard_keeps {M : Mask} {s0 : State} {e : Expect} {s : State} (hM : Sub ⟨0x80009, 0x100000⟩ M) (hK : Keeps M s0 s) :
    Keeps M s0 (State.croakHeard e s) := by
  unfold State.croakHeard
  repeat' first
    | with_reducible assumption
    | ((with_reducible apply hM.of) <;> rfl)
    | with_reducible apply hM.bit
    | with_reducible apply State.adriftNow_keeps
    | with_reducible apply Keeps.ite
    | (extract_lets +onlyGivenNames x1; with_reducible refine Cut x1 ?_ ?_)
    | (intro _; clear_value x1; revert x1; intro _ _)
    | subst x1
    | (extract_lets +onlyGivenNames x1; subst x1)
    | exact rfl
    | split
    | with_reducible apply Keeps.set_mac

theorem State.ackPrepare_keeps {M : Mask} {s0 : State} {i : Option Nat} {offset : Half} {f : RxFrame} {s : State} (hM : Sub ⟨0xc0029, 0x28400000000100000⟩ M) (hK : Keeps M s0 s) :
    Keeps1 M s0 (State.ackPrepare i offset f s) := by
  unfold State.ackPrepare
  repeat' first
    | with_reducible assumption
    | ((with_reducible apply hM.of) <;> rfl)
    | with_reducible apply Wr.MAC_CNT
    | ((with_reducible apply hM.reg); decide)
    | with_reducible apply hM.bit
    | with_reducible apply State.count_keeps
    | with_reducible apply State.preempt_keeps
    | with_reducible apply State.takeFc_keeps
    | with_reducible apply Keeps1.ite
    | with_reducible apply Keeps.ite
    | (with_reducible apply Keeps2.of; with_reducible assumption)
    | with_reducible apply Keeps2.snd
    | (extract_lets +onlyGivenNames x1; with_reducible refine Cut x1 ?_ ?_)
    | (intro _; clear_value x1; revert x1; intro _ _)
    | subst x1
    | (extract_lets +onlyGivenNames x1; subst x1)
    | exact rfl
    | split
    | with_reducible apply Keeps.set_mac
    | with_reducible apply Keeps1.mk
    | with_reducible apply Keeps2.mk

theorem State.ackFor_keeps {M : Mask} {s0 : State} {i : Option Nat} {offset : Half} {f : RxFrame} {s : State} (hM : Sub ⟨0xc0029, 0x28400000000100000⟩ M) (hK : Keeps M s0 s) :
    Keeps1 M s0 (State.ackFor i offset f s) := by
  unfold State.ackFor
  repeat' first
    | with_reducible assumption
    | ((with_reducible apply hM.of) <;> rfl)
    | with_reducible apply Wr.MAC_CNT
    | ((with_reducible apply hM.reg); decide)
    | with_reducible apply State.count_keeps
    | with_reducible apply State.ackPrepare_keeps
    | (with_reducible apply Keeps1.of; with_reducible assumption)
    | with_reducible apply Keeps1.fst
    | exact rfl
    | split
    | with_reducible apply Keeps1.mk
    | dsimp -zeta only

theorem State.deliver_keeps {M : Mask} {s0 : State} {node flags : Nat} {octets : List Byte} {f : RxFrame} {s : State} (hM : Sub ⟨0x5, 0x0⟩ M) (hK : Keeps M s0 s) :
    Keeps M s0 (State.deliver node flags octets f s) := by
  unfold State.deliver
  repeat' first
    | with_reducible assumption
    | ((with_reducible apply hM.of) <;> rfl)
    | with_reducible apply hM.bit
    | with_reducible apply State.radioCount_keeps
    | with_reducible apply Keeps.ite
    | (extract_lets +onlyGivenNames x1; with_reducible refine Cut x1 ?_ ?_)
    | (intro _; clear_value x1; revert x1; intro _ _)
    | subst x1
    | (extract_lets +onlyGivenNames x1; subst x1)
    | exact rfl
    | split
    | with_reducible apply Keeps.set_hri

theorem State.rxAccepted_keeps {M : Mask} {s0 : State} {f : RxFrame} {s : State} (hM : Sub ⟨0x80b45, 0x8090000000013440c010000000000000100110⟩ M) (hK : Keeps M s0 s) :
    Keeps M s0 (State.rxAccepted f s) := by
  unfold State.rxAccepted
  repeat' first
    | with_reducible assumption
    | ((with_reducible apply hM.of) <;> rfl)
    | with_reducible apply State.wake_keeps
    | with_reducible apply State.raise_keeps
    | with_reducible apply State.radioCount_keeps
    | with_reducible apply Keeps.ite
    | (extract_lets +onlyGivenNames x1; with_reducible refine Cut x1 ?_ ?_)
    | (intro _; clear_value x1; revert x1; intro _ _)
    | subst x1
    | (extract_lets +onlyGivenNames x1; subst x1)
    | split
    | dsimp -zeta only

theorem State.setLead_keeps {M : Mask} {s0 : State} {n : Nat} {w : Word} {s : State} (hM : Sub ⟨0x80004, 0x14000000000000⟩ M) (hK : Keeps M s0 s) :
    Keeps M s0 (State.setLead n w s) := by
  unfold State.setLead
  repeat' first
    | with_reducible assumption
    | ((with_reducible apply hM.of) <;> rfl)
    | with_reducible apply Wr.RFS_TYMCFG
    | ((with_reducible apply hM.reg); decide)
    | with_reducible apply State.wr_keeps
    | with_reducible apply State.forceLead_keeps
    | exact rfl
    | split
    | dsimp -zeta only

theorem State.setLeads_keeps {M : Mask} {s0 : State} {f : Nat → Word} {s : State} (hM : Sub ⟨0x80004, 0x14000000000000⟩ M) (hK : Keeps M s0 s) :
    Keeps M s0 (State.setLeads f s) := by
  unfold State.setLeads
  repeat' first
    | with_reducible assumption
    | ((with_reducible apply hM.of) <;> rfl)
    | with_reducible apply hM.bit
    | with_reducible apply State.radioCount_keeps
    | with_reducible apply State.setLead_keeps
    | (with_reducible apply Keeps.foldl; intro _ _ _)
    | (extract_lets +onlyGivenNames x1; with_reducible refine Cut x1 ?_ ?_)
    | (intro _; clear_value x1; revert x1; intro _ _)
    | subst x1
    | (extract_lets +onlyGivenNames x1; subst x1)
    | exact rfl
    | split
    | with_reducible apply Keeps.set_radio

theorem State.scanSet_keeps {M : Mask} {s0 : State} {s : State} (hM : Sub ⟨0x80004, 0x14000000000000⟩ M) (hK : Keeps M s0 s) :
    Keeps M s0 (State.scanSet s) := by
  unfold State.scanSet
  repeat' first
    | with_reducible assumption
    | ((with_reducible apply hM.of) <;> rfl)
    | with_reducible apply State.setLeads_keeps
    | (extract_lets +onlyGivenNames x1; with_reducible refine Cut x1 ?_ ?_)
    | (intro _; clear_value x1; revert x1; intro _ _)
    | subst x1
    | (extract_lets +onlyGivenNames x1; subst x1)
    | split
    | dsimp -zeta only

theorem State.scanStart_keeps {M : Mask} {s0 : State} {s : State} (hM : Sub ⟨0x8000d, 0x414000000100000⟩ M) (hK : Keeps M s0 s) :
    Keeps M s0 (State.scanStart s) := by
  unfold State.scanStart
  repeat' first
    | with_reducible assumption
    | ((with_reducible apply hM.of) <;> rfl)
    | with_reducible apply Wr.MAC_STAT
    | ((with_reducible apply hM.reg); decide)
    | with_reducible apply hM.bit
    | with_reducible apply State.wf_keeps
    | with_reducible apply State.post_keeps
    | with_reducible apply State.scanSet_keeps
    | (extract_lets +onlyGivenNames x1; with_reducible refine Cut x1 ?_ ?_)
    | (intro _; clear_value x1; revert x1; intro _ _)
    | subst x1
    | (extract_lets +onlyGivenNames x1; subst x1)
    | exact rfl
    | split
    | with_reducible apply Keeps.set_mac

theorem State.scanEnd_keeps {M : Mask} {s0 : State} {s : State} (hM : Sub ⟨0x8000c, 0x14000000000000⟩ M) (hK : Keeps M s0 s) :
    Keeps M s0 (State.scanEnd s) := by
  unfold State.scanEnd
  repeat' first
    | with_reducible assumption
    | ((with_reducible apply hM.of) <;> rfl)
    | with_reducible apply hM.bit
    | with_reducible apply State.setLeads_keeps
    | (extract_lets +onlyGivenNames x1; with_reducible refine Cut x1 ?_ ?_)
    | (intro _; clear_value x1; revert x1; intro _ _)
    | subst x1
    | (extract_lets +onlyGivenNames x1; subst x1)
    | exact rfl
    | split
    | with_reducible apply Keeps.set_mac

theorem State.realign_keeps {M : Mask} {s0 : State} {q : Nat} {t : Word} {s : State} (hM : Sub ⟨0x8, 0x0⟩ M) (hK : Keeps M s0 s) :
    Keeps M s0 (State.realign q t s) := by
  unfold State.realign
  repeat' first
    | with_reducible assumption
    | ((with_reducible apply hM.of) <;> rfl)
    | with_reducible apply hM.bit
    | with_reducible apply Keeps.ite
    | (extract_lets +onlyGivenNames x1; with_reducible refine Cut x1 ?_ ?_)
    | (intro _; clear_value x1; revert x1; intro _ _)
    | subst x1
    | (extract_lets +onlyGivenNames x1; subst x1)
    | exact rfl
    | split
    | with_reducible apply Keeps.set_mac

theorem State.parentSynced_keeps {M : Mask} {s0 : State} {p : Nat} {f : RxFrame} {ie : ChorusIE} {s : State} (hM : Sub ⟨0x8000d, 0x414000000100000⟩ M) (hK : Keeps M s0 s) :
    Keeps M s0 (State.parentSynced p f ie s) := by
  unfold State.parentSynced
  repeat' first
    | with_reducible assumption
    | ((with_reducible apply hM.of) <;> rfl)
    | with_reducible apply Wr.MAC_STAT
    | ((with_reducible apply hM.reg); decide)
    | with_reducible apply hM.bit
    | with_reducible apply State.wf_keeps
    | with_reducible apply State.post_keeps
    | with_reducible apply State.scanEnd_keeps
    | with_reducible apply State.realign_keeps
    | with_reducible apply Keeps.ite
    | (extract_lets +onlyGivenNames x1; with_reducible refine Cut x1 ?_ ?_)
    | (intro _; clear_value x1; revert x1; intro _ _)
    | subst x1
    | (extract_lets +onlyGivenNames x1; subst x1)
    | exact rfl
    | split
    | with_reducible apply Keeps.set_mac

theorem State.parentChorus_keeps {M : Mask} {s0 : State} {i : Nat} {f : RxFrame} {s : State} (hM : Sub ⟨0x8000d, 0x414000000100000⟩ M) (hK : Keeps M s0 s) :
    Keeps M s0 (State.parentChorus i f s) := by
  unfold State.parentChorus
  repeat' first
    | with_reducible assumption
    | ((with_reducible apply hM.of) <;> rfl)
    | with_reducible apply State.parentSynced_keeps
    | with_reducible apply Keeps.ite
    | (extract_lets +onlyGivenNames x1; with_reducible refine Cut x1 ?_ ?_)
    | (intro _; clear_value x1; revert x1; intro _ _)
    | subst x1
    | (extract_lets +onlyGivenNames x1; subst x1)
    | split
    | dsimp -zeta only

theorem State.parentMiss_keeps {M : Mask} {s0 : State} {s : State} (hM : Sub ⟨0x80009, 0x400000000100000⟩ M) (hK : Keeps M s0 s) :
    Keeps M s0 (State.parentMiss s) := by
  unfold State.parentMiss
  repeat' first
    | with_reducible assumption
    | ((with_reducible apply hM.of) <;> rfl)
    | with_reducible apply Wr.MAC_STAT
    | ((with_reducible apply hM.reg); decide)
    | with_reducible apply hM.bit
    | with_reducible apply State.wf_keeps
    | with_reducible apply State.post_keeps
    | with_reducible apply Keeps.ite
    | (extract_lets +onlyGivenNames x1; with_reducible refine Cut x1 ?_ ?_)
    | (intro _; clear_value x1; revert x1; intro _ _)
    | subst x1
    | (extract_lets +onlyGivenNames x1; subst x1)
    | exact rfl
    | split
    | with_reducible apply Keeps.set_mac

theorem execParentAdriftExpiry_keeps {M : Mask} {s0 : State} {s : State} (hM : Sub ⟨0x8000d, 0x414000000100000⟩ M) (hK : Keeps M s0 s) :
    Good M s0 (execParentAdriftExpiry s) := by
  unfold execParentAdriftExpiry
  repeat' first
    | with_reducible assumption
    | ((with_reducible apply hM.of) <;> rfl)
    | with_reducible apply State.scanStart_keeps
    | with_reducible apply Good.ite
    | with_reducible apply Good.next
    | with_reducible apply Keeps.ite
    | split
    | dsimp -zeta only

theorem State.acceptKnown_keeps {M : Mask} {s0 : State} {i : Nat} {clear : List Byte} {f : RxFrame} {s : State} (hM : Sub ⟨0xc0b7f, 0x8090000000013440c01003841401e900100110⟩ M) (hK : Keeps M s0 s) :
    Keeps M s0 (State.acceptKnown i clear f s) := by
  unfold State.acceptKnown
  repeat' first
    | with_reducible assumption
    | ((with_reducible apply hM.of) <;> rfl)
    | with_reducible apply State.append_keeps
    | with_reducible apply State.modNode_keeps
    | with_reducible apply State.contact_keeps
    | with_reducible apply State.croakHeard_keeps
    | with_reducible apply State.ackFor_keeps
    | with_reducible apply State.deliver_keeps
    | with_reducible apply State.rxAccepted_keeps
    | with_reducible apply State.parentChorus_keeps
    | with_reducible apply Keeps.ite
    | (with_reducible apply Keeps1.of; with_reducible assumption)
    | with_reducible apply Keeps1.fst
    | (extract_lets +onlyGivenNames x1; with_reducible refine Cut x1 ?_ ?_)
    | (intro _; clear_value x1; revert x1; intro _ _)
    | subst x1
    | (extract_lets +onlyGivenNames x1; subst x1)
    | split
    | with_reducible apply Keeps1.mk
    | dsimp -zeta only

theorem State.duplicate_keeps {M : Mask} {s0 : State} {i : Nat} {f : RxFrame} {s : State} (hM : Sub ⟨0xc0029, 0x28400000000100000⟩ M) (hK : Keeps M s0 s) :
    Keeps M s0 (State.duplicate i f s) := by
  unfold State.duplicate
  repeat' first
    | with_reducible assumption
    | ((with_reducible apply hM.of) <;> rfl)
    | with_reducible apply Wr.MAC_CNT
    | ((with_reducible apply hM.reg); decide)
    | with_reducible apply State.count_keeps
    | with_reducible apply State.modNode_keeps
    | with_reducible apply State.ackFor_keeps
    | with_reducible apply Keeps.ite
    | (with_reducible apply Keeps1.of; with_reducible assumption)
    | with_reducible apply Keeps1.fst
    | (extract_lets +onlyGivenNames x1; with_reducible refine Cut x1 ?_ ?_)
    | (intro _; clear_value x1; revert x1; intro _ _)
    | subst x1
    | (extract_lets +onlyGivenNames x1; subst x1)
    | exact rfl
    | split
    | with_reducible apply Keeps1.mk
    | dsimp -zeta only

theorem State.rxKnown_keeps {M : Mask} {s0 : State} {i : Nat} {f : RxFrame} {s : State} (hM : Sub ⟨0xc0b7f, 0x8090000000013440c01003841401e900100110⟩ M) (hK : Keeps M s0 s) :
    Keeps M s0 (State.rxKnown i f s) := by
  unfold State.rxKnown
  repeat' first
    | with_reducible assumption
    | ((with_reducible apply hM.of) <;> rfl)
    | with_reducible apply State.ctxNote_keeps
    | with_reducible apply State.preempt_keeps
    | with_reducible apply State.touch_keeps
    | with_reducible apply State.authFail_keeps
    | with_reducible apply State.acceptKnown_keeps
    | with_reducible apply State.duplicate_keeps
    | with_reducible apply Keeps.ite
    | (extract_lets +onlyGivenNames x1; with_reducible refine Cut x1 ?_ ?_)
    | (intro _; clear_value x1; revert x1; intro _ _)
    | subst x1
    | (extract_lets +onlyGivenNames x1; subst x1)
    | split
    | dsimp -zeta only

theorem State.rxUnknown_keeps {M : Mask} {s0 : State} {f : RxFrame} {s : State} (hM : Sub ⟨0xc0b6d, 0x8090000000013440c010028400000000100110⟩ M) (hK : Keeps M s0 s) :
    Keeps M s0 (State.rxUnknown f s) := by
  unfold State.rxUnknown
  repeat' first
    | with_reducible assumption
    | ((with_reducible apply hM.of) <;> rfl)
    | with_reducible apply State.authFail_keeps
    | with_reducible apply State.ackFor_keeps
    | with_reducible apply State.deliver_keeps
    | with_reducible apply State.rxAccepted_keeps
    | with_reducible apply Keeps.ite
    | (with_reducible apply Keeps1.of; with_reducible assumption)
    | with_reducible apply Keeps1.fst
    | (extract_lets +onlyGivenNames x1; with_reducible refine Cut x1 ?_ ?_)
    | (intro _; clear_value x1; revert x1; intro _ _)
    | subst x1
    | (extract_lets +onlyGivenNames x1; subst x1)
    | split
    | with_reducible apply Keeps1.mk
    | dsimp -zeta only

theorem State.sendDone_keeps {M : Mask} {s0 : State} {x : SendOp} {typ code : Nat} {extra : Nat} {s : State} (hM : Sub ⟨0x80009, 0x100000⟩ M) (hK : Keeps M s0 s) :
    Keeps M s0 (State.sendDone x typ code extra s) := by
  unfold State.sendDone
  repeat' first
    | with_reducible assumption
    | ((with_reducible apply hM.of) <;> rfl)
    | with_reducible apply hM.bit
    | with_reducible apply State.finish_keeps
    | with_reducible apply State.declined_keeps
    | with_reducible apply Keeps.ite
    | (extract_lets +onlyGivenNames x1; with_reducible refine Cut x1 ?_ ?_)
    | (intro _; clear_value x1; revert x1; intro _ _)
    | subst x1
    | (extract_lets +onlyGivenNames x1; subst x1)
    | exact rfl
    | split
    | with_reducible apply Keeps.set_mac

theorem State.rxAck_keeps {M : Mask} {s0 : State} {f : RxFrame} {s : State} (hM : Sub ⟨0xc0009, 0x30000000000100000⟩ M) (hK : Keeps M s0 s) :
    Keeps M s0 (State.rxAck f s) := by
  unfold State.rxAck
  repeat' first
    | with_reducible assumption
    | ((with_reducible apply hM.of) <;> rfl)
    | with_reducible apply State.ctxNote_keeps
    | with_reducible apply State.preempt_keeps
    | with_reducible apply State.sendDone_keeps
    | with_reducible apply Keeps.ite
    | (extract_lets +onlyGivenNames x1; with_reducible refine Cut x1 ?_ ?_)
    | (intro _; clear_value x1; revert x1; intro _ _)
    | subst x1
    | (extract_lets +onlyGivenNames x1; subst x1)
    | split
    | dsimp -zeta only

theorem State.macRx_keeps {M : Mask} {s0 : State} {f : RxFrame} {s : State} (hM : Sub ⟨0xc0b7f, 0x8090000000013440c01003841401e900100110⟩ M) (hK : Keeps M s0 s) :
    Keeps M s0 (State.macRx f s) := by
  unfold State.macRx
  repeat' first
    | with_reducible assumption
    | ((with_reducible apply hM.of) <;> rfl)
    | with_reducible apply State.authFail_keeps
    | with_reducible apply State.rxKnown_keeps
    | with_reducible apply State.rxUnknown_keeps
    | with_reducible apply State.rxAck_keeps
    | with_reducible apply Keeps.ite
    | split
    | dsimp -zeta only

theorem State.cacheRead_keeps {M : Mask} {s0 : State} {x : SramRead} {s : State} (hM : Sub ⟨0xc0009, 0x100004⟩ M) (hK : Keeps M s0 s) :
    Keeps M s0 (State.cacheRead x s) := by
  unfold State.cacheRead
  repeat' first
    | with_reducible assumption
    | ((with_reducible apply hM.of) <;> rfl)
    | with_reducible apply State.sramFixed_keeps
    | with_reducible apply State.sramUeFree_keeps
    | with_reducible apply State.dropCached_keeps
    | (extract_lets +onlyGivenNames x1; with_reducible refine Cut x1 ?_ ?_)
    | (intro _; clear_value x1; revert x1; intro _ _)
    | subst x1
    | (extract_lets +onlyGivenNames x1; subst x1)
    | split
    | dsimp -zeta only

theorem execHandleFrame_keeps {M : Mask} {s0 : State} {late : Bool} {sram : SramRead} {s : State} (hM : Sub ⟨0xc0b7f, 0x8090000000013440c01003841401e900100114⟩ M) (hK : Keeps M s0 s) :
    Good M s0 (execHandleFrame late sram s) := by
  unfold execHandleFrame
  repeat' first
    | with_reducible assumption
    | ((with_reducible apply hM.of) <;> rfl)
    | with_reducible apply hM.bit
    | with_reducible apply State.macRx_keeps
    | with_reducible apply State.cacheRead_keeps
    | with_reducible apply Good.ite
    | with_reducible apply Good.next
    | with_reducible apply Keeps.ite
    | (extract_lets +onlyGivenNames x1; with_reducible refine Cut x1 ?_ ?_)
    | (intro _; clear_value x1; revert x1; intro _ _)
    | subst x1
    | (extract_lets +onlyGivenNames x1; subst x1)
    | exact rfl
    | split
    | with_reducible apply Keeps.set_mac

theorem State.planSwitch_keeps {M : Mask} {s0 : State} {s : State} (hM : Sub ⟨0x80009, 0x800000000100000⟩ M) (hK : Keeps M s0 s) :
    Keeps M s0 (State.planSwitch s) := by
  unfold State.planSwitch
  repeat' first
    | with_reducible assumption
    | ((with_reducible apply hM.of) <;> rfl)
    | with_reducible apply Wr.MAC_SCHED
    | ((with_reducible apply hM.reg); decide)
    | with_reducible apply hM.bit
    | with_reducible apply State.wf_keeps
    | with_reducible apply State.post_keeps
    | with_reducible apply State.freeCell_keeps
    | with_reducible apply Keeps.ite
    | (with_reducible apply Keeps.foldl; intro _ _ _)
    | (extract_lets +onlyGivenNames x1; with_reducible refine Cut x1 ?_ ?_)
    | (intro _; clear_value x1; revert x1; intro _ _)
    | subst x1
    | (extract_lets +onlyGivenNames x1; subst x1)
    | exact rfl
    | split
    | with_reducible apply Keeps.set_mac

theorem State.holdsDown_keeps {M : Mask} {s0 : State} {s : State} (hM : Sub ⟨0x80009, 0x100000⟩ M) (hK : Keeps M s0 s) :
    Keeps M s0 (State.holdsDown s) := by
  unfold State.holdsDown
  repeat' first
    | with_reducible assumption
    | ((with_reducible apply hM.of) <;> rfl)
    | with_reducible apply State.modNode_keeps
    | with_reducible apply State.freeCell_keeps
    | with_reducible apply Keeps.ite
    | (with_reducible apply Keeps.foldl; intro _ _ _)
    | (extract_lets +onlyGivenNames x1; with_reducible refine Cut x1 ?_ ?_)
    | (intro _; clear_value x1; revert x1; intro _ _)
    | subst x1
    | (extract_lets +onlyGivenNames x1; subst x1)
    | split
    | dsimp -zeta only

theorem State.calBoundary_keeps {M : Mask} {s0 : State} {s : State} (hM : Sub ⟨0x80004, 0x840000000000⟩ M) (hK : Keeps M s0 s) :
    Keeps M s0 (State.calBoundary s) := by
  unfold State.calBoundary
  repeat' first
    | with_reducible assumption
    | ((with_reducible apply hM.of) <;> rfl)
    | with_reducible apply hM.bit
    | with_reducible apply State.calShow_keeps
    | with_reducible apply State.calForce_keeps
    | with_reducible apply Keeps.ite
    | (extract_lets +onlyGivenNames x1; with_reducible refine Cut x1 ?_ ?_)
    | (intro _; clear_value x1; revert x1; intro _ _)
    | subst x1
    | (extract_lets +onlyGivenNames x1; subst x1)
    | exact rfl
    | split
    | with_reducible apply Keeps.set_radio

theorem State.boundary_keeps {M : Mask} {s0 : State} {s : State} (hM : Sub ⟨0x8034d, 0x90000000013440c010000c14840000100000⟩ M) (hK : Keeps M s0 s) :
    Keeps M s0 (State.boundary s) := by
  unfold State.boundary
  repeat' first
    | with_reducible assumption
    | ((with_reducible apply hM.of) <;> rfl)
    | with_reducible apply Wr.MAC_STAT
    | ((with_reducible apply hM.reg); decide)
    | with_reducible apply hM.bit
    | with_reducible apply State.wf_keeps
    | with_reducible apply State.raise_keeps
    | with_reducible apply State.scanSet_keeps
    | with_reducible apply State.planSwitch_keeps
    | with_reducible apply State.holdsDown_keeps
    | with_reducible apply State.calBoundary_keeps
    | with_reducible apply Keeps.ite
    | (extract_lets +onlyGivenNames x1; with_reducible refine Cut x1 ?_ ?_)
    | (intro _; clear_value x1; revert x1; intro _ _)
    | subst x1
    | (extract_lets +onlyGivenNames x1; subst x1)
    | exact rfl
    | split
    | with_reducible apply Keeps.set_mac

theorem State.chorusReady_keeps {M : Mask} {s0 : State} {w : Word} {s : State} (hM : Sub ⟨0xc0029, 0x30400000000100000⟩ M) (hK : Keeps M s0 s) :
    Keeps M s0 (State.chorusReady w s) := by
  unfold State.chorusReady
  repeat' first
    | with_reducible assumption
    | ((with_reducible apply hM.of) <;> rfl)
    | with_reducible apply hM.bit
    | with_reducible apply State.freeNat_keeps
    | with_reducible apply State.ctxNote_keeps
    | with_reducible apply State.preempt_keeps
    | with_reducible apply State.takeFc_keeps
    | with_reducible apply Keeps.ite
    | (with_reducible apply Keeps2.of; with_reducible assumption)
    | with_reducible apply Keeps2.snd
    | (extract_lets +onlyGivenNames x1; with_reducible refine Cut x1 ?_ ?_)
    | (intro _; clear_value x1; revert x1; intro _ _)
    | subst x1
    | (extract_lets +onlyGivenNames x1; subst x1)
    | exact rfl
    | split
    | with_reducible apply Keeps.set_mac
    | with_reducible apply Keeps2.mk

theorem State.prefetch_keeps {M : Mask} {s0 : State} {s : State} (hM : Sub ⟨0x8, 0x0⟩ M) (hK : Keeps M s0 s) :
    Keeps M s0 (State.prefetch s) := by
  unfold State.prefetch
  repeat' first
    | with_reducible assumption
    | ((with_reducible apply hM.of) <;> rfl)
    | with_reducible apply State.touch_keeps
    | with_reducible apply Keeps.ite
    | (with_reducible apply Keeps.foldl; intro _ _ _)
    | (extract_lets +onlyGivenNames x1; with_reducible refine Cut x1 ?_ ?_)
    | (intro _; clear_value x1; revert x1; intro _ _)
    | subst x1
    | (extract_lets +onlyGivenNames x1; subst x1)
    | split
    | dsimp -zeta only

theorem State.slotBegin_keeps {M : Mask} {s0 : State} {s : State} (hM : Sub ⟨0xc036d, 0x90000000013440c010030c14840000100000⟩ M) (hK : Keeps M s0 s) :
    Keeps M s0 (State.slotBegin s) := by
  unfold State.slotBegin
  repeat' first
    | with_reducible assumption
    | ((with_reducible apply hM.of) <;> rfl)
    | with_reducible apply Wr.MAC_SCHED
    | ((with_reducible apply hM.reg); decide)
    | with_reducible apply hM.bit
    | with_reducible apply State.wf_keeps
    | with_reducible apply State.raise_keeps
    | with_reducible apply State.calStart_keeps
    | with_reducible apply State.timerTo_keeps
    | with_reducible apply State.boundary_keeps
    | with_reducible apply State.chorusReady_keeps
    | with_reducible apply State.prefetch_keeps
    | with_reducible apply Keeps.ite
    | (extract_lets +onlyGivenNames x1; with_reducible refine Cut x1 ?_ ?_)
    | (intro _; clear_value x1; revert x1; intro _ _)
    | subst x1
    | (extract_lets +onlyGivenNames x1; subst x1)
    | exact rfl
    | split
    | with_reducible apply Keeps.set_mac

theorem execSlotStart_keeps {M : Mask} {s0 : State} {s : State} (hM : Sub ⟨0xc036d, 0x90000000013440c010030c14840000100000⟩ M) (hK : Keeps M s0 s) :
    Good M s0 (execSlotStart s) := by
  unfold execSlotStart
  repeat' first
    | with_reducible assumption
    | ((with_reducible apply hM.of) <;> rfl)
    | with_reducible apply State.slotBegin_keeps
    | with_reducible apply Good.ite
    | with_reducible apply Good.next
    | with_reducible apply Keeps.ite
    | split
    | dsimp -zeta only

theorem State.slotOver_keeps {M : Mask} {s0 : State} {s : State} (hM : Sub ⟨0x8003b, 0x1040001e900100000⟩ M) (hK : Keeps M s0 s) :
    Keeps M s0 (State.slotOver s) := by
  unfold State.slotOver
  repeat' first
    | with_reducible assumption
    | ((with_reducible apply hM.of) <;> rfl)
    | with_reducible apply hM.bit
    | with_reducible apply State.timerTo_keeps
    | with_reducible apply State.croakMissed_keeps
    | with_reducible apply State.parentMiss_keeps
    | with_reducible apply Keeps.ite
    | (with_reducible apply Keeps.foldl; intro _ _ _)
    | (extract_lets +onlyGivenNames x1; with_reducible refine Cut x1 ?_ ?_)
    | (intro _; clear_value x1; revert x1; intro _ _)
    | subst x1
    | (extract_lets +onlyGivenNames x1; subst x1)
    | exact rfl
    | split
    | with_reducible apply Keeps.set_mac

theorem execSlotEnd_keeps {M : Mask} {s0 : State} {s : State} (hM : Sub ⟨0x8003b, 0x1040001e900100000⟩ M) (hK : Keeps M s0 s) :
    Good M s0 (execSlotEnd s) := by
  unfold execSlotEnd
  repeat' first
    | with_reducible assumption
    | ((with_reducible apply hM.of) <;> rfl)
    | with_reducible apply State.slotOver_keeps
    | with_reducible apply Good.ite
    | with_reducible apply Good.next
    | with_reducible apply Keeps.ite
    | split
    | dsimp -zeta only

theorem State.macStart_keeps {M : Mask} {s0 : State} {s : State} (hM : Sub ⟨0x8000d, 0x414000000100000⟩ M) (hK : Keeps M s0 s) :
    Keeps M s0 (State.macStart s) := by
  unfold State.macStart
  repeat' first
    | with_reducible assumption
    | ((with_reducible apply hM.of) <;> rfl)
    | with_reducible apply Wr.MAC_STAT
    | ((with_reducible apply hM.reg); decide)
    | with_reducible apply hM.bit
    | with_reducible apply State.wf_keeps
    | with_reducible apply State.scanStart_keeps
    | with_reducible apply Keeps.ite
    | (extract_lets +onlyGivenNames x1; with_reducible refine Cut x1 ?_ ?_)
    | (intro _; clear_value x1; revert x1; intro _ _)
    | subst x1
    | (extract_lets +onlyGivenNames x1; subst x1)
    | exact rfl
    | split
    | with_reducible apply Keeps.set_mac

theorem State.macStop_keeps {M : Mask} {s0 : State} {s : State} (hM : Sub ⟨0x8000d, 0x400840000100000⟩ M) (hK : Keeps M s0 s) :
    Keeps M s0 (State.macStop s) := by
  unfold State.macStop
  repeat' first
    | with_reducible assumption
    | ((with_reducible apply hM.of) <;> rfl)
    | with_reducible apply Wr.MAC_STAT
    | ((with_reducible apply hM.reg); decide)
    | with_reducible apply hM.bit
    | with_reducible apply State.wf_keeps
    | with_reducible apply State.calPoll_keeps
    | with_reducible apply State.sendDone_keeps
    | (with_reducible apply Keeps.foldl; intro _ _ _)
    | (extract_lets +onlyGivenNames x1; with_reducible refine Cut x1 ?_ ?_)
    | (intro _; clear_value x1; revert x1; intro _ _)
    | subst x1
    | (extract_lets +onlyGivenNames x1; subst x1)
    | exact rfl
    | split
    | with_reducible apply Keeps.set_mac

theorem State.macCtlWrite_keeps {M : Mask} {s0 : State} {w : Word} {s : State} (hM : Sub ⟨0x8000d, 0x614840000100000⟩ M) (hK : Keeps M s0 s) :
    Keeps M s0 (State.macCtlWrite w s) := by
  unfold State.macCtlWrite
  repeat' first
    | with_reducible assumption
    | ((with_reducible apply hM.of) <;> rfl)
    | with_reducible apply Wr.MAC_CTL
    | with_reducible apply Wr.MAC_STAT
    | refine WrBad.of (by exact rfl) ?_
    | ((with_reducible apply hM.reg); decide)
    | with_reducible apply State.wb_keeps
    | with_reducible apply State.flag_keeps
    | with_reducible apply State.writeReg_keeps
    | with_reducible apply State.macStart_keeps
    | with_reducible apply State.macStop_keeps
    | with_reducible apply Keeps.ite
    | (extract_lets +onlyGivenNames x1; with_reducible refine Cut x1 ?_ ?_)
    | (intro _; clear_value x1; revert x1; intro _ _)
    | subst x1
    | (extract_lets +onlyGivenNames x1; subst x1)
    | exact rfl
    | split
    | dsimp -zeta only

theorem State.macLbtWrite_keeps {M : Mask} {s0 : State} {w : Word} {s : State} (hM : Sub ⟨0x80000, 0x2400000000000000⟩ M) (hK : Keeps M s0 s) :
    Keeps M s0 (State.macLbtWrite w s) := by
  unfold State.macLbtWrite
  repeat' first
    | with_reducible assumption
    | ((with_reducible apply hM.of) <;> rfl)
    | with_reducible apply Wr.MAC_STAT
    | with_reducible apply Wr.MAC_LBT
    | refine WrBad.of (by exact rfl) ?_
    | ((with_reducible apply hM.reg); decide)
    | with_reducible apply State.flag_keeps
    | with_reducible apply State.writeReg_keeps
    | with_reducible apply Keeps.ite
    | (extract_lets +onlyGivenNames x1; with_reducible refine Cut x1 ?_ ?_)
    | (intro _; clear_value x1; revert x1; intro _ _)
    | subst x1
    | (extract_lets +onlyGivenNames x1; subst x1)
    | exact rfl
    | split
    | dsimp -zeta only

theorem State.putEntries_keeps {M : Mask} {s0 : State} {es : List (List Byte)} {s : State} (hM : Sub ⟨0x80001, 0x100000⟩ M) (hK : Keeps M s0 s) :
    Keeps M s0 (State.putEntries es s) := by
  unfold State.putEntries
  repeat' first
    | with_reducible assumption
    | ((with_reducible apply hM.of) <;> rfl)
    | with_reducible apply Wr.HRI_STAT
    | ((with_reducible apply hM.reg); decide)
    | with_reducible apply State.flag_keeps
    | with_reducible apply State.modQ_keeps
    | with_reducible apply State.hostWrite_keeps
    | with_reducible apply State.post_keeps
    | with_reducible apply Keeps.ite
    | (with_reducible apply Keeps.foldl; intro _ _ _)
    | (extract_lets +onlyGivenNames x1; with_reducible refine Cut x1 ?_ ?_)
    | (intro _; clear_value x1; revert x1; intro _ _)
    | subst x1
    | (extract_lets +onlyGivenNames x1; subst x1)
    | exact rfl
    | split
    | dsimp -zeta only

theorem execDeliverRx_keeps {M : Mask} {s0 : State} {sram : SramRead} {s : State} (hM : Sub ⟨0x80001, 0x100004⟩ M) (hK : Keeps M s0 s) :
    Good M s0 (execDeliverRx sram s) := by
  unfold execDeliverRx
  repeat' first
    | with_reducible assumption
    | ((with_reducible apply hM.of) <;> rfl)
    | with_reducible apply hM.bit
    | with_reducible apply State.ringWritten_keeps
    | with_reducible apply State.gatherRead_keeps
    | with_reducible apply State.putEntries_keeps
    | with_reducible apply Good.ite
    | (with_reducible apply Keeps.foldl; intro _ _ _)
    | with_reducible apply Good.next
    | with_reducible apply Keeps.ite
    | (extract_lets +onlyGivenNames x1; with_reducible refine Cut x1 ?_ ?_)
    | (intro _; clear_value x1; revert x1; intro _ _)
    | subst x1
    | (extract_lets +onlyGivenNames x1; subst x1)
    | exact rfl
    | split
    | with_reducible apply Keeps.set_hri

end Sys2Proof.Machine
end

