-- ==== Sys2Proof/Laws/KeepsSend.lean ====
section
/-! SUPPORT. What each operation of Machine/Send.lean keeps (Laws/Keeps.lean says what that means). -/

namespace Sys2Proof.Machine

theorem State.newBackoff_keeps {M : Mask} {s0 : State} {be : Nat} {s : State} (hM : Sub ⟨0x40000, 0x0⟩ M) (hK : Keeps M s0 s) :
    Keeps2 M s0 (State.newBackoff be s) := by
  unfold State.newBackoff
  repeat' first
    | with_reducible assumption
    | ((with_reducible apply hM.of) <;> rfl)
    | with_reducible apply State.freeNat_keeps
    | (with_reducible apply Keeps2.of; with_reducible assumption)
    | with_reducible apply Keeps2.snd
    | (extract_lets +onlyGivenNames x1; with_reducible refine Cut x1 ?_ ?_)
    | (intro _; clear_value x1; revert x1; intro _ _)
    | subst x1
    | (extract_lets +onlyGivenNames x1; subst x1)
    | split
    | with_reducible apply Keeps2.mk
    | dsimp -zeta only

theorem State.sendStart_keeps {M : Mask} {s0 : State} {c : Cmd} {f : MacFrame} {s : State} (hM : Sub ⟨0x40809, 0x0⟩ M) (hK : Keeps M s0 s) :
    Keeps M s0 (State.sendStart c f s) := by
  unfold State.sendStart
  repeat' first
    | with_reducible assumption
    | ((with_reducible apply hM.of) <;> rfl)
    | with_reducible apply hM.bit
    | with_reducible apply State.modQ_keeps
    | with_reducible apply State.newBackoff_keeps
    | with_reducible apply Keeps.ite
    | (with_reducible apply Keeps2.of; with_reducible assumption)
    | with_reducible apply Keeps2.snd
    | (extract_lets +onlyGivenNames x1; with_reducible refine Cut x1 ?_ ?_)
    | (intro _; clear_value x1; revert x1; intro _ _)
    | subst x1
    | (extract_lets +onlyGivenNames x1; subst x1)
    | exact rfl
    | split
    | with_reducible apply Keeps.set_mac
    | with_reducible apply Keeps.set_power
    | with_reducible apply Keeps.set_mac_power
    | ((with_reducible apply hM.sub); rfl)
    | with_reducible apply Keeps2.mk

theorem State.keyReady_keeps {M : Mask} {s0 : State} {k : Nat} {s : State} (hM : Sub ⟨0x80009, 0x400000000100000⟩ M) (hK : Keeps M s0 s) :
    Keeps2 M s0 (State.keyReady k s) := by
  unfold State.keyReady
  repeat' first
    | with_reducible assumption
    | ((with_reducible apply hM.of) <;> rfl)
    | with_reducible apply State.keyExh_keeps
    | with_reducible apply Keeps2.ite
    | with_reducible apply Keeps.ite
    | split
    | with_reducible apply Keeps2.mk
    | dsimp -zeta only

theorem State.send_keeps {M : Mask} {s0 : State} {c : Cmd} {segs : Segs} {frame : Option MacFrame} {sram : SramRead} {s : State} (hM : Sub ⟨0xc0809, 0x400000000100004⟩ M) (hK : Keeps M s0 s) :
    Keeps M s0 (State.send c segs frame sram s) := by
  unfold State.send
  repeat' first
    | with_reducible assumption
    | ((with_reducible apply hM.of) <;> rfl)
    | with_reducible apply State.gatherRead_keeps
    | with_reducible apply State.fail_keeps
    | with_reducible apply State.declined_keeps
    | with_reducible apply State.sendStart_keeps
    | with_reducible apply State.keyReady_keeps
    | with_reducible apply Keeps.ite
    | (with_reducible apply Keeps2.of; with_reducible assumption)
    | with_reducible apply Keeps2.snd
    | (extract_lets +onlyGivenNames x1; with_reducible refine Cut x1 ?_ ?_)
    | (intro _; clear_value x1; revert x1; intro _ _)
    | subst x1
    | (extract_lets +onlyGivenNames x1; subst x1)
    | split
    | with_reducible apply Keeps2.mk
    | dsimp -zeta only

theorem execSendFrame_keeps {M : Mask} {s0 : State} {tag : Half} {segs : Segs} {frame : Option MacFrame} {sram : SramRead} {s : State} (hM : Sub ⟨0xc0809, 0x400000000100004⟩ M) (hK : Keeps M s0 s) :
    Good M s0 (execSendFrame tag segs frame sram s) := by
  unfold execSendFrame
  repeat' first
    | with_reducible assumption
    | ((with_reducible apply hM.of) <;> rfl)
    | with_reducible apply State.send_keeps
    | with_reducible apply Good.ite
    | with_reducible apply Good.next
    | with_reducible apply Keeps.ite
    | split
    | dsimp -zeta only

theorem State.modSend_keeps {M : Mask} {s0 : State} {tag : Half} {f : SendOp → SendOp} {s : State} (hM : Sub ⟨0x8, 0x0⟩ M) (hK : Keeps M s0 s) :
    Keeps M s0 (State.modSend tag f s) := by
  unfold State.modSend
  repeat' first
    | with_reducible assumption
    | ((with_reducible apply hM.of) <;> rfl)
    | with_reducible apply hM.bit
    | with_reducible apply Keeps.ite
    | exact rfl
    | split
    | with_reducible apply Keeps.set_mac

theorem execLbtBackoffExpiry_keeps {M : Mask} {s0 : State} {tag : Half} {fits : Bool} {s : State} (hM : Sub ⟨0xc, 0x0⟩ M) (hK : Keeps M s0 s) :
    Good M s0 (execLbtBackoffExpiry tag fits s) := by
  unfold execLbtBackoffExpiry
  repeat' first
    | with_reducible assumption
    | ((with_reducible apply hM.of) <;> rfl)
    | with_reducible apply State.energyStart_keeps
    | with_reducible apply State.modSend_keeps
    | with_reducible apply Good.ite
    | with_reducible apply Good.next
    | with_reducible apply Keeps.ite
    | split
    | dsimp -zeta only

theorem State.measured_keeps {M : Mask} {s0 : State} {x : SendOp} {rssi : BitVec 16} {s : State} (hM : Sub ⟨0xc0009, 0x8000000000100000⟩ M) (hK : Keeps M s0 s) :
    Keeps M s0 (State.measured x rssi s) := by
  unfold State.measured
  repeat' first
    | with_reducible assumption
    | ((with_reducible apply hM.of) <;> rfl)
    | with_reducible apply Wr.MAC_CNT
    | ((with_reducible apply hM.reg); decide)
    | with_reducible apply State.count_keeps
    | with_reducible apply State.sendDone_keeps
    | with_reducible apply State.newBackoff_keeps
    | with_reducible apply State.modSend_keeps
    | with_reducible apply Keeps.ite
    | (with_reducible apply Keeps2.of; with_reducible assumption)
    | with_reducible apply Keeps2.snd
    | (extract_lets +onlyGivenNames x1; with_reducible refine Cut x1 ?_ ?_)
    | (intro _; clear_value x1; revert x1; intro _ _)
    | subst x1
    | (extract_lets +onlyGivenNames x1; subst x1)
    | exact rfl
    | split
    | with_reducible apply Keeps2.mk
    | dsimp -zeta only

theorem execEnergyDetectDone_keeps {M : Mask} {s0 : State} {ch : RxChan} {rssi : BitVec 16} {s : State} (hM : Sub ⟨0xc000d, 0x8000000000100000⟩ M) (hK : Keeps M s0 s) :
    Good M s0 (execEnergyDetectDone ch rssi s) := by
  unfold execEnergyDetectDone
  repeat' first
    | with_reducible assumption
    | ((with_reducible apply hM.of) <;> rfl)
    | with_reducible apply State.setChain_keeps
    | with_reducible apply State.measured_keeps
    | with_reducible apply Good.ite
    | with_reducible apply Good.next
    | with_reducible apply Keeps.ite
    | (extract_lets +onlyGivenNames x1; with_reducible refine Cut x1 ?_ ?_)
    | (intro _; clear_value x1; revert x1; intro _ _)
    | subst x1
    | (extract_lets +onlyGivenNames x1; subst x1)
    | split
    | dsimp -zeta only

theorem State.ackGone_keeps {M : Mask} {s0 : State} {c : Chain} {s : State} (hM : Sub ⟨0x8, 0x0⟩ M) (hK : Keeps M s0 s) :
    Keeps M s0 (State.ackGone c s) := by
  unfold State.ackGone
  repeat' first
    | with_reducible assumption
    | ((with_reducible apply hM.of) <;> rfl)
    | with_reducible apply hM.bit
    | exact rfl
    | split
    | with_reducible apply Keeps.set_mac

theorem State.strobeFail_keeps {M : Mask} {s0 : State} {t : TxReq} {why : Nat} {s : State} (hM : Sub ⟨0x80009, 0x8100040000100000⟩ M) (hK : Keeps M s0 s) :
    Keeps M s0 (State.strobeFail t why s) := by
  unfold State.strobeFail
  repeat' first
    | with_reducible assumption
    | ((with_reducible apply hM.of) <;> rfl)
    | with_reducible apply Wr.MAC_CNT
    | ((with_reducible apply hM.reg); decide)
    | with_reducible apply hM.bit
    | with_reducible apply State.count_keeps
    | with_reducible apply State.loLost_keeps
    | with_reducible apply State.sendDone_keeps
    | with_reducible apply State.ackGone_keeps
    | with_reducible apply Keeps.ite
    | (extract_lets +onlyGivenNames x1; with_reducible refine Cut x1 ?_ ?_)
    | (intro _; clear_value x1; revert x1; intro _ _)
    | subst x1
    | (extract_lets +onlyGivenNames x1; subst x1)
    | exact rfl
    | split
    | with_reducible apply Keeps.set_mac

theorem State.sendSeal_keeps {M : Mask} {s0 : State} {x : SendOp} {s : State} (hM : Sub ⟨0xc0029, 0x30400000000100000⟩ M) (hK : Keeps M s0 s) :
    Keeps2 M s0 (State.sendSeal x s) := by
  unfold State.sendSeal
  repeat' first
    | with_reducible assumption
    | ((with_reducible apply hM.of) <;> rfl)
    | with_reducible apply State.ctxNote_keeps
    | with_reducible apply State.preempt_keeps
    | with_reducible apply State.takeFc_keeps
    | with_reducible apply State.modSend_keeps
    | with_reducible apply Keeps2.ite
    | with_reducible apply Keeps.ite
    | (with_reducible apply Keeps2.of; with_reducible assumption)
    | with_reducible apply Keeps2.snd
    | (extract_lets +onlyGivenNames x1; with_reducible refine Cut x1 ?_ ?_)
    | (intro _; clear_value x1; revert x1; intro _ _)
    | subst x1
    | (extract_lets +onlyGivenNames x1; subst x1)
    | split
    | with_reducible apply Keeps2.mk
    | dsimp -zeta only

theorem State.strobeSend_keeps {M : Mask} {s0 : State} {t : TxReq} {f : Option MacFrame} {s : State} (hM : Sub ⟨0x80804, 0x100040000000000⟩ M) (hK : Keeps M s0 s) :
    Keeps M s0 (State.strobeSend t f s) := by
  unfold State.strobeSend
  repeat' first
    | with_reducible assumption
    | ((with_reducible apply hM.of) <;> rfl)
    | with_reducible apply State.setChain_keeps
    | with_reducible apply State.strobe_keeps
    | (extract_lets +onlyGivenNames x1; with_reducible refine Cut x1 ?_ ?_)
    | (intro _; clear_value x1; revert x1; intro _ _)
    | subst x1
    | (extract_lets +onlyGivenNames x1; subst x1)
    | split
    | dsimp -zeta only

theorem State.strobeGo_keeps {M : Mask} {s0 : State} {t : TxReq} {s : State} (hM : Sub ⟨0xc082d, 0x30500040000100000⟩ M) (hK : Keeps M s0 s) :
    Keeps M s0 (State.strobeGo t s) := by
  unfold State.strobeGo
  repeat' first
    | with_reducible assumption
    | ((with_reducible apply hM.of) <;> rfl)
    | with_reducible apply hM.bit
    | with_reducible apply State.sendDone_keeps
    | with_reducible apply State.modSend_keeps
    | with_reducible apply State.sendSeal_keeps
    | with_reducible apply State.strobeSend_keeps
    | with_reducible apply Keeps.ite
    | (with_reducible apply Keeps2.of; with_reducible assumption)
    | with_reducible apply Keeps2.snd
    | exact rfl
    | split
    | with_reducible apply Keeps.set_mac
    | with_reducible apply Keeps2.mk

theorem State.ackSkip_keeps {M : Mask} {s0 : State} {c : Chain} {s : State} (hM : Sub ⟨0x80008, 0x8000000000000000⟩ M) (hK : Keeps M s0 s) :
    Keeps M s0 (State.ackSkip c s) := by
  unfold State.ackSkip
  repeat' first
    | with_reducible assumption
    | ((with_reducible apply hM.of) <;> rfl)
    | with_reducible apply Wr.MAC_CNT
    | ((with_reducible apply hM.reg); decide)
    | with_reducible apply State.count_keeps
    | with_reducible apply State.ackGone_keeps
    | with_reducible apply Keeps.ite
    | exact rfl
    | split
    | dsimp -zeta only

theorem execStartStrobe_keeps {M : Mask} {s0 : State} {who : TxWho} {chain : Chain} {locked : Bool} {s : State} (hM : Sub ⟨0xc082d, 0x38500040000100000⟩ M) (hK : Keeps M s0 s) :
    Good M s0 (execStartStrobe who chain locked s) := by
  unfold execStartStrobe
  repeat' first
    | with_reducible assumption
    | ((with_reducible apply hM.of) <;> rfl)
    | with_reducible apply Wr.MAC_CNT
    | ((with_reducible apply hM.reg); decide)
    | with_reducible apply State.count_keeps
    | with_reducible apply State.ackGone_keeps
    | with_reducible apply State.strobeFail_keeps
    | with_reducible apply State.strobeGo_keeps
    | with_reducible apply State.ackSkip_keeps
    | with_reducible apply Good.ite
    | with_reducible apply Good.next
    | with_reducible apply Keeps.ite
    | exact rfl
    | split
    | dsimp -zeta only

theorem State.sendSent_keeps {M : Mask} {s0 : State} {tag : Half} {e : Word} {s : State} (hM : Sub ⟨0x80009, 0x100000⟩ M) (hK : Keeps M s0 s) :
    Keeps M s0 (State.sendSent tag e s) := by
  unfold State.sendSent
  repeat' first
    | with_reducible assumption
    | ((with_reducible apply hM.of) <;> rfl)
    | with_reducible apply hM.bit
    | with_reducible apply State.sendDone_keeps
    | with_reducible apply State.modSend_keeps
    | with_reducible apply Keeps.ite
    | exact rfl
    | split
    | with_reducible apply Keeps.set_mac

theorem State.rampDown_keeps {M : Mask} {s0 : State} {c : Chain} {t : TxReq} {s : State} (hM : Sub ⟨0x8034d, 0x90000000013440c010008100840000100000⟩ M) (hK : Keeps M s0 s) :
    Keeps M s0 (State.rampDown c t s) := by
  unfold State.rampDown
  repeat' first
    | with_reducible assumption
    | ((with_reducible apply hM.of) <;> rfl)
    | with_reducible apply Wr.MAC_CNT
    | ((with_reducible apply hM.reg); decide)
    | with_reducible apply State.count_keeps
    | with_reducible apply State.raise_keeps
    | with_reducible apply State.calPoll_keeps
    | with_reducible apply State.timerTo_keeps
    | with_reducible apply State.txOff_keeps
    | with_reducible apply State.ackGone_keeps
    | with_reducible apply State.sendSent_keeps
    | (extract_lets +onlyGivenNames x1; with_reducible refine Cut x1 ?_ ?_)
    | (intro _; clear_value x1; revert x1; intro _ _)
    | subst x1
    | (extract_lets +onlyGivenNames x1; subst x1)
    | exact rfl
    | split
    | dsimp -zeta only

theorem execTxRampDownEnd_keeps {M : Mask} {s0 : State} {chain : Chain} {s : State} (hM : Sub ⟨0x8034d, 0x90000000013440c010008100840000100000⟩ M) (hK : Keeps M s0 s) :
    Good M s0 (execTxRampDownEnd chain s) := by
  unfold execTxRampDownEnd
  repeat' first
    | with_reducible assumption
    | ((with_reducible apply hM.of) <;> rfl)
    | with_reducible apply State.rampDown_keeps
    | with_reducible apply Good.next
    | split
    | dsimp -zeta only

theorem State.txAbandon_keeps {M : Mask} {s0 : State} {c : Chain} {why : Nat} {s : State} (hM : Sub ⟨0x8000d, 0x100840000100000⟩ M) (hK : Keeps M s0 s) :
    Keeps M s0 (State.txAbandon c why s) := by
  unfold State.txAbandon
  repeat' first
    | with_reducible assumption
    | ((with_reducible apply hM.of) <;> rfl)
    | with_reducible apply State.post_keeps
    | with_reducible apply State.calPoll_keeps
    | with_reducible apply State.txOff_keeps
    | with_reducible apply State.sendDone_keeps
    | with_reducible apply State.ackGone_keeps
    | (extract_lets +onlyGivenNames x1; with_reducible refine Cut x1 ?_ ?_)
    | (intro _; clear_value x1; revert x1; intro _ _)
    | subst x1
    | (extract_lets +onlyGivenNames x1; subst x1)
    | split
    | dsimp -zeta only

theorem State.rfStops_keeps {M : Mask} {s0 : State} {s : State} {c : Chain} (hM : Sub ⟨0x80004, 0x840000000000⟩ M) (hK : Keeps M s0 s) :
    Keeps M s0 (State.rfStops s c) := by
  unfold State.rfStops
  repeat' first
    | with_reducible assumption
    | ((with_reducible apply hM.of) <;> rfl)
    | with_reducible apply State.setChain_keeps
    | with_reducible apply State.ch24Now_keeps
    | with_reducible apply State.unblank_keeps
    | with_reducible apply State.calShow_keeps
    | with_reducible apply Keeps.ite
    | (extract_lets +onlyGivenNames x1; with_reducible refine Cut x1 ?_ ?_)
    | (intro _; clear_value x1; revert x1; intro _ _)
    | subst x1
    | (extract_lets +onlyGivenNames x1; subst x1)
    | split
    | dsimp -zeta only

theorem State.railFall_keeps {M : Mask} {s0 : State} {r : RadioRail} {s : State} (hM : Sub ⟨0x8000d, 0x100840000100000⟩ M) (hK : Keeps M s0 s) :
    Keeps M s0 (State.railFall r s) := by
  unfold State.railFall
  repeat' first
    | with_reducible assumption
    | ((with_reducible apply hM.of) <;> rfl)
    | with_reducible apply State.setRail_keeps
    | with_reducible apply State.railShow_keeps
    | with_reducible apply State.txAbandon_keeps
    | with_reducible apply State.rfStops_keeps
    | with_reducible apply Keeps.ite
    | (with_reducible apply Keeps.foldl; intro _ _ _)
    | (extract_lets +onlyGivenNames x1; with_reducible refine Cut x1 ?_ ?_)
    | (intro _; clear_value x1; revert x1; intro _ _)
    | subst x1
    | (extract_lets +onlyGivenNames x1; subst x1)
    | split
    | dsimp -zeta only

theorem execRadioRailFall_keeps {M : Mask} {s0 : State} {rail : RadioRail} {s : State} (hM : Sub ⟨0x8000d, 0x100840000100000⟩ M) (hK : Keeps M s0 s) :
    Good M s0 (execRadioRailFall rail s) := by
  unfold execRadioRailFall
  repeat' first
    | with_reducible assumption
    | ((with_reducible apply hM.of) <;> rfl)
    | with_reducible apply hM.bit
    | with_reducible apply State.setRail_keeps
    | with_reducible apply State.railFall_keeps
    | with_reducible apply Good.ite
    | with_reducible apply Good.next
    | with_reducible apply Keeps.ite
    | (extract_lets +onlyGivenNames x1; with_reducible refine Cut x1 ?_ ?_)
    | (intro _; clear_value x1; revert x1; intro _ _)
    | subst x1
    | (extract_lets +onlyGivenNames x1; subst x1)
    | exact rfl
    | split
    | with_reducible apply Keeps.set_radio

theorem execTxSynthLockLoss_keeps {M : Mask} {s0 : State} {s : State} (hM : Sub ⟨0x8000d, 0x100840000100000⟩ M) (hK : Keeps M s0 s) :
    Good M s0 (execTxSynthLockLoss s) := by
  unfold execTxSynthLockLoss
  repeat' first
    | with_reducible assumption
    | ((with_reducible apply hM.of) <;> rfl)
    | with_reducible apply Wr.RFS_STAT
    | ((with_reducible apply hM.reg); decide)
    | with_reducible apply State.wb_keeps
    | with_reducible apply State.txAbandon_keeps
    | with_reducible apply Good.ite
    | with_reducible apply Good.next
    | with_reducible apply Keeps.ite
    | exact rfl
    | split
    | dsimp -zeta only

theorem execAckWaitTimeout_keeps {M : Mask} {s0 : State} {tag : Half} {s : State} (hM : Sub ⟨0xc0009, 0x8000000000100000⟩ M) (hK : Keeps M s0 s) :
    Good M s0 (execAckWaitTimeout tag s) := by
  unfold execAckWaitTimeout
  repeat' first
    | with_reducible assumption
    | ((with_reducible apply hM.of) <;> rfl)
    | with_reducible apply Wr.MAC_CNT
    | ((with_reducible apply hM.reg); decide)
    | with_reducible apply State.count_keeps
    | with_reducible apply State.sendDone_keeps
    | with_reducible apply State.newBackoff_keeps
    | with_reducible apply State.modSend_keeps
    | with_reducible apply Good.ite
    | with_reducible apply Good.next
    | with_reducible apply Keeps.ite
    | (with_reducible apply Keeps2.of; with_reducible assumption)
    | with_reducible apply Keeps2.snd
    | (extract_lets +onlyGivenNames x1; with_reducible refine Cut x1 ?_ ?_)
    | (intro _; clear_value x1; revert x1; intro _ _)
    | subst x1
    | (extract_lets +onlyGivenNames x1; subst x1)
    | exact rfl
    | split
    | with_reducible apply Keeps2.mk
    | dsimp -zeta only

end Sys2Proof.Machine
end

