-- ==== Sys2Proof/Laws/KeepsPower.lean ====
section
/-! SUPPORT. What each operation of Machine/Power.lean keeps (Laws/Keeps.lean says what that means). -/

namespace Sys2Proof.Machine

theorem State.showFixed_keeps {M : Mask} {s0 : State} {s : State} (hM : Sub ⟨0x80000, 0x82000000400000000000140000000010008000⟩ M) (hK : Keeps M s0 s) :
    Keeps M s0 (State.showFixed s) := by
  unfold State.showFixed
  repeat' first
    | with_reducible assumption
    | ((with_reducible apply hM.of) <;> rfl)
    | with_reducible apply Wr.RST_STAT
    | with_reducible apply Wr.STO_STAT
    | with_reducible apply Wr.HLT_STAT
    | with_reducible apply Wr.SMB_STAT
    | ((with_reducible apply hM.reg); decide)
    | with_reducible apply State.wf_keeps
    | with_reducible apply State.wb_keeps
    | with_reducible apply State.cflShow_keeps
    | with_reducible apply State.keyShow_keeps
    | (extract_lets +onlyGivenNames x1; with_reducible refine Cut x1 ?_ ?_)
    | (intro _; clear_value x1; revert x1; intro _ _)
    | subst x1
    | (extract_lets +onlyGivenNames x1; subst x1)
    | exact rfl
    | split
    | dsimp -zeta only

theorem State.cut_keeps {M : Mask} {s0 : State} {s : State} (hM : Sub ⟨0x9ffff, 0x8082000000400400000000140000000010008000⟩ M) (h : Keeps M s0 s) :
    Keeps M s0 (State.cut s) := by
  unfold State.cut
  extract_lets s1 s2
  have k : Keeps M s0 s2 := State.resetRegs_keeps (hM.of rfl rfl) (State.lehrCut_keeps (hM.of rfl rfl)
    (State.keysCut_keeps (hM.of rfl rfl) (State.jnlCut_keeps (hM.of rfl rfl) (State.flashCut_keeps (hM.of rfl rfl) h))))
  clear_value s2
  refine State.showFixed_keeps (hM.of rfl rfl) (Keeps.upd' (m := 0x1ebcf#20) (hM.sub rfl) k ⟨rfl, .inl rfl, .inl rfl, .inl rfl, .inl rfl, .inr rfl, .inr rfl, .inl rfl, .inl rfl, .inl rfl, .inl rfl, .inr rfl, .inl rfl, .inr rfl, .inl rfl, .inl rfl, .inl rfl, .inl rfl, .inr rfl, .inr rfl, .inr rfl⟩ ?_
    (.of_eq rfl rfl rfl rfl rfl) fun _ _ => rfl)
  simp only [State.memWf, Bool.and_eq_true]
  exact fun ⟨⟨⟨a, _⟩, c⟩, d⟩ => ⟨⟨⟨a, rfl⟩, c⟩, d⟩

theorem State.deviceReset_keeps {M : Mask} {s0 : State} {c : Nat} {s : State} (hM : Sub ⟨0x9ffff, 0x808200000040040000000014000000001000a000⟩ M) (hK : Keeps M s0 s) :
    Keeps M s0 (State.deviceReset c s) := by
  unfold State.deviceReset
  repeat' first
    | with_reducible assumption
    | ((with_reducible apply hM.of) <;> rfl)
    | with_reducible apply Wr.RST_CAUSE
    | ((with_reducible apply hM.reg); decide)
    | with_reducible apply State.flag_keeps
    | with_reducible apply State.cut_keeps
    | with_reducible apply Keeps.ite
    | exact rfl
    | split
    | dsimp -zeta only

theorem State.leaveReset_keeps {M : Mask} {s0 : State} {s : State} (hM : Sub ⟨0x80800, 0x10⟩ M) (hK : Keeps M s0 s) :
    Keeps M s0 (State.leaveReset s) := by
  unfold State.leaveReset
  repeat' first
    | with_reducible assumption
    | ((with_reducible apply hM.of) <;> rfl)
    | with_reducible apply hM.bit
    | with_reducible apply State.ready_keeps
    | with_reducible apply Keeps.ite
    | exact rfl
    | split
    | with_reducible apply Keeps.set_power

theorem State.powerOnReset_keeps {M : Mask} {s0 : State} {s : State} (hM : Sub ⟨0x9ffff, 0x8082000000400400000000140000000010008000⟩ M) (hK : Keeps M s0 s) :
    Keeps M s0 (State.powerOnReset s) := by
  unfold State.powerOnReset
  repeat' first
    | with_reducible assumption
    | ((with_reducible apply hM.of) <;> rfl)
    | with_reducible apply hM.bit
    | with_reducible apply State.resetRegs_keeps
    | with_reducible apply State.showFixed_keeps
    | with_reducible apply State.cut_keeps
    | (extract_lets +onlyGivenNames x1; with_reducible refine Cut x1 ?_ ?_)
    | (intro _; clear_value x1; revert x1; intro _ _)
    | subst x1
    | (extract_lets +onlyGivenNames x1; subst x1)
    | exact rfl
    | split
    | with_reducible apply Keeps.set_power

theorem execPornAssert_keeps {M : Mask} {s0 : State} {s : State} (hM : Sub ⟨0x9ffff, 0x8082000000400400000000140000000010008000⟩ M) (hK : Keeps M s0 s) :
    Good M s0 (execPornAssert s) := by
  unfold execPornAssert
  repeat' first
    | with_reducible assumption
    | ((with_reducible apply hM.of) <;> rfl)
    | with_reducible apply hM.bit
    | with_reducible apply State.powerOnReset_keeps
    | with_reducible apply Good.ite
    | with_reducible apply Good.next
    | with_reducible apply Keeps.ite
    | (extract_lets +onlyGivenNames x1; with_reducible refine Cut x1 ?_ ?_)
    | (intro _; clear_value x1; revert x1; intro _ _)
    | subst x1
    | (extract_lets +onlyGivenNames x1; subst x1)
    | exact rfl
    | split
    | with_reducible apply Keeps.set_power

theorem execPornRelease_keeps {M : Mask} {s0 : State} {s : State} (hM : Sub ⟨0x80800, 0x2010⟩ M) (hK : Keeps M s0 s) :
    Good M s0 (execPornRelease s) := by
  unfold execPornRelease
  repeat' first
    | with_reducible assumption
    | ((with_reducible apply hM.of) <;> rfl)
    | with_reducible apply Wr.RST_CAUSE
    | ((with_reducible apply hM.reg); decide)
    | with_reducible apply hM.bit
    | with_reducible apply State.wb_keeps
    | with_reducible apply State.leaveReset_keeps
    | with_reducible apply Good.ite
    | with_reducible apply Good.next
    | with_reducible apply Keeps.ite
    | (extract_lets +onlyGivenNames x1; with_reducible refine Cut x1 ?_ ?_)
    | (intro _; clear_value x1; revert x1; intro _ _)
    | subst x1
    | (extract_lets +onlyGivenNames x1; subst x1)
    | exact rfl
    | split
    | with_reducible apply Keeps.set_power

theorem execSysrstnAssert_keeps {M : Mask} {s0 : State} {s : State} (hM : Sub ⟨0x9ffff, 0x808200000040040000000014000000001000a000⟩ M) (hK : Keeps M s0 s) :
    Good M s0 (execSysrstnAssert s) := by
  unfold execSysrstnAssert
  repeat' first
    | with_reducible assumption
    | ((with_reducible apply hM.of) <;> rfl)
    | with_reducible apply hM.bit
    | with_reducible apply State.deviceReset_keeps
    | with_reducible apply Good.next
    | exact rfl
    | split
    | with_reducible apply Keeps.set_power

theorem execSysrstnRelease_keeps {M : Mask} {s0 : State} {s : State} (hM : Sub ⟨0x80800, 0x10⟩ M) (hK : Keeps M s0 s) :
    Good M s0 (execSysrstnRelease s) := by
  unfold execSysrstnRelease
  repeat' first
    | with_reducible assumption
    | ((with_reducible apply hM.of) <;> rfl)
    | with_reducible apply hM.bit
    | with_reducible apply State.leaveReset_keeps
    | with_reducible apply Good.next
    | exact rfl
    | split
    | with_reducible apply Keeps.set_power

theorem execSequenceError_keeps {M : Mask} {s0 : State} {rails : List Rail} {radio : List RadioRail} {s : State} (hM : Sub ⟨0x9ffff, 0x8082000000400400000000140000000010008010⟩ M) (hK : Keeps M s0 s) :
    Good M s0 (execSequenceError rails radio s) := by
  unfold execSequenceError
  repeat' first
    | with_reducible assumption
    | ((with_reducible apply hM.of) <;> rfl)
    | with_reducible apply hM.bit
    | with_reducible apply State.cut_keeps
    | with_reducible apply State.leaveReset_keeps
    | with_reducible apply Good.ite
    | with_reducible apply Good.next
    | with_reducible apply Keeps.ite
    | (extract_lets +onlyGivenNames x1; with_reducible refine Cut x1 ?_ ?_)
    | (intro _; clear_value x1; revert x1; intro _ _)
    | subst x1
    | (extract_lets +onlyGivenNames x1; subst x1)
    | exact rfl
    | split
    | with_reducible apply Keeps.set_power

theorem execBrownout_keeps {M : Mask} {s0 : State} {rail : Rail} {s : State} (hM : Sub ⟨0x9ffff, 0x808200000040040000000014000000001000a000⟩ M) (hK : Keeps M s0 s) :
    Good M s0 (execBrownout rail s) := by
  unfold execBrownout
  repeat' first
    | with_reducible assumption
    | ((with_reducible apply hM.of) <;> rfl)
    | with_reducible apply hM.bit
    | with_reducible apply State.deviceReset_keeps
    | with_reducible apply Good.ite
    | with_reducible apply Good.next
    | with_reducible apply Keeps.ite
    | (extract_lets +onlyGivenNames x1; with_reducible refine Cut x1 ?_ ?_)
    | (intro _; clear_value x1; revert x1; intro _ _)
    | subst x1
    | (extract_lets +onlyGivenNames x1; subst x1)
    | exact rfl
    | split
    | with_reducible apply Keeps.set_power

theorem execBrownoutRailRecover_keeps {M : Mask} {s0 : State} {rail : Rail} {s : State} (hM : Sub ⟨0x80800, 0x10⟩ M) (hK : Keeps M s0 s) :
    Good M s0 (execBrownoutRailRecover rail s) := by
  unfold execBrownoutRailRecover
  repeat' first
    | with_reducible assumption
    | ((with_reducible apply hM.of) <;> rfl)
    | with_reducible apply hM.bit
    | with_reducible apply State.leaveReset_keeps
    | with_reducible apply Good.next
    | (extract_lets +onlyGivenNames x1; with_reducible refine Cut x1 ?_ ?_)
    | (intro _; clear_value x1; revert x1; intro _ _)
    | subst x1
    | (extract_lets +onlyGivenNames x1; subst x1)
    | exact rfl
    | split
    | with_reducible apply Keeps.set_power

theorem execRadioRailRecover_keeps {M : Mask} {s0 : State} {rail : RadioRail} {s : State} (hM : Sub ⟨0x80804, 0x840000000010⟩ M) (hK : Keeps M s0 s) :
    Good M s0 (execRadioRailRecover rail s) := by
  unfold execRadioRailRecover
  repeat' first
    | with_reducible assumption
    | ((with_reducible apply hM.of) <;> rfl)
    | with_reducible apply hM.bit
    | with_reducible apply State.calPoll_keeps
    | with_reducible apply State.setRail_keeps
    | with_reducible apply State.leaveReset_keeps
    | with_reducible apply Good.ite
    | with_reducible apply Good.next
    | with_reducible apply Keeps.ite
    | (extract_lets +onlyGivenNames x1; with_reducible refine Cut x1 ?_ ?_)
    | (intro _; clear_value x1; revert x1; intro _ _)
    | subst x1
    | (extract_lets +onlyGivenNames x1; subst x1)
    | exact rfl
    | split
    | with_reducible apply Keeps.set_power

theorem State.refFail_keeps {M : Mask} {s0 : State} {s : State} (hM : Sub ⟨0x9ffff, 0x808200000040040000000014000000001000a000⟩ M) (hK : Keeps M s0 s) :
    Keeps M s0 (State.refFail s) := by
  unfold State.refFail
  repeat' first
    | with_reducible assumption
    | ((with_reducible apply hM.of) <;> rfl)
    | with_reducible apply hM.bit
    | with_reducible apply State.deviceReset_keeps
    | exact rfl
    | split
    | with_reducible apply Keeps.set_power

theorem execClockFail_keeps {M : Mask} {s0 : State} {s : State} (hM : Sub ⟨0x9ffff, 0x808200000040040000000014000000001000a000⟩ M) (hK : Keeps M s0 s) :
    Good M s0 (execClockFail s) := by
  unfold execClockFail
  repeat' first
    | with_reducible assumption
    | ((with_reducible apply hM.of) <;> rfl)
    | with_reducible apply State.refFail_keeps
    | with_reducible apply Good.ite
    | with_reducible apply Good.next
    | with_reducible apply Keeps.ite
    | split
    | dsimp -zeta only

theorem execPllLockLoss_keeps {M : Mask} {s0 : State} {p : Pll} {s : State} (hM : Sub ⟨0x9ffff, 0x808200000040040000000014000000001000a000⟩ M) (hK : Keeps M s0 s) :
    Good M s0 (execPllLockLoss p s) := by
  unfold execPllLockLoss
  repeat' first
    | with_reducible assumption
    | ((with_reducible apply hM.of) <;> rfl)
    | with_reducible apply State.refFail_keeps
    | with_reducible apply Good.ite
    | with_reducible apply Good.next
    | with_reducible apply Keeps.ite
    | split
    | dsimp -zeta only

theorem State.cdcLoss_keeps {M : Mask} {s0 : State} {doms : List Nat} {s : State} (hM : Sub ⟨0xc0000, 0x1000⟩ M) (hK : Keeps M s0 s) :
    Keeps M s0 (State.cdcLoss doms s) := by
  unfold State.cdcLoss
  repeat' first
    | with_reducible assumption
    | ((with_reducible apply hM.of) <;> rfl)
    | with_reducible apply Wr.CLK_CDCLOST
    | ((with_reducible apply hM.reg); decide)
    | with_reducible apply State.wf_keeps
    | with_reducible apply State.freeNat_keeps
    | with_reducible apply Keeps.ite
    | (with_reducible apply Keeps2.of; with_reducible assumption)
    | with_reducible apply Keeps2.snd
    | (extract_lets +onlyGivenNames x1; with_reducible refine Cut x1 ?_ ?_)
    | (intro _; clear_value x1; revert x1; intro _ _)
    | subst x1
    | (extract_lets +onlyGivenNames x1; subst x1)
    | exact rfl
    | split
    | with_reducible apply Keeps2.mk
    | dsimp -zeta only

theorem execPerstnAssert_keeps {M : Mask} {s0 : State} {s : State} (hM : Sub ⟨0xdffff, 0x808290000040053744c01014000000011018b000⟩ M) (hK : Keeps M s0 s) :
    Good M s0 (execPerstnAssert s) := by
  unfold execPerstnAssert
  repeat' first
    | with_reducible assumption
    | ((with_reducible apply hM.of) <;> rfl)
    | with_reducible apply Wr.RST_CAUSE
    | ((with_reducible apply hM.reg); decide)
    | with_reducible apply hM.bit
    | with_reducible apply State.flag_keeps
    | with_reducible apply State.hostLinkReset_keeps
    | with_reducible apply State.deviceReset_keeps
    | with_reducible apply State.cdcLoss_keeps
    | with_reducible apply Good.ite
    | with_reducible apply Good.next
    | with_reducible apply Keeps.ite
    | (extract_lets +onlyGivenNames x1; with_reducible refine Cut x1 ?_ ?_)
    | (intro _; clear_value x1; revert x1; intro _ _)
    | subst x1
    | (extract_lets +onlyGivenNames x1; subst x1)
    | exact rfl
    | split
    | with_reducible apply Keeps.set_hri
    | with_reducible apply Keeps.set_power
    | with_reducible apply Keeps.set_hri_power
    | ((with_reducible apply hM.sub); rfl)

theorem execPerstnRelease_keeps {M : Mask} {s0 : State} {s : State} (hM : Sub ⟨0x80801, 0x80000000000000000000000000000000000110⟩ M) (hK : Keeps M s0 s) :
    Good M s0 (execPerstnRelease s) := by
  unfold execPerstnRelease
  repeat' first
    | with_reducible assumption
    | ((with_reducible apply hM.of) <;> rfl)
    | with_reducible apply hM.bit
    | with_reducible apply State.wake_keeps
    | with_reducible apply State.leaveReset_keeps
    | with_reducible apply Good.ite
    | with_reducible apply Good.next
    | with_reducible apply Keeps.ite
    | (extract_lets +onlyGivenNames x1; with_reducible refine Cut x1 ?_ ?_)
    | (intro _; clear_value x1; revert x1; intro _ _)
    | subst x1
    | (extract_lets +onlyGivenNames x1; subst x1)
    | exact rfl
    | split
    | with_reducible apply Keeps.set_hri
    | with_reducible apply Keeps.set_power
    | with_reducible apply Keeps.set_hri_power
    | ((with_reducible apply hM.sub); rfl)

theorem execFunctionLevelReset_keeps {M : Mask} {s0 : State} {s : State} (hM : Sub ⟨0xc234f, 0x800090000000013744c010000000000100181000⟩ M) (hK : Keeps M s0 s) :
    Good M s0 (execFunctionLevelReset s) := by
  unfold execFunctionLevelReset
  repeat' first
    | with_reducible assumption
    | ((with_reducible apply hM.of) <;> rfl)
    | with_reducible apply State.hostLinkReset_keeps
    | with_reducible apply State.cdcLoss_keeps
    | with_reducible apply Good.ite
    | with_reducible apply Good.next
    | with_reducible apply Keeps.ite
    | split
    | dsimp -zeta only

theorem execStrapSample_keeps {M : Mask} {s0 : State} {straps : BitVec 6} {s : State} (hM : Sub ⟨0x80800, 0x82001000400000010000140000000010048000⟩ M) (hK : Keeps M s0 s) :
    Good M s0 (execStrapSample straps s) := by
  unfold execStrapSample
  repeat' first
    | with_reducible assumption
    | ((with_reducible apply hM.of) <;> rfl)
    | with_reducible apply Wr.RST_STRAP
    | with_reducible apply Wr.PIO_OUT
    | with_reducible apply Wr.SVC_STAT
    | ((with_reducible apply hM.reg); decide)
    | with_reducible apply hM.bit
    | with_reducible apply State.wr_keeps
    | with_reducible apply State.wf_keeps
    | with_reducible apply State.wb_keeps
    | with_reducible apply State.showFixed_keeps
    | with_reducible apply Good.ite
    | (with_reducible apply Keeps.foldl; intro _ _ _)
    | with_reducible apply Good.next
    | with_reducible apply Keeps.ite
    | (extract_lets +onlyGivenNames x1; with_reducible refine Cut x1 ?_ ?_)
    | (intro _; clear_value x1; revert x1; intro _ _)
    | subst x1
    | (extract_lets +onlyGivenNames x1; subst x1)
    | exact rfl
    | split
    | with_reducible apply Keeps.set_power

theorem execCkrefQualified_keeps {M : Mask} {s0 : State} {s : State} (hM : Sub ⟨0x80808, 0x10⟩ M) (hK : Keeps M s0 s) :
    Good M s0 (execCkrefQualified s) := by
  unfold execCkrefQualified
  repeat' first
    | with_reducible assumption
    | ((with_reducible apply hM.of) <;> rfl)
    | with_reducible apply hM.bit
    | with_reducible apply State.leaveReset_keeps
    | with_reducible apply Good.ite
    | with_reducible apply Good.next
    | with_reducible apply Keeps.ite
    | (extract_lets +onlyGivenNames x1; with_reducible refine Cut x1 ?_ ?_)
    | (intro _; clear_value x1; revert x1; intro _ _)
    | subst x1
    | (extract_lets +onlyGivenNames x1; subst x1)
    | exact rfl
    | split
    | with_reducible apply Keeps.set_mac
    | with_reducible apply Keeps.set_power
    | with_reducible apply Keeps.set_mac_power
    | ((with_reducible apply hM.sub); rfl)

theorem execPllLock_keeps {M : Mask} {s0 : State} {p : Pll} {s : State} (hM : Sub ⟨0x80800, 0x10⟩ M) (hK : Keeps M s0 s) :
    Good M s0 (execPllLock p s) := by
  unfold execPllLock
  repeat' first
    | with_reducible assumption
    | ((with_reducible apply hM.of) <;> rfl)
    | with_reducible apply hM.bit
    | with_reducible apply State.ready_keeps
    | with_reducible apply Good.ite
    | with_reducible apply Good.next
    | with_reducible apply Keeps.ite
    | (extract_lets +onlyGivenNames x1; with_reducible refine Cut x1 ?_ ?_)
    | (intro _; clear_value x1; revert x1; intro _ _)
    | subst x1
    | (extract_lets +onlyGivenNames x1; subst x1)
    | exact rfl
    | split
    | with_reducible apply Keeps.set_power

theorem execTcxoSettleExpiry_keeps {M : Mask} {s0 : State} {s : State} (hM : Sub ⟨0x800, 0x0⟩ M) (hK : Keeps M s0 s) :
    Good M s0 (execTcxoSettleExpiry s) := by
  unfold execTcxoSettleExpiry
  repeat' first
    | with_reducible assumption
    | ((with_reducible apply hM.of) <;> rfl)
    | with_reducible apply hM.bit
    | with_reducible apply Good.ite
    | with_reducible apply Good.next
    | with_reducible apply Keeps.ite
    | exact rfl
    | split
    | with_reducible apply Keeps.set_power

theorem execMemrdySet_keeps {M : Mask} {s0 : State} {s : State} (hM : Sub ⟨0x80080, 0x10⟩ M) (hK : Keeps M s0 s) :
    Good M s0 (execMemrdySet s) := by
  unfold execMemrdySet
  repeat' first
    | with_reducible assumption
    | ((with_reducible apply hM.of) <;> rfl)
    | with_reducible apply hM.bit
    | (rw [(State.ready_keeps (M := ⟨0x80000, 0x10⟩) (v := 7) ⟨rfl, rfl⟩ (Keeps.refl _ s)).gather rfl]; exact fun hx => twf_tclear _ _ _ hx)
    | with_reducible apply State.ready_keeps
    | with_reducible apply Good.ite
    | with_reducible apply Good.next
    | with_reducible apply Keeps.ite
    | (extract_lets +onlyGivenNames x1; with_reducible refine Cut x1 ?_ ?_)
    | (intro _; clear_value x1; revert x1; intro _ _)
    | subst x1
    | (extract_lets +onlyGivenNames x1; subst x1)
    | exact rfl
    | split
    | with_reducible apply Keeps.set_gather

theorem execSramWipeDone_keeps {M : Mask} {s0 : State} {s : State} (hM : Sub ⟨0x80000, 0x8000⟩ M) (hK : Keeps M s0 s) :
    Good M s0 (execSramWipeDone s) := by
  unfold execSramWipeDone
  repeat' first
    | with_reducible assumption
    | ((with_reducible apply hM.of) <;> rfl)
    | with_reducible apply Wr.RST_STAT
    | ((with_reducible apply hM.reg); decide)
    | with_reducible apply State.wb_keeps
    | with_reducible apply Good.ite
    | with_reducible apply Good.next
    | with_reducible apply Keeps.ite
    | exact rfl
    | split
    | dsimp -zeta only

theorem execDramTrainingDone_keeps {M : Mask} {s0 : State} {s : State} (hM : Sub ⟨0x800, 0x0⟩ M) (hK : Keeps M s0 s) :
    Good M s0 (execDramTrainingDone s) := by
  unfold execDramTrainingDone
  repeat' first
    | with_reducible assumption
    | ((with_reducible apply hM.of) <;> rfl)
    | with_reducible apply hM.bit
    | with_reducible apply Good.ite
    | with_reducible apply Good.next
    | with_reducible apply Keeps.ite
    | exact rfl
    | split
    | with_reducible apply Keeps.set_power

theorem State.park_keeps {M : Mask} {s0 : State} {n why : Nat} {s : State} (hM : Sub ⟨0x80001, 0xc000000000000108000⟩ M) (hK : Keeps M s0 s) :
    Keeps M s0 (State.park n why s) := by
  unfold State.park
  repeat' first
    | with_reducible assumption
    | ((with_reducible apply hM.of) <;> rfl)
    | with_reducible apply Wr.RST_STAT
    | ((with_reducible apply hM.reg); decide)
    | with_reducible apply State.flag_keeps
    | with_reducible apply State.post_keeps
    | with_reducible apply State.setParked_keeps
    | exact rfl
    | split
    | dsimp -zeta only

theorem State.bootNewt_keeps {M : Mask} {s0 : State} {s : State} {n : Nat} (hM : Sub ⟨0x80141, 0xc000000000000108000⟩ M) (hK : Keeps M s0 s) :
    Keeps M s0 (State.bootNewt s n) := by
  unfold State.bootNewt
  repeat' first
    | with_reducible assumption
    | ((with_reducible apply hM.of) <;> rfl)
    | with_reducible apply State.loadImage_keeps
    | with_reducible apply State.setRun_keeps
    | with_reducible apply State.setParked_keeps
    | with_reducible apply State.park_keeps
    | with_reducible apply Keeps.ite
    | split
    | dsimp -zeta only

theorem State.bootRole_keeps {M : Mask} {s0 : State} {s : State} {r : Nat} (hM : Sub ⟨0x80000, 0x200000000000000000⟩ M) (hK : Keeps M s0 s) :
    Keeps M s0 (State.bootRole s r) := by
  unfold State.bootRole
  repeat' first
    | with_reducible assumption
    | ((with_reducible apply hM.of) <;> rfl)
    | with_reducible apply State.setHeld_keeps
    | with_reducible apply Keeps.ite
    | (extract_lets +onlyGivenNames x1; with_reducible refine Cut x1 ?_ ?_)
    | (intro _; clear_value x1; revert x1; intro _ _)
    | subst x1
    | (extract_lets +onlyGivenNames x1; subst x1)
    | split
    | dsimp -zeta only

theorem State.tlrunUpdate_keeps {M : Mask} {s0 : State} {s : State} (hM : Sub ⟨0x88800, 0x40000000000000000000000000000000000000⟩ M) (hK : Keeps M s0 s) :
    Keeps M s0 (State.tlrunUpdate s) := by
  unfold State.tlrunUpdate
  repeat' first
    | with_reducible assumption
    | ((with_reducible apply hM.of) <;> rfl)
    | with_reducible apply Wr.HLT_CNT
    | ((with_reducible apply hM.reg); decide)
    | with_reducible apply hM.bit
    | with_reducible apply State.wf_keeps
    | with_reducible apply Keeps.ite
    | (extract_lets +onlyGivenNames x1; with_reducible refine Cut x1 ?_ ?_)
    | (intro _; clear_value x1; revert x1; intro _ _)
    | subst x1
    | (extract_lets +onlyGivenNames x1; subst x1)
    | exact rfl
    | split
    | with_reducible apply Keeps.set_health
    | with_reducible apply Keeps.set_power
    | with_reducible apply Keeps.set_health_power
    | ((with_reducible apply hM.sub); rfl)

theorem State.boot_keeps {M : Mask} {s0 : State} {s : State} (hM : Sub ⟨0xc9d61, 0x4000000040000000000c350000000000108010⟩ M) (hK : Keeps M s0 s) :
    Keeps M s0 (State.boot s) := by
  unfold State.boot
  repeat' first
    | with_reducible assumption
    | ((with_reducible apply hM.of) <;> rfl)
    | with_reducible apply Wr.RST_STAT
    | ((with_reducible apply hM.reg); decide)
    | with_reducible apply State.wb_keeps
    | with_reducible apply State.post_keeps
    | with_reducible apply State.markerScan_keeps
    | with_reducible apply State.startNewt_keeps
    | with_reducible apply State.spares_keeps
    | with_reducible apply State.keysBoot_keeps
    | with_reducible apply State.lehrPosts_keeps
    | with_reducible apply State.bootNewt_keeps
    | with_reducible apply State.bootRole_keeps
    | with_reducible apply State.tlrunUpdate_keeps
    | with_reducible apply Keeps.ite
    | (with_reducible apply Keeps.foldl; intro _ _ _)
    | (extract_lets +onlyGivenNames x1; with_reducible refine Cut x1 ?_ ?_)
    | (intro _; clear_value x1; revert x1; intro _ _)
    | subst x1
    | (extract_lets +onlyGivenNames x1; subst x1)
    | exact rfl
    | split
    | dsimp -zeta only

theorem execBootComplete_keeps {M : Mask} {s0 : State} {s : State} (hM : Sub ⟨0xc9d61, 0x4000000040000000000c350000000000108010⟩ M) (hK : Keeps M s0 s) :
    Good M s0 (execBootComplete s) := by
  unfold execBootComplete
  repeat' first
    | with_reducible assumption
    | ((with_reducible apply hM.of) <;> rfl)
    | with_reducible apply State.boot_keeps
    | with_reducible apply Good.ite
    | with_reducible apply Good.next
    | with_reducible apply Keeps.ite
    | split
    | dsimp -zeta only

theorem State.wdtExpiry_keeps {M : Mask} {s0 : State} {s : State} (hM : Sub ⟨0x9ffff, 0x808200000040040000000014000000001010a010⟩ M) (hK : Keeps M s0 s) :
    Keeps M s0 (State.wdtExpiry s) := by
  unfold State.wdtExpiry
  repeat' first
    | with_reducible assumption
    | ((with_reducible apply hM.of) <;> rfl)
    | with_reducible apply Wr.RST_STAT
    | ((with_reducible apply hM.reg); decide)
    | with_reducible apply hM.bit
    | with_reducible apply State.flag_keeps
    | with_reducible apply State.post_keeps
    | with_reducible apply State.deviceReset_keeps
    | with_reducible apply State.leaveReset_keeps
    | with_reducible apply Keeps.ite
    | exact rfl
    | split
    | with_reducible apply Keeps.set_power

theorem execWatchdogWarn_keeps {M : Mask} {s0 : State} {s : State} (hM : Sub ⟨0x9ffff, 0x808200000040040000000014000000001010a010⟩ M) (hK : Keeps M s0 s) :
    Good M s0 (execWatchdogWarn s) := by
  unfold execWatchdogWarn
  repeat' first
    | with_reducible assumption
    | ((with_reducible apply hM.of) <;> rfl)
    | with_reducible apply State.wdtExpiry_keeps
    | with_reducible apply Good.ite
    | with_reducible apply Good.next
    | with_reducible apply Keeps.ite
    | split
    | dsimp -zeta only

theorem execWatchdogReset_keeps {M : Mask} {s0 : State} {s : State} (hM : Sub ⟨0x9ffff, 0x808200000040040000000014000000001010a010⟩ M) (hK : Keeps M s0 s) :
    Good M s0 (execWatchdogReset s) := by
  unfold execWatchdogReset
  repeat' first
    | with_reducible assumption
    | ((with_reducible apply hM.of) <;> rfl)
    | with_reducible apply State.wdtExpiry_keeps
    | with_reducible apply Good.ite
    | with_reducible apply Good.next
    | with_reducible apply Keeps.ite
    | split
    | dsimp -zeta only

theorem State.kick_keeps {M : Mask} {s0 : State} {w : Word} {s : State} (hM : Sub ⟨0x9ffff, 0x808200000040040000000014000000001010a010⟩ M) (hK : Keeps M s0 s) :
    Keeps M s0 (State.kick w s) := by
  unfold State.kick
  repeat' first
    | with_reducible assumption
    | ((with_reducible apply hM.of) <;> rfl)
    | with_reducible apply hM.bit
    | with_reducible apply State.wdtExpiry_keeps
    | with_reducible apply Keeps.ite
    | exact rfl
    | split
    | with_reducible apply Keeps.set_power

theorem State.rstCtlWrite_keeps {M : Mask} {s0 : State} {m : Master} {w : Word} {s : State} (hM : Sub ⟨0x9ffff, 0x808200000040040000000014000000001000e010⟩ M) (hK : Keeps M s0 s) :
    Keeps M s0 (State.rstCtlWrite m w s) := by
  unfold State.rstCtlWrite
  repeat' first
    | with_reducible assumption
    | ((with_reducible apply hM.of) <;> rfl)
    | with_reducible apply Wr.RST_CAUSE
    | with_reducible apply Wr.RST_CTL
    | with_reducible apply Wr.RST_STAT
    | refine WrBad.of (by exact rfl) ?_
    | ((with_reducible apply hM.reg); decide)
    | with_reducible apply State.wf_keeps
    | with_reducible apply State.flag_keeps
    | with_reducible apply State.writeReg_keeps
    | with_reducible apply State.deviceReset_keeps
    | with_reducible apply State.leaveReset_keeps
    | with_reducible apply Keeps.ite
    | (extract_lets +onlyGivenNames x1; with_reducible refine Cut x1 ?_ ?_)
    | (intro _; clear_value x1; revert x1; intro _ _)
    | subst x1
    | (extract_lets +onlyGivenNames x1; subst x1)
    | exact rfl
    | split
    | dsimp -zeta only

theorem execXtalFail_keeps {M : Mask} {s0 : State} {s : State} (hM : Sub ⟨0x80400, 0x8000⟩ M) (hK : Keeps M s0 s) :
    Good M s0 (execXtalFail s) := by
  unfold execXtalFail
  repeat' first
    | with_reducible assumption
    | ((with_reducible apply hM.of) <;> rfl)
    | with_reducible apply Wr.RST_STAT
    | ((with_reducible apply hM.reg); decide)
    | with_reducible apply hM.bit
    | with_reducible apply State.wb_keeps
    | with_reducible apply Good.ite
    | with_reducible apply Good.next
    | with_reducible apply Keeps.ite
    | (extract_lets +onlyGivenNames x1; with_reducible refine Cut x1 ?_ ?_)
    | (intro _; clear_value x1; revert x1; intro _ _)
    | subst x1
    | (extract_lets +onlyGivenNames x1; subst x1)
    | exact rfl
    | split
    | with_reducible apply Keeps.set_lehr

theorem execXtalRecover_keeps {M : Mask} {s0 : State} {s : State} (hM : Sub ⟨0x80400, 0x8000⟩ M) (hK : Keeps M s0 s) :
    Good M s0 (execXtalRecover s) := by
  unfold execXtalRecover
  repeat' first
    | with_reducible assumption
    | ((with_reducible apply hM.of) <;> rfl)
    | with_reducible apply Wr.RST_STAT
    | ((with_reducible apply hM.reg); decide)
    | with_reducible apply hM.bit
    | with_reducible apply State.wb_keeps
    | with_reducible apply Good.ite
    | with_reducible apply Good.next
    | with_reducible apply Keeps.ite
    | (extract_lets +onlyGivenNames x1; with_reducible refine Cut x1 ?_ ?_)
    | (intro _; clear_value x1; revert x1; intro _ _)
    | subst x1
    | (extract_lets +onlyGivenNames x1; subst x1)
    | exact rfl
    | split
    | with_reducible apply Keeps.set_lehr

theorem execVddio33Fall_keeps {M : Mask} {s0 : State} {s : State} (hM : Sub ⟨0x9ffff, 0x8082000000400400000000140000000010008000⟩ M) (hK : Keeps M s0 s) :
    Good M s0 (execVddio33Fall s) := by
  unfold execVddio33Fall
  repeat' first
    | with_reducible assumption
    | ((with_reducible apply hM.of) <;> rfl)
    | with_reducible apply hM.bit
    | with_reducible apply State.cut_keeps
    | with_reducible apply Good.ite
    | with_reducible apply Good.next
    | with_reducible apply Keeps.ite
    | (extract_lets +onlyGivenNames x1; with_reducible refine Cut x1 ?_ ?_)
    | (intro _; clear_value x1; revert x1; intro _ _)
    | subst x1
    | (extract_lets +onlyGivenNames x1; subst x1)
    | exact rfl
    | split
    | with_reducible apply Keeps.set_lehr
    | with_reducible apply Keeps.set_power
    | with_reducible apply Keeps.set_lehr_power
    | ((with_reducible apply hM.sub); rfl)

theorem execVddio33Rise_keeps {M : Mask} {s0 : State} {s : State} (hM : Sub ⟨0x400, 0x0⟩ M) (hK : Keeps M s0 s) :
    Good M s0 (execVddio33Rise s) := by
  unfold execVddio33Rise
  repeat' first
    | with_reducible assumption
    | ((with_reducible apply hM.of) <;> rfl)
    | with_reducible apply hM.bit
    | with_reducible apply Good.ite
    | with_reducible apply Good.next
    | with_reducible apply Keeps.ite
    | exact rfl
    | split
    | with_reducible apply Keeps.set_lehr

theorem execVddio33PathClose_keeps {M : Mask} {s0 : State} {s : State} (hM : Sub ⟨0x9ffff, 0x8082000000400600000000140000000010008000⟩ M) (hK : Keeps M s0 s) :
    Good M s0 (execVddio33PathClose s) := by
  unfold execVddio33PathClose
  repeat' first
    | with_reducible assumption
    | ((with_reducible apply hM.of) <;> rfl)
    | with_reducible apply Wr.RST_STAT
    | with_reducible apply Wr.LEHR_STAT
    | ((with_reducible apply hM.reg); decide)
    | with_reducible apply hM.bit
    | with_reducible apply State.wb_keeps
    | with_reducible apply State.lehrFresh_keeps
    | with_reducible apply State.powerOnReset_keeps
    | with_reducible apply Good.ite
    | with_reducible apply Good.next
    | with_reducible apply Keeps.ite
    | (extract_lets +onlyGivenNames x1; with_reducible refine Cut x1 ?_ ?_)
    | (intro _; clear_value x1; revert x1; intro _ _)
    | subst x1
    | (extract_lets +onlyGivenNames x1; subst x1)
    | exact rfl
    | split
    | with_reducible apply Keeps.set_lehr

theorem execChargerResume_keeps {M : Mask} {s0 : State} {s : State} (hM : Sub ⟨0x400, 0x0⟩ M) (hK : Keeps M s0 s) :
    Good M s0 (execChargerResume s) := by
  unfold execChargerResume
  repeat' first
    | with_reducible assumption
    | ((with_reducible apply hM.of) <;> rfl)
    | with_reducible apply hM.bit
    | with_reducible apply State.chargeNow_keeps
    | with_reducible apply Good.next
    | exact rfl
    | split
    | with_reducible apply Keeps.set_lehr

theorem execIdleEntry_keeps {M : Mask} {s0 : State} {s : State} (hM : Sub ⟨0x80000, 0x10⟩ M) (hK : Keeps M s0 s) :
    Good M s0 (execIdleEntry s) := by
  unfold execIdleEntry
  repeat' first
    | with_reducible assumption
    | ((with_reducible apply hM.of) <;> rfl)
    | with_reducible apply Wr.PWR_STAT
    | ((with_reducible apply hM.reg); decide)
    | with_reducible apply State.wf_keeps
    | with_reducible apply Good.ite
    | with_reducible apply Good.next
    | with_reducible apply Keeps.ite
    | exact rfl
    | split
    | dsimp -zeta only

theorem twf_foldl {α β : Type} [DecidableEq α] {d : Nat → α} {f : Tbl α → β → Tbl α}
    (hf : ∀ t b, twf d t = true → twf d (f t b) = true) (l : List β) :
    ∀ {t : Tbl α}, twf d t = true → twf d (l.foldl f t) = true := by
  induction l with
  | nil => exact fun h => h
  | cons b r ih => exact fun h => ih (hf _ _ h)

theorem State.saveImage_keeps {M : Mask} {s0 : State} {s : State} {n : Nat} (hM : Sub ⟨0x80, 0x0⟩ M) (h : Keeps M s0 s) :
    Keeps M s0 (State.saveImage s n) := by
  unfold State.saveImage
  extract_lets b g put
  refine h.set_gather (hM.bit _ rfl) fun hx => ?_
  have hput : ∀ t p, twf (fun _ => (0 : Byte)) t = true → twf (fun _ => (0 : Byte)) (put t p) = true := by
    intro t p ht
    exact twf_foldl (fun _ _ => twf_tset _ _ _ _) _ ht
  exact twf_foldl (fun t p => hput t p) _ (twf_tclear _ _ _ hx)

theorem State.gateNewt_keeps {M : Mask} {s0 : State} {s : State} {n : Nat} (hM : Sub ⟨0x80040, 0x200000000000000000000000000000000000⟩ M) (hK : Keeps M s0 s) :
    Keeps M s0 (State.gateNewt s n) := by
  unfold State.gateNewt
  repeat' first
    | with_reducible assumption
    | ((with_reducible apply hM.of) <;> rfl)
    | with_reducible apply State.setNewt_keeps
    | with_reducible apply State.sampleClear_keeps
    | (extract_lets +onlyGivenNames x1; with_reducible refine Cut x1 ?_ ?_)
    | (intro _; clear_value x1; revert x1; intro _ _)
    | subst x1
    | (extract_lets +onlyGivenNames x1; subst x1)
    | split
    | dsimp -zeta only

theorem State.dozeEnter_keeps {M : Mask} {s0 : State} {s : State} (hM : Sub ⟨0xc08ca, 0x8000200000000000000000000000000000001010⟩ M) (hK : Keeps M s0 s) :
    Keeps M s0 (State.dozeEnter s) := by
  unfold State.dozeEnter
  repeat' first
    | with_reducible assumption
    | ((with_reducible apply hM.of) <;> rfl)
    | with_reducible apply Wr.PWR_STAT
    | ((with_reducible apply hM.reg); decide)
    | with_reducible apply hM.bit
    | with_reducible apply State.wf_keeps
    | with_reducible apply State.resetRegs_keeps
    | with_reducible apply State.ready_keeps
    | with_reducible apply State.programLog_keeps
    | with_reducible apply State.nodesBack_keeps
    | with_reducible apply State.cdcLoss_keeps
    | with_reducible apply State.saveImage_keeps
    | with_reducible apply State.gateNewt_keeps
    | (with_reducible apply Keeps.foldl; intro _ _ _)
    | (extract_lets +onlyGivenNames x1; with_reducible refine Cut x1 ?_ ?_)
    | (intro _; clear_value x1; revert x1; intro _ _)
    | subst x1
    | (extract_lets +onlyGivenNames x1; subst x1)
    | exact rfl
    | split
    | with_reducible apply Keeps.set_power
    | with_reducible apply Keeps.set_store
    | with_reducible apply Keeps.set_store_power
    | ((with_reducible apply hM.sub); rfl)

theorem State.abortEntry_keeps {M : Mask} {s0 : State} {s : State} (hM : Sub ⟨0x80000, 0x10⟩ M) (hK : Keeps M s0 s) :
    Keeps M s0 (State.abortEntry s) := by
  unfold State.abortEntry
  repeat' first
    | with_reducible assumption
    | ((with_reducible apply hM.of) <;> rfl)
    | with_reducible apply Wr.PWR_STAT
    | ((with_reducible apply hM.reg); decide)
    | with_reducible apply State.count_keeps
    | exact rfl
    | split
    | dsimp -zeta only

theorem State.haltNewt_keeps {M : Mask} {s0 : State} {s : State} {n : Nat} (hM : Sub ⟨0x80b41, 0x82b0000040008000000ca00000000000100110⟩ M) (hK : Keeps M s0 s) :
    Keeps M s0 (State.haltNewt s n) := by
  unfold State.haltNewt
  repeat' first
    | with_reducible assumption
    | ((with_reducible apply hM.of) <;> rfl)
    | with_reducible apply Wr.NWT_FPC
    | ((with_reducible apply hM.reg); decide)
    | with_reducible apply State.wr_keeps
    | with_reducible apply State.setNewt_keeps
    | with_reducible apply State.setRun_keeps
    | with_reducible apply State.newtFault_keeps
    | with_reducible apply Keeps.ite
    | (extract_lets +onlyGivenNames x1; with_reducible refine Cut x1 ?_ ?_)
    | (intro _; clear_value x1; revert x1; intro _ _)
    | subst x1
    | (extract_lets +onlyGivenNames x1; subst x1)
    | exact rfl
    | split
    | dsimp -zeta only

theorem State.resumeNewt_keeps {M : Mask} {s0 : State} {s : State} {n : Nat} (hM : Sub ⟨0x80000, 0xc000000000000000000⟩ M) (hK : Keeps M s0 s) :
    Keeps M s0 (State.resumeNewt s n) := by
  unfold State.resumeNewt
  repeat' first
    | with_reducible assumption
    | ((with_reducible apply hM.of) <;> rfl)
    | with_reducible apply Wr.NWT_FPC
    | ((with_reducible apply hM.reg); decide)
    | with_reducible apply State.wr_keeps
    | with_reducible apply State.setRun_keeps
    | with_reducible apply Keeps.ite
    | exact rfl
    | split
    | dsimp -zeta only

theorem State.hushEnter_keeps {M : Mask} {s0 : State} {s : State} (hM : Sub ⟨0xc7b4f, 0x8082b000004001b744c01ca00000000310189114⟩ M) (hK : Keeps M s0 s) :
    Keeps M s0 (State.hushEnter s) := by
  unfold State.hushEnter
  repeat' first
    | with_reducible assumption
    | ((with_reducible apply hM.of) <;> rfl)
    | with_reducible apply Wr.GLB_STAT
    | with_reducible apply Wr.PWR_STAT
    | with_reducible apply Wr.RST_STAT
    | with_reducible apply Wr.STO_STAT
    | with_reducible apply Wr.STO_HEALTH
    | with_reducible apply Wr.PIO_STAT
    | ((with_reducible apply hM.reg); decide)
    | with_reducible apply hM.bit
    | with_reducible apply State.wr_keeps
    | with_reducible apply State.wf_keeps
    | with_reducible apply State.wb_keeps
    | with_reducible apply State.resetRegs_keeps
    | with_reducible apply State.ready_keeps
    | with_reducible apply State.flashCut_keeps
    | with_reducible apply State.markerScan_keeps
    | with_reducible apply State.hostLinkReset_keeps
    | with_reducible apply State.nodesBack_keeps
    | with_reducible apply State.cdcLoss_keeps
    | with_reducible apply State.haltNewt_keeps
    | (with_reducible apply Keeps.foldl; intro _ _ _)
    | (extract_lets +onlyGivenNames x1; with_reducible refine Cut x1 ?_ ?_)
    | (intro _; clear_value x1; revert x1; intro _ _)
    | subst x1
    | (extract_lets +onlyGivenNames x1; subst x1)
    | exact rfl
    | split
    | with_reducible apply Keeps.set_link
    | with_reducible apply Keeps.set_mac
    | with_reducible apply Keeps.set_pio
    | with_reducible apply Keeps.set_power
    | with_reducible apply Keeps.set_radio
    | with_reducible apply Keeps.set_store
    | with_reducible apply Keeps.set_store_radio_mac_pio_link
    | ((with_reducible apply hM.sub); rfl)

theorem execWakeArrives_keeps {M : Mask} {s0 : State} {c : WakeSrc} {entering : Bool} {s : State} (hM : Sub ⟨0x80800, 0x80000000000000000000000000000000000110⟩ M) (hK : Keeps M s0 s) :
    Good M s0 (execWakeArrives c entering s) := by
  unfold execWakeArrives
  repeat' first
    | with_reducible assumption
    | ((with_reducible apply hM.of) <;> rfl)
    | with_reducible apply State.wake_keeps
    | with_reducible apply State.abortEntry_keeps
    | with_reducible apply Good.ite
    | with_reducible apply Good.next
    | with_reducible apply Keeps.ite
    | split
    | dsimp -zeta only

theorem execSmbusHushMatch_keeps {M : Mask} {s0 : State} {addr : BitVec 7} {s : State} (hM : Sub ⟨0x80800, 0x80000000000000000000000000000000000110⟩ M) (hK : Keeps M s0 s) :
    Good M s0 (execSmbusHushMatch addr s) := by
  unfold execSmbusHushMatch
  repeat' first
    | with_reducible assumption
    | ((with_reducible apply hM.of) <;> rfl)
    | with_reducible apply State.wake_keeps
    | with_reducible apply Good.ite
    | with_reducible apply Good.next
    | with_reducible apply Keeps.ite
    | split
    | dsimp -zeta only

theorem execImageReloadDone_keeps {M : Mask} {s0 : State} {bad : List (Fin 12)} {s : State} (hM : Sub ⟨0x80b41, 0xc200000000000108014⟩ M) (hK : Keeps M s0 s) :
    Good M s0 (execImageReloadDone bad s) := by
  unfold execImageReloadDone
  repeat' first
    | with_reducible assumption
    | ((with_reducible apply hM.of) <;> rfl)
    | with_reducible apply Wr.PWR_STAT
    | ((with_reducible apply hM.reg); decide)
    | with_reducible apply hM.bit
    | with_reducible apply State.flag_keeps
    | with_reducible apply State.sramUe_keeps
    | with_reducible apply State.modNewt_keeps
    | with_reducible apply State.loadImage_keeps
    | with_reducible apply State.spares_keeps
    | with_reducible apply State.unassign_keeps
    | with_reducible apply State.park_keeps
    | with_reducible apply Good.ite
    | (with_reducible apply Keeps.foldl; intro _ _ _)
    | with_reducible apply Good.next
    | with_reducible apply Keeps.ite
    | (extract_lets +onlyGivenNames x1; with_reducible refine Cut x1 ?_ ?_)
    | (intro _; clear_value x1; revert x1; intro _ _)
    | subst x1
    | (extract_lets +onlyGivenNames x1; subst x1)
    | exact rfl
    | split
    | with_reducible apply Keeps.set_power

theorem State.macRebuild_keeps {M : Mask} {s0 : State} {s : State} (hM : Sub ⟨0xc0008, 0x8000000000000000000000000000000000000000⟩ M) (hK : Keeps M s0 s) :
    Keeps M s0 (State.macRebuild s) := by
  unfold State.macRebuild
  repeat' first
    | with_reducible assumption
    | ((with_reducible apply hM.of) <;> rfl)
    | with_reducible apply hM.bit
    | with_reducible apply State.resetRegs_keeps
    | with_reducible apply State.freeBool_keeps
    | with_reducible apply Keeps.ite
    | (with_reducible apply Keeps2.of; with_reducible assumption)
    | with_reducible apply Keeps2.snd
    | (extract_lets +onlyGivenNames x1; with_reducible refine Cut x1 ?_ ?_)
    | (intro _; clear_value x1; revert x1; intro _ _)
    | subst x1
    | (extract_lets +onlyGivenNames x1; subst x1)
    | exact rfl
    | split
    | with_reducible apply Keeps.set_mac
    | with_reducible apply Keeps2.mk

theorem State.macResume_keeps {M : Mask} {s0 : State} {s : State} (hM : Sub ⟨0xc000d, 0x8000000000000000000000000414000000100000⟩ M) (hK : Keeps M s0 s) :
    Keeps M s0 (State.macResume s) := by
  unfold State.macResume
  repeat' first
    | with_reducible assumption
    | ((with_reducible apply hM.of) <;> rfl)
    | with_reducible apply State.macStart_keeps
    | with_reducible apply State.macRebuild_keeps
    | with_reducible apply Keeps.ite
    | (extract_lets +onlyGivenNames x1; with_reducible refine Cut x1 ?_ ?_)
    | (intro _; clear_value x1; revert x1; intro _ _)
    | subst x1
    | (extract_lets +onlyGivenNames x1; subst x1)
    | split
    | dsimp -zeta only

theorem State.calRestore_keeps {M : Mask} {s0 : State} {s : State} (hM : Sub ⟨0xc0004, 0x2800000000000⟩ M) (hK : Keeps M s0 s) :
    Keeps M s0 (State.calRestore s) := by
  unfold State.calRestore
  repeat' first
    | with_reducible assumption
    | ((with_reducible apply hM.of) <;> rfl)
    | with_reducible apply Wr.RFS_PCLAMP
    | ((with_reducible apply hM.reg); decide)
    | with_reducible apply hM.bit
    | with_reducible apply State.wr_keeps
    | with_reducible apply State.freeBool_keeps
    | with_reducible apply State.calShow_keeps
    | with_reducible apply Keeps.ite
    | (with_reducible apply Keeps2.of; with_reducible assumption)
    | with_reducible apply Keeps2.snd
    | (extract_lets +onlyGivenNames x1; with_reducible refine Cut x1 ?_ ?_)
    | (intro _; clear_value x1; revert x1; intro _ _)
    | subst x1
    | (extract_lets +onlyGivenNames x1; subst x1)
    | exact rfl
    | split
    | with_reducible apply Keeps.set_radio
    | with_reducible apply Keeps2.mk

theorem State.macAfterHush_keeps {M : Mask} {s0 : State} {s : State} (hM : Sub ⟨0xc080d, 0x8000000000000000000000000416840000100000⟩ M) (hK : Keeps M s0 s) :
    Keeps M s0 (State.macAfterHush s) := by
  unfold State.macAfterHush
  repeat' first
    | with_reducible assumption
    | ((with_reducible apply hM.of) <;> rfl)
    | with_reducible apply hM.bit
    | with_reducible apply State.calPoll_keeps
    | with_reducible apply State.macResume_keeps
    | with_reducible apply State.calRestore_keeps
    | (extract_lets +onlyGivenNames x1; with_reducible refine Cut x1 ?_ ?_)
    | (intro _; clear_value x1; revert x1; intro _ _)
    | subst x1
    | (extract_lets +onlyGivenNames x1; subst x1)
    | exact rfl
    | split
    | with_reducible apply Keeps.set_power
    | with_reducible apply Keeps.set_mac_power
    | ((with_reducible apply hM.sub); rfl)

theorem State.dozeWakeEnd_keeps {M : Mask} {s0 : State} {s : State} (hM : Sub ⟨0xc0b4d, 0x808090000000013440c01c800416840000100110⟩ M) (hK : Keeps M s0 s) :
    Keeps M s0 (State.dozeWakeEnd s) := by
  unfold State.dozeWakeEnd
  repeat' first
    | with_reducible assumption
    | ((with_reducible apply hM.of) <;> rfl)
    | with_reducible apply Wr.PWR_STAT
    | ((with_reducible apply hM.reg); decide)
    | with_reducible apply hM.bit
    | with_reducible apply State.wf_keeps
    | with_reducible apply State.ready_keeps
    | with_reducible apply State.raise_keeps
    | with_reducible apply State.startNewt_keeps
    | with_reducible apply State.placeOne_keeps
    | with_reducible apply State.firCheck_keeps
    | with_reducible apply State.macAfterHush_keeps
    | with_reducible apply Keeps.ite
    | (with_reducible apply Keeps.foldl; intro _ _ _)
    | (extract_lets +onlyGivenNames x1; with_reducible refine Cut x1 ?_ ?_)
    | (intro _; clear_value x1; revert x1; intro _ _)
    | subst x1
    | (extract_lets +onlyGivenNames x1; subst x1)
    | exact rfl
    | split
    | with_reducible apply Keeps.set_power

theorem execDramWipeDone_keeps {M : Mask} {s0 : State} {s : State} (hM : Sub ⟨0xc000d, 0x8000000000000000000000000414000000108000⟩ M) (hK : Keeps M s0 s) :
    Good M s0 (execDramWipeDone s) := by
  unfold execDramWipeDone
  repeat' first
    | with_reducible assumption
    | ((with_reducible apply hM.of) <;> rfl)
    | with_reducible apply Wr.RST_STAT
    | ((with_reducible apply hM.reg); decide)
    | with_reducible apply State.wb_keeps
    | with_reducible apply State.macResume_keeps
    | with_reducible apply Good.ite
    | with_reducible apply Good.next
    | with_reducible apply Keeps.ite
    | exact rfl
    | split
    | dsimp -zeta only

theorem State.hushWakeLogic_keeps {M : Mask} {s0 : State} {s : State} (hM : Sub ⟨0x80b45, 0x800090000000013744c01c000100040000100010⟩ M) (hK : Keeps M s0 s) :
    Keeps M s0 (State.hushWakeLogic s) := by
  unfold State.hushWakeLogic
  repeat' first
    | with_reducible assumption
    | ((with_reducible apply hM.of) <;> rfl)
    | with_reducible apply hM.bit
    | with_reducible apply State.ready_keeps
    | with_reducible apply State.raise_keeps
    | with_reducible apply State.spAfterHush_keeps
    | with_reducible apply State.radioAfterHush_keeps
    | with_reducible apply State.resumeNewt_keeps
    | (with_reducible apply Keeps.foldl; intro _ _ _)
    | (extract_lets +onlyGivenNames x1; with_reducible refine Cut x1 ?_ ?_)
    | (intro _; clear_value x1; revert x1; intro _ _)
    | subst x1
    | (extract_lets +onlyGivenNames x1; subst x1)
    | exact rfl
    | split
    | with_reducible apply Keeps.set_pio
    | with_reducible apply Keeps.set_power
    | with_reducible apply Keeps.set_pio_power
    | ((with_reducible apply hM.sub); rfl)

theorem execLogrdyRelease_keeps {M : Mask} {s0 : State} {s : State} (hM : Sub ⟨0xc0b4d, 0x808090000000013744c01c800516840000100110⟩ M) (hK : Keeps M s0 s) :
    Good M s0 (execLogrdyRelease s) := by
  unfold execLogrdyRelease
  repeat' first
    | with_reducible assumption
    | ((with_reducible apply hM.of) <;> rfl)
    | with_reducible apply hM.bit
    | with_reducible apply State.ready_keeps
    | with_reducible apply State.railsSeen_keeps
    | with_reducible apply State.dozeWakeEnd_keeps
    | with_reducible apply State.hushWakeLogic_keeps
    | with_reducible apply Good.ite
    | with_reducible apply Good.next
    | with_reducible apply Keeps.ite
    | exact rfl
    | split
    | with_reducible apply Keeps.set_power

theorem State.linkTrained_keeps {M : Mask} {s0 : State} {s : State} (hM : Sub ⟨0x80800, 0x14⟩ M) (hK : Keeps M s0 s) :
    Keeps M s0 (State.linkTrained s) := by
  unfold State.linkTrained
  repeat' first
    | with_reducible assumption
    | ((with_reducible apply hM.of) <;> rfl)
    | with_reducible apply Wr.GLB_STAT
    | with_reducible apply Wr.PWR_STAT
    | ((with_reducible apply hM.reg); decide)
    | with_reducible apply hM.bit
    | with_reducible apply State.wf_keeps
    | with_reducible apply State.wb_keeps
    | with_reducible apply State.startDozeWake_keeps
    | with_reducible apply Keeps.ite
    | (extract_lets +onlyGivenNames x1; with_reducible refine Cut x1 ?_ ?_)
    | (intro _; clear_value x1; revert x1; intro _ _)
    | subst x1
    | (extract_lets +onlyGivenNames x1; subst x1)
    | exact rfl
    | split
    | with_reducible apply Keeps.set_power

theorem State.smpDrop_keeps {M : Mask} {s0 : State} {s : State} {c : RxChan} (hM : Sub ⟨0xc0004, 0x10000000000000⟩ M) (hK : Keeps M s0 s) :
    Keeps M s0 (State.smpDrop s c) := by
  unfold State.smpDrop
  repeat' first
    | with_reducible assumption
    | ((with_reducible apply hM.of) <;> rfl)
    | with_reducible apply Wr.RFS_TYMCNT
    | ((with_reducible apply hM.reg); decide)
    | with_reducible apply State.count_keeps
    | with_reducible apply State.freeBool_keeps
    | with_reducible apply State.radioCount_keeps
    | with_reducible apply State.setRx_keeps
    | with_reducible apply State.ch24Now_keeps
    | with_reducible apply Keeps.ite
    | (with_reducible apply Keeps2.of; with_reducible assumption)
    | with_reducible apply Keeps2.snd
    | (extract_lets +onlyGivenNames x1; with_reducible refine Cut x1 ?_ ?_)
    | (intro _; clear_value x1; revert x1; intro _ _)
    | subst x1
    | (extract_lets +onlyGivenNames x1; subst x1)
    | exact rfl
    | split
    | with_reducible apply Keeps2.mk
    | dsimp -zeta only

theorem State.smpLost_keeps {M : Mask} {s0 : State} {s : State} (hM : Sub ⟨0xc0004, 0x10840000000000⟩ M) (hK : Keeps M s0 s) :
    Keeps M s0 (State.smpLost s) := by
  unfold State.smpLost
  repeat' first
    | with_reducible assumption
    | ((with_reducible apply hM.of) <;> rfl)
    | with_reducible apply State.calPoll_keeps
    | with_reducible apply State.smpDrop_keeps
    | (with_reducible apply Keeps.foldl; intro _ _ _)
    | split
    | dsimp -zeta only

theorem execSramScrub_keeps {M : Mask} {s0 : State} {site : SramSite} {uncorrectable : Bool} {s : State} (hM : Sub ⟨0xc0b7b, 0x82b0000040008000000ca1000001e900100114⟩ M) (hK : Keeps M s0 s) :
    Good M s0 (execSramScrub site uncorrectable s) := by
  unfold execSramScrub
  repeat' first
    | with_reducible assumption
    | ((with_reducible apply hM.of) <;> rfl)
    | with_reducible apply State.sramFixed_keeps
    | with_reducible apply State.sramUe_keeps
    | with_reducible apply State.sramUeFree_keeps
    | with_reducible apply State.newtFault_keeps
    | with_reducible apply State.mapRebuild_keeps
    | with_reducible apply State.stagingLost_keeps
    | with_reducible apply State.dropCached_keeps
    | with_reducible apply Good.ite
    | with_reducible apply Good.next
    | with_reducible apply Keeps.ite
    | (extract_lets +onlyGivenNames x1; with_reducible refine Cut x1 ?_ ?_)
    | (intro _; clear_value x1; revert x1; intro _ _)
    | subst x1
    | (extract_lets +onlyGivenNames x1; subst x1)
    | split
    | dsimp -zeta only

end Sys2Proof.Machine
end

