-- ==== Sys2Proof/Laws/KeepsHealth.lean ====
section
/-! SUPPORT. What each operation of Machine/Health.lean keeps (Laws/Keeps.lean says what that means). -/

namespace Sys2Proof.Machine

theorem State.replace_keeps {M : Mask} {s0 : State} {s : State} (hM : Sub ⟨0x80800, 0x2000000000000000000000000000000000000⟩ M) (hK : Keeps M s0 s) :
    Keeps M s0 (State.replace s) := by
  unfold State.replace
  repeat' first
    | with_reducible assumption
    | ((with_reducible apply hM.of) <;> rfl)
    | with_reducible apply Wr.HLT_STAT
    | ((with_reducible apply hM.reg); decide)
    | with_reducible apply hM.bit
    | with_reducible apply State.wb_keeps
    | with_reducible apply Keeps.ite
    | (extract_lets +onlyGivenNames x1; with_reducible refine Cut x1 ?_ ?_)
    | (intro _; clear_value x1; revert x1; intro _ _)
    | subst x1
    | (extract_lets +onlyGivenNames x1; subst x1)
    | exact rfl
    | split
    | with_reducible apply Keeps.set_power

theorem State.healthEntry_keeps {M : Mask} {s0 : State} {bit' : Nat} {raised : Bool} {detail : Nat} {s : State} (hM : Sub ⟨0x8000, 0x0⟩ M) (hK : Keeps M s0 s) :
    Keeps M s0 (State.healthEntry bit' raised detail s) := by
  unfold State.healthEntry
  repeat' first
    | with_reducible assumption
    | ((with_reducible apply hM.of) <;> rfl)
    | with_reducible apply hM.bit
    | (extract_lets +onlyGivenNames x1; with_reducible refine Cut x1 ?_ ?_)
    | (intro _; clear_value x1; revert x1; intro _ _)
    | subst x1
    | (extract_lets +onlyGivenNames x1; subst x1)
    | exact rfl
    | split
    | with_reducible apply Keeps.set_health

theorem State.raiseCause_keeps {M : Mask} {s0 : State} {bit' d : Nat} {s : State} (hM : Sub ⟨0x88001, 0xc000000000000000000000000000000100000⟩ M) (hK : Keeps M s0 s) :
    Keeps M s0 (State.raiseCause bit' d s) := by
  unfold State.raiseCause
  repeat' first
    | with_reducible assumption
    | ((with_reducible apply hM.of) <;> rfl)
    | with_reducible apply Wr.HLT_CAUSE
    | with_reducible apply Wr.HLT_EVER
    | ((with_reducible apply hM.reg); decide)
    | with_reducible apply hM.bit
    | with_reducible apply State.wb_keeps
    | with_reducible apply State.post_keeps
    | with_reducible apply State.healthEntry_keeps
    | (extract_lets +onlyGivenNames x1; with_reducible refine Cut x1 ?_ ?_)
    | (intro _; clear_value x1; revert x1; intro _ _)
    | subst x1
    | (extract_lets +onlyGivenNames x1; subst x1)
    | exact rfl
    | split
    | with_reducible apply Keeps.set_health

theorem State.clearCause_keeps {M : Mask} {s0 : State} {bit' : Nat} {s : State} (hM : Sub ⟨0x88001, 0x4000000000000000000000000000000100000⟩ M) (hK : Keeps M s0 s) :
    Keeps M s0 (State.clearCause bit' s) := by
  unfold State.clearCause
  repeat' first
    | with_reducible assumption
    | ((with_reducible apply hM.of) <;> rfl)
    | with_reducible apply Wr.HLT_CAUSE
    | ((with_reducible apply hM.reg); decide)
    | with_reducible apply State.wb_keeps
    | with_reducible apply State.post_keeps
    | with_reducible apply State.healthEntry_keeps
    | exact rfl
    | split
    | dsimp -zeta only

theorem State.evaluate_keeps {M : Mask} {s0 : State} {bit' : Nat} {s : State} (hM : Sub ⟨0x88801, 0xe000000000000000000000000000000100000⟩ M) (hK : Keeps M s0 s) :
    Keeps M s0 (State.evaluate bit' s) := by
  unfold State.evaluate
  repeat' first
    | with_reducible assumption
    | ((with_reducible apply hM.of) <;> rfl)
    | with_reducible apply Wr.HLT_CAUSE
    | ((with_reducible apply hM.reg); decide)
    | with_reducible apply hM.bit
    | with_reducible apply State.wb_keeps
    | with_reducible apply State.post_keeps
    | with_reducible apply State.replace_keeps
    | with_reducible apply State.raiseCause_keeps
    | with_reducible apply State.clearCause_keeps
    | with_reducible apply Keeps.ite
    | (extract_lets +onlyGivenNames x1; with_reducible refine Cut x1 ?_ ?_)
    | (intro _; clear_value x1; revert x1; intro _ _)
    | subst x1
    | (extract_lets +onlyGivenNames x1; subst x1)
    | exact rfl
    | split
    | with_reducible apply Keeps.set_health

theorem execHealthEvaluate_keeps {M : Mask} {s0 : State} {bit : Fin 7} {s : State} (hM : Sub ⟨0x88801, 0xe000000000000000000000000000000100000⟩ M) (hK : Keeps M s0 s) :
    Good M s0 (execHealthEvaluate bit s) := by
  unfold execHealthEvaluate
  repeat' first
    | with_reducible assumption
    | ((with_reducible apply hM.of) <;> rfl)
    | with_reducible apply State.evaluate_keeps
    | with_reducible apply Good.ite
    | with_reducible apply Good.next
    | with_reducible apply Keeps.ite
    | split
    | dsimp -zeta only

theorem execHltReady_keeps {M : Mask} {s0 : State} {s : State} (hM : Sub ⟨0x80800, 0x2000000000000000000000000000000000000⟩ M) (hK : Keeps M s0 s) :
    Good M s0 (execHltReady s) := by
  unfold execHltReady
  repeat' first
    | with_reducible assumption
    | ((with_reducible apply hM.of) <;> rfl)
    | with_reducible apply Wr.HLT_STAT
    | ((with_reducible apply hM.reg); decide)
    | with_reducible apply State.wb_keeps
    | with_reducible apply State.replace_keeps
    | with_reducible apply Good.ite
    | with_reducible apply Good.next
    | with_reducible apply Keeps.ite
    | exact rfl
    | split
    | dsimp -zeta only

theorem execHealthLogProgram_keeps {M : Mask} {s0 : State} {ok : Bool} {s : State} (hM : Sub ⟨0x88000, 0x2000000000000000000000000000000000000⟩ M) (hK : Keeps M s0 s) :
    Good M s0 (execHealthLogProgram ok s) := by
  unfold execHealthLogProgram
  repeat' first
    | with_reducible assumption
    | ((with_reducible apply hM.of) <;> rfl)
    | with_reducible apply Wr.HLT_STAT
    | ((with_reducible apply hM.reg); decide)
    | with_reducible apply hM.bit
    | with_reducible apply State.flag_keeps
    | with_reducible apply Good.ite
    | with_reducible apply Good.next
    | with_reducible apply Keeps.ite
    | (extract_lets +onlyGivenNames x1; with_reducible refine Cut x1 ?_ ?_)
    | (intro _; clear_value x1; revert x1; intro _ _)
    | subst x1
    | (extract_lets +onlyGivenNames x1; subst x1)
    | exact rfl
    | split
    | with_reducible apply Keeps.set_health

theorem State.excursion_keeps {M : Mask} {s0 : State} {code : Nat} {s : State} (hM : Sub ⟨0x88001, 0x40000000000000000000000000000000100000⟩ M) (hK : Keeps M s0 s) :
    Keeps M s0 (State.excursion code s) := by
  unfold State.excursion
  repeat' first
    | with_reducible assumption
    | ((with_reducible apply hM.of) <;> rfl)
    | with_reducible apply Wr.HLT_CNT
    | ((with_reducible apply hM.reg); decide)
    | with_reducible apply hM.bit
    | with_reducible apply State.wf_keeps
    | with_reducible apply State.post_keeps
    | with_reducible apply Keeps.ite
    | (extract_lets +onlyGivenNames x1; with_reducible refine Cut x1 ?_ ?_)
    | (intro _; clear_value x1; revert x1; intro _ _)
    | subst x1
    | (extract_lets +onlyGivenNames x1; subst x1)
    | exact rfl
    | split
    | with_reducible apply Keeps.set_health

theorem execTempSample_keeps {M : Mask} {s0 : State} {code : Byte} {s : State} (hM : Sub ⟨0x88005, 0x40000000000000000000000001840000100000⟩ M) (hK : Keeps M s0 s) :
    Good M s0 (execTempSample code s) := by
  unfold execTempSample
  repeat' first
    | with_reducible assumption
    | ((with_reducible apply hM.of) <;> rfl)
    | with_reducible apply Wr.RFS_CALSTAT
    | ((with_reducible apply hM.reg); decide)
    | with_reducible apply hM.bit
    | with_reducible apply State.wf_keeps
    | with_reducible apply State.tempCal_keeps
    | with_reducible apply State.excursion_keeps
    | with_reducible apply Good.ite
    | with_reducible apply Good.next
    | with_reducible apply Keeps.ite
    | (extract_lets +onlyGivenNames x1; with_reducible refine Cut x1 ?_ ?_)
    | (intro _; clear_value x1; revert x1; intro _ _)
    | subst x1
    | (extract_lets +onlyGivenNames x1; subst x1)
    | exact rfl
    | split
    | with_reducible apply Keeps.set_radio

theorem State.turn_keeps {M : Mask} {s0 : State} {n : Nat} {s : State} (hM : Sub ⟨0x100, 0x0⟩ M) (hK : Keeps M s0 s) :
    Keeps M s0 (State.turn n s) := by
  unfold State.turn
  repeat' first
    | with_reducible assumption
    | ((with_reducible apply hM.of) <;> rfl)
    | with_reducible apply hM.bit
    | (extract_lets +onlyGivenNames x1; with_reducible refine Cut x1 ?_ ?_)
    | (intro _; clear_value x1; revert x1; intro _ _)
    | subst x1
    | (extract_lets +onlyGivenNames x1; subst x1)
    | exact rfl
    | split
    | with_reducible apply Keeps.set_roles

theorem State.selfTest_keeps {M : Mask} {s0 : State} {n : Nat} {s : State} (hM : Sub ⟨0x80101, 0x2000000000000000000a00000000000100000⟩ M) (hK : Keeps M s0 s) :
    Keeps M s0 (State.selfTest n s) := by
  unfold State.selfTest
  repeat' first
    | with_reducible assumption
    | ((with_reducible apply hM.of) <;> rfl)
    | with_reducible apply Wr.HLT_STAT
    | ((with_reducible apply hM.reg); decide)
    | with_reducible apply hM.bit
    | with_reducible apply State.count_keeps
    | with_reducible apply State.post_keeps
    | with_reducible apply State.spares_keeps
    | with_reducible apply State.nwtBusy_keeps
    | with_reducible apply State.rotate_keeps
    | with_reducible apply Keeps.ite
    | exact rfl
    | split
    | with_reducible apply Keeps.set_roles

theorem execSelftestPeriod_keeps {M : Mask} {s0 : State} {process : Bool} {s : State} (hM : Sub ⟨0x80101, 0x2000000000000000000a00000000000100000⟩ M) (hK : Keeps M s0 s) :
    Good M s0 (execSelftestPeriod process s) := by
  unfold execSelftestPeriod
  repeat' first
    | with_reducible assumption
    | ((with_reducible apply hM.of) <;> rfl)
    | with_reducible apply State.turn_keeps
    | with_reducible apply State.selfTest_keeps
    | with_reducible apply Good.ite
    | with_reducible apply Good.next
    | with_reducible apply Keeps.ite
    | split
    | dsimp -zeta only

theorem execFaultedNewtTest_keeps {M : Mask} {s0 : State} {n : Fin 16} {s : State} (hM : Sub ⟨0x80101, 0x2000000000000000000a00000000000100000⟩ M) (hK : Keeps M s0 s) :
    Good M s0 (execFaultedNewtTest n s) := by
  unfold execFaultedNewtTest
  repeat' first
    | with_reducible assumption
    | ((with_reducible apply hM.of) <;> rfl)
    | with_reducible apply State.selfTest_keeps
    | with_reducible apply Good.ite
    | with_reducible apply Good.next
    | with_reducible apply Keeps.ite
    | split
    | dsimp -zeta only

end Sys2Proof.Machine
end

