-- ==== Sys2Proof/Laws/KeepsHri.lean ====
section
/-! SUPPORT. What each operation of Machine/Hri.lean keeps (Laws/Keeps.lean says what that means). -/

namespace Sys2Proof.Machine

theorem State.strayDoorbell_keeps {M : Mask} {s0 : State} {ring value : Nat} {s : State} (hM : Sub ⟨0x80001, 0x100000⟩ M) (hK : Keeps M s0 s) :
    Keeps M s0 (State.strayDoorbell ring value s) := by
  unfold State.strayDoorbell
  repeat' first
    | with_reducible assumption
    | ((with_reducible apply hM.of) <;> rfl)
    | with_reducible apply Wr.HRI_STAT
    | ((with_reducible apply hM.reg); decide)
    | with_reducible apply State.flag_keeps
    | with_reducible apply State.post_keeps
    | with_reducible apply Keeps.ite
    | exact rfl
    | split
    | dsimp -zeta only

theorem State.submit_keeps {M : Mask} {s0 : State} {n value : Nat} {s : State} (hM : Sub ⟨0x80001, 0x100010⟩ M) (hK : Keeps M s0 s) :
    Keeps M s0 (State.submit n value s) := by
  unfold State.submit
  repeat' first
    | with_reducible assumption
    | ((with_reducible apply hM.of) <;> rfl)
    | with_reducible apply State.setQ_keeps
    | with_reducible apply State.busyRun_keeps
    | with_reducible apply State.strayDoorbell_keeps
    | with_reducible apply Keeps.ite
    | (extract_lets +onlyGivenNames x1; with_reducible refine Cut x1 ?_ ?_)
    | (intro _; clear_value x1; revert x1; intro _ _)
    | subst x1
    | (extract_lets +onlyGivenNames x1; subst x1)
    | split
    | dsimp -zeta only

theorem State.consume_keeps {M : Mask} {s0 : State} {n value : Nat} {s : State} (hM : Sub ⟨0x80001, 0x100000⟩ M) (hK : Keeps M s0 s) :
    Keeps M s0 (State.consume n value s) := by
  unfold State.consume
  repeat' first
    | with_reducible assumption
    | ((with_reducible apply hM.of) <;> rfl)
    | with_reducible apply State.setQ_keeps
    | with_reducible apply State.strayDoorbell_keeps
    | with_reducible apply Keeps.ite
    | (extract_lets +onlyGivenNames x1; with_reducible refine Cut x1 ?_ ?_)
    | (intro _; clear_value x1; revert x1; intro _ _)
    | subst x1
    | (extract_lets +onlyGivenNames x1; subst x1)
    | split
    | dsimp -zeta only

theorem State.newQueue_keeps {M : Mask} {s0 : State} {n : Nat} {e : Entry} {s : State} (hM : Sub ⟨0x80001, 0x100000⟩ M) (hK : Keeps M s0 s) :
    Keeps M s0 (State.newQueue n e s) := by
  unfold State.newQueue
  repeat' first
    | with_reducible assumption
    | ((with_reducible apply hM.of) <;> rfl)
    | with_reducible apply State.setQ_keeps
    | with_reducible apply State.drainEvents_keeps
    | with_reducible apply Keeps.ite
    | (extract_lets +onlyGivenNames x1; with_reducible refine Cut x1 ?_ ?_)
    | (intro _; clear_value x1; revert x1; intro _ _)
    | subst x1
    | (extract_lets +onlyGivenNames x1; subst x1)
    | split
    | dsimp -zeta only

theorem State.releaseOne_keeps {M : Mask} {s0 : State} {s : State} {c : Compl} (hM : Sub ⟨0x80001, 0x100000⟩ M) (hK : Keeps M s0 s) :
    Keeps M s0 (State.releaseOne s c) := by
  unfold State.releaseOne
  repeat' first
    | with_reducible assumption
    | ((with_reducible apply hM.of) <;> rfl)
    | with_reducible apply State.release_keeps
    | with_reducible apply State.freshQueue_keeps
    | with_reducible apply State.newQueue_keeps
    | (extract_lets +onlyGivenNames x1; with_reducible refine Cut x1 ?_ ?_)
    | (intro _; clear_value x1; revert x1; intro _ _)
    | subst x1
    | (extract_lets +onlyGivenNames x1; subst x1)
    | split
    | dsimp -zeta only

theorem execPciPowerStateChange_keeps {M : Mask} {s0 : State} {d3hot : Bool} {s : State} (hM : Sub ⟨0x80001, 0x100000⟩ M) (hK : Keeps M s0 s) :
    Good M s0 (execPciPowerStateChange d3hot s) := by
  unfold execPciPowerStateChange
  repeat' first
    | with_reducible assumption
    | ((with_reducible apply hM.of) <;> rfl)
    | with_reducible apply hM.bit
    | with_reducible apply State.sendPending_keeps
    | with_reducible apply State.drainEvents_keeps
    | with_reducible apply State.dropDone_keeps
    | with_reducible apply State.releaseOne_keeps
    | with_reducible apply Good.ite
    | (with_reducible apply Keeps.foldl; intro _ _ _)
    | with_reducible apply Good.next
    | with_reducible apply Keeps.ite
    | (extract_lets +onlyGivenNames x1; with_reducible refine Cut x1 ?_ ?_)
    | (intro _; clear_value x1; revert x1; intro _ _)
    | subst x1
    | (extract_lets +onlyGivenNames x1; subst x1)
    | exact rfl
    | split
    | with_reducible apply Keeps.set_hri

theorem execPcieLinkChange_keeps {M : Mask} {s0 : State} {l : LinkState} {faults : List Nat} {s : State} (hM : Sub ⟨0x1, 0x0⟩ M) (hK : Keeps M s0 s) :
    Good M s0 (execPcieLinkChange l faults s) := by
  unfold execPcieLinkChange
  repeat' first
    | with_reducible assumption
    | ((with_reducible apply hM.of) <;> rfl)
    | with_reducible apply hM.bit
    | with_reducible apply Good.ite
    | with_reducible apply Good.next
    | with_reducible apply Keeps.ite
    | (extract_lets +onlyGivenNames x1; with_reducible refine Cut x1 ?_ ?_)
    | (intro _; clear_value x1; revert x1; intro _ _)
    | subst x1
    | (extract_lets +onlyGivenNames x1; subst x1)
    | exact rfl
    | split
    | with_reducible apply Keeps.set_hri

theorem execCreateQueue_keeps {M : Mask} {s0 : State} {ctx : Option Entry} {s : State} (hM : Sub ⟨0x80001, 0x100000⟩ M) (hK : Keeps M s0 s) :
    Good M s0 (execCreateQueue ctx s) := by
  unfold execCreateQueue
  repeat' first
    | with_reducible assumption
    | ((with_reducible apply hM.of) <;> rfl)
    | with_reducible apply State.complete_keeps
    | with_reducible apply State.retire_keeps
    | with_reducible apply State.adminDone_keeps
    | with_reducible apply State.newQueue_keeps
    | with_reducible apply Good.ite
    | with_reducible apply Good.next
    | with_reducible apply Keeps.ite
    | (extract_lets +onlyGivenNames x1; with_reducible refine Cut x1 ?_ ?_)
    | (intro _; clear_value x1; revert x1; intro _ _)
    | subst x1
    | (extract_lets +onlyGivenNames x1; subst x1)
    | split
    | dsimp -zeta only

theorem State.ctxZero_keeps {M : Mask} {s0 : State} {e : Option Entry} {s : State} (hM : Sub ⟨0x80001, 0x100000⟩ M) (hK : Keeps M s0 s) :
    Keeps M s0 (State.ctxZero e s) := by
  unfold State.ctxZero
  repeat' first
    | with_reducible assumption
    | ((with_reducible apply hM.of) <;> rfl)
    | with_reducible apply Wr.HRI_STAT
    | ((with_reducible apply hM.reg); decide)
    | with_reducible apply hM.bit
    | with_reducible apply State.wb_keeps
    | with_reducible apply State.flag_keeps
    | with_reducible apply State.setQ_keeps
    | with_reducible apply Keeps.ite
    | (extract_lets +onlyGivenNames x1; with_reducible refine Cut x1 ?_ ?_)
    | (intro _; clear_value x1; revert x1; intro _ _)
    | subst x1
    | (extract_lets +onlyGivenNames x1; subst x1)
    | exact rfl
    | split
    | with_reducible apply Keeps.set_hri

theorem State.ctxBadPost_keeps {M : Mask} {s0 : State} {n detail : Nat} {s : State} (hM : Sub ⟨0x80001, 0x100000⟩ M) (hK : Keeps M s0 s) :
    Keeps M s0 (State.ctxBadPost n detail s) := by
  unfold State.ctxBadPost
  repeat' first
    | with_reducible assumption
    | ((with_reducible apply hM.of) <;> rfl)
    | with_reducible apply Wr.HRI_STAT
    | ((with_reducible apply hM.reg); decide)
    | with_reducible apply State.flag_keeps
    | with_reducible apply State.post_keeps
    | exact rfl
    | split
    | dsimp -zeta only

theorem State.refetch_keeps {M : Mask} {s0 : State} {s : State} {p : Nat × Option Entry} (hM : Sub ⟨0x80001, 0x100000⟩ M) (hK : Keeps M s0 s) :
    Keeps M s0 (State.refetch s p) := by
  unfold State.refetch
  repeat' first
    | with_reducible assumption
    | ((with_reducible apply hM.of) <;> rfl)
    | with_reducible apply State.modQ_keeps
    | with_reducible apply State.ctxBadPost_keeps
    | (extract_lets +onlyGivenNames x1; with_reducible refine Cut x1 ?_ ?_)
    | (intro _; clear_value x1; revert x1; intro _ _)
    | subst x1
    | (extract_lets +onlyGivenNames x1; subst x1)
    | split
    | dsimp -zeta only

theorem State.ctxInvalidate_keeps {M : Mask} {s0 : State} {v : Nat} {reads : List (Option Entry)} {s : State} (hM : Sub ⟨0x80001, 0x100000⟩ M) (hK : Keeps M s0 s) :
    Keeps M s0 (State.ctxInvalidate v reads s) := by
  unfold State.ctxInvalidate
  repeat' first
    | with_reducible assumption
    | ((with_reducible apply hM.of) <;> rfl)
    | with_reducible apply State.refetch_keeps
    | (with_reducible apply Keeps.foldl; intro _ _ _)
    | (extract_lets +onlyGivenNames x1; with_reducible refine Cut x1 ?_ ?_)
    | (intro _; clear_value x1; revert x1; intro _ _)
    | subst x1
    | (extract_lets +onlyGivenNames x1; subst x1)
    | split
    | dsimp -zeta only

theorem State.bar2Access_keeps {M : Mask} {s0 : State} {off size : Nat} {data : Option Dword} {reads : List (Option Entry)} {s : State} (hM : Sub ⟨0xa0001, 0x100010⟩ M) (hK : Keeps M s0 s) :
    Keeps M s0 (State.bar2Access off size data reads s) := by
  unfold State.bar2Access
  repeat' first
    | with_reducible assumption
    | ((with_reducible apply hM.of) <;> rfl)
    | with_reducible apply State.answer_keeps
    | with_reducible apply State.submit_keeps
    | with_reducible apply State.consume_keeps
    | with_reducible apply State.ctxInvalidate_keeps
    | with_reducible apply Keeps.ite
    | (extract_lets +onlyGivenNames x1; with_reducible refine Cut x1 ?_ ?_)
    | (intro _; clear_value x1; revert x1; intro _ _)
    | subst x1
    | (extract_lets +onlyGivenNames x1; subst x1)
    | split
    | dsimp -zeta only

theorem State.doorbell_keeps {M : Mask} {s0 : State} {off size : Nat} {data : Option Dword} {s : State} (hM : Sub ⟨0xe0001, 0x100010⟩ M) (hK : Keeps M s0 s) :
    Keeps M s0 (State.doorbell off size data s) := by
  unfold State.doorbell
  repeat' first
    | with_reducible assumption
    | ((with_reducible apply hM.of) <;> rfl)
    | with_reducible apply hM.bit
    | with_reducible apply State.bar2Access_keeps
    | with_reducible apply Keeps.ite
    | (extract_lets +onlyGivenNames x1; with_reducible refine Cut x1 ?_ ?_)
    | (intro _; clear_value x1; revert x1; intro _ _)
    | subst x1
    | (extract_lets +onlyGivenNames x1; subst x1)
    | exact rfl
    | split
    | with_reducible apply Keeps.set_free

theorem execSubmissionBell_keeps {M : Mask} {s0 : State} {off size : Nat} {data : Option Dword} {s : State} (hM : Sub ⟨0xe0001, 0x100010⟩ M) (hK : Keeps M s0 s) :
    Good M s0 (execSubmissionBell off size data s) := by
  unfold execSubmissionBell
  repeat' first
    | with_reducible assumption
    | ((with_reducible apply hM.of) <;> rfl)
    | with_reducible apply State.doorbell_keeps
    | with_reducible apply Good.next
    | split
    | dsimp -zeta only

theorem execCompletionBell_keeps {M : Mask} {s0 : State} {off size : Nat} {data : Option Dword} {s : State} (hM : Sub ⟨0xe0001, 0x100010⟩ M) (hK : Keeps M s0 s) :
    Good M s0 (execCompletionBell off size data s) := by
  unfold execCompletionBell
  repeat' first
    | with_reducible assumption
    | ((with_reducible apply hM.of) <;> rfl)
    | with_reducible apply State.doorbell_keeps
    | with_reducible apply Good.next
    | split
    | dsimp -zeta only

theorem execContextBell_keeps {M : Mask} {s0 : State} {off size : Nat} {data : Option Dword} {reads : List (Option Entry)} {s : State} (hM : Sub ⟨0xa0001, 0x100010⟩ M) (hK : Keeps M s0 s) :
    Good M s0 (execContextBell off size data reads s) := by
  unfold execContextBell
  repeat' first
    | with_reducible assumption
    | ((with_reducible apply hM.of) <;> rfl)
    | with_reducible apply State.bar2Access_keeps
    | with_reducible apply Good.next
    | split
    | dsimp -zeta only

theorem State.rrServe_keeps {M : Mask} {s0 : State} {n : Nat} {s : State} (hM : Sub ⟨0x1, 0x0⟩ M) (hK : Keeps M s0 s) :
    Keeps M s0 (State.rrServe n s) := by
  unfold State.rrServe
  repeat' first
    | with_reducible assumption
    | ((with_reducible apply hM.of) <;> rfl)
    | with_reducible apply hM.bit
    | with_reducible apply Keeps.ite
    | (extract_lets +onlyGivenNames x1; with_reducible refine Cut x1 ?_ ?_)
    | (intro _; clear_value x1; revert x1; intro _ _)
    | subst x1
    | (extract_lets +onlyGivenNames x1; subst x1)
    | exact rfl
    | split
    | with_reducible apply Keeps.set_hri

theorem State.fetchFailed_keeps {M : Mask} {s0 : State} {n : Nat} {s : State} (hM : Sub ⟨0x80001, 0x100000⟩ M) (hK : Keeps M s0 s) :
    Keeps M s0 (State.fetchFailed n s) := by
  unfold State.fetchFailed
  repeat' first
    | with_reducible assumption
    | ((with_reducible apply hM.of) <;> rfl)
    | with_reducible apply Wr.HRI_STAT
    | ((with_reducible apply hM.reg); decide)
    | with_reducible apply State.flag_keeps
    | with_reducible apply State.modQ_keeps
    | with_reducible apply State.post_keeps
    | with_reducible apply Keeps.ite
    | (extract_lets +onlyGivenNames x1; with_reducible refine Cut x1 ?_ ?_)
    | (intro _; clear_value x1; revert x1; intro _ _)
    | subst x1
    | (extract_lets +onlyGivenNames x1; subst x1)
    | exact rfl
    | split
    | dsimp -zeta only

theorem State.enter_keeps {M : Mask} {s0 : State} {n : Nat} {c : Cmd} {s : State} (hM : Sub ⟨0x1, 0x0⟩ M) (hK : Keeps M s0 s) :
    Keeps M s0 (State.enter n c s) := by
  unfold State.enter
  repeat' first
    | with_reducible assumption
    | ((with_reducible apply hM.of) <;> rfl)
    | with_reducible apply State.modQ_keeps
    | split
    | dsimp -zeta only

theorem State.fetchAdmin_keeps {M : Mask} {s0 : State} {c : Cmd} {s : State} (hM : Sub ⟨0x80001, 0x100000⟩ M) (hK : Keeps M s0 s) :
    Keeps M s0 (State.fetchAdmin c s) := by
  unfold State.fetchAdmin
  repeat' first
    | with_reducible assumption
    | ((with_reducible apply hM.of) <;> rfl)
    | with_reducible apply State.complete_keeps
    | with_reducible apply State.enter_keeps
    | with_reducible apply Keeps.ite
    | (extract_lets +onlyGivenNames x1; with_reducible refine Cut x1 ?_ ?_)
    | (intro _; clear_value x1; revert x1; intro _ _)
    | subst x1
    | (extract_lets +onlyGivenNames x1; subst x1)
    | split
    | dsimp -zeta only

theorem State.readyEstimate_keeps {M : Mask} {s0 : State} {s : State} (hM : Sub ⟨0x40000, 0x0⟩ M) (hK : Keeps M s0 s) :
    Keeps2 M s0 (State.readyEstimate s) := by
  unfold State.readyEstimate
  repeat' first
    | with_reducible assumption
    | ((with_reducible apply hM.of) <;> rfl)
    | with_reducible apply State.freeNat_keeps
    | with_reducible apply Keeps2.ite
    | with_reducible apply Keeps.ite
    | (with_reducible apply Keeps2.of; with_reducible assumption)
    | with_reducible apply Keeps2.snd
    | (extract_lets +onlyGivenNames x1; with_reducible refine Cut x1 ?_ ?_)
    | (intro _; clear_value x1; revert x1; intro _ _)
    | subst x1
    | (extract_lets +onlyGivenNames x1; subst x1)
    | split
    | with_reducible apply Keeps2.mk
    | dsimp -zeta only

theorem State.fetchSto_keeps {M : Mask} {s0 : State} {n : Nat} {c : Cmd} {s : State} (hM : Sub ⟨0xc0001, 0x100000⟩ M) (hK : Keeps M s0 s) :
    Keeps M s0 (State.fetchSto n c s) := by
  unfold State.fetchSto
  repeat' first
    | with_reducible assumption
    | ((with_reducible apply hM.of) <;> rfl)
    | with_reducible apply State.complete_keeps
    | with_reducible apply State.failed_keeps
    | with_reducible apply State.enter_keeps
    | with_reducible apply State.readyEstimate_keeps
    | with_reducible apply Keeps.ite
    | (with_reducible apply Keeps2.of; with_reducible assumption)
    | with_reducible apply Keeps2.snd
    | (extract_lets +onlyGivenNames x1; with_reducible refine Cut x1 ?_ ?_)
    | (intro _; clear_value x1; revert x1; intro _ _)
    | subst x1
    | (extract_lets +onlyGivenNames x1; subst x1)
    | split
    | with_reducible apply Keeps2.mk
    | dsimp -zeta only

theorem State.fetchOther_keeps {M : Mask} {s0 : State} {n : Nat} {c : Cmd} {s : State} (hM : Sub ⟨0x80001, 0x100000⟩ M) (hK : Keeps M s0 s) :
    Keeps M s0 (State.fetchOther n c s) := by
  unfold State.fetchOther
  repeat' first
    | with_reducible assumption
    | ((with_reducible apply hM.of) <;> rfl)
    | with_reducible apply State.failed_keeps
    | with_reducible apply State.enter_keeps
    | with_reducible apply Keeps.ite
    | split
    | dsimp -zeta only

theorem State.fetched_keeps {M : Mask} {s0 : State} {n : Nat} {e : Entry} {s : State} (hM : Sub ⟨0xc0001, 0x100010⟩ M) (hK : Keeps M s0 s) :
    Keeps M s0 (State.fetched n e s) := by
  unfold State.fetched
  repeat' first
    | with_reducible assumption
    | ((with_reducible apply hM.of) <;> rfl)
    | with_reducible apply hM.bit
    | with_reducible apply State.setQ_keeps
    | with_reducible apply State.busyRun_keeps
    | with_reducible apply State.rrServe_keeps
    | with_reducible apply State.fetchAdmin_keeps
    | with_reducible apply State.fetchSto_keeps
    | with_reducible apply State.fetchOther_keeps
    | with_reducible apply Keeps.ite
    | (extract_lets +onlyGivenNames x1; with_reducible refine Cut x1 ?_ ?_)
    | (intro _; clear_value x1; revert x1; intro _ _)
    | subst x1
    | (extract_lets +onlyGivenNames x1; subst x1)
    | exact rfl
    | split
    | with_reducible apply Keeps.set_hri

theorem execEntryFetch_keeps {M : Mask} {s0 : State} {q : Fin 37} {entry : Option Entry} {s : State} (hM : Sub ⟨0xc0001, 0x100010⟩ M) (hK : Keeps M s0 s) :
    Good M s0 (execEntryFetch q entry s) := by
  unfold execEntryFetch
  repeat' first
    | with_reducible assumption
    | ((with_reducible apply hM.of) <;> rfl)
    | with_reducible apply State.fetchFailed_keeps
    | with_reducible apply State.fetched_keeps
    | with_reducible apply Good.ite
    | with_reducible apply Good.next
    | with_reducible apply Keeps.ite
    | split
    | dsimp -zeta only

theorem execCoalesceTimerExpiry_keeps {M : Mask} {s0 : State} {q : Fin 37} {s : State} (hM : Sub ⟨0x1, 0x0⟩ M) (hK : Keeps M s0 s) :
    Good M s0 (execCoalesceTimerExpiry q s) := by
  unfold execCoalesceTimerExpiry
  repeat' first
    | with_reducible assumption
    | ((with_reducible apply hM.of) <;> rfl)
    | with_reducible apply State.setQ_keeps
    | with_reducible apply State.signal_keeps
    | with_reducible apply Good.ite
    | with_reducible apply Good.next
    | with_reducible apply Keeps.ite
    | (extract_lets +onlyGivenNames x1; with_reducible refine Cut x1 ?_ ?_)
    | (intro _; clear_value x1; revert x1; intro _ _)
    | subst x1
    | (extract_lets +onlyGivenNames x1; subst x1)
    | split
    | dsimp -zeta only

theorem execMsixUnmask_keeps {M : Mask} {s0 : State} {v : Fin 64} {s : State} (hM : Sub ⟨0x1, 0x0⟩ M) (hK : Keeps M s0 s) :
    Good M s0 (execMsixUnmask v s) := by
  unfold execMsixUnmask
  repeat' first
    | with_reducible assumption
    | ((with_reducible apply hM.of) <;> rfl)
    | with_reducible apply State.setVec_keeps
    | with_reducible apply State.sendPending_keeps
    | with_reducible apply Good.ite
    | with_reducible apply Good.next
    | with_reducible apply Keeps.ite
    | split
    | dsimp -zeta only

theorem State.barWrite_keeps {M : Mask} {s0 : State} {off : Nat} {w : Word} {s : State} (hM : Sub ⟨0x1, 0x0⟩ M) (hK : Keeps M s0 s) :
    Keeps M s0 (State.barWrite off w s) := by
  unfold State.barWrite
  repeat' first
    | with_reducible assumption
    | ((with_reducible apply hM.of) <;> rfl)
    | with_reducible apply hM.bit
    | with_reducible apply Keeps.ite
    | exact rfl
    | split
    | with_reducible apply Keeps.set_hri

theorem State.aerWrite_keeps {M : Mask} {s0 : State} {o : Nat} {w : Word} {s : State} (hM : Sub ⟨0x1, 0x0⟩ M) (hK : Keeps M s0 s) :
    Keeps M s0 (State.aerWrite o w s) := by
  unfold State.aerWrite
  repeat' first
    | with_reducible assumption
    | ((with_reducible apply hM.of) <;> rfl)
    | with_reducible apply hM.bit
    | with_reducible apply Keeps.ite
    | (extract_lets +onlyGivenNames x1; with_reducible refine Cut x1 ?_ ?_)
    | (intro _; clear_value x1; revert x1; intro _ _)
    | subst x1
    | (extract_lets +onlyGivenNames x1; subst x1)
    | exact rfl
    | split
    | with_reducible apply Keeps.set_hri

theorem State.bar4Word_keeps {M : Mask} {s0 : State} {a : Nat} {w : Word} {s : State} (hM : Sub ⟨0x1, 0x0⟩ M) (hK : Keeps M s0 s) :
    Keeps M s0 (State.bar4Word a w s) := by
  unfold State.bar4Word
  repeat' first
    | with_reducible assumption
    | ((with_reducible apply hM.of) <;> rfl)
    | with_reducible apply State.setVec_keeps
    | with_reducible apply State.sendPending_keeps
    | with_reducible apply Keeps.ite
    | (extract_lets +onlyGivenNames x1; with_reducible refine Cut x1 ?_ ?_)
    | (intro _; clear_value x1; revert x1; intro _ _)
    | subst x1
    | (extract_lets +onlyGivenNames x1; subst x1)
    | split
    | dsimp -zeta only

theorem State.bar4Write_keeps {M : Mask} {s0 : State} {a size : Nat} {data : Dword} {s : State} (hM : Sub ⟨0x1, 0x0⟩ M) (hK : Keeps M s0 s) :
    Keeps M s0 (State.bar4Write a size data s) := by
  unfold State.bar4Write
  repeat' first
    | with_reducible assumption
    | ((with_reducible apply hM.of) <;> rfl)
    | with_reducible apply State.bar4Word_keeps
    | with_reducible apply Keeps.ite
    | split
    | dsimp -zeta only

theorem State.msixControl_keeps {M : Mask} {s0 : State} {w : Half} {s : State} (hM : Sub ⟨0x1, 0x0⟩ M) (hK : Keeps M s0 s) :
    Keeps M s0 (State.msixControl w s) := by
  unfold State.msixControl
  repeat' first
    | with_reducible assumption
    | ((with_reducible apply hM.of) <;> rfl)
    | with_reducible apply hM.bit
    | with_reducible apply State.sendPending_keeps
    | exact rfl
    | split
    | with_reducible apply Keeps.set_hri

theorem State.devCtlWrite_keeps {M : Mask} {s0 : State} {w : Half} {s : State} (hM : Sub ⟨0x1, 0x0⟩ M) (hK : Keeps M s0 s) :
    Keeps M s0 (State.devCtlWrite w s) := by
  unfold State.devCtlWrite
  repeat' first
    | with_reducible assumption
    | ((with_reducible apply hM.of) <;> rfl)
    | with_reducible apply hM.bit
    | with_reducible apply Keeps.ite
    | (extract_lets +onlyGivenNames x1; with_reducible refine Cut x1 ?_ ?_)
    | (intro _; clear_value x1; revert x1; intro _ _)
    | subst x1
    | (extract_lets +onlyGivenNames x1; subst x1)
    | exact rfl
    | split
    | with_reducible apply Keeps.set_hri

theorem State.configWrite_keeps {M : Mask} {s0 : State} {sp : Space} {addr : Nat} {data : Dword} {s : State} (hM : Sub ⟨0x1, 0x0⟩ M) (hK : Keeps M s0 s) :
    Keeps M s0 (State.configWrite sp addr data s) := by
  unfold State.configWrite
  repeat' first
    | with_reducible assumption
    | ((with_reducible apply hM.of) <;> rfl)
    | with_reducible apply hM.bit
    | with_reducible apply State.barWrite_keeps
    | with_reducible apply State.aerWrite_keeps
    | with_reducible apply State.msixControl_keeps
    | with_reducible apply State.devCtlWrite_keeps
    | (extract_lets +onlyGivenNames x1; with_reducible refine Cut x1 ?_ ?_)
    | (intro _; clear_value x1; revert x1; intro _ _)
    | subst x1
    | (extract_lets +onlyGivenNames x1; subst x1)
    | exact rfl
    | split
    | with_reducible apply Keeps.set_hri

theorem State.hostSpace_keeps {M : Mask} {s0 : State} {sp : Space} {addr size : Nat} {data : Dword} {s : State} (hM : Sub ⟨0x20001, 0x0⟩ M) (hK : Keeps M s0 s) :
    Keeps M s0 (State.hostSpace sp addr size data s) := by
  unfold State.hostSpace
  repeat' first
    | with_reducible assumption
    | ((with_reducible apply hM.of) <;> rfl)
    | with_reducible apply hM.bit
    | with_reducible apply State.answer_keeps
    | with_reducible apply State.bar4Write_keeps
    | with_reducible apply State.configWrite_keeps
    | with_reducible apply Keeps.ite
    | (with_reducible apply Keeps.foldl; intro _ _ _)
    | (extract_lets +onlyGivenNames x1; with_reducible refine Cut x1 ?_ ?_)
    | (intro _; clear_value x1; revert x1; intro _ _)
    | subst x1
    | (extract_lets +onlyGivenNames x1; subst x1)
    | exact rfl
    | split
    | with_reducible apply Keeps.set_hri

theorem execEventRingDrain_keeps {M : Mask} {s0 : State} {s : State} (hM : Sub ⟨0x80001, 0x100000⟩ M) (hK : Keeps M s0 s) :
    Good M s0 (execEventRingDrain s) := by
  unfold execEventRingDrain
  repeat' first
    | with_reducible assumption
    | ((with_reducible apply hM.of) <;> rfl)
    | with_reducible apply State.drainEvents_keeps
    | with_reducible apply Good.next
    | split
    | dsimp -zeta only

theorem State.deleteRing_keeps {M : Mask} {s0 : State} {n : Nat} {c : Cmd} {s : State} (hM : Sub ⟨0x80001, 0x100000⟩ M) (hK : Keeps M s0 s) :
    Keeps M s0 (State.deleteRing n c s) := by
  unfold State.deleteRing
  repeat' first
    | with_reducible assumption
    | ((with_reducible apply hM.of) <;> rfl)
    | with_reducible apply State.modQ_keeps
    | with_reducible apply State.dropDone_keeps
    | with_reducible apply Keeps.ite
    | (extract_lets +onlyGivenNames x1; with_reducible refine Cut x1 ?_ ?_)
    | (intro _; clear_value x1; revert x1; intro _ _)
    | subst x1
    | (extract_lets +onlyGivenNames x1; subst x1)
    | split
    | dsimp -zeta only

theorem execDeleteQueue_keeps {M : Mask} {s0 : State} {s : State} (hM : Sub ⟨0x80005, 0x100000⟩ M) (hK : Keeps M s0 s) :
    Good M s0 (execDeleteQueue s) := by
  unfold execDeleteQueue
  repeat' first
    | with_reducible assumption
    | ((with_reducible apply hM.of) <;> rfl)
    | with_reducible apply State.setQ_keeps
    | with_reducible apply State.adminDone_keeps
    | with_reducible apply State.dropDeliveries34_keeps
    | with_reducible apply State.deleteRing_keeps
    | with_reducible apply Good.ite
    | with_reducible apply Good.next
    | with_reducible apply Keeps.ite
    | (extract_lets +onlyGivenNames x1; with_reducible refine Cut x1 ?_ ?_)
    | (intro _; clear_value x1; revert x1; intro _ _)
    | subst x1
    | (extract_lets +onlyGivenNames x1; subst x1)
    | split
    | dsimp -zeta only

theorem execQueueReset_keeps {M : Mask} {s0 : State} {s : State} (hM : Sub ⟨0xc000b, 0x100100000⟩ M) (hK : Keeps M s0 s) :
    Good M s0 (execQueueReset s) := by
  unfold execQueueReset
  repeat' first
    | with_reducible assumption
    | ((with_reducible apply hM.of) <;> rfl)
    | with_reducible apply State.complete_keeps
    | with_reducible apply State.retire_keeps
    | with_reducible apply State.adminDone_keeps
    | with_reducible apply State.abandonQueue_keeps
    | with_reducible apply State.resetQueue_keeps
    | with_reducible apply Good.ite
    | with_reducible apply Good.next
    | with_reducible apply Keeps.ite
    | (extract_lets +onlyGivenNames x1; with_reducible refine Cut x1 ?_ ?_)
    | (intro _; clear_value x1; revert x1; intro _ _)
    | subst x1
    | (extract_lets +onlyGivenNames x1; subst x1)
    | split
    | dsimp -zeta only

theorem State.pageOut_keeps {M : Mask} {s0 : State} {c : Cmd} {segs : Segs} {xferOk : Bool} {l : List Byte} {s : State} (hM : Sub ⟨0x80001, 0x100000⟩ M) (hK : Keeps M s0 s) :
    Keeps M s0 (State.pageOut c segs xferOk l s) := by
  unfold State.pageOut
  repeat' first
    | with_reducible assumption
    | ((with_reducible apply hM.of) <;> rfl)
    | with_reducible apply State.adminDone_keeps
    | with_reducible apply State.putBuffer_keeps
    | with_reducible apply Keeps.ite
    | (extract_lets +onlyGivenNames x1; with_reducible refine Cut x1 ?_ ?_)
    | (intro _; clear_value x1; revert x1; intro _ _)
    | subst x1
    | (extract_lets +onlyGivenNames x1; subst x1)
    | split
    | dsimp -zeta only

theorem execGetLogPage_keeps {M : Mask} {s0 : State} {segs : Segs} {xferOk : Bool} {s : State} (hM : Sub ⟨0x80001, 0x100000⟩ M) (hK : Keeps M s0 s) :
    Good M s0 (execGetLogPage segs xferOk s) := by
  unfold execGetLogPage
  repeat' first
    | with_reducible assumption
    | ((with_reducible apply hM.of) <;> rfl)
    | with_reducible apply State.adminDone_keeps
    | with_reducible apply State.pageOut_keeps
    | with_reducible apply Good.ite
    | with_reducible apply Good.next
    | with_reducible apply Keeps.ite
    | (extract_lets +onlyGivenNames x1; with_reducible refine Cut x1 ?_ ?_)
    | (intro _; clear_value x1; revert x1; intro _ _)
    | subst x1
    | (extract_lets +onlyGivenNames x1; subst x1)
    | split
    | dsimp -zeta only

theorem State.hriCtlWrite_keeps {M : Mask} {s0 : State} {w : Word} {s : State} (hM : Sub ⟨0xc234f, 0x90000000013744c010000000000100180000⟩ M) (hK : Keeps M s0 s) :
    Keeps M s0 (State.hriCtlWrite w s) := by
  unfold State.hriCtlWrite
  repeat' first
    | with_reducible assumption
    | ((with_reducible apply hM.of) <;> rfl)
    | with_reducible apply Wr.HRI_CTL
    | with_reducible apply Wr.HRI_STAT
    | refine WrBad.of (by exact rfl) ?_
    | ((with_reducible apply hM.reg); decide)
    | with_reducible apply hM.bit
    | with_reducible apply State.writeReg_keeps
    | with_reducible apply State.hriStop_keeps
    | with_reducible apply Keeps.ite
    | (extract_lets +onlyGivenNames x1; with_reducible refine Cut x1 ?_ ?_)
    | (intro _; clear_value x1; revert x1; intro _ _)
    | subst x1
    | (extract_lets +onlyGivenNames x1; subst x1)
    | exact rfl
    | split
    | with_reducible apply Keeps.set_hri

end Sys2Proof.Machine
end

