-- ==== Sys2Proof/Laws/KeepsBus.lean ====
section
/-! SUPPORT. What each operation of Machine/Bus.lean keeps (Laws/Keeps.lean says what that means). -/

namespace Sys2Proof.Machine

theorem State.pwrCtlWrite_keeps {M : Mask} {s0 : State} {w : Word} {s : State} (hM : Sub ⟨0x80000, 0x18⟩ M) (hK : Keeps M s0 s) :
    Keeps M s0 (State.pwrCtlWrite w s) := by
  unfold State.pwrCtlWrite
  repeat' first
    | with_reducible assumption
    | ((with_reducible apply hM.of) <;> rfl)
    | with_reducible apply Wr.PWR_CTL
    | with_reducible apply Wr.PWR_STAT
    | refine WrBad.of (by exact rfl) ?_
    | ((with_reducible apply hM.reg); decide)
    | with_reducible apply State.flag_keeps
    | with_reducible apply State.writeReg_keeps
    | with_reducible apply Keeps.ite
    | exact rfl
    | split
    | dsimp -zeta only

theorem State.rfsWrite_keeps {M : Mask} {s0 : State} {a : Nat} {w : Word} {s : State} (hM : Sub ⟨0x80005, 0xc000000000000000000000000014ae0000100000⟩ M) (hK : Keeps M s0 s) :
    Keeps M s0 (State.rfsWrite a w s) := by
  unfold State.rfsWrite
  repeat' first
    | with_reducible assumption
    | ((with_reducible apply hM.of) <;> rfl)
    | with_reducible apply WrBad.any
    | with_reducible apply Wr.any
    | ((with_reducible apply hM.reg); decide)
    | with_reducible apply State.writeReg_keeps
    | with_reducible apply State.rfsApply_keeps
    | with_reducible apply State.rfsStage_keeps
    | with_reducible apply State.txcfgWrite_keeps
    | with_reducible apply State.tableWrite_keeps
    | with_reducible apply State.rfsCtlWrite_keeps
    | with_reducible apply State.rfsCalWrite_keeps
    | with_reducible apply Keeps.ite
    | (extract_lets +onlyGivenNames x1; with_reducible refine Cut x1 ?_ ?_)
    | (intro _; clear_value x1; revert x1; intro _ _)
    | subst x1
    | (extract_lets +onlyGivenNames x1; subst x1)
    | exact rfl
    | split
    | dsimp -zeta only

theorem State.pioWrite_keeps {M : Mask} {s0 : State} {m : Master} {a : Nat} {w : Word} {s : State} (hM : Sub ⟨0x80341, 0xc00090000000013447c450800000000000100000⟩ M) (hK : Keeps M s0 s) :
    Keeps M s0 (State.pioWrite m a w s) := by
  unfold State.pioWrite
  repeat' first
    | with_reducible assumption
    | ((with_reducible apply hM.of) <;> rfl)
    | with_reducible apply WrBad.any
    | with_reducible apply Wr.any
    | ((with_reducible apply hM.reg); decide)
    | with_reducible apply State.writeReg_keeps
    | with_reducible apply State.cmpWrite_keeps
    | with_reducible apply State.pwmDutyWrite_keeps
    | with_reducible apply State.pwmCfgWrite_keeps
    | with_reducible apply State.gpioCfgWrite_keeps
    | with_reducible apply State.gpioOutWrite_keeps
    | with_reducible apply State.outWrite_keeps
    | with_reducible apply State.adcSeqWrite_keeps
    | with_reducible apply Keeps.ite
    | (extract_lets +onlyGivenNames x1; with_reducible refine Cut x1 ?_ ?_)
    | (intro _; clear_value x1; revert x1; intro _ _)
    | subst x1
    | (extract_lets +onlyGivenNames x1; subst x1)
    | exact rfl
    | split
    | dsimp -zeta only

theorem State.swevWrite_keeps {M : Mask} {s0 : State} {w : Word} {s : State} (hM : Sub ⟨0x80341, 0x90000000013440c010000000000000100000⟩ M) (hK : Keeps M s0 s) :
    Keeps M s0 (State.swevWrite w s) := by
  unfold State.swevWrite
  repeat' first
    | with_reducible assumption
    | ((with_reducible apply hM.of) <;> rfl)
    | with_reducible apply State.raiseTogether_keeps
    | split
    | dsimp -zeta only

theorem State.lehrWrite_keeps {M : Mask} {s0 : State} {m : Master} {a : Nat} {w : Word} {s : State} (hM : Sub ⟨0x80771, 0xc00090000016873744c010010000000000100000⟩ M) (hK : Keeps M s0 s) :
    Keeps M s0 (State.lehrWrite m a w s) := by
  unfold State.lehrWrite
  repeat' first
    | with_reducible assumption
    | ((with_reducible apply hM.of) <;> rfl)
    | with_reducible apply WrBad.any
    | with_reducible apply Wr.any
    | ((with_reducible apply hM.reg); decide)
    | with_reducible apply State.writeReg_keeps
    | with_reducible apply State.countStage_keeps
    | with_reducible apply State.countCommit_keeps
    | with_reducible apply State.calStage_keeps
    | with_reducible apply State.calCommit_keeps
    | with_reducible apply State.lehrCtlWrite_keeps
    | with_reducible apply State.alarmCommit_keeps
    | with_reducible apply State.perWrite_keeps
    | with_reducible apply State.chgWrite_keeps
    | with_reducible apply Keeps.ite
    | exact rfl
    | split
    | dsimp -zeta only

theorem State.cflBlockWrite_keeps {M : Mask} {s0 : State} {m : Master} {a : Nat} {w : Word} {s : State} (hM : Sub ⟨0x81000, 0xc000000020c00000000000000000000000000000⟩ M) (hK : Keeps M s0 s) :
    Keeps M s0 (State.cflBlockWrite m a w s) := by
  unfold State.cflBlockWrite
  repeat' first
    | with_reducible assumption
    | ((with_reducible apply hM.of) <;> rfl)
    | with_reducible apply Wr.CFL_STAT
    | with_reducible apply WrBad.any
    | with_reducible apply Wr.any
    | ((with_reducible apply hM.reg); decide)
    | with_reducible apply State.flag_keeps
    | with_reducible apply State.writeReg_keeps
    | with_reducible apply State.cflWrite_keeps
    | with_reducible apply State.cflCtl_keeps
    | with_reducible apply State.cflWp_keeps
    | with_reducible apply Keeps.ite
    | exact rfl
    | split
    | dsimp -zeta only

theorem State.pmcBlockWrite_keeps {M : Mask} {s0 : State} {m : Master} {a : Nat} {w : Word} {s : State} (hM : Sub ⟨0x80040, 0xc000220000000000000000000000000000000000⟩ M) (hK : Keeps M s0 s) :
    Keeps M s0 (State.pmcBlockWrite m a w s) := by
  unfold State.pmcBlockWrite
  repeat' first
    | with_reducible assumption
    | ((with_reducible apply hM.of) <;> rfl)
    | with_reducible apply Wr.PMC_STAT
    | with_reducible apply WrBad.any
    | with_reducible apply Wr.any
    | ((with_reducible apply hM.reg); decide)
    | with_reducible apply State.flag_keeps
    | with_reducible apply State.writeReg_keeps
    | with_reducible apply State.sctlWrite_keeps
    | with_reducible apply Keeps.ite
    | (extract_lets +onlyGivenNames x1; with_reducible refine Cut x1 ?_ ?_)
    | (intro _; clear_value x1; revert x1; intro _ _)
    | subst x1
    | (extract_lets +onlyGivenNames x1; subst x1)
    | exact rfl
    | split
    | dsimp -zeta only

theorem State.cdcWrite_keeps {M : Mask} {s0 : State} {w : Word} {s : State} (hM : Sub ⟨0x80000, 0x1000⟩ M) (hK : Keeps M s0 s) :
    Keeps M s0 (State.cdcWrite w s) := by
  unfold State.cdcWrite
  repeat' first
    | with_reducible assumption
    | ((with_reducible apply hM.of) <;> rfl)
    | with_reducible apply Wr.CLK_CDCLOST
    | ((with_reducible apply hM.reg); decide)
    | with_reducible apply State.wr_keeps
    | with_reducible apply Keeps.ite
    | exact rfl
    | split
    | dsimp -zeta only

theorem State.smbStatWrite_keeps {M : Mask} {s0 : State} {w : Word} {s : State} (hM : Sub ⟨0x80800, 0x80000000000000000000000000000000000000⟩ M) (hK : Keeps M s0 s) :
    Keeps M s0 (State.smbStatWrite w s) := by
  unfold State.smbStatWrite
  repeat' first
    | with_reducible assumption
    | ((with_reducible apply hM.of) <;> rfl)
    | with_reducible apply Wr.SMB_STAT
    | refine WrBad.of (by exact rfl) ?_
    | ((with_reducible apply hM.reg); decide)
    | with_reducible apply hM.bit
    | with_reducible apply State.writeReg_keeps
    | with_reducible apply Keeps.ite
    | (extract_lets +onlyGivenNames x1; with_reducible refine Cut x1 ?_ ?_)
    | (intro _; clear_value x1; revert x1; intro _ _)
    | subst x1
    | (extract_lets +onlyGivenNames x1; subst x1)
    | exact rfl
    | split
    | with_reducible apply Keeps.set_power

theorem State.rstWrite_keeps {M : Mask} {s0 : State} {m : Master} {a : Nat} {w : Word} {s : State} (hM : Sub ⟨0x9ffff, 0xc08200000040040000000014000000001010e010⟩ M) (hK : Keeps M s0 s) :
    Keeps M s0 (State.rstWrite m a w s) := by
  unfold State.rstWrite
  repeat' first
    | with_reducible assumption
    | ((with_reducible apply hM.of) <;> rfl)
    | with_reducible apply WrBad.any
    | with_reducible apply Wr.any
    | ((with_reducible apply hM.reg); decide)
    | with_reducible apply State.writeReg_keeps
    | with_reducible apply State.kick_keeps
    | with_reducible apply State.rstCtlWrite_keeps
    | with_reducible apply Keeps.ite
    | exact rfl
    | split
    | dsimp -zeta only

theorem State.macWrite_keeps {M : Mask} {s0 : State} {a : Nat} {w : Word} {s : State} (hM : Sub ⟨0x8000d, 0xc000000000000000000000002614840000100000⟩ M) (hK : Keeps M s0 s) :
    Keeps M s0 (State.macWrite a w s) := by
  unfold State.macWrite
  repeat' first
    | with_reducible assumption
    | ((with_reducible apply hM.of) <;> rfl)
    | with_reducible apply WrBad.any
    | with_reducible apply Wr.any
    | ((with_reducible apply hM.reg); decide)
    | with_reducible apply State.writeReg_keeps
    | with_reducible apply State.macCtlWrite_keeps
    | with_reducible apply State.macLbtWrite_keeps
    | with_reducible apply Keeps.ite
    | exact rfl
    | split
    | dsimp -zeta only

theorem State.hriWrite_keeps {M : Mask} {s0 : State} {a : Nat} {w : Word} {s : State} (hM : Sub ⟨0xc234f, 0xc00090000000013744c010000000000100180000⟩ M) (hK : Keeps M s0 s) :
    Keeps M s0 (State.hriWrite a w s) := by
  unfold State.hriWrite
  repeat' first
    | with_reducible assumption
    | ((with_reducible apply hM.of) <;> rfl)
    | with_reducible apply Wr.HRI_STAT
    | with_reducible apply WrBad.any
    | with_reducible apply Wr.any
    | ((with_reducible apply hM.reg); decide)
    | with_reducible apply State.flag_keeps
    | with_reducible apply State.writeReg_keeps
    | with_reducible apply State.hriCtlWrite_keeps
    | with_reducible apply Keeps.ite
    | exact rfl
    | split
    | dsimp -zeta only

theorem State.blockWrite_keeps {M : Mask} {s0 : State} {m : Master} {a : Nat} {w : Word} {s : State} (hM : Sub ⟨0xdffff, 0xc082b20020d687b747c45cb52794ae0db018f318⟩ M) (hK : Keeps M s0 s) :
    Keeps M s0 (State.blockWrite m a w s) := by
  unfold State.blockWrite
  repeat' first
    | with_reducible assumption
    | ((with_reducible apply hM.of) <;> rfl)
    | with_reducible apply Wr.HLT_STAT
    | with_reducible apply WrBad.any
    | with_reducible apply Wr.any
    | ((with_reducible apply hM.reg); decide)
    | with_reducible apply State.flag_keeps
    | with_reducible apply State.writeReg_keeps
    | with_reducible apply State.nwtMove_keeps
    | with_reducible apply State.stoCtlWrite_keeps
    | with_reducible apply State.jnlCtlWrite_keeps
    | with_reducible apply State.rf2CtlWrite_keeps
    | with_reducible apply State.pwrCtlWrite_keeps
    | with_reducible apply State.rfsWrite_keeps
    | with_reducible apply State.pioWrite_keeps
    | with_reducible apply State.swevWrite_keeps
    | with_reducible apply State.lehrWrite_keeps
    | with_reducible apply State.cflBlockWrite_keeps
    | with_reducible apply State.pmcBlockWrite_keeps
    | with_reducible apply State.cdcWrite_keeps
    | with_reducible apply State.smbStatWrite_keeps
    | with_reducible apply State.rstWrite_keeps
    | with_reducible apply State.macWrite_keeps
    | with_reducible apply State.hriWrite_keeps
    | with_reducible apply Keeps.ite
    | exact rfl
    | split
    | dsimp -zeta only

theorem State.pmcRead_keeps {M : Mask} {s0 : State} {m : Master} {a : Nat} {s : State} (hM : Sub ⟨0x90000, 0x20000000000000000000000000000000000⟩ M) (hK : Keeps M s0 s) :
    Keeps2 M s0 (State.pmcRead m a s) := by
  unfold State.pmcRead
  repeat' first
    | with_reducible assumption
    | ((with_reducible apply hM.of) <;> rfl)
    | with_reducible apply Wr.PMC_STAT
    | ((with_reducible apply hM.reg); decide)
    | with_reducible apply State.flag_keeps
    | with_reducible apply State.cyclLatch_keeps
    | with_reducible apply Keeps2.ite
    | with_reducible apply Keeps.ite
    | (extract_lets +onlyGivenNames x1; with_reducible refine Cut x1 ?_ ?_)
    | (intro _; clear_value x1; revert x1; intro _ _)
    | subst x1
    | (extract_lets +onlyGivenNames x1; subst x1)
    | exact rfl
    | split
    | with_reducible apply Keeps2.mk
    | dsimp -zeta only

theorem State.blockRead_keeps {M : Mask} {s0 : State} {m : Master} {a : Nat} {ecc : Ecc} {s : State} (hM : Sub ⟨0x91500, 0x20100400000000200000000000000000000⟩ M) (hK : Keeps M s0 s) :
    Keeps2 M s0 (State.blockRead m a ecc s) := by
  unfold State.blockRead
  repeat' first
    | with_reducible assumption
    | ((with_reducible apply hM.of) <;> rfl)
    | with_reducible apply hM.bit
    | with_reducible apply State.flashRead_keeps
    | with_reducible apply State.adcResRead_keeps
    | with_reducible apply State.timeRead_keeps
    | with_reducible apply State.pmcRead_keeps
    | with_reducible apply Keeps2.ite
    | with_reducible apply Keeps.ite
    | (with_reducible apply Keeps2.of; with_reducible assumption)
    | with_reducible apply Keeps2.snd
    | (extract_lets +onlyGivenNames x1; with_reducible refine Cut x1 ?_ ?_)
    | (intro _; clear_value x1; revert x1; intro _ _)
    | subst x1
    | (extract_lets +onlyGivenNames x1; subst x1)
    | exact rfl
    | split
    | with_reducible apply Keeps.set_roles
    | with_reducible apply Keeps2.mk

theorem State.busRead_keeps {M : Mask} {s0 : State} {m : Master} {a : Nat} {ecc : Ecc} {s : State} (hM : Sub ⟨0x91500, 0x20100400000000200000000000000000000⟩ M) (hK : Keeps M s0 s) :
    Keeps2 M s0 (State.busRead m a ecc s) := by
  unfold State.busRead
  repeat' first
    | with_reducible assumption
    | ((with_reducible apply hM.of) <;> rfl)
    | with_reducible apply State.blockRead_keeps
    | with_reducible apply Keeps2.ite
    | with_reducible apply Keeps.ite
    | (with_reducible apply Keeps2.of; with_reducible assumption)
    | with_reducible apply Keeps2.snd
    | split
    | with_reducible apply Keeps2.mk
    | dsimp -zeta only

theorem State.regDoneBy_keeps {M : Mask} {s0 : State} {wr : Nat → Word → State → State} {n : Fin 16} {err : Bool} {s : State} (hM : Sub ⟨0x91f41, 0x82b2010040008000020ca00000000000100110⟩ M) (hwr : ∀ a w s, Keeps M s0 s → Keeps M s0 (wr a w s))
    (hK : Keeps M s0 s) :
    Keeps M s0 (State.regDoneBy wr n err s) := by
  unfold State.regDoneBy
  repeat' first
    | with_reducible assumption
    | ((with_reducible apply hM.of) <;> rfl)
    | with_reducible apply hwr
    | with_reducible apply State.modNewt_keeps
    | with_reducible apply State.closeReg_keeps
    | with_reducible apply State.newtFault_keeps
    | with_reducible apply State.setPort_keeps
    | with_reducible apply State.busRead_keeps
    | with_reducible apply Keeps.ite
    | (with_reducible apply Keeps2.of; with_reducible assumption)
    | with_reducible apply Keeps2.snd
    | (extract_lets +onlyGivenNames x1; with_reducible refine Cut x1 ?_ ?_)
    | (intro _; clear_value x1; revert x1; intro _ _)
    | subst x1
    | (extract_lets +onlyGivenNames x1; subst x1)
    | split
    | with_reducible apply Keeps2.mk
    | dsimp -zeta only

theorem State.entryReq_keeps {M : Mask} {s0 : State} {req : Nat} {s : State} (hM : Sub ⟨0x80800, 0x80000000000000000000000000000000000110⟩ M) (hK : Keeps M s0 s) :
    Keeps M s0 (State.entryReq req s) := by
  unfold State.entryReq
  repeat' first
    | with_reducible assumption
    | ((with_reducible apply hM.of) <;> rfl)
    | with_reducible apply Wr.PWR_STAT
    | ((with_reducible apply hM.reg); decide)
    | with_reducible apply hM.bit
    | with_reducible apply State.flag_keeps
    | with_reducible apply State.wake_keeps
    | exact rfl
    | split
    | with_reducible apply Keeps.set_power

theorem State.entryStore_keeps {M : Mask} {s0 : State} {n : Fin 16} {a : Nat} {w : Word} {s : State} (hM : Sub ⟨0xdffff, 0xc082b20020d687b747c45cb52794ae0db018f318⟩ M) (hK : Keeps M s0 s) :
    Keeps M s0 (State.entryStore n a w s) := by
  unfold State.entryStore
  repeat' first
    | with_reducible assumption
    | ((with_reducible apply hM.of) <;> rfl)
    | with_reducible apply State.blockWrite_keeps
    | with_reducible apply State.entryReq_keeps
    | with_reducible apply Keeps.ite
    | (extract_lets +onlyGivenNames x1; with_reducible refine Cut x1 ?_ ?_)
    | (intro _; clear_value x1; revert x1; intro _ _)
    | subst x1
    | (extract_lets +onlyGivenNames x1; subst x1)
    | split
    | dsimp -zeta only

theorem State.regDrain_keeps {M : Mask} {s0 : State} {s : State} {n : Fin 16} (hM : Sub ⟨0xdffff, 0xc082b20120d687b747c65cb52794ae0db018f318⟩ M) (hK : Keeps M s0 s) :
    Keeps M s0 (State.regDrain s n) := by
  unfold State.regDrain
  repeat' first
    | with_reducible assumption
    | ((with_reducible apply hM.of) <;> rfl)
    | (intro _ _ _ _)
    | with_reducible apply State.regDoneBy_keeps
    | with_reducible apply State.entryStore_keeps
    | (with_reducible apply Keeps.foldl; intro _ _ _)
    | split
    | dsimp -zeta only

theorem State.drained_keeps {M : Mask} {s0 : State} {s : State} (hM : Sub ⟨0xdffff, 0xc082b20120d687b747c65cb52794ae0db018f318⟩ M) (hK : Keeps M s0 s) :
    Keeps M s0 (State.drained s) := by
  unfold State.drained
  repeat' first
    | with_reducible assumption
    | ((with_reducible apply hM.of) <;> rfl)
    | with_reducible apply State.regDrain_keeps
    | (with_reducible apply Keeps.foldl; intro _ _ _)
    | split
    | dsimp -zeta only

theorem State.dozeNow_keeps {M : Mask} {s0 : State} {s : State} (hM : Sub ⟨0xdffff, 0xc082b20120d687b747c65cb52794ae0db018f318⟩ M) (hK : Keeps M s0 s) :
    Keeps M s0 (State.dozeNow s) := by
  unfold State.dozeNow
  repeat' first
    | with_reducible assumption
    | ((with_reducible apply hM.of) <;> rfl)
    | with_reducible apply hM.bit
    | with_reducible apply State.dozeEnter_keeps
    | with_reducible apply State.abortEntry_keeps
    | with_reducible apply State.drained_keeps
    | with_reducible apply Keeps.ite
    | (extract_lets +onlyGivenNames x1; with_reducible refine Cut x1 ?_ ?_)
    | (intro _; clear_value x1; revert x1; intro _ _)
    | subst x1
    | (extract_lets +onlyGivenNames x1; subst x1)
    | exact rfl
    | split
    | with_reducible apply Keeps.set_power

theorem State.hushNow_keeps {M : Mask} {s0 : State} {s : State} (hM : Sub ⟨0xdffff, 0xc082b20120d687b747c65cb52794ae0fb018f31c⟩ M) (hK : Keeps M s0 s) :
    Keeps M s0 (State.hushNow s) := by
  unfold State.hushNow
  repeat' first
    | with_reducible assumption
    | ((with_reducible apply hM.of) <;> rfl)
    | with_reducible apply State.abortEntry_keeps
    | with_reducible apply State.hushEnter_keeps
    | with_reducible apply State.regDrain_keeps
    | with_reducible apply Keeps.ite
    | (with_reducible apply Keeps.foldl; intro _ _ _)
    | (extract_lets +onlyGivenNames x1; with_reducible refine Cut x1 ?_ ?_)
    | (intro _; clear_value x1; revert x1; intro _ _)
    | subst x1
    | (extract_lets +onlyGivenNames x1; subst x1)
    | split
    | dsimp -zeta only

theorem State.journalFirst_keeps {M : Mask} {s0 : State} {s : State} (hM : Sub ⟨0x80030, 0x10000000000000000⟩ M) (hK : Keeps M s0 s) :
    Keeps M s0 (State.journalFirst s) := by
  unfold State.journalFirst
  repeat' first
    | with_reducible assumption
    | ((with_reducible apply hM.of) <;> rfl)
    | with_reducible apply State.commitGroup_keeps
    | with_reducible apply Keeps.ite
    | split
    | dsimp -zeta only

theorem State.idleTick_keeps {M : Mask} {s0 : State} {s : State} (hM : Sub ⟨0x80f79, 0x8090000000013440c010010000000000100110⟩ M) (hK : Keeps M s0 s) :
    Keeps M s0 (State.idleTick s) := by
  unfold State.idleTick
  repeat' first
    | with_reducible assumption
    | ((with_reducible apply hM.of) <;> rfl)
    | with_reducible apply State.wake_keeps
    | with_reducible apply State.commitGroup_keeps
    | with_reducible apply State.clockTick_keeps
    | with_reducible apply Keeps.ite
    | (extract_lets +onlyGivenNames x1; with_reducible refine Cut x1 ?_ ?_)
    | (intro _; clear_value x1; revert x1; intro _ _)
    | subst x1
    | (extract_lets +onlyGivenNames x1; subst x1)
    | split
    | dsimp -zeta only

theorem State.pwrReq_keeps {M : Mask} {s0 : State} {req : Nat} {s : State} (hM : Sub ⟨0xdffff, 0xc082b20120d687b747c65cb52794ae0fb018f31c⟩ M) (hK : Keeps M s0 s) :
    Keeps M s0 (State.pwrReq req s) := by
  unfold State.pwrReq
  repeat' first
    | with_reducible assumption
    | ((with_reducible apply hM.of) <;> rfl)
    | with_reducible apply Wr.PWR_STAT
    | ((with_reducible apply hM.reg); decide)
    | with_reducible apply State.flag_keeps
    | with_reducible apply State.wake_keeps
    | with_reducible apply State.dozeNow_keeps
    | with_reducible apply State.hushNow_keeps
    | with_reducible apply State.journalFirst_keeps
    | with_reducible apply Keeps.ite
    | exact rfl
    | split
    | dsimp -zeta only

theorem State.busWrite_keeps {M : Mask} {s0 : State} {m : Master} {a : Nat} {w : Word} {s : State} (hM : Sub ⟨0xdffff, 0xc082b20120d687b747c65cb52794ae0fb018f31c⟩ M) (hK : Keeps M s0 s) :
    Keeps M s0 (State.busWrite m a w s) := by
  unfold State.busWrite
  repeat' first
    | with_reducible assumption
    | ((with_reducible apply hM.of) <;> rfl)
    | with_reducible apply State.blockWrite_keeps
    | with_reducible apply State.pwrReq_keeps
    | with_reducible apply Keeps.ite
    | (extract_lets +onlyGivenNames x1; with_reducible refine Cut x1 ?_ ?_)
    | (intro _; clear_value x1; revert x1; intro _ _)
    | subst x1
    | (extract_lets +onlyGivenNames x1; subst x1)
    | split
    | dsimp -zeta only

theorem State.regDone_keeps {M : Mask} {s0 : State} {n : Fin 16} {err : Bool} {s : State} (hM : Sub ⟨0xdffff, 0xc082b20120d687b747c65cb52794ae0fb018f31c⟩ M) (hK : Keeps M s0 s) :
    Keeps M s0 (State.regDone n err s) := by
  unfold State.regDone
  repeat' first
    | with_reducible assumption
    | ((with_reducible apply hM.of) <;> rfl)
    | (intro _ _ _ _)
    | with_reducible apply State.regDoneBy_keeps
    | with_reducible apply State.busWrite_keeps
    | split
    | dsimp -zeta only

theorem State.badWrite_keeps {M : Mask} {s0 : State} {a size : Nat} {s : State} (hM : Sub ⟨0x80000, 0x4000000000000000000000000000000000000000⟩ M) (hK : Keeps M s0 s) :
    Keeps M s0 (State.badWrite a size s) := by
  unfold State.badWrite
  repeat' first
    | with_reducible assumption
    | ((with_reducible apply hM.of) <;> rfl)
    | with_reducible apply WrBad.any
    | ((with_reducible apply hM.reg); decide)
    | with_reducible apply State.badval_keeps
    | with_reducible apply Keeps.ite
    | (extract_lets +onlyGivenNames x1; with_reducible refine Cut x1 ?_ ?_)
    | (intro _; clear_value x1; revert x1; intro _ _)
    | subst x1
    | (extract_lets +onlyGivenNames x1; subst x1)
    | exact rfl
    | split
    | dsimp -zeta only

theorem State.readWord_keeps {M : Mask} {s0 : State} {m : Master} {a size : Nat} {ecc : Ecc} {s : State} {w : Nat} (hM : Sub ⟨0xb5501, 0x20100400000000200000000000000000000⟩ M) (hK : Keeps M s0 s) :
    Keeps M s0 (State.readWord m a size ecc s w) := by
  unfold State.readWord
  repeat' first
    | with_reducible assumption
    | ((with_reducible apply hM.of) <;> rfl)
    | with_reducible apply State.answer_keeps
    | with_reducible apply State.accessError_keeps
    | with_reducible apply State.busRead_keeps
    | (with_reducible apply Keeps2.of; with_reducible assumption)
    | with_reducible apply Keeps2.snd
    | split
    | with_reducible apply Keeps2.mk
    | dsimp -zeta only

theorem State.readNow_keeps {M : Mask} {s0 : State} {m : Master} {a size : Nat} {ecc : Ecc} {s : State} (hM : Sub ⟨0xb5501, 0x20100400000000200000000000000000000⟩ M) (hK : Keeps M s0 s) :
    Keeps M s0 (State.readNow m a size ecc s) := by
  unfold State.readNow
  repeat' first
    | with_reducible assumption
    | ((with_reducible apply hM.of) <;> rfl)
    | with_reducible apply State.readWord_keeps
    | (with_reducible apply Keeps.foldl; intro _ _ _)
    | split
    | dsimp -zeta only

theorem State.writeNow_keeps {M : Mask} {s0 : State} {m : Master} {a size : Nat} {w : Word} {s : State} (hM : Sub ⟨0xdffff, 0xc082b20120d687b747c65cb52794ae0fb018f31c⟩ M) (hK : Keeps M s0 s) :
    Keeps M s0 (State.writeNow m a size w s) := by
  unfold State.writeNow
  repeat' first
    | with_reducible assumption
    | ((with_reducible apply hM.of) <;> rfl)
    | with_reducible apply State.accessError_keeps
    | with_reducible apply State.busWrite_keeps
    | with_reducible apply State.badWrite_keeps
    | with_reducible apply Keeps.ite
    | split
    | dsimp -zeta only

theorem State.writeAccess_keeps {M : Mask} {s0 : State} {m : Master} {a size : Nat} {w : Word} {s : State} (hM : Sub ⟨0xdffff, 0xc082b20120d687b747c65cb52794ae0fb018f31c⟩ M) (hK : Keeps M s0 s) :
    Keeps M s0 (State.writeAccess m a size w s) := by
  unfold State.writeAccess
  repeat' first
    | with_reducible assumption
    | ((with_reducible apply hM.of) <;> rfl)
    | with_reducible apply hM.bit
    | with_reducible apply State.writeNow_keeps
    | with_reducible apply Keeps.ite
    | exact rfl
    | split
    | with_reducible apply Keeps.set_link

theorem State.access_keeps {M : Mask} {s0 : State} {m : Master} {a : Nat} {w : Word} {s : State} (hM : Sub ⟨0xdffff, 0xc082b20120d687b747c65cb52794ae0fb018f31c⟩ M) (hK : Keeps M s0 s) :
    Keeps M s0 (State.access m a w s) := by
  unfold State.access
  repeat' first
    | with_reducible assumption
    | ((with_reducible apply hM.of) <;> rfl)
    | with_reducible apply State.writeAccess_keeps
    | split
    | dsimp -zeta only

theorem State.readAccess_keeps {M : Mask} {s0 : State} {m : Master} {a size : Nat} {ecc : Ecc} {s : State} (hM : Sub ⟨0xb5501, 0x20100400000000200000000000000000000⟩ M) (hK : Keeps M s0 s) :
    Keeps M s0 (State.readAccess m a size ecc s) := by
  unfold State.readAccess
  repeat' first
    | with_reducible assumption
    | ((with_reducible apply hM.of) <;> rfl)
    | with_reducible apply hM.bit
    | with_reducible apply State.readNow_keeps
    | with_reducible apply Keeps.ite
    | exact rfl
    | split
    | with_reducible apply Keeps.set_link

theorem State.bar0Write_keeps {M : Mask} {s0 : State} {m : Master} {addr size : Nat} {data : Dword} {s : State} (hM : Sub ⟨0xdffff, 0xc082b20120d687b747c65cb52794ae0fb018f31c⟩ M) (hK : Keeps M s0 s) :
    Keeps M s0 (State.bar0Write m addr size data s) := by
  unfold State.bar0Write
  repeat' first
    | with_reducible assumption
    | ((with_reducible apply hM.of) <;> rfl)
    | with_reducible apply State.writeAccess_keeps
    | with_reducible apply State.access_keeps
    | with_reducible apply Keeps.ite
    | (extract_lets +onlyGivenNames x1; with_reducible refine Cut x1 ?_ ?_)
    | (intro _; clear_value x1; revert x1; intro _ _)
    | subst x1
    | (extract_lets +onlyGivenNames x1; subst x1)
    | split
    | dsimp -zeta only

theorem State.access_keeps_of {M : Mask} {s0 : State} {m : Master} {a : Nat} {w : Word} {s : State}
    (hM : Sub ⟨0x4001, 0x0⟩ M) (ha : a % 4 = 0)
    (hb : ∀ s, Keeps M s0 s → Keeps M s0 (s.busWrite m a w)) (h : Keeps M s0 s) : Keeps M s0 (s.access m a w) := by
  unfold State.access State.writeAccess
  split
  · exact h
  · split
    · exact h.set_link (hM.bit 14 rfl)
    · unfold State.writeNow
      split
      · exact State.accessError_keeps (hM.of rfl rfl) h
      · rw [if_pos ⟨rfl, ha⟩]
        exact hb _ h

theorem execRegisterStore_keeps {M : Mask} {s0 : State} {m : Master} {space : Space} {addr size : Nat} {data : Dword} {s : State} (hM : Sub ⟨0xfffff, 0xc082b20120d687b747c65cb52794ae0fb018f31c⟩ M) (hK : Keeps M s0 s) :
    Good M s0 (execRegisterStore m space addr size data s) := by
  unfold execRegisterStore
  repeat' first
    | with_reducible assumption
    | ((with_reducible apply hM.of) <;> rfl)
    | with_reducible apply State.hostSpace_keeps
    | with_reducible apply State.readAccess_keeps
    | with_reducible apply State.bar0Write_keeps
    | with_reducible apply Good.ite
    | with_reducible apply Good.next
    | with_reducible apply Keeps.ite
    | split
    | dsimp -zeta only

theorem State.serveHeld_keeps {M : Mask} {s0 : State} {h : HeldAccess} {s : State} (hM : Sub ⟨0xfffff, 0xc082b20120d687b747c65cb52794ae0fb018f31c⟩ M) (hK : Keeps M s0 s) :
    Keeps M s0 (State.serveHeld h s) := by
  unfold State.serveHeld
  repeat' first
    | with_reducible assumption
    | ((with_reducible apply hM.of) <;> rfl)
    | with_reducible apply State.readNow_keeps
    | with_reducible apply State.writeNow_keeps
    | with_reducible apply Keeps.ite
    | split
    | dsimp -zeta only

theorem serveAll_keeps {M : Mask} {s0 : State} (hM : Sub ⟨0xfffff, 0xc082b20120d687b747c65cb52794ae0fb018f31c⟩ M) (n : Nat) :
    ∀ {s : State}, Keeps M s0 s → Keeps M s0 (serveAll n s) := by
  induction n with
  | zero => exact fun h => h
  | succ n ih =>
    intro s h
    unfold serveAll
    repeat' first
      | with_reducible assumption
      | ((with_reducible apply hM.of) <;> rfl)
      | with_reducible apply hM.bit
      | with_reducible apply ih
      | with_reducible apply State.serveHeld_keeps
      | exact rfl
      | split
      | with_reducible apply Keeps.set_link

theorem State.serveFree_keeps {M : Mask} {s0 : State} {s : State} (hM : Sub ⟨0xfffff, 0xc082b20120d687b747c65cb52794ae0fb018f31c⟩ M) (hK : Keeps M s0 s) :
    Keeps M s0 (State.serveFree s) := by
  unfold State.serveFree
  repeat' first
    | with_reducible assumption
    | ((with_reducible apply hM.of) <;> rfl)
    | with_reducible apply serveAll_keeps
    | split
    | dsimp -zeta only

theorem execDieLinkTrained_keeps {M : Mask} {s0 : State} {s : State} (hM : Sub ⟨0xfffff, 0xc082b20120d687b747c65cb52794ae0fb018f31c⟩ M) (hK : Keeps M s0 s) :
    Good M s0 (execDieLinkTrained s) := by
  unfold execDieLinkTrained
  repeat' first
    | with_reducible assumption
    | ((with_reducible apply hM.of) <;> rfl)
    | with_reducible apply State.linkTrained_keeps
    | with_reducible apply State.serveFree_keeps
    | with_reducible apply Good.ite
    | with_reducible apply Good.next
    | with_reducible apply Keeps.ite
    | split
    | dsimp -zeta only

theorem execDieLinkHoldTimeout_keeps {M : Mask} {s0 : State} {s : State} (hM : Sub ⟨0xfffff, 0xc082b20120d687b747c65cb52794ae0fb018f31c⟩ M) (hK : Keeps M s0 s) :
    Good M s0 (execDieLinkHoldTimeout s) := by
  unfold execDieLinkHoldTimeout
  repeat' first
    | with_reducible assumption
    | ((with_reducible apply hM.of) <;> rfl)
    | with_reducible apply hM.bit
    | with_reducible apply State.accessError_keeps
    | with_reducible apply State.serveFree_keeps
    | with_reducible apply Good.ite
    | with_reducible apply Good.next
    | with_reducible apply Keeps.ite
    | exact rfl
    | split
    | with_reducible apply Keeps.set_link

theorem execFlashOpDone_keeps {M : Mask} {s0 : State} {s : State} (hM : Sub ⟨0xfffff, 0xc082b20120d687b747c65cb52794ae0fb018f31c⟩ M) (hK : Keeps M s0 s) :
    Good M s0 (execFlashOpDone s) := by
  unfold execFlashOpDone
  repeat' first
    | with_reducible assumption
    | ((with_reducible apply hM.of) <;> rfl)
    | with_reducible apply State.flashDone_keeps
    | with_reducible apply State.serveFree_keeps
    | with_reducible apply Good.next
    | split
    | dsimp -zeta only

theorem execProgramTimeout_keeps {M : Mask} {s0 : State} {s : State} (hM : Sub ⟨0xfffff, 0xc082b20120d687b747c65cb52794ae0fb018f31c⟩ M) (hK : Keeps M s0 s) :
    Good M s0 (execProgramTimeout s) := by
  unfold execProgramTimeout
  repeat' first
    | with_reducible assumption
    | ((with_reducible apply hM.of) <;> rfl)
    | with_reducible apply State.programFailed_keeps
    | with_reducible apply State.serveFree_keeps
    | with_reducible apply Good.next
    | split
    | dsimp -zeta only

theorem State.flitLost_keeps {M : Mask} {s0 : State} {src : Master} {s : State} (hM : Sub ⟨0xdffff, 0xc082b20120d687b747c65cb52794ae0fb018f31c⟩ M) (hK : Keeps M s0 s) :
    Keeps M s0 (State.flitLost src s) := by
  unfold State.flitLost
  repeat' first
    | with_reducible assumption
    | ((with_reducible apply hM.of) <;> rfl)
    | with_reducible apply Wr.GLB_STAT
    | ((with_reducible apply hM.reg); decide)
    | with_reducible apply State.flag_keeps
    | with_reducible apply State.accessError_keeps
    | with_reducible apply State.post_keeps
    | with_reducible apply State.regDone_keeps
    | with_reducible apply Keeps.ite
    | (extract_lets +onlyGivenNames x1; with_reducible refine Cut x1 ?_ ?_)
    | (intro _; clear_value x1; revert x1; intro _ _)
    | subst x1
    | (extract_lets +onlyGivenNames x1; subst x1)
    | exact rfl
    | split
    | dsimp -zeta only

theorem execDieLinkFlitRepeat_keeps {M : Mask} {s0 : State} {ch : LinkChan} {src : Master} {fails : Bool} {s : State} (hM : Sub ⟨0xdffff, 0xc082b20120d687b747c65cb52794ae0fb018f31c⟩ M) (hK : Keeps M s0 s) :
    Good M s0 (execDieLinkFlitRepeat ch src fails s) := by
  unfold execDieLinkFlitRepeat
  repeat' first
    | with_reducible assumption
    | ((with_reducible apply hM.of) <;> rfl)
    | with_reducible apply Wr.GLB_STAT
    | ((with_reducible apply hM.reg); decide)
    | with_reducible apply hM.bit
    | with_reducible apply State.count_keeps
    | with_reducible apply State.smpLost_keeps
    | with_reducible apply State.flitLost_keeps
    | with_reducible apply Good.ite
    | with_reducible apply Good.next
    | with_reducible apply Keeps.ite
    | (extract_lets +onlyGivenNames x1; with_reducible refine Cut x1 ?_ ?_)
    | (intro _; clear_value x1; revert x1; intro _ _)
    | subst x1
    | (extract_lets +onlyGivenNames x1; subst x1)
    | exact rfl
    | split
    | with_reducible apply Keeps.set_link

theorem execRegisterLoadComplete_keeps {M : Mask} {s0 : State} {n : Fin 16} {err : Bool} {s : State} (hM : Sub ⟨0xdffff, 0xc082b20120d687b747c65cb52794ae0fb018f31c⟩ M) (hK : Keeps M s0 s) :
    Good M s0 (execRegisterLoadComplete n err s) := by
  unfold execRegisterLoadComplete
  repeat' first
    | with_reducible assumption
    | ((with_reducible apply hM.of) <;> rfl)
    | with_reducible apply State.regDone_keeps
    | with_reducible apply Good.ite
    | with_reducible apply Good.next
    | with_reducible apply Keeps.ite
    | split
    | dsimp -zeta only

theorem execDozeEntry_keeps {M : Mask} {s0 : State} {s : State} (hM : Sub ⟨0xdffff, 0xc082b20120d687b747c65cb52794ae0db018f318⟩ M) (hK : Keeps M s0 s) :
    Good M s0 (execDozeEntry s) := by
  unfold execDozeEntry
  repeat' first
    | with_reducible assumption
    | ((with_reducible apply hM.of) <;> rfl)
    | with_reducible apply State.abortEntry_keeps
    | with_reducible apply State.dozeNow_keeps
    | with_reducible apply State.journalFirst_keeps
    | with_reducible apply Good.ite
    | with_reducible apply Good.next
    | with_reducible apply Keeps.ite
    | split
    | dsimp -zeta only

theorem execHushEntry_keeps {M : Mask} {s0 : State} {s : State} (hM : Sub ⟨0xdffff, 0xc082b20120d687b747c65cb52794ae0fb018f31c⟩ M) (hK : Keeps M s0 s) :
    Good M s0 (execHushEntry s) := by
  unfold execHushEntry
  repeat' first
    | with_reducible assumption
    | ((with_reducible apply hM.of) <;> rfl)
    | with_reducible apply State.abortEntry_keeps
    | with_reducible apply State.hushNow_keeps
    | with_reducible apply Good.ite
    | with_reducible apply Good.next
    | with_reducible apply Keeps.ite
    | split
    | dsimp -zeta only

theorem execHriEnable_keeps {M : Mask} {s0 : State} {m : Master} {ctx0 : Option Entry} {s : State} (hM : Sub ⟨0xc634f, 0x90000000013744c010000000000100180000⟩ M)
    (h : Keeps M s0 s) : Good M s0 (execHriEnable m ctx0 s) := by
  unfold execHriEnable
  refine Good.next ?_
  have k : Keeps M s0 (if s.rb R.HRI_CTL 0 then s else s.access m R.HRI_CTL 1) := by
    split
    · exact h
    · exact State.access_keeps_of (hM.of rfl rfl) (by decide)
        (fun _ h => by rw [busWrite_HRI_CTL]; exact State.hriCtlWrite_keeps (hM.of rfl rfl) h) h
  dsimp only
  generalize (if s.rb R.HRI_CTL 0 then s else s.access m R.HRI_CTL 1) = s1 at *
  split
  · exact State.ctxZero_keeps (hM.of rfl rfl) k
  · exact k

theorem execHriDisable_keeps {M : Mask} {s0 : State} {m : Master} {s : State} (hM : Sub ⟨0xc634f, 0x90000000013744c010000000000100180000⟩ M)
    (h : Keeps M s0 s) : Good M s0 (execHriDisable m s) :=
  Good.next (State.access_keeps_of (hM.of rfl rfl) (by decide)
    (fun _ h => by rw [busWrite_HRI_CTL _ _ _]; exact State.hriCtlWrite_keeps (hM.of rfl rfl) h) h)

theorem execCdclostClear_keeps {M : Mask} {s0 : State} {m : Master} {w : Word} {s : State} (hM : Sub ⟨0x84001, 0x1000⟩ M)
    (h : Keeps M s0 s) : Good M s0 (execCdclostClear m w s) :=
  Good.next (State.access_keeps_of (hM.of rfl rfl) (by decide)
    (fun _ h => by rw [busWrite_CLK_CDCLOST _ _ _]; exact State.cdcWrite_keeps (hM.of rfl rfl) h) h)

theorem execWatchdogKick_keeps {M : Mask} {s0 : State} {m : Master} {w : Word} {s : State} (hM : Sub ⟨0x9ffff, 0x808200000040040000000014000000001010a010⟩ M)
    (h : Keeps M s0 s) : Good M s0 (execWatchdogKick m w s) :=
  Good.next (State.access_keeps_of (hM.of rfl rfl) (by decide)
    (fun _ h => by rw [busWrite_RST_WDT_KICK _ _ _]; exact State.kick_keeps (hM.of rfl rfl) h) h)

theorem execSoftwareReset_keeps {M : Mask} {s0 : State} {m : Master} {w : Word} {s : State} (hM : Sub ⟨0x9ffff, 0x808200000040040000000014000000001000e010⟩ M)
    (h : Keeps M s0 s) : Good M s0 (execSoftwareReset m w s) :=
  Good.next (State.access_keeps_of (hM.of rfl rfl) (by decide)
    (fun _ h => by rw [busWrite_RST_CTL _ _ _]; exact State.rstCtlWrite_keeps (hM.of rfl rfl) h) h)

theorem execPwrReqRun_keeps {M : Mask} {s0 : State} {m : Master} {w : Word} {s : State} (hM : Sub ⟨0xdffff, 0xc082b20120d687b747c65cb52794ae0fb018f31c⟩ M) (hK : Keeps M s0 s) :
    Good M s0 (execPwrReqRun m w s) := by
  unfold execPwrReqRun
  repeat' first
    | with_reducible assumption
    | ((with_reducible apply hM.of) <;> rfl)
    | with_reducible apply State.access_keeps
    | with_reducible apply Good.next
    | split
    | dsimp -zeta only

theorem execPwrReqDoze_keeps {M : Mask} {s0 : State} {m : Master} {w : Word} {s : State} (hM : Sub ⟨0xdffff, 0xc082b20120d687b747c65cb52794ae0fb018f31c⟩ M) (hK : Keeps M s0 s) :
    Good M s0 (execPwrReqDoze m w s) := by
  unfold execPwrReqDoze
  repeat' first
    | with_reducible assumption
    | ((with_reducible apply hM.of) <;> rfl)
    | with_reducible apply State.access_keeps
    | with_reducible apply Good.next
    | split
    | dsimp -zeta only

theorem execPwrReqHush_keeps {M : Mask} {s0 : State} {m : Master} {w : Word} {s : State} (hM : Sub ⟨0xdffff, 0xc082b20120d687b747c65cb52794ae0fb018f31c⟩ M) (hK : Keeps M s0 s) :
    Good M s0 (execPwrReqHush m w s) := by
  unfold execPwrReqHush
  repeat' first
    | with_reducible assumption
    | ((with_reducible apply hM.of) <;> rfl)
    | with_reducible apply State.access_keeps
    | with_reducible apply Good.next
    | split
    | dsimp -zeta only

theorem execStoRetire_keeps {M : Mask} {s0 : State} {m : Master} {w : Word} {s : State} (hM : Sub ⟨0x84003, 0x1b0100200⟩ M)
    (h : Keeps M s0 s) : Good M s0 (execStoRetire m w s) :=
  Good.next (State.access_keeps_of (hM.of rfl rfl) (by decide)
    (fun _ h => by rw [busWrite_STO_CTL _ _ _]; exact State.stoCtlWrite_keeps (hM.of rfl rfl) h) h)

theorem execRfsApply_keeps {M : Mask} {s0 : State} {m : Master} {w : Word} {s : State} (hM : Sub ⟨0x84005, 0x148c0000100000⟩ M)
    (h : Keeps M s0 s) : Good M s0 (execRfsApply m w s) :=
  Good.next (State.access_keeps_of (hM.of rfl rfl) (by decide)
    (fun _ h => by rw [busWrite_RFS_APPLY _ _ _]; exact State.rfsApply_keeps (hM.of rfl rfl) h) h)

theorem execTxcfgModeWrite_keeps {M : Mask} {s0 : State} {m : Master} {w : Word} {s : State} (hM : Sub ⟨0x84001, 0x240000100000⟩ M)
    (h : Keeps M s0 s) : Good M s0 (execTxcfgModeWrite m w s) :=
  Good.next (State.access_keeps_of (hM.of rfl rfl) (by decide)
    (fun _ h => by rw [busWrite_RFS_TXCFG _ _ _]; exact State.txcfgWrite_keeps (hM.of rfl rfl) h) h)

theorem execFirTableWrite_keeps {M : Mask} {s0 : State} {m : Master} {i : Fin 48} {w : Word} {s : State} (hM : Sub ⟨0x84001, 0x4000000000000000000000000060240000000000⟩ M)
    (h : Keeps M s0 s) : Good M s0 (execFirTableWrite m i w s) :=
  Good.next (State.access_keeps_of (hM.of rfl rfl) (by split <;> first | (unfold R.RFS_FIR; omega) | (unfold R.RFS_MASK; omega)) (fun _ h => by
    have := i.isLt
    split
    · rw [busWrite_RFS_FIR _ _ _ _ ‹_›]
      exact State.tableWrite_keeps (hM.of rfl rfl) (Wr.RFS_FIR (hM.reg _ (by decide)))
        (WrBad.any (hM.reg _ (by decide))) h
    · rw [busWrite_RFS_MASK _ _ _ _ (by omega)]
      exact State.tableWrite_keeps (hM.of rfl rfl) (Wr.RFS_MASK (hM.reg _ (by decide)))
        (WrBad.any (hM.reg _ (by decide))) h) h)

theorem execRfsCtlEn_keeps {M : Mask} {s0 : State} {m : Master} {w : Word} {s : State} (hM : Sub ⟨0x84005, 0x860000000000⟩ M)
    (h : Keeps M s0 s) : Good M s0 (execRfsCtlEn m w s) :=
  Good.next (State.access_keeps_of (hM.of rfl rfl) (by decide)
    (fun _ h => by rw [busWrite_RFS_CTL _ _ _]; exact State.rfsCtlWrite_keeps (hM.of rfl rfl) h) h)

theorem execRf2CtlEn_keeps {M : Mask} {s0 : State} {m : Master} {w : Word} {s : State} (hM : Sub ⟨0x84005, 0x180840000000000⟩ M)
    (h : Keeps M s0 s) : Good M s0 (execRf2CtlEn m w s) :=
  Good.next (State.access_keeps_of (hM.of rfl rfl) (by decide)
    (fun _ h => by rw [busWrite_RF2_CTL _ _ _]; exact State.rf2CtlWrite_keeps (hM.of rfl rfl) h) h)

theorem execRf2ChChange_keeps {M : Mask} {s0 : State} {m : Master} {w : Word} {s : State} (hM : Sub ⟨0x84005, 0x180840000000000⟩ M)
    (h : Keeps M s0 s) : Good M s0 (execRf2ChChange m w s) :=
  Good.next (State.access_keeps_of (hM.of rfl rfl) (by decide)
    (fun _ h => by rw [busWrite_RF2_CTL _ _ _]; exact State.rf2CtlWrite_keeps (hM.of rfl rfl) h) h)

theorem execCalReqrx_keeps {M : Mask} {s0 : State} {m : Master} {w : Word} {s : State} (hM : Sub ⟨0x84005, 0x840000000000⟩ M)
    (h : Keeps M s0 s) : Good M s0 (execCalReqrx m w s) :=
  Good.next (State.access_keeps_of (hM.of rfl rfl) (by decide)
    (fun _ h => by rw [busWrite_RFS_CAL _ _ _]; exact State.rfsCalWrite_keeps (hM.of rfl rfl) h) h)

theorem execCalReqtx_keeps {M : Mask} {s0 : State} {m : Master} {w : Word} {s : State} (hM : Sub ⟨0x84005, 0x840000000000⟩ M)
    (h : Keeps M s0 s) : Good M s0 (execCalReqtx m w s) :=
  Good.next (State.access_keeps_of (hM.of rfl rfl) (by decide)
    (fun _ h => by rw [busWrite_RFS_CAL _ _ _]; exact State.rfsCalWrite_keeps (hM.of rfl rfl) h) h)

theorem execMacEnable_keeps {M : Mask} {s0 : State} {m : Master} {w : Word} {s : State} (hM : Sub ⟨0x8400d, 0x614840000100000⟩ M)
    (h : Keeps M s0 s) : Good M s0 (execMacEnable m w s) :=
  Good.next (State.access_keeps_of (hM.of rfl rfl) (by decide)
    (fun _ h => by rw [busWrite_MAC_CTL _ _ _]; exact State.macCtlWrite_keeps (hM.of rfl rfl) h) h)

theorem execJournalStop_keeps {M : Mask} {s0 : State} {m : Master} {w : Word} {s : State} (hM : Sub ⟨0x84031, 0x10000000c00100000⟩ M)
    (h : Keeps M s0 s) : Good M s0 (execJournalStop m w s) :=
  Good.next (State.access_keeps_of (hM.of rfl rfl) (by decide)
    (fun _ h => by rw [busWrite_JNL_CTL _ _ _]; exact State.jnlCtlWrite_keeps (hM.of rfl rfl) h) h)

theorem execRoleMove_keeps {M : Mask} {s0 : State} {m : Master} {w : Word} {s : State} (hM : Sub ⟨0x84b41, 0x8290000040008000000ca00000000000100110⟩ M)
    (h : Keeps M s0 s) : Good M s0 (execRoleMove m w s) :=
  Good.next (State.access_keeps_of (hM.of rfl rfl) (by decide)
    (fun _ h => by rw [busWrite_NWT_MOVE _ _ _]; exact State.nwtMove_keeps (hM.of rfl rfl) h) h)

theorem execRoleCommit_keeps {M : Mask} {s0 : State} {m : Master} {w : Word} {s : State} (hM : Sub ⟨0x84b41, 0x8290000040008000000ca00000000000100110⟩ M)
    (h : Keeps M s0 s) : Good M s0 (execRoleCommit m w s) :=
  Good.next (State.access_keeps_of (hM.of rfl rfl) (by decide)
    (fun _ h => by rw [busWrite_NWT_MOVE _ _ _]; exact State.nwtMove_keeps (hM.of rfl rfl) h) h)

theorem execTokenTake_keeps {M : Mask} {s0 : State} {m : Master} {w : Word} {s : State} (hM : Sub ⟨0x84b41, 0x8290000040008000000ca00000000000100110⟩ M)
    (h : Keeps M s0 s) : Good M s0 (execTokenTake m w s) :=
  Good.next (State.access_keeps_of (hM.of rfl rfl) (by decide)
    (fun _ h => by rw [busWrite_NWT_MOVE _ _ _]; exact State.nwtMove_keeps (hM.of rfl rfl) h) h)

theorem execTokenRelease_keeps {M : Mask} {s0 : State} {m : Master} {w : Word} {s : State} (hM : Sub ⟨0x84b41, 0x8290000040008000000ca00000000000100110⟩ M)
    (h : Keeps M s0 s) : Good M s0 (execTokenRelease m w s) :=
  Good.next (State.access_keeps_of (hM.of rfl rfl) (by decide)
    (fun _ h => by rw [busWrite_NWT_MOVE _ _ _]; exact State.nwtMove_keeps (hM.of rfl rfl) h) h)

theorem execRoleUnassign_keeps {M : Mask} {s0 : State} {m : Master} {w : Word} {s : State} (hM : Sub ⟨0x84b41, 0x8290000040008000000ca00000000000100110⟩ M)
    (h : Keeps M s0 s) : Good M s0 (execRoleUnassign m w s) :=
  Good.next (State.access_keeps_of (hM.of rfl rfl) (by decide)
    (fun _ h => by rw [busWrite_NWT_MOVE _ _ _]; exact State.nwtMove_keeps (hM.of rfl rfl) h) h)

theorem execNewtBoot_keeps {M : Mask} {s0 : State} {m : Master} {w : Word} {s : State} (hM : Sub ⟨0x84b41, 0x8290000040008000000ca00000000000100110⟩ M)
    (h : Keeps M s0 s) : Good M s0 (execNewtBoot m w s) :=
  Good.next (State.access_keeps_of (hM.of rfl rfl) (by decide)
    (fun _ h => by rw [busWrite_NWT_MOVE _ _ _]; exact State.nwtMove_keeps (hM.of rfl rfl) h) h)

theorem execNewtTest_keeps {M : Mask} {s0 : State} {m : Master} {w : Word} {s : State} (hM : Sub ⟨0x84b41, 0x8290000040008000000ca00000000000100110⟩ M)
    (h : Keeps M s0 s) : Good M s0 (execNewtTest m w s) :=
  Good.next (State.access_keeps_of (hM.of rfl rfl) (by decide)
    (fun _ h => by rw [busWrite_NWT_MOVE _ _ _]; exact State.nwtMove_keeps (hM.of rfl rfl) h) h)

theorem execComparatorDisable_keeps {M : Mask} {s0 : State} {m : Master} {n : Fin 4} {w : Word} {s : State} (hM : Sub ⟨0x84201, 0x4000000000000000000410000000000000100000⟩ M)
    (h : Keeps M s0 s) : Good M s0 (execComparatorDisable m n w s) :=
  Good.next (State.access_keeps_of (hM.of rfl rfl) (by unfold R.PIO_CMP; omega)
    (fun _ h => by rw [busWrite_PIO_CMP _ _ _ _ n.isLt]; exact State.cmpWrite_keeps (hM.of rfl rfl) h) h)

theorem execFlickClear_keeps {M : Mask} {s0 : State} {m : Master} {n : Fin 4} {w : Word} {s : State} (hM : Sub ⟨0x84201, 0x4000000000000000000410000000000000100000⟩ M)
    (h : Keeps M s0 s) : Good M s0 (execFlickClear m n w s) :=
  Good.next (State.access_keeps_of (hM.of rfl rfl) (by unfold R.PIO_CMP; omega)
    (fun _ h => by rw [busWrite_PIO_CMP _ _ _ _ n.isLt]; exact State.cmpWrite_keeps (hM.of rfl rfl) h) h)

theorem execPwmEnable_keeps {M : Mask} {s0 : State} {m : Master} {k : Fin 12} {w : Word} {s : State} (hM : Sub ⟨0x84341, 0x400090000000013440c010000000000000100000⟩ M)
    (h : Keeps M s0 s) : Good M s0 (execPwmEnable m k w s) :=
  Good.next (State.access_keeps_of (hM.of rfl rfl) (by unfold R.PIO_PWMCFG; omega)
    (fun _ h => by rw [busWrite_PIO_PWMCFG _ _ _ _ k.isLt]; exact State.pwmCfgWrite_keeps (hM.of rfl rfl) h) h)

theorem execGpioOutWrite_keeps {M : Mask} {s0 : State} {m : Master} {w : Word} {s : State} (hM : Sub ⟨0x84101, 0x40000800000000000000000⟩ M)
    (h : Keeps M s0 s) : Good M s0 (execGpioOutWrite m w s) :=
  Good.next (State.access_keeps_of (hM.of rfl rfl) (by decide)
    (fun _ h => by rw [busWrite_PIO_GPIOOUT _ _ _]; exact State.gpioOutWrite_keeps (hM.of rfl rfl) h) h)

theorem execGpioCfgWrite_keeps {M : Mask} {s0 : State} {m : Master} {k : Fin 24} {w : Word} {s : State} (hM : Sub ⟨0x84301, 0x4000000000000000020010000000000000100000⟩ M)
    (h : Keeps M s0 s) : Good M s0 (execGpioCfgWrite m k w s) :=
  Good.next (State.access_keeps_of (hM.of rfl rfl) (by unfold R.PIO_GPIOCFG; omega)
    (fun _ h => by rw [busWrite_PIO_GPIOCFG _ _ _ _ k.isLt]; exact State.gpioCfgWrite_keeps (hM.of rfl rfl) h) h)

theorem execSwEvent_keeps {M : Mask} {s0 : State} {m : Master} {w : Word} {s : State} (hM : Sub ⟨0x84341, 0x90000000013440c010000000000000100000⟩ M)
    (h : Keeps M s0 s) : Good M s0 (execSwEvent m w s) :=
  Good.next (State.access_keeps_of (hM.of rfl rfl) (by decide)
    (fun _ h => by rw [busWrite_EVM_SWEV _ _ _]; exact State.swevWrite_keeps (hM.of rfl rfl) h) h)

theorem execCountStage_keeps {M : Mask} {s0 : State} {m : Master} {w : Word} {s : State} (hM : Sub ⟨0x4401, 0x0⟩ M)
    (h : Keeps M s0 s) : Good M s0 (execCountStage m w s) :=
  Good.next (State.access_keeps_of (hM.of rfl rfl) (by decide)
    (fun _ h => by rw [busWrite_LEHR_CNT0 _ _ _]; exact State.countStage_keeps (hM.of rfl rfl) h) h)

theorem execCountCommit_keeps {M : Mask} {s0 : State} {m : Master} {w : Word} {s : State} (hM : Sub ⟨0x84771, 0x90000000033744c010010000000000100000⟩ M)
    (h : Keeps M s0 s) : Good M s0 (execCountCommit m w s) :=
  Good.next (State.access_keeps_of (hM.of rfl rfl) (by decide)
    (fun _ h => by rw [busWrite_LEHR_CNT1 _ _ _]; exact State.countCommit_keeps (hM.of rfl rfl) h) h)

theorem execCalendarStage_keeps {M : Mask} {s0 : State} {m : Master} {w : Word} {s : State} (hM : Sub ⟨0x4401, 0x0⟩ M)
    (h : Keeps M s0 s) : Good M s0 (execCalendarStage m w s) :=
  Good.next (State.access_keeps_of (hM.of rfl rfl) (by decide)
    (fun _ h => by rw [busWrite_LEHR_CAL0 _ _ _]; exact State.calStage_keeps (hM.of rfl rfl) h) h)

theorem execCalendarCommit_keeps {M : Mask} {s0 : State} {m : Master} {w : Word} {s : State} (hM : Sub ⟨0x84771, 0x90000000033744c010010000000000100000⟩ M)
    (h : Keeps M s0 s) : Good M s0 (execCalendarCommit m w s) :=
  Good.next (State.access_keeps_of (hM.of rfl rfl) (by decide)
    (fun _ h => by rw [busWrite_LEHR_CAL1 _ _ _]; exact State.calCommit_keeps (hM.of rfl rfl) h) h)

theorem execDstBegin_keeps {M : Mask} {s0 : State} {m : Master} {w : Word} {s : State} (hM : Sub ⟨0x84421, 0x108600000000000000000000000000⟩ M)
    (h : Keeps M s0 s) : Good M s0 (execDstBegin m w s) :=
  Good.next (State.access_keeps_of (hM.of rfl rfl) (by decide)
    (fun _ h => by rw [busWrite_LEHR_CTL _ _ _]; exact State.lehrCtlWrite_keeps (hM.of rfl rfl) h) h)

theorem execDstEnd_keeps {M : Mask} {s0 : State} {m : Master} {w : Word} {s : State} (hM : Sub ⟨0x84421, 0x108600000000000000000000000000⟩ M)
    (h : Keeps M s0 s) : Good M s0 (execDstEnd m w s) :=
  Good.next (State.access_keeps_of (hM.of rfl rfl) (by decide)
    (fun _ h => by rw [busWrite_LEHR_CTL _ _ _]; exact State.lehrCtlWrite_keeps (hM.of rfl rfl) h) h)

theorem execPrilockBlow_keeps {M : Mask} {s0 : State} {m : Master} {w : Word} {s : State} (hM : Sub ⟨0x84421, 0x108600000000000000000000000000⟩ M)
    (h : Keeps M s0 s) : Good M s0 (execPrilockBlow m w s) :=
  Good.next (State.access_keeps_of (hM.of rfl rfl) (by decide)
    (fun _ h => by rw [busWrite_LEHR_CTL _ _ _]; exact State.lehrCtlWrite_keeps (hM.of rfl rfl) h) h)

theorem execAlarmCommit_keeps {M : Mask} {s0 : State} {m : Master} {w : Word} {s : State} (hM : Sub ⟨0x84401, 0x20200000000000000000000000000⟩ M)
    (h : Keeps M s0 s) : Good M s0 (execAlarmCommit m w s) :=
  Good.next (State.access_keeps_of (hM.of rfl rfl) (by decide)
    (fun _ h => by rw [busWrite_LEHR_ALM1 _ _ _]; exact State.alarmCommit_keeps (hM.of rfl rfl) h) h)

theorem execPeriodicRestart_keeps {M : Mask} {s0 : State} {m : Master} {w : Word} {s : State} (hM : Sub ⟨0x84401, 0x40200000000000000000000000000⟩ M)
    (h : Keeps M s0 s) : Good M s0 (execPeriodicRestart m w s) :=
  Good.next (State.access_keeps_of (hM.of rfl rfl) (by decide)
    (fun _ h => by rw [busWrite_LEHR_PER _ _ _]; exact State.perWrite_keeps (hM.of rfl rfl) h) h)

theorem execCflUnlock_keeps {M : Mask} {s0 : State} {m : Master} {w : Word} {s : State} (hM : Sub ⟨0x85001, 0x400000000000000000000000000000⟩ M)
    (h : Keeps M s0 s) : Good M s0 (execCflUnlock m w s) :=
  Good.next (State.access_keeps_of (hM.of rfl rfl) (by decide)
    (fun _ h => by rw [busWrite_CFL_UNLOCK _ _ _]; exact State.cflWrite_keeps (hM.of rfl rfl) h) h)

theorem execCflSequenceWrite_keeps {M : Mask} {s0 : State} {m : Master} {reg : CflReg} {w : Word} {s : State} (hM : Sub ⟨0x85001, 0x400000000000000000000000000000⟩ M)
    (h : Keeps M s0 s) : Good M s0 (execCflSequenceWrite m reg w s) :=
  Good.next (State.access_keeps_of (hM.of rfl rfl) (by
    rcases reg with _ | _ | i <;> first | decide | (show R.CFL_DATA i.val % 4 = 0; unfold R.CFL_DATA; omega)) (fun _ h => by
    cases reg with
    | cmd => unfold cflRegAt; rw [busWrite_CFL_CMD]; exact State.cflWrite_keeps (hM.of rfl rfl) h
    | addr => unfold cflRegAt; rw [busWrite_CFL_ADDR]; exact State.cflWrite_keeps (hM.of rfl rfl) h
    | data i =>
      unfold cflRegAt; rw [busWrite_CFL_DATA _ _ _ _ i.isLt]; exact State.cflWrite_keeps (hM.of rfl rfl) h) h)

theorem execEraseSuspend_keeps {M : Mask} {s0 : State} {m : Master} {w : Word} {s : State} (hM : Sub ⟨0x85001, 0xc00000000000000000000000000000⟩ M)
    (h : Keeps M s0 s) : Good M s0 (execEraseSuspend m w s) :=
  Good.next (State.access_keeps_of (hM.of rfl rfl) (by decide)
    (fun _ h => by rw [busWrite_CFL_CTL _ _ _]; exact State.cflCtl_keeps (hM.of rfl rfl) h) h)

theorem execEraseResume_keeps {M : Mask} {s0 : State} {m : Master} {w : Word} {s : State} (hM : Sub ⟨0x85001, 0xc00000000000000000000000000000⟩ M)
    (h : Keeps M s0 s) : Good M s0 (execEraseResume m w s) :=
  Good.next (State.access_keeps_of (hM.of rfl rfl) (by decide)
    (fun _ h => by rw [busWrite_CFL_CTL _ _ _]; exact State.cflCtl_keeps (hM.of rfl rfl) h) h)

theorem execPmcSampleClear_keeps {M : Mask} {s0 : State} {m : Master} {n : Fin 16} {w : Word} {s : State} (hM : Sub ⟨0x84041, 0x4000220000000000000000000000000000000000⟩ M)
    (h : Keeps M s0 s) : Good M s0 (execPmcSampleClear m n w s) :=
  Good.next (State.access_keeps_of (hM.of rfl rfl) (by unfold R.PMC_SCTL; omega) (fun _ h => by
    rw [busWrite_PMC_SCTL _ _ _ _ n.isLt]
    split
    · exact State.sctlWrite_keeps (hM.of rfl rfl) h
    · exact State.flag_keeps (hM.of rfl rfl) (Wr.PMC_STAT (hM.reg _ (by decide))) h) h)

theorem execSmbAlertClear_keeps {M : Mask} {s0 : State} {m : Master} {w : Word} {s : State} (hM : Sub ⟨0x84801, 0x80000000000000000000000000000000000000⟩ M)
    (h : Keeps M s0 s) : Good M s0 (execSmbAlertClear m w s) :=
  Good.next (State.access_keeps_of (hM.of rfl rfl) (by decide)
    (fun _ h => by rw [busWrite_SMB_STAT _ _ _]; exact State.smbStatWrite_keeps (hM.of rfl rfl) h) h)

theorem execReadAdcResult_keeps {M : Mask} {s0 : State} {m : Master} {slot : Fin 16} {byte : Fin 4} {size : Nat} {s : State} (hM : Sub ⟨0xb5501, 0x20100400000000200000000000000000000⟩ M) (hK : Keeps M s0 s) :
    Good M s0 (execReadAdcResult m slot byte size s) := by
  unfold execReadAdcResult
  repeat' first
    | with_reducible assumption
    | ((with_reducible apply hM.of) <;> rfl)
    | with_reducible apply State.readAccess_keeps
    | with_reducible apply Good.next
    | split
    | dsimp -zeta only

theorem execReadTimeWord_keeps {M : Mask} {s0 : State} {m : Master} {which : TimeWord} {byte : Fin 4} {size : Nat} {s : State} (hM : Sub ⟨0xb5501, 0x20100400000000200000000000000000000⟩ M) (hK : Keeps M s0 s) :
    Good M s0 (execReadTimeWord m which byte size s) := by
  unfold execReadTimeWord
  repeat' first
    | with_reducible assumption
    | ((with_reducible apply hM.of) <;> rfl)
    | with_reducible apply State.readAccess_keeps
    | with_reducible apply Good.next
    | split
    | dsimp -zeta only

theorem execReadFlashWindow_keeps {M : Mask} {s0 : State} {m : Master} {off size : Nat} {ecc : Ecc} {s : State} (hM : Sub ⟨0xb5501, 0x20100400000000200000000000000000000⟩ M) (hK : Keeps M s0 s) :
    Good M s0 (execReadFlashWindow m off size ecc s) := by
  unfold execReadFlashWindow
  repeat' first
    | with_reducible assumption
    | ((with_reducible apply hM.of) <;> rfl)
    | with_reducible apply State.readAccess_keeps
    | with_reducible apply Good.next
    | split
    | dsimp -zeta only

theorem execReadPmcCycl_keeps {M : Mask} {s0 : State} {m : Master} {n : Fin 16} {byte : Fin 4} {size : Nat} {s : State} (hM : Sub ⟨0xb5501, 0x20100400000000200000000000000000000⟩ M) (hK : Keeps M s0 s) :
    Good M s0 (execReadPmcCycl m n byte size s) := by
  unfold execReadPmcCycl
  repeat' first
    | with_reducible assumption
    | ((with_reducible apply hM.of) <;> rfl)
    | with_reducible apply State.readAccess_keeps
    | with_reducible apply Good.next
    | split
    | dsimp -zeta only

theorem execAdcTrigger_keeps {M : Mask} {s0 : State} {src : AdcSrc} {s : State} (hM : Sub ⟨0x84201, 0x50000000000000100000⟩ M)
    (h : Keeps M s0 s) : Good M s0 (execAdcTrigger src s) := by
  unfold execAdcTrigger
  refine Good.next ?_
  split
  · exact State.access_keeps_of (hM.of rfl rfl) (by decide)
      (fun _ h => by rw [busWrite_PIO_ADCSEQ]; exact State.adcSeqWrite_keeps (hM.of rfl rfl) h) h
  · split
    · exact State.adcTrigger_keeps (hM.of rfl rfl) h
    · exact h
  · split
    · exact State.adcTrigger_keeps (hM.of rfl rfl) h
    · exact h

theorem execEventRaise_keeps {M : Mask} {s0 : State} {p : Fin 128} {hop : Nat} {s : State} (hM : Sub ⟨0x80341, 0x90000000013440c010000000000000100000⟩ M) (hK : Keeps M s0 s) :
    Good M s0 (execEventRaise p hop s) := by
  unfold execEventRaise
  repeat' first
    | with_reducible assumption
    | ((with_reducible apply hM.of) <;> rfl)
    | with_reducible apply State.raise_keeps
    | with_reducible apply Good.next
    | split
    | dsimp -zeta only

end Sys2Proof.Machine
end

