-- ==== Sys2Proof/Laws/Flags.lean ====
section
/-! SUPPORT. Reading what was written: bit fields of words, and registers after each operation of Machine/Flags.lean. -/

namespace Sys2Proof.Machine

/-! ### Fields of words -/

theorem testBit_putFld {hi lo : Nat} (v : Nat) (w : Word) (h : lo ≤ hi) (hh : hi < 32) (j : Nat) :
    (putFld hi lo v w).toNat.testBit j =
      if lo ≤ j ∧ j ≤ hi then v.testBit (j - lo) else w.toNat.testBit j := by
  have hn : hi + 1 = lo + (hi + 1 - lo) := by omega
  have hC : w.toNat % 2 ^ lo < 2 ^ lo := Nat.mod_lt _ (Nat.two_pow_pos _)
  have hB : v % 2 ^ (hi + 1 - lo) * 2 ^ lo + w.toNat % 2 ^ lo < 2 ^ (hi + 1) := by
    have hv : v % 2 ^ (hi + 1 - lo) < 2 ^ (hi + 1 - lo) := Nat.mod_lt _ (Nat.two_pow_pos _)
    have h1 : (v % 2 ^ (hi + 1 - lo) + 1) * 2 ^ lo ≤ 2 ^ (hi + 1 - lo) * 2 ^ lo := Nat.mul_le_mul_right _ hv
    have h2 : 2 ^ (hi + 1 - lo) * 2 ^ lo = 2 ^ (hi + 1) := by rw [← Nat.pow_add]; congr 1; omega
    rw [Nat.add_mul, Nat.one_mul, h2] at h1
    omega
  have e : w.toNat / 2 ^ (hi + 1) * 2 ^ (hi + 1) + v % 2 ^ (hi + 1 - lo) * 2 ^ lo + w.toNat % 2 ^ lo =
      2 ^ (hi + 1) * (w.toNat / 2 ^ (hi + 1)) + (2 ^ lo * (v % 2 ^ (hi + 1 - lo)) + w.toNat % 2 ^ lo) := by
    rw [Nat.mul_comm (2 ^ (hi + 1)), Nat.mul_comm (2 ^ lo), Nat.add_assoc]
  unfold putFld
  rw [BitVec.toNat_ofNat, Nat.testBit_mod_two_pow, e]
  rw [Nat.mul_comm (2 ^ lo)] at *
  rw [Nat.testBit_two_pow_mul_add _ hB, Nat.mul_comm, Nat.testBit_two_pow_mul_add _ hC]
  by_cases hj : j < 32
  · simp only [hj, decide_true, Bool.true_and]
    by_cases h1 : j < hi + 1
    · rw [if_pos h1]
      by_cases h2 : j < lo
      · rw [if_pos h2, if_neg (by omega), Nat.testBit_mod_two_pow]; simp [h2]
      · rw [if_neg h2, if_pos (by omega), Nat.testBit_mod_two_pow]
        simp [show j - lo < hi + 1 - lo by omega]
    · rw [if_neg h1, if_neg (by omega), Nat.testBit_div_two_pow]
      congr 1; omega
  · rw [if_neg (show ¬(lo ≤ j ∧ j ≤ hi) by omega), Nat.testBit_lt_two_pow (Nat.lt_of_lt_of_le w.isLt
      (Nat.pow_le_pow_right (by omega) (by omega)))]
    simp [hj]

theorem testBit_fld (hi lo : Nat) (w : Word) (j : Nat) :
    (fld hi lo w).testBit j = (decide (j < hi + 1 - lo) && w.toNat.testBit (lo + j)) := by
  unfold fld nfld
  rw [Nat.testBit_mod_two_pow, Nat.testBit_div_two_pow, Nat.add_comm lo j]

/-- A field reads as it was written. -/
theorem fld_putFld_same {hi lo : Nat} (v : Nat) (w : Word) (h : lo ≤ hi) (hh : hi < 32) :
    fld hi lo (putFld hi lo v w) = v % 2 ^ (hi + 1 - lo) := by
  apply Nat.eq_of_testBit_eq
  intro j
  rw [testBit_fld, testBit_putFld v w h hh, Nat.testBit_mod_two_pow]
  by_cases hj : j < hi + 1 - lo
  · rw [if_pos (by omega)]; simp [hj]
  · simp [hj]

/-- Writing a field leaves a disjoint one alone. -/
theorem fld_putFld_ne {hi lo hi' lo' : Nat} (v : Nat) (w : Word) (h : lo ≤ hi) (hh : hi < 32)
    (hd : hi' < lo ∨ hi < lo') : fld hi' lo' (putFld hi lo v w) = fld hi' lo' w := by
  apply Nat.eq_of_testBit_eq
  intro j
  rw [testBit_fld, testBit_fld, testBit_putFld v w h hh]
  by_cases hj : j < hi' + 1 - lo'
  · rw [if_neg (by omega)]
  · simp [hj]

theorem bit_eq (i : Nat) (w : Word) : bit i w = w.toNat.testBit i := rfl

/-- A bit after a field was written. -/
theorem bit_putFld {hi lo : Nat} (v : Nat) (w : Word) (h : lo ≤ hi) (hh : hi < 32) (j : Nat) :
    bit j (putFld hi lo v w) = if lo ≤ j ∧ j ≤ hi then v.testBit (j - lo) else bit j w :=
  testBit_putFld v w h hh j

theorem bit_putBit {i : Nat} (b : Bool) (w : Word) (hi : i < 32) (j : Nat) :
    bit j (putBit i b w) = if j = i then b else bit j w := by
  unfold putBit
  rw [bit_putFld _ _ (Nat.le_refl _) hi]
  by_cases h : j = i
  · subst h; cases b <;> simp
  · rw [if_neg (by omega), if_neg h]

theorem fld_putBit {i hi lo : Nat} (b : Bool) (w : Word) (h : i < 32) (hd : hi < i ∨ i < lo) :
    fld hi lo (putBit i b w) = fld hi lo w :=
  fld_putFld_ne _ _ (Nat.le_refl _) h hd

/-! ### Registers after a write -/

variable (s : State) (a b : Nat)

@[simp] theorem State.rd_wr (v : Word) : (s.wr a v).rd b = if b = a then v else s.rd b := tget_tset ..
@[simp] theorem State.rd_wf (hi lo v : Nat) : (s.wf a hi lo v).rd b = if b = a then putFld hi lo v (s.rd a) else s.rd b :=
  tget_tset ..
@[simp] theorem State.rd_wb (i : Nat) (x : Bool) : (s.wb a i x).rd b = if b = a then putBit i x (s.rd a) else s.rd b :=
  tget_tset ..
@[simp] theorem State.rd_flag (i : Nat) : (s.flag a i).rd b = if b = a then putBit i true (s.rd a) else s.rd b :=
  tget_tset ..
@[simp] theorem State.rd_count (hi lo k : Nat) :
    (s.count a hi lo k).rd b = if b = a then putFld hi lo (fld hi lo (s.rd a) + k) (s.rd a) else s.rd b :=
  tget_tset ..

theorem State.rd_resetRegs (p : Nat → Bool) : (s.resetRegs p).rd a = if p a then resetVal a else s.rd a :=
  tget_tclear ..

end Sys2Proof.Machine
end

