-- ==== Sys2Proof/Laws/State.lean ====
section
/-! SUPPORT. What the elementary updates of a state leave alone, field by field, and what they set. -/

namespace Sys2Proof.Machine

variable (s : State)

/-! ### wr -/

@[simp] theorem State.wr_hri (a : Nat) (v : Word) : (s.wr a v).hri = s.hri := rfl
@[simp] theorem State.wr_store (a : Nat) (v : Word) : (s.wr a v).store = s.store := rfl
@[simp] theorem State.wr_radio (a : Nat) (v : Word) : (s.wr a v).radio = s.radio := rfl
@[simp] theorem State.wr_mac (a : Nat) (v : Word) : (s.wr a v).mac = s.mac := rfl
@[simp] theorem State.wr_jnl (a : Nat) (v : Word) : (s.wr a v).jnl = s.jnl := rfl
@[simp] theorem State.wr_keys (a : Nat) (v : Word) : (s.wr a v).keys = s.keys := rfl
@[simp] theorem State.wr_newts (a : Nat) (v : Word) : (s.wr a v).newts = s.newts := rfl
@[simp] theorem State.wr_gather (a : Nat) (v : Word) : (s.wr a v).gather = s.gather := rfl
@[simp] theorem State.wr_roles (a : Nat) (v : Word) : (s.wr a v).roles = s.roles := rfl
@[simp] theorem State.wr_pio (a : Nat) (v : Word) : (s.wr a v).pio = s.pio := rfl
@[simp] theorem State.wr_lehr (a : Nat) (v : Word) : (s.wr a v).lehr = s.lehr := rfl
@[simp] theorem State.wr_power (a : Nat) (v : Word) : (s.wr a v).power = s.power := rfl
@[simp] theorem State.wr_flash (a : Nat) (v : Word) : (s.wr a v).flash = s.flash := rfl
@[simp] theorem State.wr_svc (a : Nat) (v : Word) : (s.wr a v).svc = s.svc := rfl
@[simp] theorem State.wr_link (a : Nat) (v : Word) : (s.wr a v).link = s.link := rfl
@[simp] theorem State.wr_health (a : Nat) (v : Word) : (s.wr a v).health = s.health := rfl
@[simp] theorem State.wr_cycLatch (a : Nat) (v : Word) : (s.wr a v).cycLatch = s.cycLatch := rfl
@[simp] theorem State.wr_answers (a : Nat) (v : Word) : (s.wr a v).answers = s.answers := rfl
@[simp] theorem State.wr_free (a : Nat) (v : Word) : (s.wr a v).free = s.free := rfl
@[simp] theorem State.wr_pending (a : Nat) (v : Word) : (s.wr a v).pending = s.pending := rfl

/-! ### wf -/

@[simp] theorem State.wf_hri (a hi lo v : Nat) : (s.wf a hi lo v).hri = s.hri := rfl
@[simp] theorem State.wf_store (a hi lo v : Nat) : (s.wf a hi lo v).store = s.store := rfl
@[simp] theorem State.wf_radio (a hi lo v : Nat) : (s.wf a hi lo v).radio = s.radio := rfl
@[simp] theorem State.wf_mac (a hi lo v : Nat) : (s.wf a hi lo v).mac = s.mac := rfl
@[simp] theorem State.wf_jnl (a hi lo v : Nat) : (s.wf a hi lo v).jnl = s.jnl := rfl
@[simp] theorem State.wf_keys (a hi lo v : Nat) : (s.wf a hi lo v).keys = s.keys := rfl
@[simp] theorem State.wf_newts (a hi lo v : Nat) : (s.wf a hi lo v).newts = s.newts := rfl
@[simp] theorem State.wf_gather (a hi lo v : Nat) : (s.wf a hi lo v).gather = s.gather := rfl
@[simp] theorem State.wf_roles (a hi lo v : Nat) : (s.wf a hi lo v).roles = s.roles := rfl
@[simp] theorem State.wf_pio (a hi lo v : Nat) : (s.wf a hi lo v).pio = s.pio := rfl
@[simp] theorem State.wf_lehr (a hi lo v : Nat) : (s.wf a hi lo v).lehr = s.lehr := rfl
@[simp] theorem State.wf_power (a hi lo v : Nat) : (s.wf a hi lo v).power = s.power := rfl
@[simp] theorem State.wf_flash (a hi lo v : Nat) : (s.wf a hi lo v).flash = s.flash := rfl
@[simp] theorem State.wf_svc (a hi lo v : Nat) : (s.wf a hi lo v).svc = s.svc := rfl
@[simp] theorem State.wf_link (a hi lo v : Nat) : (s.wf a hi lo v).link = s.link := rfl
@[simp] theorem State.wf_health (a hi lo v : Nat) : (s.wf a hi lo v).health = s.health := rfl
@[simp] theorem State.wf_cycLatch (a hi lo v : Nat) : (s.wf a hi lo v).cycLatch = s.cycLatch := rfl
@[simp] theorem State.wf_answers (a hi lo v : Nat) : (s.wf a hi lo v).answers = s.answers := rfl
@[simp] theorem State.wf_free (a hi lo v : Nat) : (s.wf a hi lo v).free = s.free := rfl
@[simp] theorem State.wf_pending (a hi lo v : Nat) : (s.wf a hi lo v).pending = s.pending := rfl

/-! ### wb -/

@[simp] theorem State.wb_hri (a i : Nat) (b : Bool) : (s.wb a i b).hri = s.hri := rfl
@[simp] theorem State.wb_store (a i : Nat) (b : Bool) : (s.wb a i b).store = s.store := rfl
@[simp] theorem State.wb_radio (a i : Nat) (b : Bool) : (s.wb a i b).radio = s.radio := rfl
@[simp] theorem State.wb_mac (a i : Nat) (b : Bool) : (s.wb a i b).mac = s.mac := rfl
@[simp] theorem State.wb_jnl (a i : Nat) (b : Bool) : (s.wb a i b).jnl = s.jnl := rfl
@[simp] theorem State.wb_keys (a i : Nat) (b : Bool) : (s.wb a i b).keys = s.keys := rfl
@[simp] theorem State.wb_newts (a i : Nat) (b : Bool) : (s.wb a i b).newts = s.newts := rfl
@[simp] theorem State.wb_gather (a i : Nat) (b : Bool) : (s.wb a i b).gather = s.gather := rfl
@[simp] theorem State.wb_roles (a i : Nat) (b : Bool) : (s.wb a i b).roles = s.roles := rfl
@[simp] theorem State.wb_pio (a i : Nat) (b : Bool) : (s.wb a i b).pio = s.pio := rfl
@[simp] theorem State.wb_lehr (a i : Nat) (b : Bool) : (s.wb a i b).lehr = s.lehr := rfl
@[simp] theorem State.wb_power (a i : Nat) (b : Bool) : (s.wb a i b).power = s.power := rfl
@[simp] theorem State.wb_flash (a i : Nat) (b : Bool) : (s.wb a i b).flash = s.flash := rfl
@[simp] theorem State.wb_svc (a i : Nat) (b : Bool) : (s.wb a i b).svc = s.svc := rfl
@[simp] theorem State.wb_link (a i : Nat) (b : Bool) : (s.wb a i b).link = s.link := rfl
@[simp] theorem State.wb_health (a i : Nat) (b : Bool) : (s.wb a i b).health = s.health := rfl
@[simp] theorem State.wb_cycLatch (a i : Nat) (b : Bool) : (s.wb a i b).cycLatch = s.cycLatch := rfl
@[simp] theorem State.wb_answers (a i : Nat) (b : Bool) : (s.wb a i b).answers = s.answers := rfl
@[simp] theorem State.wb_free (a i : Nat) (b : Bool) : (s.wb a i b).free = s.free := rfl
@[simp] theorem State.wb_pending (a i : Nat) (b : Bool) : (s.wb a i b).pending = s.pending := rfl

/-! ### flag -/

@[simp] theorem State.flag_hri (a i : Nat) : (s.flag a i).hri = s.hri := rfl
@[simp] theorem State.flag_store (a i : Nat) : (s.flag a i).store = s.store := rfl
@[simp] theorem State.flag_radio (a i : Nat) : (s.flag a i).radio = s.radio := rfl
@[simp] theorem State.flag_mac (a i : Nat) : (s.flag a i).mac = s.mac := rfl
@[simp] theorem State.flag_jnl (a i : Nat) : (s.flag a i).jnl = s.jnl := rfl
@[simp] theorem State.flag_keys (a i : Nat) : (s.flag a i).keys = s.keys := rfl
@[simp] theorem State.flag_newts (a i : Nat) : (s.flag a i).newts = s.newts := rfl
@[simp] theorem State.flag_gather (a i : Nat) : (s.flag a i).gather = s.gather := rfl
@[simp] theorem State.flag_roles (a i : Nat) : (s.flag a i).roles = s.roles := rfl
@[simp] theorem State.flag_pio (a i : Nat) : (s.flag a i).pio = s.pio := rfl
@[simp] theorem State.flag_lehr (a i : Nat) : (s.flag a i).lehr = s.lehr := rfl
@[simp] theorem State.flag_power (a i : Nat) : (s.flag a i).power = s.power := rfl
@[simp] theorem State.flag_flash (a i : Nat) : (s.flag a i).flash = s.flash := rfl
@[simp] theorem State.flag_svc (a i : Nat) : (s.flag a i).svc = s.svc := rfl
@[simp] theorem State.flag_link (a i : Nat) : (s.flag a i).link = s.link := rfl
@[simp] theorem State.flag_health (a i : Nat) : (s.flag a i).health = s.health := rfl
@[simp] theorem State.flag_cycLatch (a i : Nat) : (s.flag a i).cycLatch = s.cycLatch := rfl
@[simp] theorem State.flag_answers (a i : Nat) : (s.flag a i).answers = s.answers := rfl
@[simp] theorem State.flag_free (a i : Nat) : (s.flag a i).free = s.free := rfl
@[simp] theorem State.flag_pending (a i : Nat) : (s.flag a i).pending = s.pending := rfl

/-! ### count -/

@[simp] theorem State.count_hri (a hi lo k : Nat) : (s.count a hi lo k).hri = s.hri := rfl
@[simp] theorem State.count_store (a hi lo k : Nat) : (s.count a hi lo k).store = s.store := rfl
@[simp] theorem State.count_radio (a hi lo k : Nat) : (s.count a hi lo k).radio = s.radio := rfl
@[simp] theorem State.count_mac (a hi lo k : Nat) : (s.count a hi lo k).mac = s.mac := rfl
@[simp] theorem State.count_jnl (a hi lo k : Nat) : (s.count a hi lo k).jnl = s.jnl := rfl
@[simp] theorem State.count_keys (a hi lo k : Nat) : (s.count a hi lo k).keys = s.keys := rfl
@[simp] theorem State.count_newts (a hi lo k : Nat) : (s.count a hi lo k).newts = s.newts := rfl
@[simp] theorem State.count_gather (a hi lo k : Nat) : (s.count a hi lo k).gather = s.gather := rfl
@[simp] theorem State.count_roles (a hi lo k : Nat) : (s.count a hi lo k).roles = s.roles := rfl
@[simp] theorem State.count_pio (a hi lo k : Nat) : (s.count a hi lo k).pio = s.pio := rfl
@[simp] theorem State.count_lehr (a hi lo k : Nat) : (s.count a hi lo k).lehr = s.lehr := rfl
@[simp] theorem State.count_power (a hi lo k : Nat) : (s.count a hi lo k).power = s.power := rfl
@[simp] theorem State.count_flash (a hi lo k : Nat) : (s.count a hi lo k).flash = s.flash := rfl
@[simp] theorem State.count_svc (a hi lo k : Nat) : (s.count a hi lo k).svc = s.svc := rfl
@[simp] theorem State.count_link (a hi lo k : Nat) : (s.count a hi lo k).link = s.link := rfl
@[simp] theorem State.count_health (a hi lo k : Nat) : (s.count a hi lo k).health = s.health := rfl
@[simp] theorem State.count_cycLatch (a hi lo k : Nat) : (s.count a hi lo k).cycLatch = s.cycLatch := rfl
@[simp] theorem State.count_answers (a hi lo k : Nat) : (s.count a hi lo k).answers = s.answers := rfl
@[simp] theorem State.count_free (a hi lo k : Nat) : (s.count a hi lo k).free = s.free := rfl
@[simp] theorem State.count_pending (a hi lo k : Nat) : (s.count a hi lo k).pending = s.pending := rfl

/-! ### countSat -/

@[simp] theorem State.countSat_hri (a hi lo : Nat) : (s.countSat a hi lo).hri = s.hri := rfl
@[simp] theorem State.countSat_store (a hi lo : Nat) : (s.countSat a hi lo).store = s.store := rfl
@[simp] theorem State.countSat_radio (a hi lo : Nat) : (s.countSat a hi lo).radio = s.radio := rfl
@[simp] theorem State.countSat_mac (a hi lo : Nat) : (s.countSat a hi lo).mac = s.mac := rfl
@[simp] theorem State.countSat_jnl (a hi lo : Nat) : (s.countSat a hi lo).jnl = s.jnl := rfl
@[simp] theorem State.countSat_keys (a hi lo : Nat) : (s.countSat a hi lo).keys = s.keys := rfl
@[simp] theorem State.countSat_newts (a hi lo : Nat) : (s.countSat a hi lo).newts = s.newts := rfl
@[simp] theorem State.countSat_gather (a hi lo : Nat) : (s.countSat a hi lo).gather = s.gather := rfl
@[simp] theorem State.countSat_roles (a hi lo : Nat) : (s.countSat a hi lo).roles = s.roles := rfl
@[simp] theorem State.countSat_pio (a hi lo : Nat) : (s.countSat a hi lo).pio = s.pio := rfl
@[simp] theorem State.countSat_lehr (a hi lo : Nat) : (s.countSat a hi lo).lehr = s.lehr := rfl
@[simp] theorem State.countSat_power (a hi lo : Nat) : (s.countSat a hi lo).power = s.power := rfl
@[simp] theorem State.countSat_flash (a hi lo : Nat) : (s.countSat a hi lo).flash = s.flash := rfl
@[simp] theorem State.countSat_svc (a hi lo : Nat) : (s.countSat a hi lo).svc = s.svc := rfl
@[simp] theorem State.countSat_link (a hi lo : Nat) : (s.countSat a hi lo).link = s.link := rfl
@[simp] theorem State.countSat_health (a hi lo : Nat) : (s.countSat a hi lo).health = s.health := rfl
@[simp] theorem State.countSat_cycLatch (a hi lo : Nat) : (s.countSat a hi lo).cycLatch = s.cycLatch := rfl
@[simp] theorem State.countSat_answers (a hi lo : Nat) : (s.countSat a hi lo).answers = s.answers := rfl
@[simp] theorem State.countSat_free (a hi lo : Nat) : (s.countSat a hi lo).free = s.free := rfl
@[simp] theorem State.countSat_pending (a hi lo : Nat) : (s.countSat a hi lo).pending = s.pending := rfl

/-! ### resetRegs -/

@[simp] theorem State.resetRegs_hri (p : Nat → Bool) : (s.resetRegs p).hri = s.hri := rfl
@[simp] theorem State.resetRegs_store (p : Nat → Bool) : (s.resetRegs p).store = s.store := rfl
@[simp] theorem State.resetRegs_radio (p : Nat → Bool) : (s.resetRegs p).radio = s.radio := rfl
@[simp] theorem State.resetRegs_mac (p : Nat → Bool) : (s.resetRegs p).mac = s.mac := rfl
@[simp] theorem State.resetRegs_jnl (p : Nat → Bool) : (s.resetRegs p).jnl = s.jnl := rfl
@[simp] theorem State.resetRegs_keys (p : Nat → Bool) : (s.resetRegs p).keys = s.keys := rfl
@[simp] theorem State.resetRegs_newts (p : Nat → Bool) : (s.resetRegs p).newts = s.newts := rfl
@[simp] theorem State.resetRegs_gather (p : Nat → Bool) : (s.resetRegs p).gather = s.gather := rfl
@[simp] theorem State.resetRegs_roles (p : Nat → Bool) : (s.resetRegs p).roles = s.roles := rfl
@[simp] theorem State.resetRegs_pio (p : Nat → Bool) : (s.resetRegs p).pio = s.pio := rfl
@[simp] theorem State.resetRegs_lehr (p : Nat → Bool) : (s.resetRegs p).lehr = s.lehr := rfl
@[simp] theorem State.resetRegs_power (p : Nat → Bool) : (s.resetRegs p).power = s.power := rfl
@[simp] theorem State.resetRegs_flash (p : Nat → Bool) : (s.resetRegs p).flash = s.flash := rfl
@[simp] theorem State.resetRegs_svc (p : Nat → Bool) : (s.resetRegs p).svc = s.svc := rfl
@[simp] theorem State.resetRegs_link (p : Nat → Bool) : (s.resetRegs p).link = s.link := rfl
@[simp] theorem State.resetRegs_health (p : Nat → Bool) : (s.resetRegs p).health = s.health := rfl
@[simp] theorem State.resetRegs_cycLatch (p : Nat → Bool) : (s.resetRegs p).cycLatch = s.cycLatch := rfl
@[simp] theorem State.resetRegs_answers (p : Nat → Bool) : (s.resetRegs p).answers = s.answers := rfl
@[simp] theorem State.resetRegs_free (p : Nat → Bool) : (s.resetRegs p).free = s.free := rfl
@[simp] theorem State.resetRegs_pending (p : Nat → Bool) : (s.resetRegs p).pending = s.pending := rfl

/-! ### answer -/

@[simp] theorem State.answer_regs (m : Master) (w : Word) : (s.answer m w).regs = s.regs := rfl
@[simp] theorem State.answer_hri (m : Master) (w : Word) : (s.answer m w).hri = s.hri := rfl
@[simp] theorem State.answer_store (m : Master) (w : Word) : (s.answer m w).store = s.store := rfl
@[simp] theorem State.answer_radio (m : Master) (w : Word) : (s.answer m w).radio = s.radio := rfl
@[simp] theorem State.answer_mac (m : Master) (w : Word) : (s.answer m w).mac = s.mac := rfl
@[simp] theorem State.answer_jnl (m : Master) (w : Word) : (s.answer m w).jnl = s.jnl := rfl
@[simp] theorem State.answer_keys (m : Master) (w : Word) : (s.answer m w).keys = s.keys := rfl
@[simp] theorem State.answer_newts (m : Master) (w : Word) : (s.answer m w).newts = s.newts := rfl
@[simp] theorem State.answer_gather (m : Master) (w : Word) : (s.answer m w).gather = s.gather := rfl
@[simp] theorem State.answer_roles (m : Master) (w : Word) : (s.answer m w).roles = s.roles := rfl
@[simp] theorem State.answer_pio (m : Master) (w : Word) : (s.answer m w).pio = s.pio := rfl
@[simp] theorem State.answer_lehr (m : Master) (w : Word) : (s.answer m w).lehr = s.lehr := rfl
@[simp] theorem State.answer_power (m : Master) (w : Word) : (s.answer m w).power = s.power := rfl
@[simp] theorem State.answer_flash (m : Master) (w : Word) : (s.answer m w).flash = s.flash := rfl
@[simp] theorem State.answer_svc (m : Master) (w : Word) : (s.answer m w).svc = s.svc := rfl
@[simp] theorem State.answer_link (m : Master) (w : Word) : (s.answer m w).link = s.link := rfl
@[simp] theorem State.answer_health (m : Master) (w : Word) : (s.answer m w).health = s.health := rfl
@[simp] theorem State.answer_cycLatch (m : Master) (w : Word) : (s.answer m w).cycLatch = s.cycLatch := rfl
@[simp] theorem State.answer_free (m : Master) (w : Word) : (s.answer m w).free = s.free := rfl
@[simp] theorem State.answer_pending (m : Master) (w : Word) : (s.answer m w).pending = s.pending := rfl
@[simp] theorem State.rd_answer (b : Nat) (m : Master) (w : Word) : (s.answer m w).rd b = s.rd b := rfl

/-! ### accessError -/

@[simp] theorem State.accessError_regs (m : Master) : (s.accessError m).regs = s.regs := by
  unfold State.accessError; split <;> rfl
@[simp] theorem State.accessError_store (m : Master) : (s.accessError m).store = s.store := by
  unfold State.accessError; split <;> rfl
@[simp] theorem State.accessError_radio (m : Master) : (s.accessError m).radio = s.radio := by
  unfold State.accessError; split <;> rfl
@[simp] theorem State.accessError_mac (m : Master) : (s.accessError m).mac = s.mac := by
  unfold State.accessError; split <;> rfl
@[simp] theorem State.accessError_jnl (m : Master) : (s.accessError m).jnl = s.jnl := by
  unfold State.accessError; split <;> rfl
@[simp] theorem State.accessError_keys (m : Master) : (s.accessError m).keys = s.keys := by
  unfold State.accessError; split <;> rfl
@[simp] theorem State.accessError_newts (m : Master) : (s.accessError m).newts = s.newts := by
  unfold State.accessError; split <;> rfl
@[simp] theorem State.accessError_gather (m : Master) : (s.accessError m).gather = s.gather := by
  unfold State.accessError; split <;> rfl
@[simp] theorem State.accessError_roles (m : Master) : (s.accessError m).roles = s.roles := by
  unfold State.accessError; split <;> rfl
@[simp] theorem State.accessError_pio (m : Master) : (s.accessError m).pio = s.pio := by
  unfold State.accessError; split <;> rfl
@[simp] theorem State.accessError_lehr (m : Master) : (s.accessError m).lehr = s.lehr := by
  unfold State.accessError; split <;> rfl
@[simp] theorem State.accessError_power (m : Master) : (s.accessError m).power = s.power := by
  unfold State.accessError; split <;> rfl
@[simp] theorem State.accessError_flash (m : Master) : (s.accessError m).flash = s.flash := by
  unfold State.accessError; split <;> rfl
@[simp] theorem State.accessError_svc (m : Master) : (s.accessError m).svc = s.svc := by
  unfold State.accessError; split <;> rfl
@[simp] theorem State.accessError_health (m : Master) : (s.accessError m).health = s.health := by
  unfold State.accessError; split <;> rfl
@[simp] theorem State.accessError_cycLatch (m : Master) : (s.accessError m).cycLatch = s.cycLatch := by
  unfold State.accessError; split <;> rfl
@[simp] theorem State.accessError_answers (m : Master) : (s.accessError m).answers = s.answers := by
  unfold State.accessError; split <;> rfl
@[simp] theorem State.accessError_free (m : Master) : (s.accessError m).free = s.free := by
  unfold State.accessError; split <;> rfl
@[simp] theorem State.accessError_pending (m : Master) : (s.accessError m).pending = s.pending := by
  unfold State.accessError; split <;> rfl
@[simp] theorem State.rd_accessError (b : Nat) (m : Master) : (s.accessError m).rd b = s.rd b := by
  unfold State.accessError; split <;> rfl

/-! ### setQ -/

@[simp] theorem State.setQ_regs (n : Nat) (q : Queue) : (s.setQ n q).regs = s.regs := rfl
@[simp] theorem State.setQ_store (n : Nat) (q : Queue) : (s.setQ n q).store = s.store := rfl
@[simp] theorem State.setQ_radio (n : Nat) (q : Queue) : (s.setQ n q).radio = s.radio := rfl
@[simp] theorem State.setQ_mac (n : Nat) (q : Queue) : (s.setQ n q).mac = s.mac := rfl
@[simp] theorem State.setQ_jnl (n : Nat) (q : Queue) : (s.setQ n q).jnl = s.jnl := rfl
@[simp] theorem State.setQ_keys (n : Nat) (q : Queue) : (s.setQ n q).keys = s.keys := rfl
@[simp] theorem State.setQ_newts (n : Nat) (q : Queue) : (s.setQ n q).newts = s.newts := rfl
@[simp] theorem State.setQ_gather (n : Nat) (q : Queue) : (s.setQ n q).gather = s.gather := rfl
@[simp] theorem State.setQ_roles (n : Nat) (q : Queue) : (s.setQ n q).roles = s.roles := rfl
@[simp] theorem State.setQ_pio (n : Nat) (q : Queue) : (s.setQ n q).pio = s.pio := rfl
@[simp] theorem State.setQ_lehr (n : Nat) (q : Queue) : (s.setQ n q).lehr = s.lehr := rfl
@[simp] theorem State.setQ_power (n : Nat) (q : Queue) : (s.setQ n q).power = s.power := rfl
@[simp] theorem State.setQ_flash (n : Nat) (q : Queue) : (s.setQ n q).flash = s.flash := rfl
@[simp] theorem State.setQ_svc (n : Nat) (q : Queue) : (s.setQ n q).svc = s.svc := rfl
@[simp] theorem State.setQ_link (n : Nat) (q : Queue) : (s.setQ n q).link = s.link := rfl
@[simp] theorem State.setQ_health (n : Nat) (q : Queue) : (s.setQ n q).health = s.health := rfl
@[simp] theorem State.setQ_cycLatch (n : Nat) (q : Queue) : (s.setQ n q).cycLatch = s.cycLatch := rfl
@[simp] theorem State.setQ_answers (n : Nat) (q : Queue) : (s.setQ n q).answers = s.answers := rfl
@[simp] theorem State.setQ_free (n : Nat) (q : Queue) : (s.setQ n q).free = s.free := rfl
@[simp] theorem State.setQ_pending (n : Nat) (q : Queue) : (s.setQ n q).pending = s.pending := rfl
@[simp] theorem State.rd_setQ (b : Nat) (n : Nat) (q : Queue) : (s.setQ n q).rd b = s.rd b := rfl

/-! ### modQ -/

@[simp] theorem State.modQ_regs (n : Nat) (f : Queue → Queue) : (s.modQ n f).regs = s.regs := rfl
@[simp] theorem State.modQ_store (n : Nat) (f : Queue → Queue) : (s.modQ n f).store = s.store := rfl
@[simp] theorem State.modQ_radio (n : Nat) (f : Queue → Queue) : (s.modQ n f).radio = s.radio := rfl
@[simp] theorem State.modQ_mac (n : Nat) (f : Queue → Queue) : (s.modQ n f).mac = s.mac := rfl
@[simp] theorem State.modQ_jnl (n : Nat) (f : Queue → Queue) : (s.modQ n f).jnl = s.jnl := rfl
@[simp] theorem State.modQ_keys (n : Nat) (f : Queue → Queue) : (s.modQ n f).keys = s.keys := rfl
@[simp] theorem State.modQ_newts (n : Nat) (f : Queue → Queue) : (s.modQ n f).newts = s.newts := rfl
@[simp] theorem State.modQ_gather (n : Nat) (f : Queue → Queue) : (s.modQ n f).gather = s.gather := rfl
@[simp] theorem State.modQ_roles (n : Nat) (f : Queue → Queue) : (s.modQ n f).roles = s.roles := rfl
@[simp] theorem State.modQ_pio (n : Nat) (f : Queue → Queue) : (s.modQ n f).pio = s.pio := rfl
@[simp] theorem State.modQ_lehr (n : Nat) (f : Queue → Queue) : (s.modQ n f).lehr = s.lehr := rfl
@[simp] theorem State.modQ_power (n : Nat) (f : Queue → Queue) : (s.modQ n f).power = s.power := rfl
@[simp] theorem State.modQ_flash (n : Nat) (f : Queue → Queue) : (s.modQ n f).flash = s.flash := rfl
@[simp] theorem State.modQ_svc (n : Nat) (f : Queue → Queue) : (s.modQ n f).svc = s.svc := rfl
@[simp] theorem State.modQ_link (n : Nat) (f : Queue → Queue) : (s.modQ n f).link = s.link := rfl
@[simp] theorem State.modQ_health (n : Nat) (f : Queue → Queue) : (s.modQ n f).health = s.health := rfl
@[simp] theorem State.modQ_cycLatch (n : Nat) (f : Queue → Queue) : (s.modQ n f).cycLatch = s.cycLatch := rfl
@[simp] theorem State.modQ_answers (n : Nat) (f : Queue → Queue) : (s.modQ n f).answers = s.answers := rfl
@[simp] theorem State.modQ_free (n : Nat) (f : Queue → Queue) : (s.modQ n f).free = s.free := rfl
@[simp] theorem State.modQ_pending (n : Nat) (f : Queue → Queue) : (s.modQ n f).pending = s.pending := rfl
@[simp] theorem State.rd_modQ (b : Nat) (n : Nat) (f : Queue → Queue) : (s.modQ n f).rd b = s.rd b := rfl

/-! ### setVec -/

@[simp] theorem State.setVec_regs (v : Nat) (x : Vector') : (s.setVec v x).regs = s.regs := rfl
@[simp] theorem State.setVec_store (v : Nat) (x : Vector') : (s.setVec v x).store = s.store := rfl
@[simp] theorem State.setVec_radio (v : Nat) (x : Vector') : (s.setVec v x).radio = s.radio := rfl
@[simp] theorem State.setVec_mac (v : Nat) (x : Vector') : (s.setVec v x).mac = s.mac := rfl
@[simp] theorem State.setVec_jnl (v : Nat) (x : Vector') : (s.setVec v x).jnl = s.jnl := rfl
@[simp] theorem State.setVec_keys (v : Nat) (x : Vector') : (s.setVec v x).keys = s.keys := rfl
@[simp] theorem State.setVec_newts (v : Nat) (x : Vector') : (s.setVec v x).newts = s.newts := rfl
@[simp] theorem State.setVec_gather (v : Nat) (x : Vector') : (s.setVec v x).gather = s.gather := rfl
@[simp] theorem State.setVec_roles (v : Nat) (x : Vector') : (s.setVec v x).roles = s.roles := rfl
@[simp] theorem State.setVec_pio (v : Nat) (x : Vector') : (s.setVec v x).pio = s.pio := rfl
@[simp] theorem State.setVec_lehr (v : Nat) (x : Vector') : (s.setVec v x).lehr = s.lehr := rfl
@[simp] theorem State.setVec_power (v : Nat) (x : Vector') : (s.setVec v x).power = s.power := rfl
@[simp] theorem State.setVec_flash (v : Nat) (x : Vector') : (s.setVec v x).flash = s.flash := rfl
@[simp] theorem State.setVec_svc (v : Nat) (x : Vector') : (s.setVec v x).svc = s.svc := rfl
@[simp] theorem State.setVec_link (v : Nat) (x : Vector') : (s.setVec v x).link = s.link := rfl
@[simp] theorem State.setVec_health (v : Nat) (x : Vector') : (s.setVec v x).health = s.health := rfl
@[simp] theorem State.setVec_cycLatch (v : Nat) (x : Vector') : (s.setVec v x).cycLatch = s.cycLatch := rfl
@[simp] theorem State.setVec_answers (v : Nat) (x : Vector') : (s.setVec v x).answers = s.answers := rfl
@[simp] theorem State.setVec_free (v : Nat) (x : Vector') : (s.setVec v x).free = s.free := rfl
@[simp] theorem State.setVec_pending (v : Nat) (x : Vector') : (s.setVec v x).pending = s.pending := rfl
@[simp] theorem State.rd_setVec (b : Nat) (v : Nat) (x : Vector') : (s.setVec v x).rd b = s.rd b := rfl

/-! ### hostWrite -/

@[simp] theorem State.hostWrite_regs (a : Nat) (l : List Byte) : (s.hostWrite a l).regs = s.regs := rfl
@[simp] theorem State.hostWrite_store (a : Nat) (l : List Byte) : (s.hostWrite a l).store = s.store := rfl
@[simp] theorem State.hostWrite_radio (a : Nat) (l : List Byte) : (s.hostWrite a l).radio = s.radio := rfl
@[simp] theorem State.hostWrite_mac (a : Nat) (l : List Byte) : (s.hostWrite a l).mac = s.mac := rfl
@[simp] theorem State.hostWrite_jnl (a : Nat) (l : List Byte) : (s.hostWrite a l).jnl = s.jnl := rfl
@[simp] theorem State.hostWrite_keys (a : Nat) (l : List Byte) : (s.hostWrite a l).keys = s.keys := rfl
@[simp] theorem State.hostWrite_newts (a : Nat) (l : List Byte) : (s.hostWrite a l).newts = s.newts := rfl
@[simp] theorem State.hostWrite_gather (a : Nat) (l : List Byte) : (s.hostWrite a l).gather = s.gather := rfl
@[simp] theorem State.hostWrite_roles (a : Nat) (l : List Byte) : (s.hostWrite a l).roles = s.roles := rfl
@[simp] theorem State.hostWrite_pio (a : Nat) (l : List Byte) : (s.hostWrite a l).pio = s.pio := rfl
@[simp] theorem State.hostWrite_lehr (a : Nat) (l : List Byte) : (s.hostWrite a l).lehr = s.lehr := rfl
@[simp] theorem State.hostWrite_power (a : Nat) (l : List Byte) : (s.hostWrite a l).power = s.power := rfl
@[simp] theorem State.hostWrite_flash (a : Nat) (l : List Byte) : (s.hostWrite a l).flash = s.flash := rfl
@[simp] theorem State.hostWrite_svc (a : Nat) (l : List Byte) : (s.hostWrite a l).svc = s.svc := rfl
@[simp] theorem State.hostWrite_link (a : Nat) (l : List Byte) : (s.hostWrite a l).link = s.link := rfl
@[simp] theorem State.hostWrite_health (a : Nat) (l : List Byte) : (s.hostWrite a l).health = s.health := rfl
@[simp] theorem State.hostWrite_cycLatch (a : Nat) (l : List Byte) : (s.hostWrite a l).cycLatch = s.cycLatch := rfl
@[simp] theorem State.hostWrite_answers (a : Nat) (l : List Byte) : (s.hostWrite a l).answers = s.answers := rfl
@[simp] theorem State.hostWrite_free (a : Nat) (l : List Byte) : (s.hostWrite a l).free = s.free := rfl
@[simp] theorem State.hostWrite_pending (a : Nat) (l : List Byte) : (s.hostWrite a l).pending = s.pending := rfl
@[simp] theorem State.rd_hostWrite (b : Nat) (a : Nat) (l : List Byte) : (s.hostWrite a l).rd b = s.rd b := rfl

/-! ### setNewt -/

@[simp] theorem State.setNewt_regs (n : Nat) (x : Newt) : (s.setNewt n x).regs = s.regs := rfl
@[simp] theorem State.setNewt_hri (n : Nat) (x : Newt) : (s.setNewt n x).hri = s.hri := rfl
@[simp] theorem State.setNewt_store (n : Nat) (x : Newt) : (s.setNewt n x).store = s.store := rfl
@[simp] theorem State.setNewt_radio (n : Nat) (x : Newt) : (s.setNewt n x).radio = s.radio := rfl
@[simp] theorem State.setNewt_mac (n : Nat) (x : Newt) : (s.setNewt n x).mac = s.mac := rfl
@[simp] theorem State.setNewt_jnl (n : Nat) (x : Newt) : (s.setNewt n x).jnl = s.jnl := rfl
@[simp] theorem State.setNewt_keys (n : Nat) (x : Newt) : (s.setNewt n x).keys = s.keys := rfl
@[simp] theorem State.setNewt_gather (n : Nat) (x : Newt) : (s.setNewt n x).gather = s.gather := rfl
@[simp] theorem State.setNewt_roles (n : Nat) (x : Newt) : (s.setNewt n x).roles = s.roles := rfl
@[simp] theorem State.setNewt_pio (n : Nat) (x : Newt) : (s.setNewt n x).pio = s.pio := rfl
@[simp] theorem State.setNewt_lehr (n : Nat) (x : Newt) : (s.setNewt n x).lehr = s.lehr := rfl
@[simp] theorem State.setNewt_power (n : Nat) (x : Newt) : (s.setNewt n x).power = s.power := rfl
@[simp] theorem State.setNewt_flash (n : Nat) (x : Newt) : (s.setNewt n x).flash = s.flash := rfl
@[simp] theorem State.setNewt_svc (n : Nat) (x : Newt) : (s.setNewt n x).svc = s.svc := rfl
@[simp] theorem State.setNewt_link (n : Nat) (x : Newt) : (s.setNewt n x).link = s.link := rfl
@[simp] theorem State.setNewt_health (n : Nat) (x : Newt) : (s.setNewt n x).health = s.health := rfl
@[simp] theorem State.setNewt_cycLatch (n : Nat) (x : Newt) : (s.setNewt n x).cycLatch = s.cycLatch := rfl
@[simp] theorem State.setNewt_answers (n : Nat) (x : Newt) : (s.setNewt n x).answers = s.answers := rfl
@[simp] theorem State.setNewt_free (n : Nat) (x : Newt) : (s.setNewt n x).free = s.free := rfl
@[simp] theorem State.setNewt_pending (n : Nat) (x : Newt) : (s.setNewt n x).pending = s.pending := rfl
@[simp] theorem State.rd_setNewt (b : Nat) (n : Nat) (x : Newt) : (s.setNewt n x).rd b = s.rd b := rfl

/-! ### modNewt -/

@[simp] theorem State.modNewt_regs (n : Nat) (f : Newt → Newt) : (s.modNewt n f).regs = s.regs := rfl
@[simp] theorem State.modNewt_hri (n : Nat) (f : Newt → Newt) : (s.modNewt n f).hri = s.hri := rfl
@[simp] theorem State.modNewt_store (n : Nat) (f : Newt → Newt) : (s.modNewt n f).store = s.store := rfl
@[simp] theorem State.modNewt_radio (n : Nat) (f : Newt → Newt) : (s.modNewt n f).radio = s.radio := rfl
@[simp] theorem State.modNewt_mac (n : Nat) (f : Newt → Newt) : (s.modNewt n f).mac = s.mac := rfl
@[simp] theorem State.modNewt_jnl (n : Nat) (f : Newt → Newt) : (s.modNewt n f).jnl = s.jnl := rfl
@[simp] theorem State.modNewt_keys (n : Nat) (f : Newt → Newt) : (s.modNewt n f).keys = s.keys := rfl
@[simp] theorem State.modNewt_gather (n : Nat) (f : Newt → Newt) : (s.modNewt n f).gather = s.gather := rfl
@[simp] theorem State.modNewt_roles (n : Nat) (f : Newt → Newt) : (s.modNewt n f).roles = s.roles := rfl
@[simp] theorem State.modNewt_pio (n : Nat) (f : Newt → Newt) : (s.modNewt n f).pio = s.pio := rfl
@[simp] theorem State.modNewt_lehr (n : Nat) (f : Newt → Newt) : (s.modNewt n f).lehr = s.lehr := rfl
@[simp] theorem State.modNewt_power (n : Nat) (f : Newt → Newt) : (s.modNewt n f).power = s.power := rfl
@[simp] theorem State.modNewt_flash (n : Nat) (f : Newt → Newt) : (s.modNewt n f).flash = s.flash := rfl
@[simp] theorem State.modNewt_svc (n : Nat) (f : Newt → Newt) : (s.modNewt n f).svc = s.svc := rfl
@[simp] theorem State.modNewt_link (n : Nat) (f : Newt → Newt) : (s.modNewt n f).link = s.link := rfl
@[simp] theorem State.modNewt_health (n : Nat) (f : Newt → Newt) : (s.modNewt n f).health = s.health := rfl
@[simp] theorem State.modNewt_cycLatch (n : Nat) (f : Newt → Newt) : (s.modNewt n f).cycLatch = s.cycLatch := rfl
@[simp] theorem State.modNewt_answers (n : Nat) (f : Newt → Newt) : (s.modNewt n f).answers = s.answers := rfl
@[simp] theorem State.modNewt_free (n : Nat) (f : Newt → Newt) : (s.modNewt n f).free = s.free := rfl
@[simp] theorem State.modNewt_pending (n : Nat) (f : Newt → Newt) : (s.modNewt n f).pending = s.pending := rfl
@[simp] theorem State.rd_modNewt (b : Nat) (n : Nat) (f : Newt → Newt) : (s.modNewt n f).rd b = s.rd b := rfl

/-! ### ready -/

@[simp] theorem State.ready_hri (v : Nat) : (s.ready v).hri = s.hri := rfl
@[simp] theorem State.ready_store (v : Nat) : (s.ready v).store = s.store := rfl
@[simp] theorem State.ready_radio (v : Nat) : (s.ready v).radio = s.radio := rfl
@[simp] theorem State.ready_mac (v : Nat) : (s.ready v).mac = s.mac := rfl
@[simp] theorem State.ready_jnl (v : Nat) : (s.ready v).jnl = s.jnl := rfl
@[simp] theorem State.ready_keys (v : Nat) : (s.ready v).keys = s.keys := rfl
@[simp] theorem State.ready_newts (v : Nat) : (s.ready v).newts = s.newts := rfl
@[simp] theorem State.ready_gather (v : Nat) : (s.ready v).gather = s.gather := rfl
@[simp] theorem State.ready_roles (v : Nat) : (s.ready v).roles = s.roles := rfl
@[simp] theorem State.ready_pio (v : Nat) : (s.ready v).pio = s.pio := rfl
@[simp] theorem State.ready_lehr (v : Nat) : (s.ready v).lehr = s.lehr := rfl
@[simp] theorem State.ready_power (v : Nat) : (s.ready v).power = s.power := rfl
@[simp] theorem State.ready_flash (v : Nat) : (s.ready v).flash = s.flash := rfl
@[simp] theorem State.ready_svc (v : Nat) : (s.ready v).svc = s.svc := rfl
@[simp] theorem State.ready_link (v : Nat) : (s.ready v).link = s.link := rfl
@[simp] theorem State.ready_health (v : Nat) : (s.ready v).health = s.health := rfl
@[simp] theorem State.ready_cycLatch (v : Nat) : (s.ready v).cycLatch = s.cycLatch := rfl
@[simp] theorem State.ready_answers (v : Nat) : (s.ready v).answers = s.answers := rfl
@[simp] theorem State.ready_free (v : Nat) : (s.ready v).free = s.free := rfl
@[simp] theorem State.ready_pending (v : Nat) : (s.ready v).pending = s.pending := rfl

theorem State.rd_congr {u v : State} (a : Nat) (h : v.regs = u.regs) : v.rd a = u.rd a := by
  unfold State.rd; rw [h]

/-! ### What is set -/

@[simp] theorem State.answer_answers (m : Master) (w : Word) : (s.answer m w).answers = s.answers ++ [(m, w)] := rfl
@[simp] theorem State.accessError_errors (m : Master) : (s.accessError m).link.errors = s.link.errors ++ [m] := by
  unfold State.accessError; split <;> rfl
@[simp] theorem State.accessError_held (m : Master) : (s.accessError m).link.held = s.link.held := by
  unfold State.accessError; split <;> rfl
@[simp] theorem State.q_setQ (n k : Nat) (q : Queue) : (s.setQ n q).q k = if k = n then q else s.q k := tget_tset ..
@[simp] theorem State.q_modQ (n k : Nat) (f : Queue → Queue) : (s.modQ n f).q k = if k = n then f (s.q n) else s.q k :=
  tget_tset ..
@[simp] theorem State.newt_setNewt (n k : Nat) (x : Newt) : (s.setNewt n x).newt k = if k = n then x else s.newt k :=
  tget_tset ..
@[simp] theorem State.newt_modNewt (n k : Nat) (f : Newt → Newt) :
    (s.modNewt n f).newt k = if k = n then f (s.newt n) else s.newt k := tget_tset ..
@[simp] theorem State.rd_ready (b v : Nat) :
    (s.ready v).rd b = if b = R.PWR_STAT then putFld 6 3 v (s.rd R.PWR_STAT) else s.rd b := tget_tset ..
@[simp] theorem State.vec_setVec (v k : Nat) (x : Vector') : (s.setVec v x).vec k = if k = v then x else s.vec k :=
  tget_tset ..

end Sys2Proof.Machine
end

