-- ==== Sys2Proof/Laws/After.lean ====
section
/-! SUPPORT. What the shared operations leave alone, part by part and register by register: the operations of
Machine/ that the commands are made of, read off their laws in the Keeps files. -/

namespace Sys2Proof.Machine

/-- The registers that a mask names are those of its set bits. -/
theorem Wr.elim {m : BitVec 160} {a : Nat} {l : List Nat}
    (hl : (List.range 160).filter (fun i => m.getLsbD i) = l) (h : Wr m a) : ∃ i, i ∈ l ∧ regAt i a := by
  obtain ⟨i, hi, e⟩ := h
  refine ⟨i, hl ▸ List.mem_filter.2 ⟨List.mem_range.2 ?_, hi⟩, e⟩
  rcases Nat.lt_or_ge i 160 with h | h
  · exact h
  · rw [BitVec.getLsbD_of_ge _ _ h] at hi
    exact Bool.noConfusion hi

/-! ### State.post -/

theorem State.post_kept (s : State) (code sev source detail : Nat) : Keeps ⟨0x80001, 0x100000⟩ s (State.post code sev source detail s) :=
  State.post_keeps (M := ⟨0x80001, 0x100000⟩) ⟨rfl, rfl⟩ (Keeps.refl _ s)
@[simp] theorem State.post_store (s : State) (code sev source detail : Nat) : (State.post code sev source detail s).store = s.store :=
  (State.post_kept s code sev source detail).store (by decide)
@[simp] theorem State.post_radio (s : State) (code sev source detail : Nat) : (State.post code sev source detail s).radio = s.radio :=
  (State.post_kept s code sev source detail).radio (by decide)
@[simp] theorem State.post_mac (s : State) (code sev source detail : Nat) : (State.post code sev source detail s).mac = s.mac :=
  (State.post_kept s code sev source detail).mac (by decide)
@[simp] theorem State.post_jnl (s : State) (code sev source detail : Nat) : (State.post code sev source detail s).jnl = s.jnl :=
  (State.post_kept s code sev source detail).jnl (by decide)
@[simp] theorem State.post_keys (s : State) (code sev source detail : Nat) : (State.post code sev source detail s).keys = s.keys :=
  (State.post_kept s code sev source detail).keys (by decide)
@[simp] theorem State.post_newts (s : State) (code sev source detail : Nat) : (State.post code sev source detail s).newts = s.newts :=
  (State.post_kept s code sev source detail).newts (by decide)
@[simp] theorem State.post_gather (s : State) (code sev source detail : Nat) : (State.post code sev source detail s).gather = s.gather :=
  (State.post_kept s code sev source detail).gather (by decide)
@[simp] theorem State.post_roles (s : State) (code sev source detail : Nat) : (State.post code sev source detail s).roles = s.roles :=
  (State.post_kept s code sev source detail).roles (by decide)
@[simp] theorem State.post_pio (s : State) (code sev source detail : Nat) : (State.post code sev source detail s).pio = s.pio :=
  (State.post_kept s code sev source detail).pio (by decide)
@[simp] theorem State.post_lehr (s : State) (code sev source detail : Nat) : (State.post code sev source detail s).lehr = s.lehr :=
  (State.post_kept s code sev source detail).lehr (by decide)
@[simp] theorem State.post_power (s : State) (code sev source detail : Nat) : (State.post code sev source detail s).power = s.power :=
  (State.post_kept s code sev source detail).power (by decide)
@[simp] theorem State.post_flash (s : State) (code sev source detail : Nat) : (State.post code sev source detail s).flash = s.flash :=
  (State.post_kept s code sev source detail).flash (by decide)
@[simp] theorem State.post_svc (s : State) (code sev source detail : Nat) : (State.post code sev source detail s).svc = s.svc :=
  (State.post_kept s code sev source detail).svc (by decide)
@[simp] theorem State.post_link (s : State) (code sev source detail : Nat) : (State.post code sev source detail s).link = s.link :=
  (State.post_kept s code sev source detail).link (by decide)
@[simp] theorem State.post_health (s : State) (code sev source detail : Nat) : (State.post code sev source detail s).health = s.health :=
  (State.post_kept s code sev source detail).health (by decide)
@[simp] theorem State.post_cycLatch (s : State) (code sev source detail : Nat) : (State.post code sev source detail s).cycLatch = s.cycLatch :=
  (State.post_kept s code sev source detail).cycLatch (by decide)
@[simp] theorem State.post_answers (s : State) (code sev source detail : Nat) : (State.post code sev source detail s).answers = s.answers :=
  (State.post_kept s code sev source detail).answers (by decide)
@[simp] theorem State.post_free (s : State) (code sev source detail : Nat) : (State.post code sev source detail s).free = s.free :=
  (State.post_kept s code sev source detail).free (by decide)
@[simp] theorem State.post_pending (s : State) (code sev source detail : Nat) : (State.post code sev source detail s).pending = s.pending :=
  (State.post_kept s code sev source detail).pending
theorem State.rd_post (s : State) (code sev source detail : Nat) {y : Nat} (h0 : y ≠ R.HRI_STAT) :
    State.rd (State.post code sev source detail s) y = s.rd y :=
  (State.post_kept s code sev source detail).rd y fun w => by
    rcases w.elim (l := [20]) (by decide) with ⟨i, hi, e⟩
    simp only [List.mem_cons, List.not_mem_nil, or_false] at hi
    rcases hi with rfl <;> dsimp only [regAt] at e
    · exact h0 e
/-! ### State.wake -/

theorem State.wake_kept (s : State) (c : WakeSrc) : Keeps ⟨0x80800, 0x80000000000000000000000000000000000110⟩ s (State.wake c s) :=
  State.wake_keeps (M := ⟨0x80800, 0x80000000000000000000000000000000000110⟩) ⟨rfl, rfl⟩ (Keeps.refl _ s)
@[simp] theorem State.wake_hri (s : State) (c : WakeSrc) : (State.wake c s).hri = s.hri :=
  (State.wake_kept s c).hri (by decide)
@[simp] theorem State.wake_store (s : State) (c : WakeSrc) : (State.wake c s).store = s.store :=
  (State.wake_kept s c).store (by decide)
@[simp] theorem State.wake_radio (s : State) (c : WakeSrc) : (State.wake c s).radio = s.radio :=
  (State.wake_kept s c).radio (by decide)
@[simp] theorem State.wake_mac (s : State) (c : WakeSrc) : (State.wake c s).mac = s.mac :=
  (State.wake_kept s c).mac (by decide)
@[simp] theorem State.wake_jnl (s : State) (c : WakeSrc) : (State.wake c s).jnl = s.jnl :=
  (State.wake_kept s c).jnl (by decide)
@[simp] theorem State.wake_keys (s : State) (c : WakeSrc) : (State.wake c s).keys = s.keys :=
  (State.wake_kept s c).keys (by decide)
@[simp] theorem State.wake_newts (s : State) (c : WakeSrc) : (State.wake c s).newts = s.newts :=
  (State.wake_kept s c).newts (by decide)
@[simp] theorem State.wake_gather (s : State) (c : WakeSrc) : (State.wake c s).gather = s.gather :=
  (State.wake_kept s c).gather (by decide)
@[simp] theorem State.wake_roles (s : State) (c : WakeSrc) : (State.wake c s).roles = s.roles :=
  (State.wake_kept s c).roles (by decide)
@[simp] theorem State.wake_pio (s : State) (c : WakeSrc) : (State.wake c s).pio = s.pio :=
  (State.wake_kept s c).pio (by decide)
@[simp] theorem State.wake_lehr (s : State) (c : WakeSrc) : (State.wake c s).lehr = s.lehr :=
  (State.wake_kept s c).lehr (by decide)
@[simp] theorem State.wake_flash (s : State) (c : WakeSrc) : (State.wake c s).flash = s.flash :=
  (State.wake_kept s c).flash (by decide)
@[simp] theorem State.wake_svc (s : State) (c : WakeSrc) : (State.wake c s).svc = s.svc :=
  (State.wake_kept s c).svc (by decide)
@[simp] theorem State.wake_link (s : State) (c : WakeSrc) : (State.wake c s).link = s.link :=
  (State.wake_kept s c).link (by decide)
@[simp] theorem State.wake_health (s : State) (c : WakeSrc) : (State.wake c s).health = s.health :=
  (State.wake_kept s c).health (by decide)
@[simp] theorem State.wake_cycLatch (s : State) (c : WakeSrc) : (State.wake c s).cycLatch = s.cycLatch :=
  (State.wake_kept s c).cycLatch (by decide)
@[simp] theorem State.wake_answers (s : State) (c : WakeSrc) : (State.wake c s).answers = s.answers :=
  (State.wake_kept s c).answers (by decide)
@[simp] theorem State.wake_free (s : State) (c : WakeSrc) : (State.wake c s).free = s.free :=
  (State.wake_kept s c).free (by decide)
@[simp] theorem State.wake_pending (s : State) (c : WakeSrc) : (State.wake c s).pending = s.pending :=
  (State.wake_kept s c).pending
theorem State.rd_wake (s : State) (c : WakeSrc) {y : Nat} (h0 : y ≠ R.PWR_STAT) (h1 : y ≠ R.PWR_WAKEST) (h2 : y ≠ R.SMB_STAT) :
    State.rd (State.wake c s) y = s.rd y :=
  (State.wake_kept s c).rd y fun w => by
    rcases w.elim (l := [4, 8, 151]) (by decide) with ⟨i, hi, e⟩
    simp only [List.mem_cons, List.not_mem_nil, or_false] at hi
    rcases hi with rfl | rfl | rfl <;> dsimp only [regAt] at e
    · exact h0 e
    · exact h1 e
    · exact h2 e
/-! ### State.raise -/

theorem State.raise_kept (s : State) (p hop : Nat) : Keeps ⟨0x80341, 0x90000000013440c010000000000000100000⟩ s (State.raise p hop s) :=
  State.raise_keeps (M := ⟨0x80341, 0x90000000013440c010000000000000100000⟩) ⟨rfl, rfl⟩ (Keeps.refl _ s)
@[simp] theorem State.raise_store (s : State) (p hop : Nat) : (State.raise p hop s).store = s.store :=
  (State.raise_kept s p hop).store (by decide)
@[simp] theorem State.raise_radio (s : State) (p hop : Nat) : (State.raise p hop s).radio = s.radio :=
  (State.raise_kept s p hop).radio (by decide)
@[simp] theorem State.raise_mac (s : State) (p hop : Nat) : (State.raise p hop s).mac = s.mac :=
  (State.raise_kept s p hop).mac (by decide)
@[simp] theorem State.raise_jnl (s : State) (p hop : Nat) : (State.raise p hop s).jnl = s.jnl :=
  (State.raise_kept s p hop).jnl (by decide)
@[simp] theorem State.raise_keys (s : State) (p hop : Nat) : (State.raise p hop s).keys = s.keys :=
  (State.raise_kept s p hop).keys (by decide)
@[simp] theorem State.raise_gather (s : State) (p hop : Nat) : (State.raise p hop s).gather = s.gather :=
  (State.raise_kept s p hop).gather (by decide)
@[simp] theorem State.raise_lehr (s : State) (p hop : Nat) : (State.raise p hop s).lehr = s.lehr :=
  (State.raise_kept s p hop).lehr (by decide)
@[simp] theorem State.raise_power (s : State) (p hop : Nat) : (State.raise p hop s).power = s.power :=
  (State.raise_kept s p hop).power (by decide)
@[simp] theorem State.raise_flash (s : State) (p hop : Nat) : (State.raise p hop s).flash = s.flash :=
  (State.raise_kept s p hop).flash (by decide)
@[simp] theorem State.raise_svc (s : State) (p hop : Nat) : (State.raise p hop s).svc = s.svc :=
  (State.raise_kept s p hop).svc (by decide)
@[simp] theorem State.raise_link (s : State) (p hop : Nat) : (State.raise p hop s).link = s.link :=
  (State.raise_kept s p hop).link (by decide)
@[simp] theorem State.raise_health (s : State) (p hop : Nat) : (State.raise p hop s).health = s.health :=
  (State.raise_kept s p hop).health (by decide)
@[simp] theorem State.raise_cycLatch (s : State) (p hop : Nat) : (State.raise p hop s).cycLatch = s.cycLatch :=
  (State.raise_kept s p hop).cycLatch (by decide)
@[simp] theorem State.raise_answers (s : State) (p hop : Nat) : (State.raise p hop s).answers = s.answers :=
  (State.raise_kept s p hop).answers (by decide)
@[simp] theorem State.raise_free (s : State) (p hop : Nat) : (State.raise p hop s).free = s.free :=
  (State.raise_kept s p hop).free (by decide)
@[simp] theorem State.raise_pending (s : State) (p hop : Nat) : (State.raise p hop s).pending = s.pending :=
  (State.raise_kept s p hop).pending
theorem State.rd_raise (s : State) (p hop : Nat) {y : Nat} (h0 : y ≠ R.HRI_STAT) (h1 : y ≠ R.PIO_STAT) (h2 : ∀ n, y ≠ R.PIO_PWMCFG n) (h3 : ∀ n, y ≠ R.PIO_PWMDUTY n) (h4 : ∀ n, y ≠ R.PIO_ENCCAP n) (h5 : y ≠ R.EVM_STAT) (h6 : ∀ n, y ≠ R.EVM_TS n) (h7 : ∀ n, y ≠ R.EVM_MERGED n) (h8 : ∀ n, y ≠ R.EVM_CCTL n) (h9 : ∀ n, y ≠ R.PMC_OVF n) (h10 : ∀ n k, y ≠ R.PMC_CNT n k) :
    State.rd (State.raise p hop s) y = s.rd y :=
  (State.raise_kept s p hop).rd y fun w => by
    rcases w.elim (l := [20, 76, 86, 87, 94, 98, 100, 101, 104, 140, 143]) (by decide) with ⟨i, hi, e⟩
    simp only [List.mem_cons, List.not_mem_nil, or_false] at hi
    rcases hi with rfl | rfl | rfl | rfl | rfl | rfl | rfl | rfl | rfl | rfl | rfl <;> dsimp only [regAt] at e
    · exact h0 e
    · exact h1 e
    · obtain ⟨n, e⟩ := e; exact h2 n e
    · obtain ⟨n, e⟩ := e; exact h3 n e
    · obtain ⟨n, e⟩ := e; exact h4 n e
    · exact h5 e
    · obtain ⟨n, e⟩ := e; exact h6 n e
    · obtain ⟨n, e⟩ := e; exact h7 n e
    · obtain ⟨n, e⟩ := e; exact h8 n e
    · obtain ⟨n, e⟩ := e; exact h9 n e
    · obtain ⟨n, k, e⟩ := e; exact h10 n k e
/-! ### State.drained -/

theorem State.drained_kept (s : State) : Keeps ⟨0xdffff, 0xc082b20120d687b747c65cb52794ae0db018f318⟩ s (State.drained s) :=
  State.drained_keeps (M := ⟨0xdffff, 0xc082b20120d687b747c65cb52794ae0db018f318⟩) ⟨rfl, rfl⟩ (Keeps.refl _ s)
@[simp] theorem State.drained_answers (s : State) : (State.drained s).answers = s.answers :=
  (State.drained_kept s).answers (by decide)
@[simp] theorem State.drained_pending (s : State) : (State.drained s).pending = s.pending :=
  (State.drained_kept s).pending
/-! ### State.cflShow -/

theorem State.cflShow_kept (s : State) : Keeps ⟨0x80000, 0x400000000000000000000000000000⟩ s (State.cflShow s) :=
  State.cflShow_keeps (M := ⟨0x80000, 0x400000000000000000000000000000⟩) ⟨rfl, rfl⟩ (Keeps.refl _ s)
@[simp] theorem State.cflShow_hri (s : State) : (State.cflShow s).hri = s.hri :=
  (State.cflShow_kept s).hri (by decide)
@[simp] theorem State.cflShow_store (s : State) : (State.cflShow s).store = s.store :=
  (State.cflShow_kept s).store (by decide)
@[simp] theorem State.cflShow_radio (s : State) : (State.cflShow s).radio = s.radio :=
  (State.cflShow_kept s).radio (by decide)
@[simp] theorem State.cflShow_mac (s : State) : (State.cflShow s).mac = s.mac :=
  (State.cflShow_kept s).mac (by decide)
@[simp] theorem State.cflShow_jnl (s : State) : (State.cflShow s).jnl = s.jnl :=
  (State.cflShow_kept s).jnl (by decide)
@[simp] theorem State.cflShow_keys (s : State) : (State.cflShow s).keys = s.keys :=
  (State.cflShow_kept s).keys (by decide)
@[simp] theorem State.cflShow_newts (s : State) : (State.cflShow s).newts = s.newts :=
  (State.cflShow_kept s).newts (by decide)
@[simp] theorem State.cflShow_gather (s : State) : (State.cflShow s).gather = s.gather :=
  (State.cflShow_kept s).gather (by decide)
@[simp] theorem State.cflShow_roles (s : State) : (State.cflShow s).roles = s.roles :=
  (State.cflShow_kept s).roles (by decide)
@[simp] theorem State.cflShow_pio (s : State) : (State.cflShow s).pio = s.pio :=
  (State.cflShow_kept s).pio (by decide)
@[simp] theorem State.cflShow_lehr (s : State) : (State.cflShow s).lehr = s.lehr :=
  (State.cflShow_kept s).lehr (by decide)
@[simp] theorem State.cflShow_power (s : State) : (State.cflShow s).power = s.power :=
  (State.cflShow_kept s).power (by decide)
@[simp] theorem State.cflShow_flash (s : State) : (State.cflShow s).flash = s.flash :=
  (State.cflShow_kept s).flash (by decide)
@[simp] theorem State.cflShow_svc (s : State) : (State.cflShow s).svc = s.svc :=
  (State.cflShow_kept s).svc (by decide)
@[simp] theorem State.cflShow_link (s : State) : (State.cflShow s).link = s.link :=
  (State.cflShow_kept s).link (by decide)
@[simp] theorem State.cflShow_health (s : State) : (State.cflShow s).health = s.health :=
  (State.cflShow_kept s).health (by decide)
@[simp] theorem State.cflShow_cycLatch (s : State) : (State.cflShow s).cycLatch = s.cycLatch :=
  (State.cflShow_kept s).cycLatch (by decide)
@[simp] theorem State.cflShow_answers (s : State) : (State.cflShow s).answers = s.answers :=
  (State.cflShow_kept s).answers (by decide)
@[simp] theorem State.cflShow_free (s : State) : (State.cflShow s).free = s.free :=
  (State.cflShow_kept s).free (by decide)
@[simp] theorem State.cflShow_pending (s : State) : (State.cflShow s).pending = s.pending :=
  (State.cflShow_kept s).pending
theorem State.rd_cflShow (s : State) {y : Nat} (h0 : y ≠ R.CFL_STAT) :
    State.rd (State.cflShow s) y = s.rd y :=
  (State.cflShow_kept s).rd y fun w => by
    rcases w.elim (l := [118]) (by decide) with ⟨i, hi, e⟩
    simp only [List.mem_cons, List.not_mem_nil, or_false] at hi
    rcases hi with rfl <;> dsimp only [regAt] at e
    · exact h0 e
/-! ### State.flashCut -/

theorem State.flashCut_kept (s : State) : Keeps ⟨0x1000, 0x0⟩ s (State.flashCut s) :=
  State.flashCut_keeps (M := ⟨0x1000, 0x0⟩) ⟨rfl, rfl⟩ (Keeps.refl _ s)
@[simp] theorem State.flashCut_hri (s : State) : (State.flashCut s).hri = s.hri :=
  (State.flashCut_kept s).hri (by decide)
@[simp] theorem State.flashCut_store (s : State) : (State.flashCut s).store = s.store :=
  (State.flashCut_kept s).store (by decide)
@[simp] theorem State.flashCut_radio (s : State) : (State.flashCut s).radio = s.radio :=
  (State.flashCut_kept s).radio (by decide)
@[simp] theorem State.flashCut_mac (s : State) : (State.flashCut s).mac = s.mac :=
  (State.flashCut_kept s).mac (by decide)
@[simp] theorem State.flashCut_jnl (s : State) : (State.flashCut s).jnl = s.jnl :=
  (State.flashCut_kept s).jnl (by decide)
@[simp] theorem State.flashCut_keys (s : State) : (State.flashCut s).keys = s.keys :=
  (State.flashCut_kept s).keys (by decide)
@[simp] theorem State.flashCut_newts (s : State) : (State.flashCut s).newts = s.newts :=
  (State.flashCut_kept s).newts (by decide)
@[simp] theorem State.flashCut_gather (s : State) : (State.flashCut s).gather = s.gather :=
  (State.flashCut_kept s).gather (by decide)
@[simp] theorem State.flashCut_roles (s : State) : (State.flashCut s).roles = s.roles :=
  (State.flashCut_kept s).roles (by decide)
@[simp] theorem State.flashCut_pio (s : State) : (State.flashCut s).pio = s.pio :=
  (State.flashCut_kept s).pio (by decide)
@[simp] theorem State.flashCut_lehr (s : State) : (State.flashCut s).lehr = s.lehr :=
  (State.flashCut_kept s).lehr (by decide)
@[simp] theorem State.flashCut_power (s : State) : (State.flashCut s).power = s.power :=
  (State.flashCut_kept s).power (by decide)
@[simp] theorem State.flashCut_svc (s : State) : (State.flashCut s).svc = s.svc :=
  (State.flashCut_kept s).svc (by decide)
@[simp] theorem State.flashCut_link (s : State) : (State.flashCut s).link = s.link :=
  (State.flashCut_kept s).link (by decide)
@[simp] theorem State.flashCut_health (s : State) : (State.flashCut s).health = s.health :=
  (State.flashCut_kept s).health (by decide)
@[simp] theorem State.flashCut_cycLatch (s : State) : (State.flashCut s).cycLatch = s.cycLatch :=
  (State.flashCut_kept s).cycLatch (by decide)
@[simp] theorem State.flashCut_answers (s : State) : (State.flashCut s).answers = s.answers :=
  (State.flashCut_kept s).answers (by decide)
@[simp] theorem State.flashCut_free (s : State) : (State.flashCut s).free = s.free :=
  (State.flashCut_kept s).free (by decide)
@[simp] theorem State.flashCut_regs (s : State) : (State.flashCut s).regs = s.regs :=
  (State.flashCut_kept s).regs (by decide)
@[simp] theorem State.flashCut_pending (s : State) : (State.flashCut s).pending = s.pending :=
  (State.flashCut_kept s).pending
/-! ### State.markerScan -/

theorem State.markerScan_kept (s : State) : Keeps ⟨0x81000, 0x400000000000000000000000000000⟩ s (State.markerScan s) :=
  State.markerScan_keeps (M := ⟨0x81000, 0x400000000000000000000000000000⟩) ⟨rfl, rfl⟩ (Keeps.refl _ s)
@[simp] theorem State.markerScan_hri (s : State) : (State.markerScan s).hri = s.hri :=
  (State.markerScan_kept s).hri (by decide)
@[simp] theorem State.markerScan_store (s : State) : (State.markerScan s).store = s.store :=
  (State.markerScan_kept s).store (by decide)
@[simp] theorem State.markerScan_radio (s : State) : (State.markerScan s).radio = s.radio :=
  (State.markerScan_kept s).radio (by decide)
@[simp] theorem State.markerScan_mac (s : State) : (State.markerScan s).mac = s.mac :=
  (State.markerScan_kept s).mac (by decide)
@[simp] theorem State.markerScan_jnl (s : State) : (State.markerScan s).jnl = s.jnl :=
  (State.markerScan_kept s).jnl (by decide)
@[simp] theorem State.markerScan_keys (s : State) : (State.markerScan s).keys = s.keys :=
  (State.markerScan_kept s).keys (by decide)
@[simp] theorem State.markerScan_newts (s : State) : (State.markerScan s).newts = s.newts :=
  (State.markerScan_kept s).newts (by decide)
@[simp] theorem State.markerScan_gather (s : State) : (State.markerScan s).gather = s.gather :=
  (State.markerScan_kept s).gather (by decide)
@[simp] theorem State.markerScan_roles (s : State) : (State.markerScan s).roles = s.roles :=
  (State.markerScan_kept s).roles (by decide)
@[simp] theorem State.markerScan_pio (s : State) : (State.markerScan s).pio = s.pio :=
  (State.markerScan_kept s).pio (by decide)
@[simp] theorem State.markerScan_lehr (s : State) : (State.markerScan s).lehr = s.lehr :=
  (State.markerScan_kept s).lehr (by decide)
@[simp] theorem State.markerScan_power (s : State) : (State.markerScan s).power = s.power :=
  (State.markerScan_kept s).power (by decide)
@[simp] theorem State.markerScan_svc (s : State) : (State.markerScan s).svc = s.svc :=
  (State.markerScan_kept s).svc (by decide)
@[simp] theorem State.markerScan_link (s : State) : (State.markerScan s).link = s.link :=
  (State.markerScan_kept s).link (by decide)
@[simp] theorem State.markerScan_health (s : State) : (State.markerScan s).health = s.health :=
  (State.markerScan_kept s).health (by decide)
@[simp] theorem State.markerScan_cycLatch (s : State) : (State.markerScan s).cycLatch = s.cycLatch :=
  (State.markerScan_kept s).cycLatch (by decide)
@[simp] theorem State.markerScan_answers (s : State) : (State.markerScan s).answers = s.answers :=
  (State.markerScan_kept s).answers (by decide)
@[simp] theorem State.markerScan_free (s : State) : (State.markerScan s).free = s.free :=
  (State.markerScan_kept s).free (by decide)
@[simp] theorem State.markerScan_pending (s : State) : (State.markerScan s).pending = s.pending :=
  (State.markerScan_kept s).pending
theorem State.rd_markerScan (s : State) {y : Nat} (h0 : y ≠ R.CFL_STAT) :
    State.rd (State.markerScan s) y = s.rd y :=
  (State.markerScan_kept s).rd y fun w => by
    rcases w.elim (l := [118]) (by decide) with ⟨i, hi, e⟩
    simp only [List.mem_cons, List.not_mem_nil, or_false] at hi
    rcases hi with rfl <;> dsimp only [regAt] at e
    · exact h0 e
/-! ### State.loadImage -/

theorem State.loadImage_kept (s : State) (n src : Nat) : Keeps ⟨0x140, 0x0⟩ s (State.loadImage n src s) :=
  State.loadImage_keeps (M := ⟨0x140, 0x0⟩) ⟨rfl, rfl⟩ (Keeps.refl _ s)
@[simp] theorem State.loadImage_hri (s : State) (n src : Nat) : (State.loadImage n src s).hri = s.hri :=
  (State.loadImage_kept s n src).hri (by decide)
@[simp] theorem State.loadImage_store (s : State) (n src : Nat) : (State.loadImage n src s).store = s.store :=
  (State.loadImage_kept s n src).store (by decide)
@[simp] theorem State.loadImage_radio (s : State) (n src : Nat) : (State.loadImage n src s).radio = s.radio :=
  (State.loadImage_kept s n src).radio (by decide)
@[simp] theorem State.loadImage_mac (s : State) (n src : Nat) : (State.loadImage n src s).mac = s.mac :=
  (State.loadImage_kept s n src).mac (by decide)
@[simp] theorem State.loadImage_jnl (s : State) (n src : Nat) : (State.loadImage n src s).jnl = s.jnl :=
  (State.loadImage_kept s n src).jnl (by decide)
@[simp] theorem State.loadImage_keys (s : State) (n src : Nat) : (State.loadImage n src s).keys = s.keys :=
  (State.loadImage_kept s n src).keys (by decide)
@[simp] theorem State.loadImage_gather (s : State) (n src : Nat) : (State.loadImage n src s).gather = s.gather :=
  (State.loadImage_kept s n src).gather (by decide)
@[simp] theorem State.loadImage_pio (s : State) (n src : Nat) : (State.loadImage n src s).pio = s.pio :=
  (State.loadImage_kept s n src).pio (by decide)
@[simp] theorem State.loadImage_lehr (s : State) (n src : Nat) : (State.loadImage n src s).lehr = s.lehr :=
  (State.loadImage_kept s n src).lehr (by decide)
@[simp] theorem State.loadImage_power (s : State) (n src : Nat) : (State.loadImage n src s).power = s.power :=
  (State.loadImage_kept s n src).power (by decide)
@[simp] theorem State.loadImage_flash (s : State) (n src : Nat) : (State.loadImage n src s).flash = s.flash :=
  (State.loadImage_kept s n src).flash (by decide)
@[simp] theorem State.loadImage_svc (s : State) (n src : Nat) : (State.loadImage n src s).svc = s.svc :=
  (State.loadImage_kept s n src).svc (by decide)
@[simp] theorem State.loadImage_link (s : State) (n src : Nat) : (State.loadImage n src s).link = s.link :=
  (State.loadImage_kept s n src).link (by decide)
@[simp] theorem State.loadImage_health (s : State) (n src : Nat) : (State.loadImage n src s).health = s.health :=
  (State.loadImage_kept s n src).health (by decide)
@[simp] theorem State.loadImage_cycLatch (s : State) (n src : Nat) : (State.loadImage n src s).cycLatch = s.cycLatch :=
  (State.loadImage_kept s n src).cycLatch (by decide)
@[simp] theorem State.loadImage_answers (s : State) (n src : Nat) : (State.loadImage n src s).answers = s.answers :=
  (State.loadImage_kept s n src).answers (by decide)
@[simp] theorem State.loadImage_free (s : State) (n src : Nat) : (State.loadImage n src s).free = s.free :=
  (State.loadImage_kept s n src).free (by decide)
@[simp] theorem State.loadImage_regs (s : State) (n src : Nat) : (State.loadImage n src s).regs = s.regs :=
  (State.loadImage_kept s n src).regs (by decide)
@[simp] theorem State.loadImage_pending (s : State) (n src : Nat) : (State.loadImage n src s).pending = s.pending :=
  (State.loadImage_kept s n src).pending
/-! ### State.jnlCut -/

theorem State.jnlCut_kept (s : State) : Keeps ⟨0x10, 0x0⟩ s (State.jnlCut s) :=
  State.jnlCut_keeps (M := ⟨0x10, 0x0⟩) ⟨rfl, rfl⟩ (Keeps.refl _ s)
@[simp] theorem State.jnlCut_hri (s : State) : (State.jnlCut s).hri = s.hri :=
  (State.jnlCut_kept s).hri (by decide)
@[simp] theorem State.jnlCut_store (s : State) : (State.jnlCut s).store = s.store :=
  (State.jnlCut_kept s).store (by decide)
@[simp] theorem State.jnlCut_radio (s : State) : (State.jnlCut s).radio = s.radio :=
  (State.jnlCut_kept s).radio (by decide)
@[simp] theorem State.jnlCut_mac (s : State) : (State.jnlCut s).mac = s.mac :=
  (State.jnlCut_kept s).mac (by decide)
@[simp] theorem State.jnlCut_keys (s : State) : (State.jnlCut s).keys = s.keys :=
  (State.jnlCut_kept s).keys (by decide)
@[simp] theorem State.jnlCut_newts (s : State) : (State.jnlCut s).newts = s.newts :=
  (State.jnlCut_kept s).newts (by decide)
@[simp] theorem State.jnlCut_gather (s : State) : (State.jnlCut s).gather = s.gather :=
  (State.jnlCut_kept s).gather (by decide)
@[simp] theorem State.jnlCut_roles (s : State) : (State.jnlCut s).roles = s.roles :=
  (State.jnlCut_kept s).roles (by decide)
@[simp] theorem State.jnlCut_pio (s : State) : (State.jnlCut s).pio = s.pio :=
  (State.jnlCut_kept s).pio (by decide)
@[simp] theorem State.jnlCut_lehr (s : State) : (State.jnlCut s).lehr = s.lehr :=
  (State.jnlCut_kept s).lehr (by decide)
@[simp] theorem State.jnlCut_power (s : State) : (State.jnlCut s).power = s.power :=
  (State.jnlCut_kept s).power (by decide)
@[simp] theorem State.jnlCut_flash (s : State) : (State.jnlCut s).flash = s.flash :=
  (State.jnlCut_kept s).flash (by decide)
@[simp] theorem State.jnlCut_svc (s : State) : (State.jnlCut s).svc = s.svc :=
  (State.jnlCut_kept s).svc (by decide)
@[simp] theorem State.jnlCut_link (s : State) : (State.jnlCut s).link = s.link :=
  (State.jnlCut_kept s).link (by decide)
@[simp] theorem State.jnlCut_health (s : State) : (State.jnlCut s).health = s.health :=
  (State.jnlCut_kept s).health (by decide)
@[simp] theorem State.jnlCut_cycLatch (s : State) : (State.jnlCut s).cycLatch = s.cycLatch :=
  (State.jnlCut_kept s).cycLatch (by decide)
@[simp] theorem State.jnlCut_answers (s : State) : (State.jnlCut s).answers = s.answers :=
  (State.jnlCut_kept s).answers (by decide)
@[simp] theorem State.jnlCut_free (s : State) : (State.jnlCut s).free = s.free :=
  (State.jnlCut_kept s).free (by decide)
@[simp] theorem State.jnlCut_regs (s : State) : (State.jnlCut s).regs = s.regs :=
  (State.jnlCut_kept s).regs (by decide)
@[simp] theorem State.jnlCut_pending (s : State) : (State.jnlCut s).pending = s.pending :=
  (State.jnlCut_kept s).pending
/-! ### State.keyShow -/

theorem State.keyShow_kept (s : State) : Keeps ⟨0x80000, 0x140000000000000000⟩ s (State.keyShow s) :=
  State.keyShow_keeps (M := ⟨0x80000, 0x140000000000000000⟩) ⟨rfl, rfl⟩ (Keeps.refl _ s)
@[simp] theorem State.keyShow_hri (s : State) : (State.keyShow s).hri = s.hri :=
  (State.keyShow_kept s).hri (by decide)
@[simp] theorem State.keyShow_store (s : State) : (State.keyShow s).store = s.store :=
  (State.keyShow_kept s).store (by decide)
@[simp] theorem State.keyShow_radio (s : State) : (State.keyShow s).radio = s.radio :=
  (State.keyShow_kept s).radio (by decide)
@[simp] theorem State.keyShow_mac (s : State) : (State.keyShow s).mac = s.mac :=
  (State.keyShow_kept s).mac (by decide)
@[simp] theorem State.keyShow_jnl (s : State) : (State.keyShow s).jnl = s.jnl :=
  (State.keyShow_kept s).jnl (by decide)
@[simp] theorem State.keyShow_keys (s : State) : (State.keyShow s).keys = s.keys :=
  (State.keyShow_kept s).keys (by decide)
@[simp] theorem State.keyShow_newts (s : State) : (State.keyShow s).newts = s.newts :=
  (State.keyShow_kept s).newts (by decide)
@[simp] theorem State.keyShow_gather (s : State) : (State.keyShow s).gather = s.gather :=
  (State.keyShow_kept s).gather (by decide)
@[simp] theorem State.keyShow_roles (s : State) : (State.keyShow s).roles = s.roles :=
  (State.keyShow_kept s).roles (by decide)
@[simp] theorem State.keyShow_pio (s : State) : (State.keyShow s).pio = s.pio :=
  (State.keyShow_kept s).pio (by decide)
@[simp] theorem State.keyShow_lehr (s : State) : (State.keyShow s).lehr = s.lehr :=
  (State.keyShow_kept s).lehr (by decide)
@[simp] theorem State.keyShow_power (s : State) : (State.keyShow s).power = s.power :=
  (State.keyShow_kept s).power (by decide)
@[simp] theorem State.keyShow_flash (s : State) : (State.keyShow s).flash = s.flash :=
  (State.keyShow_kept s).flash (by decide)
@[simp] theorem State.keyShow_svc (s : State) : (State.keyShow s).svc = s.svc :=
  (State.keyShow_kept s).svc (by decide)
@[simp] theorem State.keyShow_link (s : State) : (State.keyShow s).link = s.link :=
  (State.keyShow_kept s).link (by decide)
@[simp] theorem State.keyShow_health (s : State) : (State.keyShow s).health = s.health :=
  (State.keyShow_kept s).health (by decide)
@[simp] theorem State.keyShow_cycLatch (s : State) : (State.keyShow s).cycLatch = s.cycLatch :=
  (State.keyShow_kept s).cycLatch (by decide)
@[simp] theorem State.keyShow_answers (s : State) : (State.keyShow s).answers = s.answers :=
  (State.keyShow_kept s).answers (by decide)
@[simp] theorem State.keyShow_free (s : State) : (State.keyShow s).free = s.free :=
  (State.keyShow_kept s).free (by decide)
@[simp] theorem State.keyShow_pending (s : State) : (State.keyShow s).pending = s.pending :=
  (State.keyShow_kept s).pending
theorem State.rd_keyShow (s : State) {y : Nat} (h0 : y ≠ R.KEY_LCS) (h1 : y ≠ R.KEY_STAT) :
    State.rd (State.keyShow s) y = s.rd y :=
  (State.keyShow_kept s).rd y fun w => by
    rcases w.elim (l := [66, 68]) (by decide) with ⟨i, hi, e⟩
    simp only [List.mem_cons, List.not_mem_nil, or_false] at hi
    rcases hi with rfl | rfl <;> dsimp only [regAt] at e
    · exact h0 e
    · exact h1 e
/-! ### State.keysBoot -/

theorem State.keysBoot_kept (s : State) : Keeps ⟨0xc0020, 0x150000000000000000⟩ s (State.keysBoot s) :=
  State.keysBoot_keeps (M := ⟨0xc0020, 0x150000000000000000⟩) ⟨rfl, rfl⟩ (Keeps.refl _ s)
@[simp] theorem State.keysBoot_hri (s : State) : (State.keysBoot s).hri = s.hri :=
  (State.keysBoot_kept s).hri (by decide)
@[simp] theorem State.keysBoot_store (s : State) : (State.keysBoot s).store = s.store :=
  (State.keysBoot_kept s).store (by decide)
@[simp] theorem State.keysBoot_radio (s : State) : (State.keysBoot s).radio = s.radio :=
  (State.keysBoot_kept s).radio (by decide)
@[simp] theorem State.keysBoot_mac (s : State) : (State.keysBoot s).mac = s.mac :=
  (State.keysBoot_kept s).mac (by decide)
@[simp] theorem State.keysBoot_jnl (s : State) : (State.keysBoot s).jnl = s.jnl :=
  (State.keysBoot_kept s).jnl (by decide)
@[simp] theorem State.keysBoot_newts (s : State) : (State.keysBoot s).newts = s.newts :=
  (State.keysBoot_kept s).newts (by decide)
@[simp] theorem State.keysBoot_gather (s : State) : (State.keysBoot s).gather = s.gather :=
  (State.keysBoot_kept s).gather (by decide)
@[simp] theorem State.keysBoot_roles (s : State) : (State.keysBoot s).roles = s.roles :=
  (State.keysBoot_kept s).roles (by decide)
@[simp] theorem State.keysBoot_pio (s : State) : (State.keysBoot s).pio = s.pio :=
  (State.keysBoot_kept s).pio (by decide)
@[simp] theorem State.keysBoot_lehr (s : State) : (State.keysBoot s).lehr = s.lehr :=
  (State.keysBoot_kept s).lehr (by decide)
@[simp] theorem State.keysBoot_power (s : State) : (State.keysBoot s).power = s.power :=
  (State.keysBoot_kept s).power (by decide)
@[simp] theorem State.keysBoot_flash (s : State) : (State.keysBoot s).flash = s.flash :=
  (State.keysBoot_kept s).flash (by decide)
@[simp] theorem State.keysBoot_svc (s : State) : (State.keysBoot s).svc = s.svc :=
  (State.keysBoot_kept s).svc (by decide)
@[simp] theorem State.keysBoot_link (s : State) : (State.keysBoot s).link = s.link :=
  (State.keysBoot_kept s).link (by decide)
@[simp] theorem State.keysBoot_health (s : State) : (State.keysBoot s).health = s.health :=
  (State.keysBoot_kept s).health (by decide)
@[simp] theorem State.keysBoot_cycLatch (s : State) : (State.keysBoot s).cycLatch = s.cycLatch :=
  (State.keysBoot_kept s).cycLatch (by decide)
@[simp] theorem State.keysBoot_answers (s : State) : (State.keysBoot s).answers = s.answers :=
  (State.keysBoot_kept s).answers (by decide)
@[simp] theorem State.keysBoot_pending (s : State) : (State.keysBoot s).pending = s.pending :=
  (State.keysBoot_kept s).pending
theorem State.rd_keysBoot (s : State) {y : Nat} (h0 : y ≠ R.CIP_STAT) (h1 : y ≠ R.KEY_LCS) (h2 : y ≠ R.KEY_STAT) :
    State.rd (State.keysBoot s) y = s.rd y :=
  (State.keysBoot_kept s).rd y fun w => by
    rcases w.elim (l := [64, 66, 68]) (by decide) with ⟨i, hi, e⟩
    simp only [List.mem_cons, List.not_mem_nil, or_false] at hi
    rcases hi with rfl | rfl | rfl <;> dsimp only [regAt] at e
    · exact h0 e
    · exact h1 e
    · exact h2 e
/-! ### State.keysCut -/

theorem State.keysCut_kept (s : State) : Keeps ⟨0x28, 0x0⟩ s (State.keysCut s) :=
  State.keysCut_keeps (M := ⟨0x28, 0x0⟩) ⟨rfl, rfl⟩ (Keeps.refl _ s)
@[simp] theorem State.keysCut_hri (s : State) : (State.keysCut s).hri = s.hri :=
  (State.keysCut_kept s).hri (by decide)
@[simp] theorem State.keysCut_store (s : State) : (State.keysCut s).store = s.store :=
  (State.keysCut_kept s).store (by decide)
@[simp] theorem State.keysCut_radio (s : State) : (State.keysCut s).radio = s.radio :=
  (State.keysCut_kept s).radio (by decide)
@[simp] theorem State.keysCut_jnl (s : State) : (State.keysCut s).jnl = s.jnl :=
  (State.keysCut_kept s).jnl (by decide)
@[simp] theorem State.keysCut_newts (s : State) : (State.keysCut s).newts = s.newts :=
  (State.keysCut_kept s).newts (by decide)
@[simp] theorem State.keysCut_gather (s : State) : (State.keysCut s).gather = s.gather :=
  (State.keysCut_kept s).gather (by decide)
@[simp] theorem State.keysCut_roles (s : State) : (State.keysCut s).roles = s.roles :=
  (State.keysCut_kept s).roles (by decide)
@[simp] theorem State.keysCut_pio (s : State) : (State.keysCut s).pio = s.pio :=
  (State.keysCut_kept s).pio (by decide)
@[simp] theorem State.keysCut_lehr (s : State) : (State.keysCut s).lehr = s.lehr :=
  (State.keysCut_kept s).lehr (by decide)
@[simp] theorem State.keysCut_power (s : State) : (State.keysCut s).power = s.power :=
  (State.keysCut_kept s).power (by decide)
@[simp] theorem State.keysCut_flash (s : State) : (State.keysCut s).flash = s.flash :=
  (State.keysCut_kept s).flash (by decide)
@[simp] theorem State.keysCut_svc (s : State) : (State.keysCut s).svc = s.svc :=
  (State.keysCut_kept s).svc (by decide)
@[simp] theorem State.keysCut_link (s : State) : (State.keysCut s).link = s.link :=
  (State.keysCut_kept s).link (by decide)
@[simp] theorem State.keysCut_health (s : State) : (State.keysCut s).health = s.health :=
  (State.keysCut_kept s).health (by decide)
@[simp] theorem State.keysCut_cycLatch (s : State) : (State.keysCut s).cycLatch = s.cycLatch :=
  (State.keysCut_kept s).cycLatch (by decide)
@[simp] theorem State.keysCut_answers (s : State) : (State.keysCut s).answers = s.answers :=
  (State.keysCut_kept s).answers (by decide)
@[simp] theorem State.keysCut_free (s : State) : (State.keysCut s).free = s.free :=
  (State.keysCut_kept s).free (by decide)
@[simp] theorem State.keysCut_regs (s : State) : (State.keysCut s).regs = s.regs :=
  (State.keysCut_kept s).regs (by decide)
@[simp] theorem State.keysCut_pending (s : State) : (State.keysCut s).pending = s.pending :=
  (State.keysCut_kept s).pending
/-! ### State.lehrPosts -/

theorem State.lehrPosts_kept (s : State) : Keeps ⟨0x80401, 0x100000⟩ s (State.lehrPosts s) :=
  State.lehrPosts_keeps (M := ⟨0x80401, 0x100000⟩) ⟨rfl, rfl⟩ (Keeps.refl _ s)
@[simp] theorem State.lehrPosts_store (s : State) : (State.lehrPosts s).store = s.store :=
  (State.lehrPosts_kept s).store (by decide)
@[simp] theorem State.lehrPosts_radio (s : State) : (State.lehrPosts s).radio = s.radio :=
  (State.lehrPosts_kept s).radio (by decide)
@[simp] theorem State.lehrPosts_mac (s : State) : (State.lehrPosts s).mac = s.mac :=
  (State.lehrPosts_kept s).mac (by decide)
@[simp] theorem State.lehrPosts_jnl (s : State) : (State.lehrPosts s).jnl = s.jnl :=
  (State.lehrPosts_kept s).jnl (by decide)
@[simp] theorem State.lehrPosts_keys (s : State) : (State.lehrPosts s).keys = s.keys :=
  (State.lehrPosts_kept s).keys (by decide)
@[simp] theorem State.lehrPosts_newts (s : State) : (State.lehrPosts s).newts = s.newts :=
  (State.lehrPosts_kept s).newts (by decide)
@[simp] theorem State.lehrPosts_gather (s : State) : (State.lehrPosts s).gather = s.gather :=
  (State.lehrPosts_kept s).gather (by decide)
@[simp] theorem State.lehrPosts_roles (s : State) : (State.lehrPosts s).roles = s.roles :=
  (State.lehrPosts_kept s).roles (by decide)
@[simp] theorem State.lehrPosts_pio (s : State) : (State.lehrPosts s).pio = s.pio :=
  (State.lehrPosts_kept s).pio (by decide)
@[simp] theorem State.lehrPosts_power (s : State) : (State.lehrPosts s).power = s.power :=
  (State.lehrPosts_kept s).power (by decide)
@[simp] theorem State.lehrPosts_flash (s : State) : (State.lehrPosts s).flash = s.flash :=
  (State.lehrPosts_kept s).flash (by decide)
@[simp] theorem State.lehrPosts_svc (s : State) : (State.lehrPosts s).svc = s.svc :=
  (State.lehrPosts_kept s).svc (by decide)
@[simp] theorem State.lehrPosts_link (s : State) : (State.lehrPosts s).link = s.link :=
  (State.lehrPosts_kept s).link (by decide)
@[simp] theorem State.lehrPosts_health (s : State) : (State.lehrPosts s).health = s.health :=
  (State.lehrPosts_kept s).health (by decide)
@[simp] theorem State.lehrPosts_cycLatch (s : State) : (State.lehrPosts s).cycLatch = s.cycLatch :=
  (State.lehrPosts_kept s).cycLatch (by decide)
@[simp] theorem State.lehrPosts_answers (s : State) : (State.lehrPosts s).answers = s.answers :=
  (State.lehrPosts_kept s).answers (by decide)
@[simp] theorem State.lehrPosts_free (s : State) : (State.lehrPosts s).free = s.free :=
  (State.lehrPosts_kept s).free (by decide)
@[simp] theorem State.lehrPosts_pending (s : State) : (State.lehrPosts s).pending = s.pending :=
  (State.lehrPosts_kept s).pending
theorem State.rd_lehrPosts (s : State) {y : Nat} (h0 : y ≠ R.HRI_STAT) :
    State.rd (State.lehrPosts s) y = s.rd y :=
  (State.lehrPosts_kept s).rd y fun w => by
    rcases w.elim (l := [20]) (by decide) with ⟨i, hi, e⟩
    simp only [List.mem_cons, List.not_mem_nil, or_false] at hi
    rcases hi with rfl <;> dsimp only [regAt] at e
    · exact h0 e
/-! ### State.lehrCut -/

theorem State.lehrCut_kept (s : State) : Keeps ⟨0x80400, 0x400000000000000000000000000⟩ s (State.lehrCut s) :=
  State.lehrCut_keeps (M := ⟨0x80400, 0x400000000000000000000000000⟩) ⟨rfl, rfl⟩ (Keeps.refl _ s)
@[simp] theorem State.lehrCut_hri (s : State) : (State.lehrCut s).hri = s.hri :=
  (State.lehrCut_kept s).hri (by decide)
@[simp] theorem State.lehrCut_store (s : State) : (State.lehrCut s).store = s.store :=
  (State.lehrCut_kept s).store (by decide)
@[simp] theorem State.lehrCut_radio (s : State) : (State.lehrCut s).radio = s.radio :=
  (State.lehrCut_kept s).radio (by decide)
@[simp] theorem State.lehrCut_mac (s : State) : (State.lehrCut s).mac = s.mac :=
  (State.lehrCut_kept s).mac (by decide)
@[simp] theorem State.lehrCut_jnl (s : State) : (State.lehrCut s).jnl = s.jnl :=
  (State.lehrCut_kept s).jnl (by decide)
@[simp] theorem State.lehrCut_keys (s : State) : (State.lehrCut s).keys = s.keys :=
  (State.lehrCut_kept s).keys (by decide)
@[simp] theorem State.lehrCut_newts (s : State) : (State.lehrCut s).newts = s.newts :=
  (State.lehrCut_kept s).newts (by decide)
@[simp] theorem State.lehrCut_gather (s : State) : (State.lehrCut s).gather = s.gather :=
  (State.lehrCut_kept s).gather (by decide)
@[simp] theorem State.lehrCut_roles (s : State) : (State.lehrCut s).roles = s.roles :=
  (State.lehrCut_kept s).roles (by decide)
@[simp] theorem State.lehrCut_pio (s : State) : (State.lehrCut s).pio = s.pio :=
  (State.lehrCut_kept s).pio (by decide)
@[simp] theorem State.lehrCut_power (s : State) : (State.lehrCut s).power = s.power :=
  (State.lehrCut_kept s).power (by decide)
@[simp] theorem State.lehrCut_flash (s : State) : (State.lehrCut s).flash = s.flash :=
  (State.lehrCut_kept s).flash (by decide)
@[simp] theorem State.lehrCut_svc (s : State) : (State.lehrCut s).svc = s.svc :=
  (State.lehrCut_kept s).svc (by decide)
@[simp] theorem State.lehrCut_link (s : State) : (State.lehrCut s).link = s.link :=
  (State.lehrCut_kept s).link (by decide)
@[simp] theorem State.lehrCut_health (s : State) : (State.lehrCut s).health = s.health :=
  (State.lehrCut_kept s).health (by decide)
@[simp] theorem State.lehrCut_cycLatch (s : State) : (State.lehrCut s).cycLatch = s.cycLatch :=
  (State.lehrCut_kept s).cycLatch (by decide)
@[simp] theorem State.lehrCut_answers (s : State) : (State.lehrCut s).answers = s.answers :=
  (State.lehrCut_kept s).answers (by decide)
@[simp] theorem State.lehrCut_free (s : State) : (State.lehrCut s).free = s.free :=
  (State.lehrCut_kept s).free (by decide)
@[simp] theorem State.lehrCut_pending (s : State) : (State.lehrCut s).pending = s.pending :=
  (State.lehrCut_kept s).pending
theorem State.rd_lehrCut (s : State) {y : Nat} (h0 : y ≠ R.LEHR_CTL) :
    State.rd (State.lehrCut s) y = s.rd y :=
  (State.lehrCut_kept s).rd y fun w => by
    rcases w.elim (l := [106]) (by decide) with ⟨i, hi, e⟩
    simp only [List.mem_cons, List.not_mem_nil, or_false] at hi
    rcases hi with rfl <;> dsimp only [regAt] at e
    · exact h0 e
/-! ### State.nodesBack -/

theorem State.nodesBack_kept (s : State) : Keeps ⟨0x8, 0x0⟩ s (State.nodesBack s) :=
  State.nodesBack_keeps (M := ⟨0x8, 0x0⟩) ⟨rfl, rfl⟩ (Keeps.refl _ s)
@[simp] theorem State.nodesBack_hri (s : State) : (State.nodesBack s).hri = s.hri :=
  (State.nodesBack_kept s).hri (by decide)
@[simp] theorem State.nodesBack_store (s : State) : (State.nodesBack s).store = s.store :=
  (State.nodesBack_kept s).store (by decide)
@[simp] theorem State.nodesBack_radio (s : State) : (State.nodesBack s).radio = s.radio :=
  (State.nodesBack_kept s).radio (by decide)
@[simp] theorem State.nodesBack_jnl (s : State) : (State.nodesBack s).jnl = s.jnl :=
  (State.nodesBack_kept s).jnl (by decide)
@[simp] theorem State.nodesBack_keys (s : State) : (State.nodesBack s).keys = s.keys :=
  (State.nodesBack_kept s).keys (by decide)
@[simp] theorem State.nodesBack_newts (s : State) : (State.nodesBack s).newts = s.newts :=
  (State.nodesBack_kept s).newts (by decide)
@[simp] theorem State.nodesBack_gather (s : State) : (State.nodesBack s).gather = s.gather :=
  (State.nodesBack_kept s).gather (by decide)
@[simp] theorem State.nodesBack_roles (s : State) : (State.nodesBack s).roles = s.roles :=
  (State.nodesBack_kept s).roles (by decide)
@[simp] theorem State.nodesBack_pio (s : State) : (State.nodesBack s).pio = s.pio :=
  (State.nodesBack_kept s).pio (by decide)
@[simp] theorem State.nodesBack_lehr (s : State) : (State.nodesBack s).lehr = s.lehr :=
  (State.nodesBack_kept s).lehr (by decide)
@[simp] theorem State.nodesBack_power (s : State) : (State.nodesBack s).power = s.power :=
  (State.nodesBack_kept s).power (by decide)
@[simp] theorem State.nodesBack_flash (s : State) : (State.nodesBack s).flash = s.flash :=
  (State.nodesBack_kept s).flash (by decide)
@[simp] theorem State.nodesBack_svc (s : State) : (State.nodesBack s).svc = s.svc :=
  (State.nodesBack_kept s).svc (by decide)
@[simp] theorem State.nodesBack_link (s : State) : (State.nodesBack s).link = s.link :=
  (State.nodesBack_kept s).link (by decide)
@[simp] theorem State.nodesBack_health (s : State) : (State.nodesBack s).health = s.health :=
  (State.nodesBack_kept s).health (by decide)
@[simp] theorem State.nodesBack_cycLatch (s : State) : (State.nodesBack s).cycLatch = s.cycLatch :=
  (State.nodesBack_kept s).cycLatch (by decide)
@[simp] theorem State.nodesBack_answers (s : State) : (State.nodesBack s).answers = s.answers :=
  (State.nodesBack_kept s).answers (by decide)
@[simp] theorem State.nodesBack_free (s : State) : (State.nodesBack s).free = s.free :=
  (State.nodesBack_kept s).free (by decide)
@[simp] theorem State.nodesBack_regs (s : State) : (State.nodesBack s).regs = s.regs :=
  (State.nodesBack_kept s).regs (by decide)
@[simp] theorem State.nodesBack_pending (s : State) : (State.nodesBack s).pending = s.pending :=
  (State.nodesBack_kept s).pending
/-! ### State.sampleClear -/

theorem State.sampleClear_kept (s : State) (n : Nat) : Keeps ⟨0x80040, 0x200000000000000000000000000000000000⟩ s (State.sampleClear n s) :=
  State.sampleClear_keeps (M := ⟨0x80040, 0x200000000000000000000000000000000000⟩) ⟨rfl, rfl⟩ (Keeps.refl _ s)
@[simp] theorem State.sampleClear_hri (s : State) (n : Nat) : (State.sampleClear n s).hri = s.hri :=
  (State.sampleClear_kept s n).hri (by decide)
@[simp] theorem State.sampleClear_store (s : State) (n : Nat) : (State.sampleClear n s).store = s.store :=
  (State.sampleClear_kept s n).store (by decide)
@[simp] theorem State.sampleClear_radio (s : State) (n : Nat) : (State.sampleClear n s).radio = s.radio :=
  (State.sampleClear_kept s n).radio (by decide)
@[simp] theorem State.sampleClear_mac (s : State) (n : Nat) : (State.sampleClear n s).mac = s.mac :=
  (State.sampleClear_kept s n).mac (by decide)
@[simp] theorem State.sampleClear_jnl (s : State) (n : Nat) : (State.sampleClear n s).jnl = s.jnl :=
  (State.sampleClear_kept s n).jnl (by decide)
@[simp] theorem State.sampleClear_keys (s : State) (n : Nat) : (State.sampleClear n s).keys = s.keys :=
  (State.sampleClear_kept s n).keys (by decide)
@[simp] theorem State.sampleClear_gather (s : State) (n : Nat) : (State.sampleClear n s).gather = s.gather :=
  (State.sampleClear_kept s n).gather (by decide)
@[simp] theorem State.sampleClear_roles (s : State) (n : Nat) : (State.sampleClear n s).roles = s.roles :=
  (State.sampleClear_kept s n).roles (by decide)
@[simp] theorem State.sampleClear_pio (s : State) (n : Nat) : (State.sampleClear n s).pio = s.pio :=
  (State.sampleClear_kept s n).pio (by decide)
@[simp] theorem State.sampleClear_lehr (s : State) (n : Nat) : (State.sampleClear n s).lehr = s.lehr :=
  (State.sampleClear_kept s n).lehr (by decide)
@[simp] theorem State.sampleClear_power (s : State) (n : Nat) : (State.sampleClear n s).power = s.power :=
  (State.sampleClear_kept s n).power (by decide)
@[simp] theorem State.sampleClear_flash (s : State) (n : Nat) : (State.sampleClear n s).flash = s.flash :=
  (State.sampleClear_kept s n).flash (by decide)
@[simp] theorem State.sampleClear_svc (s : State) (n : Nat) : (State.sampleClear n s).svc = s.svc :=
  (State.sampleClear_kept s n).svc (by decide)
@[simp] theorem State.sampleClear_link (s : State) (n : Nat) : (State.sampleClear n s).link = s.link :=
  (State.sampleClear_kept s n).link (by decide)
@[simp] theorem State.sampleClear_health (s : State) (n : Nat) : (State.sampleClear n s).health = s.health :=
  (State.sampleClear_kept s n).health (by decide)
@[simp] theorem State.sampleClear_cycLatch (s : State) (n : Nat) : (State.sampleClear n s).cycLatch = s.cycLatch :=
  (State.sampleClear_kept s n).cycLatch (by decide)
@[simp] theorem State.sampleClear_answers (s : State) (n : Nat) : (State.sampleClear n s).answers = s.answers :=
  (State.sampleClear_kept s n).answers (by decide)
@[simp] theorem State.sampleClear_free (s : State) (n : Nat) : (State.sampleClear n s).free = s.free :=
  (State.sampleClear_kept s n).free (by decide)
@[simp] theorem State.sampleClear_pending (s : State) (n : Nat) : (State.sampleClear n s).pending = s.pending :=
  (State.sampleClear_kept s n).pending
theorem State.rd_sampleClear (s : State) (n : Nat) {y : Nat} (h0 : ∀ n, y ≠ R.PMC_SCTL n) :
    State.rd (State.sampleClear n s) y = s.rd y :=
  (State.sampleClear_kept s n).rd y fun w => by
    rcases w.elim (l := [141]) (by decide) with ⟨i, hi, e⟩
    simp only [List.mem_cons, List.not_mem_nil, or_false] at hi
    rcases hi with rfl <;> dsimp only [regAt] at e
    · obtain ⟨n, e⟩ := e; exact h0 n e
/-! ### State.spAfterHush -/

theorem State.spAfterHush_kept (s : State) : Keeps ⟨0x80341, 0x90000000013744c010000000000000100000⟩ s (State.spAfterHush s) :=
  State.spAfterHush_keeps (M := ⟨0x80341, 0x90000000013744c010000000000000100000⟩) ⟨rfl, rfl⟩ (Keeps.refl _ s)
@[simp] theorem State.spAfterHush_store (s : State) : (State.spAfterHush s).store = s.store :=
  (State.spAfterHush_kept s).store (by decide)
@[simp] theorem State.spAfterHush_radio (s : State) : (State.spAfterHush s).radio = s.radio :=
  (State.spAfterHush_kept s).radio (by decide)
@[simp] theorem State.spAfterHush_mac (s : State) : (State.spAfterHush s).mac = s.mac :=
  (State.spAfterHush_kept s).mac (by decide)
@[simp] theorem State.spAfterHush_jnl (s : State) : (State.spAfterHush s).jnl = s.jnl :=
  (State.spAfterHush_kept s).jnl (by decide)
@[simp] theorem State.spAfterHush_keys (s : State) : (State.spAfterHush s).keys = s.keys :=
  (State.spAfterHush_kept s).keys (by decide)
@[simp] theorem State.spAfterHush_gather (s : State) : (State.spAfterHush s).gather = s.gather :=
  (State.spAfterHush_kept s).gather (by decide)
@[simp] theorem State.spAfterHush_lehr (s : State) : (State.spAfterHush s).lehr = s.lehr :=
  (State.spAfterHush_kept s).lehr (by decide)
@[simp] theorem State.spAfterHush_power (s : State) : (State.spAfterHush s).power = s.power :=
  (State.spAfterHush_kept s).power (by decide)
@[simp] theorem State.spAfterHush_flash (s : State) : (State.spAfterHush s).flash = s.flash :=
  (State.spAfterHush_kept s).flash (by decide)
@[simp] theorem State.spAfterHush_svc (s : State) : (State.spAfterHush s).svc = s.svc :=
  (State.spAfterHush_kept s).svc (by decide)
@[simp] theorem State.spAfterHush_link (s : State) : (State.spAfterHush s).link = s.link :=
  (State.spAfterHush_kept s).link (by decide)
@[simp] theorem State.spAfterHush_health (s : State) : (State.spAfterHush s).health = s.health :=
  (State.spAfterHush_kept s).health (by decide)
@[simp] theorem State.spAfterHush_cycLatch (s : State) : (State.spAfterHush s).cycLatch = s.cycLatch :=
  (State.spAfterHush_kept s).cycLatch (by decide)
@[simp] theorem State.spAfterHush_answers (s : State) : (State.spAfterHush s).answers = s.answers :=
  (State.spAfterHush_kept s).answers (by decide)
@[simp] theorem State.spAfterHush_free (s : State) : (State.spAfterHush s).free = s.free :=
  (State.spAfterHush_kept s).free (by decide)
@[simp] theorem State.spAfterHush_pending (s : State) : (State.spAfterHush s).pending = s.pending :=
  (State.spAfterHush_kept s).pending
theorem State.rd_spAfterHush (s : State) {y : Nat} (h0 : y ≠ R.HRI_STAT) (h1 : y ≠ R.PIO_STAT) (h2 : ∀ n, y ≠ R.PIO_PWMCFG n) (h3 : ∀ n, y ≠ R.PIO_PWMDUTY n) (h4 : y ≠ R.PIO_GPIOOUT) (h5 : ∀ n, y ≠ R.PIO_ENCCAP n) (h6 : ∀ n, y ≠ R.PIO_SP n) (h7 : y ≠ R.PIO_SPNEW) (h8 : y ≠ R.EVM_STAT) (h9 : ∀ n, y ≠ R.EVM_TS n) (h10 : ∀ n, y ≠ R.EVM_MERGED n) (h11 : ∀ n, y ≠ R.EVM_CCTL n) (h12 : ∀ n, y ≠ R.PMC_OVF n) (h13 : ∀ n k, y ≠ R.PMC_CNT n k) :
    State.rd (State.spAfterHush s) y = s.rd y :=
  (State.spAfterHush_kept s).rd y fun w => by
    rcases w.elim (l := [20, 76, 86, 87, 90, 94, 96, 97, 98, 100, 101, 104, 140, 143]) (by decide) with ⟨i, hi, e⟩
    simp only [List.mem_cons, List.not_mem_nil, or_false] at hi
    rcases hi with rfl | rfl | rfl | rfl | rfl | rfl | rfl | rfl | rfl | rfl | rfl | rfl | rfl | rfl <;> dsimp only [regAt] at e
    · exact h0 e
    · exact h1 e
    · obtain ⟨n, e⟩ := e; exact h2 n e
    · obtain ⟨n, e⟩ := e; exact h3 n e
    · exact h4 e
    · obtain ⟨n, e⟩ := e; exact h5 n e
    · obtain ⟨n, e⟩ := e; exact h6 n e
    · exact h7 e
    · exact h8 e
    · obtain ⟨n, e⟩ := e; exact h9 n e
    · obtain ⟨n, e⟩ := e; exact h10 n e
    · obtain ⟨n, e⟩ := e; exact h11 n e
    · obtain ⟨n, e⟩ := e; exact h12 n e
    · obtain ⟨n, k, e⟩ := e; exact h13 n k e
/-! ### State.showFixed -/

theorem State.showFixed_kept (s : State) : Keeps ⟨0x80000, 0x82000000400000000000140000000010008000⟩ s (State.showFixed s) :=
  State.showFixed_keeps (M := ⟨0x80000, 0x82000000400000000000140000000010008000⟩) ⟨rfl, rfl⟩ (Keeps.refl _ s)
@[simp] theorem State.showFixed_hri (s : State) : (State.showFixed s).hri = s.hri :=
  (State.showFixed_kept s).hri (by decide)
@[simp] theorem State.showFixed_store (s : State) : (State.showFixed s).store = s.store :=
  (State.showFixed_kept s).store (by decide)
@[simp] theorem State.showFixed_radio (s : State) : (State.showFixed s).radio = s.radio :=
  (State.showFixed_kept s).radio (by decide)
@[simp] theorem State.showFixed_mac (s : State) : (State.showFixed s).mac = s.mac :=
  (State.showFixed_kept s).mac (by decide)
@[simp] theorem State.showFixed_jnl (s : State) : (State.showFixed s).jnl = s.jnl :=
  (State.showFixed_kept s).jnl (by decide)
@[simp] theorem State.showFixed_keys (s : State) : (State.showFixed s).keys = s.keys :=
  (State.showFixed_kept s).keys (by decide)
@[simp] theorem State.showFixed_newts (s : State) : (State.showFixed s).newts = s.newts :=
  (State.showFixed_kept s).newts (by decide)
@[simp] theorem State.showFixed_gather (s : State) : (State.showFixed s).gather = s.gather :=
  (State.showFixed_kept s).gather (by decide)
@[simp] theorem State.showFixed_roles (s : State) : (State.showFixed s).roles = s.roles :=
  (State.showFixed_kept s).roles (by decide)
@[simp] theorem State.showFixed_pio (s : State) : (State.showFixed s).pio = s.pio :=
  (State.showFixed_kept s).pio (by decide)
@[simp] theorem State.showFixed_lehr (s : State) : (State.showFixed s).lehr = s.lehr :=
  (State.showFixed_kept s).lehr (by decide)
@[simp] theorem State.showFixed_power (s : State) : (State.showFixed s).power = s.power :=
  (State.showFixed_kept s).power (by decide)
@[simp] theorem State.showFixed_flash (s : State) : (State.showFixed s).flash = s.flash :=
  (State.showFixed_kept s).flash (by decide)
@[simp] theorem State.showFixed_svc (s : State) : (State.showFixed s).svc = s.svc :=
  (State.showFixed_kept s).svc (by decide)
@[simp] theorem State.showFixed_link (s : State) : (State.showFixed s).link = s.link :=
  (State.showFixed_kept s).link (by decide)
@[simp] theorem State.showFixed_health (s : State) : (State.showFixed s).health = s.health :=
  (State.showFixed_kept s).health (by decide)
@[simp] theorem State.showFixed_cycLatch (s : State) : (State.showFixed s).cycLatch = s.cycLatch :=
  (State.showFixed_kept s).cycLatch (by decide)
@[simp] theorem State.showFixed_answers (s : State) : (State.showFixed s).answers = s.answers :=
  (State.showFixed_kept s).answers (by decide)
@[simp] theorem State.showFixed_free (s : State) : (State.showFixed s).free = s.free :=
  (State.showFixed_kept s).free (by decide)
@[simp] theorem State.showFixed_pending (s : State) : (State.showFixed s).pending = s.pending :=
  (State.showFixed_kept s).pending
theorem State.rd_showFixed (s : State) {y : Nat} (h0 : y ≠ R.RST_STAT) (h1 : y ≠ R.STO_STAT) (h2 : y ≠ R.KEY_LCS) (h3 : y ≠ R.KEY_STAT) (h4 : y ≠ R.CFL_STAT) (h5 : y ≠ R.HLT_STAT) (h6 : y ≠ R.SMB_STAT) :
    State.rd (State.showFixed s) y = s.rd y :=
  (State.showFixed_kept s).rd y fun w => by
    rcases w.elim (l := [15, 28, 66, 68, 118, 145, 151]) (by decide) with ⟨i, hi, e⟩
    simp only [List.mem_cons, List.not_mem_nil, or_false] at hi
    rcases hi with rfl | rfl | rfl | rfl | rfl | rfl | rfl <;> dsimp only [regAt] at e
    · exact h0 e
    · exact h1 e
    · exact h2 e
    · exact h3 e
    · exact h4 e
    · exact h5 e
    · exact h6 e
/-! ### State.leaveReset -/

theorem State.leaveReset_kept (s : State) : Keeps ⟨0x80800, 0x10⟩ s (State.leaveReset s) :=
  State.leaveReset_keeps (M := ⟨0x80800, 0x10⟩) ⟨rfl, rfl⟩ (Keeps.refl _ s)
@[simp] theorem State.leaveReset_hri (s : State) : (State.leaveReset s).hri = s.hri :=
  (State.leaveReset_kept s).hri (by decide)
@[simp] theorem State.leaveReset_store (s : State) : (State.leaveReset s).store = s.store :=
  (State.leaveReset_kept s).store (by decide)
@[simp] theorem State.leaveReset_radio (s : State) : (State.leaveReset s).radio = s.radio :=
  (State.leaveReset_kept s).radio (by decide)
@[simp] theorem State.leaveReset_mac (s : State) : (State.leaveReset s).mac = s.mac :=
  (State.leaveReset_kept s).mac (by decide)
@[simp] theorem State.leaveReset_jnl (s : State) : (State.leaveReset s).jnl = s.jnl :=
  (State.leaveReset_kept s).jnl (by decide)
@[simp] theorem State.leaveReset_keys (s : State) : (State.leaveReset s).keys = s.keys :=
  (State.leaveReset_kept s).keys (by decide)
@[simp] theorem State.leaveReset_newts (s : State) : (State.leaveReset s).newts = s.newts :=
  (State.leaveReset_kept s).newts (by decide)
@[simp] theorem State.leaveReset_gather (s : State) : (State.leaveReset s).gather = s.gather :=
  (State.leaveReset_kept s).gather (by decide)
@[simp] theorem State.leaveReset_roles (s : State) : (State.leaveReset s).roles = s.roles :=
  (State.leaveReset_kept s).roles (by decide)
@[simp] theorem State.leaveReset_pio (s : State) : (State.leaveReset s).pio = s.pio :=
  (State.leaveReset_kept s).pio (by decide)
@[simp] theorem State.leaveReset_lehr (s : State) : (State.leaveReset s).lehr = s.lehr :=
  (State.leaveReset_kept s).lehr (by decide)
@[simp] theorem State.leaveReset_flash (s : State) : (State.leaveReset s).flash = s.flash :=
  (State.leaveReset_kept s).flash (by decide)
@[simp] theorem State.leaveReset_svc (s : State) : (State.leaveReset s).svc = s.svc :=
  (State.leaveReset_kept s).svc (by decide)
@[simp] theorem State.leaveReset_link (s : State) : (State.leaveReset s).link = s.link :=
  (State.leaveReset_kept s).link (by decide)
@[simp] theorem State.leaveReset_health (s : State) : (State.leaveReset s).health = s.health :=
  (State.leaveReset_kept s).health (by decide)
@[simp] theorem State.leaveReset_cycLatch (s : State) : (State.leaveReset s).cycLatch = s.cycLatch :=
  (State.leaveReset_kept s).cycLatch (by decide)
@[simp] theorem State.leaveReset_answers (s : State) : (State.leaveReset s).answers = s.answers :=
  (State.leaveReset_kept s).answers (by decide)
@[simp] theorem State.leaveReset_free (s : State) : (State.leaveReset s).free = s.free :=
  (State.leaveReset_kept s).free (by decide)
@[simp] theorem State.leaveReset_pending (s : State) : (State.leaveReset s).pending = s.pending :=
  (State.leaveReset_kept s).pending
theorem State.rd_leaveReset (s : State) {y : Nat} (h0 : y ≠ R.PWR_STAT) :
    State.rd (State.leaveReset s) y = s.rd y :=
  (State.leaveReset_kept s).rd y fun w => by
    rcases w.elim (l := [4]) (by decide) with ⟨i, hi, e⟩
    simp only [List.mem_cons, List.not_mem_nil, or_false] at hi
    rcases hi with rfl <;> dsimp only [regAt] at e
    · exact h0 e
/-! ### State.powerOnReset -/

theorem State.powerOnReset_kept (s : State) : Keeps ⟨0x9ffff, 0x8082000000400400000000140000000010008000⟩ s (State.powerOnReset s) :=
  State.powerOnReset_keeps (M := ⟨0x9ffff, 0x8082000000400400000000140000000010008000⟩) ⟨rfl, rfl⟩ (Keeps.refl _ s)
@[simp] theorem State.powerOnReset_answers (s : State) : (State.powerOnReset s).answers = s.answers :=
  (State.powerOnReset_kept s).answers (by decide)
@[simp] theorem State.powerOnReset_free (s : State) : (State.powerOnReset s).free = s.free :=
  (State.powerOnReset_kept s).free (by decide)
@[simp] theorem State.powerOnReset_pending (s : State) : (State.powerOnReset s).pending = s.pending :=
  (State.powerOnReset_kept s).pending
/-! ### State.cdcLoss -/

theorem State.cdcLoss_kept (s : State) (doms : List Nat) : Keeps ⟨0xc0000, 0x1000⟩ s (State.cdcLoss doms s) :=
  State.cdcLoss_keeps (M := ⟨0xc0000, 0x1000⟩) ⟨rfl, rfl⟩ (Keeps.refl _ s)
@[simp] theorem State.cdcLoss_hri (s : State) (doms : List Nat) : (State.cdcLoss doms s).hri = s.hri :=
  (State.cdcLoss_kept s doms).hri (by decide)
@[simp] theorem State.cdcLoss_store (s : State) (doms : List Nat) : (State.cdcLoss doms s).store = s.store :=
  (State.cdcLoss_kept s doms).store (by decide)
@[simp] theorem State.cdcLoss_radio (s : State) (doms : List Nat) : (State.cdcLoss doms s).radio = s.radio :=
  (State.cdcLoss_kept s doms).radio (by decide)
@[simp] theorem State.cdcLoss_mac (s : State) (doms : List Nat) : (State.cdcLoss doms s).mac = s.mac :=
  (State.cdcLoss_kept s doms).mac (by decide)
@[simp] theorem State.cdcLoss_jnl (s : State) (doms : List Nat) : (State.cdcLoss doms s).jnl = s.jnl :=
  (State.cdcLoss_kept s doms).jnl (by decide)
@[simp] theorem State.cdcLoss_keys (s : State) (doms : List Nat) : (State.cdcLoss doms s).keys = s.keys :=
  (State.cdcLoss_kept s doms).keys (by decide)
@[simp] theorem State.cdcLoss_newts (s : State) (doms : List Nat) : (State.cdcLoss doms s).newts = s.newts :=
  (State.cdcLoss_kept s doms).newts (by decide)
@[simp] theorem State.cdcLoss_gather (s : State) (doms : List Nat) : (State.cdcLoss doms s).gather = s.gather :=
  (State.cdcLoss_kept s doms).gather (by decide)
@[simp] theorem State.cdcLoss_roles (s : State) (doms : List Nat) : (State.cdcLoss doms s).roles = s.roles :=
  (State.cdcLoss_kept s doms).roles (by decide)
@[simp] theorem State.cdcLoss_pio (s : State) (doms : List Nat) : (State.cdcLoss doms s).pio = s.pio :=
  (State.cdcLoss_kept s doms).pio (by decide)
@[simp] theorem State.cdcLoss_lehr (s : State) (doms : List Nat) : (State.cdcLoss doms s).lehr = s.lehr :=
  (State.cdcLoss_kept s doms).lehr (by decide)
@[simp] theorem State.cdcLoss_power (s : State) (doms : List Nat) : (State.cdcLoss doms s).power = s.power :=
  (State.cdcLoss_kept s doms).power (by decide)
@[simp] theorem State.cdcLoss_flash (s : State) (doms : List Nat) : (State.cdcLoss doms s).flash = s.flash :=
  (State.cdcLoss_kept s doms).flash (by decide)
@[simp] theorem State.cdcLoss_svc (s : State) (doms : List Nat) : (State.cdcLoss doms s).svc = s.svc :=
  (State.cdcLoss_kept s doms).svc (by decide)
@[simp] theorem State.cdcLoss_link (s : State) (doms : List Nat) : (State.cdcLoss doms s).link = s.link :=
  (State.cdcLoss_kept s doms).link (by decide)
@[simp] theorem State.cdcLoss_health (s : State) (doms : List Nat) : (State.cdcLoss doms s).health = s.health :=
  (State.cdcLoss_kept s doms).health (by decide)
@[simp] theorem State.cdcLoss_cycLatch (s : State) (doms : List Nat) : (State.cdcLoss doms s).cycLatch = s.cycLatch :=
  (State.cdcLoss_kept s doms).cycLatch (by decide)
@[simp] theorem State.cdcLoss_answers (s : State) (doms : List Nat) : (State.cdcLoss doms s).answers = s.answers :=
  (State.cdcLoss_kept s doms).answers (by decide)
@[simp] theorem State.cdcLoss_pending (s : State) (doms : List Nat) : (State.cdcLoss doms s).pending = s.pending :=
  (State.cdcLoss_kept s doms).pending
theorem State.rd_cdcLoss (s : State) (doms : List Nat) {y : Nat} (h0 : y ≠ R.CLK_CDCLOST) :
    State.rd (State.cdcLoss doms s) y = s.rd y :=
  (State.cdcLoss_kept s doms).rd y fun w => by
    rcases w.elim (l := [12]) (by decide) with ⟨i, hi, e⟩
    simp only [List.mem_cons, List.not_mem_nil, or_false] at hi
    rcases hi with rfl <;> dsimp only [regAt] at e
    · exact h0 e
/-! ### State.park -/

theorem State.park_kept (s : State) (n why : Nat) : Keeps ⟨0x80001, 0xc000000000000108000⟩ s (State.park n why s) :=
  State.park_keeps (M := ⟨0x80001, 0xc000000000000108000⟩) ⟨rfl, rfl⟩ (Keeps.refl _ s)
@[simp] theorem State.park_store (s : State) (n why : Nat) : (State.park n why s).store = s.store :=
  (State.park_kept s n why).store (by decide)
@[simp] theorem State.park_radio (s : State) (n why : Nat) : (State.park n why s).radio = s.radio :=
  (State.park_kept s n why).radio (by decide)
@[simp] theorem State.park_mac (s : State) (n why : Nat) : (State.park n why s).mac = s.mac :=
  (State.park_kept s n why).mac (by decide)
@[simp] theorem State.park_jnl (s : State) (n why : Nat) : (State.park n why s).jnl = s.jnl :=
  (State.park_kept s n why).jnl (by decide)
@[simp] theorem State.park_keys (s : State) (n why : Nat) : (State.park n why s).keys = s.keys :=
  (State.park_kept s n why).keys (by decide)
@[simp] theorem State.park_newts (s : State) (n why : Nat) : (State.park n why s).newts = s.newts :=
  (State.park_kept s n why).newts (by decide)
@[simp] theorem State.park_gather (s : State) (n why : Nat) : (State.park n why s).gather = s.gather :=
  (State.park_kept s n why).gather (by decide)
@[simp] theorem State.park_roles (s : State) (n why : Nat) : (State.park n why s).roles = s.roles :=
  (State.park_kept s n why).roles (by decide)
@[simp] theorem State.park_pio (s : State) (n why : Nat) : (State.park n why s).pio = s.pio :=
  (State.park_kept s n why).pio (by decide)
@[simp] theorem State.park_lehr (s : State) (n why : Nat) : (State.park n why s).lehr = s.lehr :=
  (State.park_kept s n why).lehr (by decide)
@[simp] theorem State.park_power (s : State) (n why : Nat) : (State.park n why s).power = s.power :=
  (State.park_kept s n why).power (by decide)
@[simp] theorem State.park_flash (s : State) (n why : Nat) : (State.park n why s).flash = s.flash :=
  (State.park_kept s n why).flash (by decide)
@[simp] theorem State.park_svc (s : State) (n why : Nat) : (State.park n why s).svc = s.svc :=
  (State.park_kept s n why).svc (by decide)
@[simp] theorem State.park_link (s : State) (n why : Nat) : (State.park n why s).link = s.link :=
  (State.park_kept s n why).link (by decide)
@[simp] theorem State.park_health (s : State) (n why : Nat) : (State.park n why s).health = s.health :=
  (State.park_kept s n why).health (by decide)
@[simp] theorem State.park_cycLatch (s : State) (n why : Nat) : (State.park n why s).cycLatch = s.cycLatch :=
  (State.park_kept s n why).cycLatch (by decide)
@[simp] theorem State.park_answers (s : State) (n why : Nat) : (State.park n why s).answers = s.answers :=
  (State.park_kept s n why).answers (by decide)
@[simp] theorem State.park_free (s : State) (n why : Nat) : (State.park n why s).free = s.free :=
  (State.park_kept s n why).free (by decide)
@[simp] theorem State.park_pending (s : State) (n why : Nat) : (State.park n why s).pending = s.pending :=
  (State.park_kept s n why).pending
theorem State.rd_park (s : State) (n why : Nat) {y : Nat} (h0 : y ≠ R.RST_STAT) (h1 : y ≠ R.HRI_STAT) (h2 : ∀ n, y ≠ R.NWT_CST n) (h3 : ∀ n, y ≠ R.NWT_FPC n) :
    State.rd (State.park n why s) y = s.rd y :=
  (State.park_kept s n why).rd y fun w => by
    rcases w.elim (l := [15, 20, 74, 75]) (by decide) with ⟨i, hi, e⟩
    simp only [List.mem_cons, List.not_mem_nil, or_false] at hi
    rcases hi with rfl | rfl | rfl | rfl <;> dsimp only [regAt] at e
    · exact h0 e
    · exact h1 e
    · obtain ⟨n, e⟩ := e; exact h2 n e
    · obtain ⟨n, e⟩ := e; exact h3 n e
/-! ### State.tlrunUpdate -/

theorem State.tlrunUpdate_kept (s : State) : Keeps ⟨0x88800, 0x40000000000000000000000000000000000000⟩ s (State.tlrunUpdate s) :=
  State.tlrunUpdate_keeps (M := ⟨0x88800, 0x40000000000000000000000000000000000000⟩) ⟨rfl, rfl⟩ (Keeps.refl _ s)
@[simp] theorem State.tlrunUpdate_hri (s : State) : (State.tlrunUpdate s).hri = s.hri :=
  (State.tlrunUpdate_kept s).hri (by decide)
@[simp] theorem State.tlrunUpdate_store (s : State) : (State.tlrunUpdate s).store = s.store :=
  (State.tlrunUpdate_kept s).store (by decide)
@[simp] theorem State.tlrunUpdate_radio (s : State) : (State.tlrunUpdate s).radio = s.radio :=
  (State.tlrunUpdate_kept s).radio (by decide)
@[simp] theorem State.tlrunUpdate_mac (s : State) : (State.tlrunUpdate s).mac = s.mac :=
  (State.tlrunUpdate_kept s).mac (by decide)
@[simp] theorem State.tlrunUpdate_jnl (s : State) : (State.tlrunUpdate s).jnl = s.jnl :=
  (State.tlrunUpdate_kept s).jnl (by decide)
@[simp] theorem State.tlrunUpdate_keys (s : State) : (State.tlrunUpdate s).keys = s.keys :=
  (State.tlrunUpdate_kept s).keys (by decide)
@[simp] theorem State.tlrunUpdate_newts (s : State) : (State.tlrunUpdate s).newts = s.newts :=
  (State.tlrunUpdate_kept s).newts (by decide)
@[simp] theorem State.tlrunUpdate_gather (s : State) : (State.tlrunUpdate s).gather = s.gather :=
  (State.tlrunUpdate_kept s).gather (by decide)
@[simp] theorem State.tlrunUpdate_roles (s : State) : (State.tlrunUpdate s).roles = s.roles :=
  (State.tlrunUpdate_kept s).roles (by decide)
@[simp] theorem State.tlrunUpdate_pio (s : State) : (State.tlrunUpdate s).pio = s.pio :=
  (State.tlrunUpdate_kept s).pio (by decide)
@[simp] theorem State.tlrunUpdate_lehr (s : State) : (State.tlrunUpdate s).lehr = s.lehr :=
  (State.tlrunUpdate_kept s).lehr (by decide)
@[simp] theorem State.tlrunUpdate_flash (s : State) : (State.tlrunUpdate s).flash = s.flash :=
  (State.tlrunUpdate_kept s).flash (by decide)
@[simp] theorem State.tlrunUpdate_svc (s : State) : (State.tlrunUpdate s).svc = s.svc :=
  (State.tlrunUpdate_kept s).svc (by decide)
@[simp] theorem State.tlrunUpdate_link (s : State) : (State.tlrunUpdate s).link = s.link :=
  (State.tlrunUpdate_kept s).link (by decide)
@[simp] theorem State.tlrunUpdate_cycLatch (s : State) : (State.tlrunUpdate s).cycLatch = s.cycLatch :=
  (State.tlrunUpdate_kept s).cycLatch (by decide)
@[simp] theorem State.tlrunUpdate_answers (s : State) : (State.tlrunUpdate s).answers = s.answers :=
  (State.tlrunUpdate_kept s).answers (by decide)
@[simp] theorem State.tlrunUpdate_free (s : State) : (State.tlrunUpdate s).free = s.free :=
  (State.tlrunUpdate_kept s).free (by decide)
@[simp] theorem State.tlrunUpdate_pending (s : State) : (State.tlrunUpdate s).pending = s.pending :=
  (State.tlrunUpdate_kept s).pending
theorem State.rd_tlrunUpdate (s : State) {y : Nat} (h0 : y ≠ R.HLT_CNT) :
    State.rd (State.tlrunUpdate s) y = s.rd y :=
  (State.tlrunUpdate_kept s).rd y fun w => by
    rcases w.elim (l := [150]) (by decide) with ⟨i, hi, e⟩
    simp only [List.mem_cons, List.not_mem_nil, or_false] at hi
    rcases hi with rfl <;> dsimp only [regAt] at e
    · exact h0 e
/-! ### State.gateNewt -/

theorem State.gateNewt_kept (s : State) (n : Nat) : Keeps ⟨0x80040, 0x200000000000000000000000000000000000⟩ s (State.gateNewt s n) :=
  State.gateNewt_keeps (M := ⟨0x80040, 0x200000000000000000000000000000000000⟩) ⟨rfl, rfl⟩ (Keeps.refl _ s)
@[simp] theorem State.gateNewt_hri (s : State) (n : Nat) : (State.gateNewt s n).hri = s.hri :=
  (State.gateNewt_kept s n).hri (by decide)
@[simp] theorem State.gateNewt_store (s : State) (n : Nat) : (State.gateNewt s n).store = s.store :=
  (State.gateNewt_kept s n).store (by decide)
@[simp] theorem State.gateNewt_radio (s : State) (n : Nat) : (State.gateNewt s n).radio = s.radio :=
  (State.gateNewt_kept s n).radio (by decide)
@[simp] theorem State.gateNewt_mac (s : State) (n : Nat) : (State.gateNewt s n).mac = s.mac :=
  (State.gateNewt_kept s n).mac (by decide)
@[simp] theorem State.gateNewt_jnl (s : State) (n : Nat) : (State.gateNewt s n).jnl = s.jnl :=
  (State.gateNewt_kept s n).jnl (by decide)
@[simp] theorem State.gateNewt_keys (s : State) (n : Nat) : (State.gateNewt s n).keys = s.keys :=
  (State.gateNewt_kept s n).keys (by decide)
@[simp] theorem State.gateNewt_gather (s : State) (n : Nat) : (State.gateNewt s n).gather = s.gather :=
  (State.gateNewt_kept s n).gather (by decide)
@[simp] theorem State.gateNewt_roles (s : State) (n : Nat) : (State.gateNewt s n).roles = s.roles :=
  (State.gateNewt_kept s n).roles (by decide)
@[simp] theorem State.gateNewt_pio (s : State) (n : Nat) : (State.gateNewt s n).pio = s.pio :=
  (State.gateNewt_kept s n).pio (by decide)
@[simp] theorem State.gateNewt_lehr (s : State) (n : Nat) : (State.gateNewt s n).lehr = s.lehr :=
  (State.gateNewt_kept s n).lehr (by decide)
@[simp] theorem State.gateNewt_power (s : State) (n : Nat) : (State.gateNewt s n).power = s.power :=
  (State.gateNewt_kept s n).power (by decide)
@[simp] theorem State.gateNewt_flash (s : State) (n : Nat) : (State.gateNewt s n).flash = s.flash :=
  (State.gateNewt_kept s n).flash (by decide)
@[simp] theorem State.gateNewt_svc (s : State) (n : Nat) : (State.gateNewt s n).svc = s.svc :=
  (State.gateNewt_kept s n).svc (by decide)
@[simp] theorem State.gateNewt_link (s : State) (n : Nat) : (State.gateNewt s n).link = s.link :=
  (State.gateNewt_kept s n).link (by decide)
@[simp] theorem State.gateNewt_health (s : State) (n : Nat) : (State.gateNewt s n).health = s.health :=
  (State.gateNewt_kept s n).health (by decide)
@[simp] theorem State.gateNewt_cycLatch (s : State) (n : Nat) : (State.gateNewt s n).cycLatch = s.cycLatch :=
  (State.gateNewt_kept s n).cycLatch (by decide)
@[simp] theorem State.gateNewt_answers (s : State) (n : Nat) : (State.gateNewt s n).answers = s.answers :=
  (State.gateNewt_kept s n).answers (by decide)
@[simp] theorem State.gateNewt_free (s : State) (n : Nat) : (State.gateNewt s n).free = s.free :=
  (State.gateNewt_kept s n).free (by decide)
@[simp] theorem State.gateNewt_pending (s : State) (n : Nat) : (State.gateNewt s n).pending = s.pending :=
  (State.gateNewt_kept s n).pending
theorem State.rd_gateNewt (s : State) (n : Nat) {y : Nat} (h0 : ∀ n, y ≠ R.PMC_SCTL n) :
    State.rd (State.gateNewt s n) y = s.rd y :=
  (State.gateNewt_kept s n).rd y fun w => by
    rcases w.elim (l := [141]) (by decide) with ⟨i, hi, e⟩
    simp only [List.mem_cons, List.not_mem_nil, or_false] at hi
    rcases hi with rfl <;> dsimp only [regAt] at e
    · obtain ⟨n, e⟩ := e; exact h0 n e
/-! ### State.macAfterHush -/

theorem State.macAfterHush_kept (s : State) : Keeps ⟨0xc080d, 0x8000000000000000000000000416840000100000⟩ s (State.macAfterHush s) :=
  State.macAfterHush_keeps (M := ⟨0xc080d, 0x8000000000000000000000000416840000100000⟩) ⟨rfl, rfl⟩ (Keeps.refl _ s)
@[simp] theorem State.macAfterHush_store (s : State) : (State.macAfterHush s).store = s.store :=
  (State.macAfterHush_kept s).store (by decide)
@[simp] theorem State.macAfterHush_jnl (s : State) : (State.macAfterHush s).jnl = s.jnl :=
  (State.macAfterHush_kept s).jnl (by decide)
@[simp] theorem State.macAfterHush_keys (s : State) : (State.macAfterHush s).keys = s.keys :=
  (State.macAfterHush_kept s).keys (by decide)
@[simp] theorem State.macAfterHush_newts (s : State) : (State.macAfterHush s).newts = s.newts :=
  (State.macAfterHush_kept s).newts (by decide)
@[simp] theorem State.macAfterHush_gather (s : State) : (State.macAfterHush s).gather = s.gather :=
  (State.macAfterHush_kept s).gather (by decide)
@[simp] theorem State.macAfterHush_roles (s : State) : (State.macAfterHush s).roles = s.roles :=
  (State.macAfterHush_kept s).roles (by decide)
@[simp] theorem State.macAfterHush_pio (s : State) : (State.macAfterHush s).pio = s.pio :=
  (State.macAfterHush_kept s).pio (by decide)
@[simp] theorem State.macAfterHush_lehr (s : State) : (State.macAfterHush s).lehr = s.lehr :=
  (State.macAfterHush_kept s).lehr (by decide)
@[simp] theorem State.macAfterHush_flash (s : State) : (State.macAfterHush s).flash = s.flash :=
  (State.macAfterHush_kept s).flash (by decide)
@[simp] theorem State.macAfterHush_svc (s : State) : (State.macAfterHush s).svc = s.svc :=
  (State.macAfterHush_kept s).svc (by decide)
@[simp] theorem State.macAfterHush_link (s : State) : (State.macAfterHush s).link = s.link :=
  (State.macAfterHush_kept s).link (by decide)
@[simp] theorem State.macAfterHush_health (s : State) : (State.macAfterHush s).health = s.health :=
  (State.macAfterHush_kept s).health (by decide)
@[simp] theorem State.macAfterHush_cycLatch (s : State) : (State.macAfterHush s).cycLatch = s.cycLatch :=
  (State.macAfterHush_kept s).cycLatch (by decide)
@[simp] theorem State.macAfterHush_answers (s : State) : (State.macAfterHush s).answers = s.answers :=
  (State.macAfterHush_kept s).answers (by decide)
@[simp] theorem State.macAfterHush_pending (s : State) : (State.macAfterHush s).pending = s.pending :=
  (State.macAfterHush_kept s).pending
/-! ### State.radioAfterHush -/

theorem State.radioAfterHush_kept (s : State) : Keeps ⟨0x80004, 0x8000000000000000000000000100040000000000⟩ s (State.radioAfterHush s) :=
  State.radioAfterHush_keeps (M := ⟨0x80004, 0x8000000000000000000000000100040000000000⟩) ⟨rfl, rfl⟩ (Keeps.refl _ s)
@[simp] theorem State.radioAfterHush_hri (s : State) : (State.radioAfterHush s).hri = s.hri :=
  (State.radioAfterHush_kept s).hri (by decide)
@[simp] theorem State.radioAfterHush_store (s : State) : (State.radioAfterHush s).store = s.store :=
  (State.radioAfterHush_kept s).store (by decide)
@[simp] theorem State.radioAfterHush_mac (s : State) : (State.radioAfterHush s).mac = s.mac :=
  (State.radioAfterHush_kept s).mac (by decide)
@[simp] theorem State.radioAfterHush_jnl (s : State) : (State.radioAfterHush s).jnl = s.jnl :=
  (State.radioAfterHush_kept s).jnl (by decide)
@[simp] theorem State.radioAfterHush_keys (s : State) : (State.radioAfterHush s).keys = s.keys :=
  (State.radioAfterHush_kept s).keys (by decide)
@[simp] theorem State.radioAfterHush_newts (s : State) : (State.radioAfterHush s).newts = s.newts :=
  (State.radioAfterHush_kept s).newts (by decide)
@[simp] theorem State.radioAfterHush_gather (s : State) : (State.radioAfterHush s).gather = s.gather :=
  (State.radioAfterHush_kept s).gather (by decide)
@[simp] theorem State.radioAfterHush_roles (s : State) : (State.radioAfterHush s).roles = s.roles :=
  (State.radioAfterHush_kept s).roles (by decide)
@[simp] theorem State.radioAfterHush_pio (s : State) : (State.radioAfterHush s).pio = s.pio :=
  (State.radioAfterHush_kept s).pio (by decide)
@[simp] theorem State.radioAfterHush_lehr (s : State) : (State.radioAfterHush s).lehr = s.lehr :=
  (State.radioAfterHush_kept s).lehr (by decide)
@[simp] theorem State.radioAfterHush_power (s : State) : (State.radioAfterHush s).power = s.power :=
  (State.radioAfterHush_kept s).power (by decide)
@[simp] theorem State.radioAfterHush_flash (s : State) : (State.radioAfterHush s).flash = s.flash :=
  (State.radioAfterHush_kept s).flash (by decide)
@[simp] theorem State.radioAfterHush_svc (s : State) : (State.radioAfterHush s).svc = s.svc :=
  (State.radioAfterHush_kept s).svc (by decide)
@[simp] theorem State.radioAfterHush_link (s : State) : (State.radioAfterHush s).link = s.link :=
  (State.radioAfterHush_kept s).link (by decide)
@[simp] theorem State.radioAfterHush_health (s : State) : (State.radioAfterHush s).health = s.health :=
  (State.radioAfterHush_kept s).health (by decide)
@[simp] theorem State.radioAfterHush_cycLatch (s : State) : (State.radioAfterHush s).cycLatch = s.cycLatch :=
  (State.radioAfterHush_kept s).cycLatch (by decide)
@[simp] theorem State.radioAfterHush_answers (s : State) : (State.radioAfterHush s).answers = s.answers :=
  (State.radioAfterHush_kept s).answers (by decide)
@[simp] theorem State.radioAfterHush_free (s : State) : (State.radioAfterHush s).free = s.free :=
  (State.radioAfterHush_kept s).free (by decide)
@[simp] theorem State.radioAfterHush_pending (s : State) : (State.radioAfterHush s).pending = s.pending :=
  (State.radioAfterHush_kept s).pending
/-! ### State.startNewt -/

theorem State.startNewt_kept (s : State) (n entry g0 g1 g2 : Nat) : Keeps ⟨0x80040, 0xc000000000000000010⟩ s (State.startNewt n entry g0 g1 g2 s) :=
  State.startNewt_keeps (M := ⟨0x80040, 0xc000000000000000010⟩) ⟨rfl, rfl⟩ (Keeps.refl _ s)
@[simp] theorem State.startNewt_hri (s : State) (n entry g0 g1 g2 : Nat) : (State.startNewt n entry g0 g1 g2 s).hri = s.hri :=
  (State.startNewt_kept s n entry g0 g1 g2).hri (by decide)
@[simp] theorem State.startNewt_store (s : State) (n entry g0 g1 g2 : Nat) : (State.startNewt n entry g0 g1 g2 s).store = s.store :=
  (State.startNewt_kept s n entry g0 g1 g2).store (by decide)
@[simp] theorem State.startNewt_radio (s : State) (n entry g0 g1 g2 : Nat) : (State.startNewt n entry g0 g1 g2 s).radio = s.radio :=
  (State.startNewt_kept s n entry g0 g1 g2).radio (by decide)
@[simp] theorem State.startNewt_mac (s : State) (n entry g0 g1 g2 : Nat) : (State.startNewt n entry g0 g1 g2 s).mac = s.mac :=
  (State.startNewt_kept s n entry g0 g1 g2).mac (by decide)
@[simp] theorem State.startNewt_jnl (s : State) (n entry g0 g1 g2 : Nat) : (State.startNewt n entry g0 g1 g2 s).jnl = s.jnl :=
  (State.startNewt_kept s n entry g0 g1 g2).jnl (by decide)
@[simp] theorem State.startNewt_keys (s : State) (n entry g0 g1 g2 : Nat) : (State.startNewt n entry g0 g1 g2 s).keys = s.keys :=
  (State.startNewt_kept s n entry g0 g1 g2).keys (by decide)
@[simp] theorem State.startNewt_gather (s : State) (n entry g0 g1 g2 : Nat) : (State.startNewt n entry g0 g1 g2 s).gather = s.gather :=
  (State.startNewt_kept s n entry g0 g1 g2).gather (by decide)
@[simp] theorem State.startNewt_roles (s : State) (n entry g0 g1 g2 : Nat) : (State.startNewt n entry g0 g1 g2 s).roles = s.roles :=
  (State.startNewt_kept s n entry g0 g1 g2).roles (by decide)
@[simp] theorem State.startNewt_pio (s : State) (n entry g0 g1 g2 : Nat) : (State.startNewt n entry g0 g1 g2 s).pio = s.pio :=
  (State.startNewt_kept s n entry g0 g1 g2).pio (by decide)
@[simp] theorem State.startNewt_lehr (s : State) (n entry g0 g1 g2 : Nat) : (State.startNewt n entry g0 g1 g2 s).lehr = s.lehr :=
  (State.startNewt_kept s n entry g0 g1 g2).lehr (by decide)
@[simp] theorem State.startNewt_power (s : State) (n entry g0 g1 g2 : Nat) : (State.startNewt n entry g0 g1 g2 s).power = s.power :=
  (State.startNewt_kept s n entry g0 g1 g2).power (by decide)
@[simp] theorem State.startNewt_flash (s : State) (n entry g0 g1 g2 : Nat) : (State.startNewt n entry g0 g1 g2 s).flash = s.flash :=
  (State.startNewt_kept s n entry g0 g1 g2).flash (by decide)
@[simp] theorem State.startNewt_svc (s : State) (n entry g0 g1 g2 : Nat) : (State.startNewt n entry g0 g1 g2 s).svc = s.svc :=
  (State.startNewt_kept s n entry g0 g1 g2).svc (by decide)
@[simp] theorem State.startNewt_link (s : State) (n entry g0 g1 g2 : Nat) : (State.startNewt n entry g0 g1 g2 s).link = s.link :=
  (State.startNewt_kept s n entry g0 g1 g2).link (by decide)
@[simp] theorem State.startNewt_health (s : State) (n entry g0 g1 g2 : Nat) : (State.startNewt n entry g0 g1 g2 s).health = s.health :=
  (State.startNewt_kept s n entry g0 g1 g2).health (by decide)
@[simp] theorem State.startNewt_cycLatch (s : State) (n entry g0 g1 g2 : Nat) : (State.startNewt n entry g0 g1 g2 s).cycLatch = s.cycLatch :=
  (State.startNewt_kept s n entry g0 g1 g2).cycLatch (by decide)
@[simp] theorem State.startNewt_answers (s : State) (n entry g0 g1 g2 : Nat) : (State.startNewt n entry g0 g1 g2 s).answers = s.answers :=
  (State.startNewt_kept s n entry g0 g1 g2).answers (by decide)
@[simp] theorem State.startNewt_free (s : State) (n entry g0 g1 g2 : Nat) : (State.startNewt n entry g0 g1 g2 s).free = s.free :=
  (State.startNewt_kept s n entry g0 g1 g2).free (by decide)
@[simp] theorem State.startNewt_pending (s : State) (n entry g0 g1 g2 : Nat) : (State.startNewt n entry g0 g1 g2 s).pending = s.pending :=
  (State.startNewt_kept s n entry g0 g1 g2).pending
theorem State.rd_startNewt (s : State) (n entry g0 g1 g2 : Nat) {y : Nat} (h0 : y ≠ R.PWR_STAT) (h1 : ∀ n, y ≠ R.NWT_CST n) (h2 : ∀ n, y ≠ R.NWT_FPC n) :
    State.rd (State.startNewt n entry g0 g1 g2 s) y = s.rd y :=
  (State.startNewt_kept s n entry g0 g1 g2).rd y fun w => by
    rcases w.elim (l := [4, 74, 75]) (by decide) with ⟨i, hi, e⟩
    simp only [List.mem_cons, List.not_mem_nil, or_false] at hi
    rcases hi with rfl | rfl | rfl <;> dsimp only [regAt] at e
    · exact h0 e
    · obtain ⟨n, e⟩ := e; exact h1 n e
    · obtain ⟨n, e⟩ := e; exact h2 n e
/-! ### State.spares -/

theorem State.spares_kept (s : State) : Keeps ⟨0x80101, 0x100000⟩ s (State.spares s) :=
  State.spares_keeps (M := ⟨0x80101, 0x100000⟩) ⟨rfl, rfl⟩ (Keeps.refl _ s)
@[simp] theorem State.spares_store (s : State) : (State.spares s).store = s.store :=
  (State.spares_kept s).store (by decide)
@[simp] theorem State.spares_radio (s : State) : (State.spares s).radio = s.radio :=
  (State.spares_kept s).radio (by decide)
@[simp] theorem State.spares_mac (s : State) : (State.spares s).mac = s.mac :=
  (State.spares_kept s).mac (by decide)
@[simp] theorem State.spares_jnl (s : State) : (State.spares s).jnl = s.jnl :=
  (State.spares_kept s).jnl (by decide)
@[simp] theorem State.spares_keys (s : State) : (State.spares s).keys = s.keys :=
  (State.spares_kept s).keys (by decide)
@[simp] theorem State.spares_newts (s : State) : (State.spares s).newts = s.newts :=
  (State.spares_kept s).newts (by decide)
@[simp] theorem State.spares_gather (s : State) : (State.spares s).gather = s.gather :=
  (State.spares_kept s).gather (by decide)
@[simp] theorem State.spares_pio (s : State) : (State.spares s).pio = s.pio :=
  (State.spares_kept s).pio (by decide)
@[simp] theorem State.spares_lehr (s : State) : (State.spares s).lehr = s.lehr :=
  (State.spares_kept s).lehr (by decide)
@[simp] theorem State.spares_power (s : State) : (State.spares s).power = s.power :=
  (State.spares_kept s).power (by decide)
@[simp] theorem State.spares_flash (s : State) : (State.spares s).flash = s.flash :=
  (State.spares_kept s).flash (by decide)
@[simp] theorem State.spares_svc (s : State) : (State.spares s).svc = s.svc :=
  (State.spares_kept s).svc (by decide)
@[simp] theorem State.spares_link (s : State) : (State.spares s).link = s.link :=
  (State.spares_kept s).link (by decide)
@[simp] theorem State.spares_health (s : State) : (State.spares s).health = s.health :=
  (State.spares_kept s).health (by decide)
@[simp] theorem State.spares_cycLatch (s : State) : (State.spares s).cycLatch = s.cycLatch :=
  (State.spares_kept s).cycLatch (by decide)
@[simp] theorem State.spares_answers (s : State) : (State.spares s).answers = s.answers :=
  (State.spares_kept s).answers (by decide)
@[simp] theorem State.spares_free (s : State) : (State.spares s).free = s.free :=
  (State.spares_kept s).free (by decide)
@[simp] theorem State.spares_pending (s : State) : (State.spares s).pending = s.pending :=
  (State.spares_kept s).pending
theorem State.rd_spares (s : State) {y : Nat} (h0 : y ≠ R.HRI_STAT) :
    State.rd (State.spares s) y = s.rd y :=
  (State.spares_kept s).rd y fun w => by
    rcases w.elim (l := [20]) (by decide) with ⟨i, hi, e⟩
    simp only [List.mem_cons, List.not_mem_nil, or_false] at hi
    rcases hi with rfl <;> dsimp only [regAt] at e
    · exact h0 e
/-! ### State.setHeld -/

theorem State.setHeld_kept (s : State) (r holder : Nat) : Keeps ⟨0x80000, 0x200000000000000000⟩ s (State.setHeld r holder s) :=
  State.setHeld_keeps (M := ⟨0x80000, 0x200000000000000000⟩) ⟨rfl, rfl⟩ (Keeps.refl _ s)
@[simp] theorem State.setHeld_hri (s : State) (r holder : Nat) : (State.setHeld r holder s).hri = s.hri :=
  (State.setHeld_kept s r holder).hri (by decide)
@[simp] theorem State.setHeld_store (s : State) (r holder : Nat) : (State.setHeld r holder s).store = s.store :=
  (State.setHeld_kept s r holder).store (by decide)
@[simp] theorem State.setHeld_radio (s : State) (r holder : Nat) : (State.setHeld r holder s).radio = s.radio :=
  (State.setHeld_kept s r holder).radio (by decide)
@[simp] theorem State.setHeld_mac (s : State) (r holder : Nat) : (State.setHeld r holder s).mac = s.mac :=
  (State.setHeld_kept s r holder).mac (by decide)
@[simp] theorem State.setHeld_jnl (s : State) (r holder : Nat) : (State.setHeld r holder s).jnl = s.jnl :=
  (State.setHeld_kept s r holder).jnl (by decide)
@[simp] theorem State.setHeld_keys (s : State) (r holder : Nat) : (State.setHeld r holder s).keys = s.keys :=
  (State.setHeld_kept s r holder).keys (by decide)
@[simp] theorem State.setHeld_newts (s : State) (r holder : Nat) : (State.setHeld r holder s).newts = s.newts :=
  (State.setHeld_kept s r holder).newts (by decide)
@[simp] theorem State.setHeld_gather (s : State) (r holder : Nat) : (State.setHeld r holder s).gather = s.gather :=
  (State.setHeld_kept s r holder).gather (by decide)
@[simp] theorem State.setHeld_roles (s : State) (r holder : Nat) : (State.setHeld r holder s).roles = s.roles :=
  (State.setHeld_kept s r holder).roles (by decide)
@[simp] theorem State.setHeld_pio (s : State) (r holder : Nat) : (State.setHeld r holder s).pio = s.pio :=
  (State.setHeld_kept s r holder).pio (by decide)
@[simp] theorem State.setHeld_lehr (s : State) (r holder : Nat) : (State.setHeld r holder s).lehr = s.lehr :=
  (State.setHeld_kept s r holder).lehr (by decide)
@[simp] theorem State.setHeld_power (s : State) (r holder : Nat) : (State.setHeld r holder s).power = s.power :=
  (State.setHeld_kept s r holder).power (by decide)
@[simp] theorem State.setHeld_flash (s : State) (r holder : Nat) : (State.setHeld r holder s).flash = s.flash :=
  (State.setHeld_kept s r holder).flash (by decide)
@[simp] theorem State.setHeld_svc (s : State) (r holder : Nat) : (State.setHeld r holder s).svc = s.svc :=
  (State.setHeld_kept s r holder).svc (by decide)
@[simp] theorem State.setHeld_link (s : State) (r holder : Nat) : (State.setHeld r holder s).link = s.link :=
  (State.setHeld_kept s r holder).link (by decide)
@[simp] theorem State.setHeld_health (s : State) (r holder : Nat) : (State.setHeld r holder s).health = s.health :=
  (State.setHeld_kept s r holder).health (by decide)
@[simp] theorem State.setHeld_cycLatch (s : State) (r holder : Nat) : (State.setHeld r holder s).cycLatch = s.cycLatch :=
  (State.setHeld_kept s r holder).cycLatch (by decide)
@[simp] theorem State.setHeld_answers (s : State) (r holder : Nat) : (State.setHeld r holder s).answers = s.answers :=
  (State.setHeld_kept s r holder).answers (by decide)
@[simp] theorem State.setHeld_free (s : State) (r holder : Nat) : (State.setHeld r holder s).free = s.free :=
  (State.setHeld_kept s r holder).free (by decide)
@[simp] theorem State.setHeld_pending (s : State) (r holder : Nat) : (State.setHeld r holder s).pending = s.pending :=
  (State.setHeld_kept s r holder).pending
theorem State.rd_setHeld (s : State) (r holder : Nat) {y : Nat} (h0 : ∀ n, y ≠ R.NWT_ROLE n) :
    State.rd (State.setHeld r holder s) y = s.rd y :=
  (State.setHeld_kept s r holder).rd y fun w => by
    rcases w.elim (l := [69]) (by decide) with ⟨i, hi, e⟩
    simp only [List.mem_cons, List.not_mem_nil, or_false] at hi
    rcases hi with rfl <;> dsimp only [regAt] at e
    · obtain ⟨n, e⟩ := e; exact h0 n e
/-! ### State.unassign -/

theorem State.unassign_kept (s : State) (r detail : Nat) : Keeps ⟨0x80301, 0x200000000000100000⟩ s (State.unassign r detail s) :=
  State.unassign_keeps (M := ⟨0x80301, 0x200000000000100000⟩) ⟨rfl, rfl⟩ (Keeps.refl _ s)
@[simp] theorem State.unassign_store (s : State) (r detail : Nat) : (State.unassign r detail s).store = s.store :=
  (State.unassign_kept s r detail).store (by decide)
@[simp] theorem State.unassign_radio (s : State) (r detail : Nat) : (State.unassign r detail s).radio = s.radio :=
  (State.unassign_kept s r detail).radio (by decide)
@[simp] theorem State.unassign_mac (s : State) (r detail : Nat) : (State.unassign r detail s).mac = s.mac :=
  (State.unassign_kept s r detail).mac (by decide)
@[simp] theorem State.unassign_jnl (s : State) (r detail : Nat) : (State.unassign r detail s).jnl = s.jnl :=
  (State.unassign_kept s r detail).jnl (by decide)
@[simp] theorem State.unassign_keys (s : State) (r detail : Nat) : (State.unassign r detail s).keys = s.keys :=
  (State.unassign_kept s r detail).keys (by decide)
@[simp] theorem State.unassign_newts (s : State) (r detail : Nat) : (State.unassign r detail s).newts = s.newts :=
  (State.unassign_kept s r detail).newts (by decide)
@[simp] theorem State.unassign_gather (s : State) (r detail : Nat) : (State.unassign r detail s).gather = s.gather :=
  (State.unassign_kept s r detail).gather (by decide)
@[simp] theorem State.unassign_lehr (s : State) (r detail : Nat) : (State.unassign r detail s).lehr = s.lehr :=
  (State.unassign_kept s r detail).lehr (by decide)
@[simp] theorem State.unassign_power (s : State) (r detail : Nat) : (State.unassign r detail s).power = s.power :=
  (State.unassign_kept s r detail).power (by decide)
@[simp] theorem State.unassign_flash (s : State) (r detail : Nat) : (State.unassign r detail s).flash = s.flash :=
  (State.unassign_kept s r detail).flash (by decide)
@[simp] theorem State.unassign_svc (s : State) (r detail : Nat) : (State.unassign r detail s).svc = s.svc :=
  (State.unassign_kept s r detail).svc (by decide)
@[simp] theorem State.unassign_link (s : State) (r detail : Nat) : (State.unassign r detail s).link = s.link :=
  (State.unassign_kept s r detail).link (by decide)
@[simp] theorem State.unassign_health (s : State) (r detail : Nat) : (State.unassign r detail s).health = s.health :=
  (State.unassign_kept s r detail).health (by decide)
@[simp] theorem State.unassign_cycLatch (s : State) (r detail : Nat) : (State.unassign r detail s).cycLatch = s.cycLatch :=
  (State.unassign_kept s r detail).cycLatch (by decide)
@[simp] theorem State.unassign_answers (s : State) (r detail : Nat) : (State.unassign r detail s).answers = s.answers :=
  (State.unassign_kept s r detail).answers (by decide)
@[simp] theorem State.unassign_free (s : State) (r detail : Nat) : (State.unassign r detail s).free = s.free :=
  (State.unassign_kept s r detail).free (by decide)
@[simp] theorem State.unassign_pending (s : State) (r detail : Nat) : (State.unassign r detail s).pending = s.pending :=
  (State.unassign_kept s r detail).pending
theorem State.rd_unassign (s : State) (r detail : Nat) {y : Nat} (h0 : y ≠ R.HRI_STAT) (h1 : ∀ n, y ≠ R.NWT_ROLE n) :
    State.rd (State.unassign r detail s) y = s.rd y :=
  (State.unassign_kept s r detail).rd y fun w => by
    rcases w.elim (l := [20, 69]) (by decide) with ⟨i, hi, e⟩
    simp only [List.mem_cons, List.not_mem_nil, or_false] at hi
    rcases hi with rfl | rfl <;> dsimp only [regAt] at e
    · exact h0 e
    · obtain ⟨n, e⟩ := e; exact h1 n e
/-! ### State.placeOne -/

theorem State.placeOne_kept (s : State) (n : Nat) : Keeps ⟨0x80941, 0x80900000000000000000800000000000100110⟩ s (State.placeOne n s) :=
  State.placeOne_keeps (M := ⟨0x80941, 0x80900000000000000000800000000000100110⟩) ⟨rfl, rfl⟩ (Keeps.refl _ s)
@[simp] theorem State.placeOne_store (s : State) (n : Nat) : (State.placeOne n s).store = s.store :=
  (State.placeOne_kept s n).store (by decide)
@[simp] theorem State.placeOne_radio (s : State) (n : Nat) : (State.placeOne n s).radio = s.radio :=
  (State.placeOne_kept s n).radio (by decide)
@[simp] theorem State.placeOne_mac (s : State) (n : Nat) : (State.placeOne n s).mac = s.mac :=
  (State.placeOne_kept s n).mac (by decide)
@[simp] theorem State.placeOne_jnl (s : State) (n : Nat) : (State.placeOne n s).jnl = s.jnl :=
  (State.placeOne_kept s n).jnl (by decide)
@[simp] theorem State.placeOne_keys (s : State) (n : Nat) : (State.placeOne n s).keys = s.keys :=
  (State.placeOne_kept s n).keys (by decide)
@[simp] theorem State.placeOne_gather (s : State) (n : Nat) : (State.placeOne n s).gather = s.gather :=
  (State.placeOne_kept s n).gather (by decide)
@[simp] theorem State.placeOne_pio (s : State) (n : Nat) : (State.placeOne n s).pio = s.pio :=
  (State.placeOne_kept s n).pio (by decide)
@[simp] theorem State.placeOne_lehr (s : State) (n : Nat) : (State.placeOne n s).lehr = s.lehr :=
  (State.placeOne_kept s n).lehr (by decide)
@[simp] theorem State.placeOne_flash (s : State) (n : Nat) : (State.placeOne n s).flash = s.flash :=
  (State.placeOne_kept s n).flash (by decide)
@[simp] theorem State.placeOne_svc (s : State) (n : Nat) : (State.placeOne n s).svc = s.svc :=
  (State.placeOne_kept s n).svc (by decide)
@[simp] theorem State.placeOne_link (s : State) (n : Nat) : (State.placeOne n s).link = s.link :=
  (State.placeOne_kept s n).link (by decide)
@[simp] theorem State.placeOne_health (s : State) (n : Nat) : (State.placeOne n s).health = s.health :=
  (State.placeOne_kept s n).health (by decide)
@[simp] theorem State.placeOne_cycLatch (s : State) (n : Nat) : (State.placeOne n s).cycLatch = s.cycLatch :=
  (State.placeOne_kept s n).cycLatch (by decide)
@[simp] theorem State.placeOne_answers (s : State) (n : Nat) : (State.placeOne n s).answers = s.answers :=
  (State.placeOne_kept s n).answers (by decide)
@[simp] theorem State.placeOne_free (s : State) (n : Nat) : (State.placeOne n s).free = s.free :=
  (State.placeOne_kept s n).free (by decide)
@[simp] theorem State.placeOne_pending (s : State) (n : Nat) : (State.placeOne n s).pending = s.pending :=
  (State.placeOne_kept s n).pending
theorem State.rd_placeOne (s : State) (n : Nat) {y : Nat} (h0 : y ≠ R.PWR_STAT) (h1 : y ≠ R.PWR_WAKEST) (h2 : y ≠ R.HRI_STAT) (h3 : y ≠ R.NWT_STAT) (h4 : ∀ n, y ≠ R.PMC_OVF n) (h5 : ∀ n k, y ≠ R.PMC_CNT n k) (h6 : y ≠ R.SMB_STAT) :
    State.rd (State.placeOne n s) y = s.rd y :=
  (State.placeOne_kept s n).rd y fun w => by
    rcases w.elim (l := [4, 8, 20, 71, 140, 143, 151]) (by decide) with ⟨i, hi, e⟩
    simp only [List.mem_cons, List.not_mem_nil, or_false] at hi
    rcases hi with rfl | rfl | rfl | rfl | rfl | rfl | rfl <;> dsimp only [regAt] at e
    · exact h0 e
    · exact h1 e
    · exact h2 e
    · exact h3 e
    · obtain ⟨n, e⟩ := e; exact h4 n e
    · obtain ⟨n, k, e⟩ := e; exact h5 n k e
    · exact h6 e

end Sys2Proof.Machine
end

