-- ==== Sys2Proof/Laws/KeepsSvc.lean ====
section
/-! SUPPORT. What each operation of Machine/Svc.lean keeps (Laws/Keeps.lean says what that means). -/

namespace Sys2Proof.Machine

theorem State.svcOffer_keeps {M : Mask} {s0 : State} {l : List Byte} {s : State} (hM : Sub ⟨0x82000, 0x1000000000000000000000000000000000⟩ M) (hK : Keeps M s0 s) :
    Keeps M s0 (State.svcOffer l s) := by
  unfold State.svcOffer
  repeat' first
    | with_reducible assumption
    | ((with_reducible apply hM.of) <;> rfl)
    | with_reducible apply Wr.SVC_STAT
    | ((with_reducible apply hM.reg); decide)
    | with_reducible apply hM.bit
    | with_reducible apply State.flag_keeps
    | exact rfl
    | split
    | with_reducible apply Keeps.set_svc

theorem State.svcNak_keeps {M : Mask} {s0 : State} {seq reason : Nat} {s : State} (hM : Sub ⟨0xc2000, 0x5000000000000000000000000000000000⟩ M) (hK : Keeps M s0 s) :
    Keeps M s0 (State.svcNak seq reason s) := by
  unfold State.svcNak
  repeat' first
    | with_reducible assumption
    | ((with_reducible apply hM.of) <;> rfl)
    | with_reducible apply Wr.SVC_CNT
    | ((with_reducible apply hM.reg); decide)
    | with_reducible apply State.count_keeps
    | with_reducible apply State.freeNat_keeps
    | with_reducible apply State.svcOffer_keeps
    | (with_reducible apply Keeps2.of; with_reducible assumption)
    | with_reducible apply Keeps2.snd
    | (extract_lets +onlyGivenNames x1; with_reducible refine Cut x1 ?_ ?_)
    | (intro _; clear_value x1; revert x1; intro _ _)
    | subst x1
    | (extract_lets +onlyGivenNames x1; subst x1)
    | exact rfl
    | split
    | with_reducible apply Keeps2.mk
    | dsimp -zeta only

theorem State.svcSeal_keeps {M : Mask} {s0 : State} {seq : Nat} {pay : List Byte} {s : State} (hM : Sub ⟨0x20, 0x0⟩ M) (hK : Keeps M s0 s) :
    Keeps2 M s0 (State.svcSeal seq pay s) := by
  unfold State.svcSeal
  repeat' first
    | with_reducible assumption
    | ((with_reducible apply hM.of) <;> rfl)
    | with_reducible apply State.setSlot_keeps
    | with_reducible apply Keeps2.ite
    | with_reducible apply Keeps.ite
    | (extract_lets +onlyGivenNames x1; with_reducible refine Cut x1 ?_ ?_)
    | (intro _; clear_value x1; revert x1; intro _ _)
    | subst x1
    | (extract_lets +onlyGivenNames x1; subst x1)
    | split
    | with_reducible apply Keeps2.mk
    | dsimp -zeta only

theorem State.svcReply_keeps {M : Mask} {s0 : State} {status : Nat} {result : List Byte} {s : State} (hM : Sub ⟨0x82020, 0x1000000000000000000000000000000000⟩ M) (hK : Keeps M s0 s) :
    Keeps M s0 (State.svcReply status result s) := by
  unfold State.svcReply
  repeat' first
    | with_reducible assumption
    | ((with_reducible apply hM.of) <;> rfl)
    | with_reducible apply Wr.SVC_STAT
    | ((with_reducible apply hM.reg); decide)
    | with_reducible apply hM.bit
    | with_reducible apply State.wb_keeps
    | with_reducible apply State.svcOffer_keeps
    | with_reducible apply State.svcSeal_keeps
    | (with_reducible apply Keeps2.of; with_reducible assumption)
    | with_reducible apply Keeps2.snd
    | (extract_lets +onlyGivenNames x1; with_reducible refine Cut x1 ?_ ?_)
    | (intro _; clear_value x1; revert x1; intro _ _)
    | subst x1
    | (extract_lets +onlyGivenNames x1; subst x1)
    | exact rfl
    | split
    | with_reducible apply Keeps.set_svc
    | with_reducible apply Keeps2.mk

theorem State.svcAccept_keeps {M : Mask} {s0 : State} {seq : Half} {crc : Word} {p : List Byte} {session : Option (BitVec 2 × BitVec 256)} {s : State} (hM : Sub ⟨0x82020, 0x1000000000000000000000000000000000⟩ M) (hK : Keeps M s0 s) :
    Keeps M s0 (State.svcAccept seq crc p session s) := by
  unfold State.svcAccept
  repeat' first
    | with_reducible assumption
    | ((with_reducible apply hM.of) <;> rfl)
    | with_reducible apply Wr.SVC_STAT
    | ((with_reducible apply hM.reg); decide)
    | with_reducible apply hM.bit
    | with_reducible apply State.wf_keeps
    | with_reducible apply State.wb_keeps
    | with_reducible apply State.svcReply_keeps
    | with_reducible apply Keeps.ite
    | (extract_lets +onlyGivenNames x1; with_reducible refine Cut x1 ?_ ?_)
    | (intro _; clear_value x1; revert x1; intro _ _)
    | subst x1
    | (extract_lets +onlyGivenNames x1; subst x1)
    | exact rfl
    | split
    | with_reducible apply Keeps.set_svc

theorem State.svcNew_keeps {M : Mask} {s0 : State} {seq : Half} {crc : Word} {o : Option (List Byte × Option (BitVec 2 × BitVec 256))} {s : State} (hM : Sub ⟨0xc2020, 0x5000000000000000000000000000000000⟩ M) (hK : Keeps M s0 s) :
    Keeps M s0 (State.svcNew seq crc o s) := by
  unfold State.svcNew
  repeat' first
    | with_reducible assumption
    | ((with_reducible apply hM.of) <;> rfl)
    | with_reducible apply State.svcNak_keeps
    | with_reducible apply State.svcAccept_keeps
    | with_reducible apply Keeps.ite
    | split
    | dsimp -zeta only

theorem State.svcCmd_keeps {M : Mask} {s0 : State} {h p : List Byte} {crc : Word} {s : State} (hM : Sub ⟨0xc2020, 0x5000000000000000000000000000000000⟩ M) (hK : Keeps M s0 s) :
    Keeps M s0 (State.svcCmd h p crc s) := by
  unfold State.svcCmd
  repeat' first
    | with_reducible assumption
    | ((with_reducible apply hM.of) <;> rfl)
    | with_reducible apply Wr.SVC_CNT
    | ((with_reducible apply hM.reg); decide)
    | with_reducible apply State.count_keeps
    | with_reducible apply State.svcOffer_keeps
    | with_reducible apply State.svcNak_keeps
    | with_reducible apply State.svcNew_keeps
    | with_reducible apply Keeps.ite
    | (extract_lets +onlyGivenNames x1; with_reducible refine Cut x1 ?_ ?_)
    | (intro _; clear_value x1; revert x1; intro _ _)
    | subst x1
    | (extract_lets +onlyGivenNames x1; subst x1)
    | exact rfl
    | split
    | dsimp -zeta only

theorem State.svcFrame_keeps {M : Mask} {s0 : State} {l : List Byte} {s : State} (hM : Sub ⟨0xc2020, 0x5000000000000000000000000000000000⟩ M) (hK : Keeps M s0 s) :
    Keeps M s0 (State.svcFrame l s) := by
  unfold State.svcFrame
  repeat' first
    | with_reducible assumption
    | ((with_reducible apply hM.of) <;> rfl)
    | with_reducible apply Wr.SVC_CNT
    | ((with_reducible apply hM.reg); decide)
    | with_reducible apply State.count_keeps
    | with_reducible apply State.svcNak_keeps
    | with_reducible apply State.svcCmd_keeps
    | with_reducible apply Keeps.ite
    | (extract_lets +onlyGivenNames x1; with_reducible refine Cut x1 ?_ ?_)
    | (intro _; clear_value x1; revert x1; intro _ _)
    | subst x1
    | (extract_lets +onlyGivenNames x1; subst x1)
    | exact rfl
    | split
    | dsimp -zeta only

theorem execSpiWriteTransaction_keeps {M : Mask} {s0 : State} {bytes : List Byte} {s : State} (hM : Sub ⟨0xc2020, 0x5000000000000000000000000000000000⟩ M) (hK : Keeps M s0 s) :
    Good M s0 (execSpiWriteTransaction bytes s) := by
  unfold execSpiWriteTransaction
  repeat' first
    | with_reducible assumption
    | ((with_reducible apply hM.of) <;> rfl)
    | with_reducible apply State.svcFrame_keeps
    | with_reducible apply Good.ite
    | with_reducible apply Good.next
    | with_reducible apply Keeps.ite
    | split
    | dsimp -zeta only

theorem execSpiReadTransaction_keeps {M : Mask} {s0 : State} {clocked : Nat} {s : State} (hM : Sub ⟨0xa0000, 0x1000000000000000000000000000000000⟩ M) (hK : Keeps M s0 s) :
    Good M s0 (execSpiReadTransaction clocked s) := by
  unfold execSpiReadTransaction
  repeat' first
    | with_reducible assumption
    | ((with_reducible apply hM.of) <;> rfl)
    | with_reducible apply Wr.SVC_STAT
    | ((with_reducible apply hM.reg); decide)
    | with_reducible apply State.wb_keeps
    | with_reducible apply State.answer_keeps
    | with_reducible apply Good.ite
    | (with_reducible apply Keeps.foldl; intro _ _ _)
    | with_reducible apply Good.next
    | with_reducible apply Keeps.ite
    | (extract_lets +onlyGivenNames x1; with_reducible refine Cut x1 ?_ ?_)
    | (intro _; clear_value x1; revert x1; intro _ _)
    | subst x1
    | (extract_lets +onlyGivenNames x1; subst x1)
    | exact rfl
    | split
    | dsimp -zeta only

theorem execSvcHello_keeps {M : Mask} {s0 : State} {s : State} (hM : Sub ⟨0xc2020, 0x1000000000000000000000000000000000⟩ M) (hK : Keeps M s0 s) :
    Good M s0 (execSvcHello s) := by
  unfold execSvcHello
  repeat' first
    | with_reducible assumption
    | ((with_reducible apply hM.of) <;> rfl)
    | with_reducible apply State.freeNat_keeps
    | with_reducible apply State.svcReply_keeps
    | with_reducible apply Good.next
    | (with_reducible apply Keeps2.of; with_reducible assumption)
    | with_reducible apply Keeps2.snd
    | (extract_lets +onlyGivenNames x1; with_reducible refine Cut x1 ?_ ?_)
    | (intro _; clear_value x1; revert x1; intro _ _)
    | subst x1
    | (extract_lets +onlyGivenNames x1; subst x1)
    | split
    | with_reducible apply Keeps2.mk
    | dsimp -zeta only

theorem execSvcInfo_keeps {M : Mask} {s0 : State} {s : State} (hM : Sub ⟨0x82020, 0x1000000000000000000000000000000000⟩ M) (hK : Keeps M s0 s) :
    Good M s0 (execSvcInfo s) := by
  unfold execSvcInfo
  repeat' first
    | with_reducible assumption
    | ((with_reducible apply hM.of) <;> rfl)
    | with_reducible apply State.svcReply_keeps
    | with_reducible apply Good.next
    | split
    | dsimp -zeta only

theorem svcReads_keeps {M : Mask} {s0 : State} (hM : Sub ⟨0x91500, 0x20100400000000200000000000000000000⟩ M) (k : Nat) :
    ∀ {a : Nat} {s : State}, Keeps M s0 s → Keeps3 M s0 (svcReads k a s) := by
  induction k with
  | zero => exact fun h => h
  | succ k ih =>
    intro a s h
    unfold svcReads
    repeat' first
      | with_reducible assumption
      | ((with_reducible apply hM.of) <;> rfl)
      | with_reducible apply ih
      | with_reducible apply State.busRead_keeps
      | with_reducible apply Keeps3.ite
      | with_reducible apply Keeps.ite
      | (with_reducible apply Keeps2.of; with_reducible assumption)
      | with_reducible apply Keeps2.snd
      | (with_reducible apply Keeps3.of; with_reducible assumption)
      | (extract_lets +onlyGivenNames x1; with_reducible refine Cut x1 ?_ ?_)
      | (intro _; clear_value x1; revert x1; intro _ _)
      | subst x1
      | (extract_lets +onlyGivenNames x1; subst x1)
      | split
      | with_reducible apply Keeps2.mk
      | with_reducible apply Keeps3.mk
      | dsimp -zeta only

theorem execSvcRegrd_keeps {M : Mask} {s0 : State} {s : State} (hM : Sub ⟨0x93520, 0x21100400000000200000000000000000000⟩ M) (hK : Keeps M s0 s) :
    Good M s0 (execSvcRegrd s) := by
  unfold execSvcRegrd
  repeat' first
    | with_reducible assumption
    | ((with_reducible apply hM.of) <;> rfl)
    | with_reducible apply State.svcReply_keeps
    | with_reducible apply svcReads_keeps
    | with_reducible apply Good.ite
    | with_reducible apply Good.next
    | with_reducible apply Keeps.ite
    | (with_reducible apply Keeps3.of; with_reducible assumption)
    | with_reducible apply Keeps3.trd
    | (extract_lets +onlyGivenNames x1; with_reducible refine Cut x1 ?_ ?_)
    | (intro _; clear_value x1; revert x1; intro _ _)
    | subst x1
    | (extract_lets +onlyGivenNames x1; subst x1)
    | split
    | with_reducible apply Keeps3.mk
    | dsimp -zeta only

theorem svcWrites_keeps {M : Mask} {s0 : State} (hM : Sub ⟨0xdffff, 0xc082b20120d687b747c65cb52794ae0fb018f31c⟩ M) (k : Nat) :
    ∀ {a : Nat} {l : List Byte} {s : State}, Keeps M s0 s → Keeps2 M s0 (svcWrites k a l s) := by
  induction k with
  | zero => exact fun h => h
  | succ k ih =>
    intro a l s h
    unfold svcWrites
    repeat' first
      | with_reducible assumption
      | ((with_reducible apply hM.of) <;> rfl)
      | with_reducible apply ih
      | with_reducible apply State.busWrite_keeps
      | with_reducible apply Keeps2.ite
      | with_reducible apply Keeps.ite
      | (with_reducible apply Keeps2.of; with_reducible assumption)
      | (extract_lets +onlyGivenNames x1; with_reducible refine Cut x1 ?_ ?_)
      | (intro _; clear_value x1; revert x1; intro _ _)
      | subst x1
      | (extract_lets +onlyGivenNames x1; subst x1)
      | split
      | with_reducible apply Keeps2.mk
      | dsimp -zeta only

theorem execSvcRegwr_keeps {M : Mask} {s0 : State} {s : State} (hM : Sub ⟨0xdffff, 0xc082b21120d687b747c65cb52794ae0fb018f31c⟩ M) (hK : Keeps M s0 s) :
    Good M s0 (execSvcRegwr s) := by
  unfold execSvcRegwr
  repeat' first
    | with_reducible assumption
    | ((with_reducible apply hM.of) <;> rfl)
    | with_reducible apply State.svcReply_keeps
    | with_reducible apply svcWrites_keeps
    | with_reducible apply Good.next
    | (with_reducible apply Keeps2.of; with_reducible assumption)
    | with_reducible apply Keeps2.snd
    | split
    | with_reducible apply Keeps2.mk
    | dsimp -zeta only

theorem flashReads_keeps {M : Mask} {s0 : State} (hM : Sub ⟨0x81000, 0x100400000000000000000000000000000⟩ M) (k : Nat) :
    ∀ {a : Nat} {ecc : Ecc} {s : State}, Keeps M s0 s → Keeps2 M s0 (flashReads k a ecc s) := by
  induction k with
  | zero => exact fun h => h
  | succ k ih =>
    intro a ecc s h
    unfold flashReads
    repeat' first
      | with_reducible assumption
      | ((with_reducible apply hM.of) <;> rfl)
      | with_reducible apply ih
      | with_reducible apply State.flashRead_keeps
      | (with_reducible apply Keeps2.of; with_reducible assumption)
      | with_reducible apply Keeps2.snd
      | (with_reducible apply Keeps2.of; with_reducible assumption)
      | (extract_lets +onlyGivenNames x1; with_reducible refine Cut x1 ?_ ?_)
      | (intro _; clear_value x1; revert x1; intro _ _)
      | subst x1
      | (extract_lets +onlyGivenNames x1; subst x1)
      | split
      | with_reducible apply Keeps2.mk
      | dsimp -zeta only

theorem execSvcFlrd_keeps {M : Mask} {s0 : State} {ecc : Ecc} {s : State} (hM : Sub ⟨0x83020, 0x1100400000000000000000000000000000⟩ M) (hK : Keeps M s0 s) :
    Good M s0 (execSvcFlrd ecc s) := by
  unfold execSvcFlrd
  repeat' first
    | with_reducible assumption
    | ((with_reducible apply hM.of) <;> rfl)
    | with_reducible apply State.svcReply_keeps
    | with_reducible apply flashReads_keeps
    | with_reducible apply Good.next
    | (with_reducible apply Keeps2.of; with_reducible assumption)
    | with_reducible apply Keeps2.snd
    | split
    | with_reducible apply Keeps2.mk
    | dsimp -zeta only

theorem svcProgram_keeps {M : Mask} {s0 : State} (hM : Sub ⟨0x81000, 0x400000000000000000000000000000⟩ M) (l : List (List Byte)) :
    ∀ {a ok : Nat} {s : State}, Keeps M s0 s → Keeps2 M s0 (svcProgram a ok l s) := by
  induction l with
  | nil => intro a ok s h; unfold svcProgram; exact h
  | cons b r ih =>
    intro a ok s h
    unfold svcProgram
    repeat' first
      | with_reducible assumption
      | ((with_reducible apply hM.of) <;> rfl)
      | with_reducible apply ih
      | with_reducible apply State.cflResult_keeps
      | with_reducible apply State.startProgram_keeps
      | with_reducible apply State.flashDone_keeps
      | with_reducible apply State.programFailed_keeps
      | (with_reducible apply Keeps2.of; with_reducible assumption)
      | split
      | with_reducible apply Keeps2.mk
      | dsimp -zeta only

theorem execSvcFlprog_keeps {M : Mask} {s0 : State} {okLines : Nat} {s : State} (hM : Sub ⟨0x83020, 0x1000400000000000000000000000000000⟩ M) (hK : Keeps M s0 s) :
    Good M s0 (execSvcFlprog okLines s) := by
  unfold execSvcFlprog
  repeat' first
    | with_reducible assumption
    | ((with_reducible apply hM.of) <;> rfl)
    | with_reducible apply hM.bit
    | with_reducible apply State.svcReply_keeps
    | with_reducible apply svcProgram_keeps
    | with_reducible apply Good.ite
    | with_reducible apply Good.next
    | with_reducible apply Keeps.ite
    | (with_reducible apply Keeps2.of; with_reducible assumption)
    | with_reducible apply Keeps2.snd
    | (extract_lets +onlyGivenNames x1; with_reducible refine Cut x1 ?_ ?_)
    | (intro _; clear_value x1; revert x1; intro _ _)
    | subst x1
    | (extract_lets +onlyGivenNames x1; subst x1)
    | exact rfl
    | split
    | with_reducible apply Keeps.set_svc
    | with_reducible apply Keeps2.mk

theorem execSvcFlerase_keeps {M : Mask} {s0 : State} {ok : Bool} {s : State} (hM : Sub ⟨0x83020, 0x1000400000000000000000000000000000⟩ M) (hK : Keeps M s0 s) :
    Good M s0 (execSvcFlerase ok s) := by
  unfold execSvcFlerase
  repeat' first
    | with_reducible assumption
    | ((with_reducible apply hM.of) <;> rfl)
    | with_reducible apply hM.bit
    | with_reducible apply State.cflResult_keeps
    | with_reducible apply State.startErase_keeps
    | with_reducible apply State.flashDone_keeps
    | with_reducible apply State.eraseFailed_keeps
    | with_reducible apply State.svcReply_keeps
    | with_reducible apply Good.ite
    | with_reducible apply Good.next
    | with_reducible apply Keeps.ite
    | (extract_lets +onlyGivenNames x1; with_reducible refine Cut x1 ?_ ?_)
    | (intro _; clear_value x1; revert x1; intro _ _)
    | subst x1
    | (extract_lets +onlyGivenNames x1; subst x1)
    | exact rfl
    | split
    | with_reducible apply Keeps.set_svc

theorem execSvcFlashWaitTimeout_keeps {M : Mask} {s0 : State} {s : State} (hM : Sub ⟨0x82020, 0x1000000000000000000000000000000000⟩ M) (hK : Keeps M s0 s) :
    Good M s0 (execSvcFlashWaitTimeout s) := by
  unfold execSvcFlashWaitTimeout
  repeat' first
    | with_reducible assumption
    | ((with_reducible apply hM.of) <;> rfl)
    | with_reducible apply State.svcReply_keeps
    | with_reducible apply Good.ite
    | with_reducible apply Good.next
    | with_reducible apply Keeps.ite
    | split
    | dsimp -zeta only

theorem State.newtopReply_keeps {M : Mask} {s0 : State} {s : State} (hM : Sub ⟨0x82020, 0x1000000000000000000000000000000000⟩ M) (hK : Keeps M s0 s) :
    Keeps M s0 (State.newtopReply s) := by
  unfold State.newtopReply
  repeat' first
    | with_reducible assumption
    | ((with_reducible apply hM.of) <;> rfl)
    | with_reducible apply State.svcReply_keeps
    | with_reducible apply Keeps.ite
    | split
    | dsimp -zeta only

theorem execSvcNewtop_keeps {M : Mask} {s0 : State} {s : State} (hM : Sub ⟨0xdffff, 0xc082b21120d687b747c65cb52794ae0fb018f31c⟩ M) (hK : Keeps M s0 s) :
    Good M s0 (execSvcNewtop s) := by
  unfold execSvcNewtop
  repeat' first
    | with_reducible assumption
    | ((with_reducible apply hM.of) <;> rfl)
    | with_reducible apply hM.bit
    | with_reducible apply State.busWrite_keeps
    | with_reducible apply State.svcReply_keeps
    | with_reducible apply State.newtopReply_keeps
    | with_reducible apply Good.ite
    | with_reducible apply Good.next
    | with_reducible apply Keeps.ite
    | (extract_lets +onlyGivenNames x1; with_reducible refine Cut x1 ?_ ?_)
    | (intro _; clear_value x1; revert x1; intro _ _)
    | subst x1
    | (extract_lets +onlyGivenNames x1; subst x1)
    | exact rfl
    | split
    | with_reducible apply Keeps.set_svc

theorem State.keycmdReply_keeps {M : Mask} {s0 : State} {typ code result : Nat} {out : List Byte} {s : State} (hM : Sub ⟨0x82020, 0x1000000000000000000000000000000000⟩ M) (hK : Keeps M s0 s) :
    Keeps M s0 (State.keycmdReply typ code result out s) := by
  unfold State.keycmdReply
  repeat' first
    | with_reducible assumption
    | ((with_reducible apply hM.of) <;> rfl)
    | with_reducible apply State.svcReply_keeps
    | with_reducible apply Keeps.ite
    | split
    | dsimp -zeta only

theorem execSvcKeycmd_keeps {M : Mask} {s0 : State} {fuseOk : Bool} {s : State} (hM : Sub ⟨0xc237f, 0x90100000013744c01015000000c180180000⟩ M) (hK : Keeps M s0 s) :
    Good M s0 (execSvcKeycmd fuseOk s) := by
  unfold execSvcKeycmd
  repeat' first
    | with_reducible assumption
    | ((with_reducible apply hM.of) <;> rfl)
    | with_reducible apply hM.bit
    | with_reducible apply State.keyRun_keeps
    | with_reducible apply State.wipeGoOn_keeps
    | with_reducible apply State.keycmdReply_keeps
    | with_reducible apply Good.ite
    | with_reducible apply Good.next
    | with_reducible apply Keeps.ite
    | with_reducible apply KeepsK.st
    | (extract_lets +onlyGivenNames x1; with_reducible refine Cut x1 ?_ ?_)
    | (intro _; clear_value x1; revert x1; intro _ _)
    | subst x1
    | (extract_lets +onlyGivenNames x1; subst x1)
    | exact rfl
    | split
    | with_reducible apply Keeps.set_svc

theorem execSvcRelease_keeps {M : Mask} {s0 : State} {s : State} (hM : Sub ⟨0x82820, 0x1000000000000000000000000000000000⟩ M) (hK : Keeps M s0 s) :
    Good M s0 (execSvcRelease s) := by
  unfold execSvcRelease
  repeat' first
    | with_reducible assumption
    | ((with_reducible apply hM.of) <;> rfl)
    | with_reducible apply Wr.SVC_STAT
    | ((with_reducible apply hM.reg); decide)
    | with_reducible apply hM.bit
    | with_reducible apply State.wb_keeps
    | with_reducible apply State.svcReply_keeps
    | with_reducible apply Good.ite
    | with_reducible apply Good.next
    | with_reducible apply Keeps.ite
    | exact rfl
    | split
    | with_reducible apply Keeps.set_power

end Sys2Proof.Machine
end

