-- ==== Sys2Proof/Laws/KeepsSmb.lean ====
section
/-! SUPPORT. What each operation of Machine/Smb.lean keeps (Laws/Keeps.lean says what that means). -/

namespace Sys2Proof.Machine

theorem execAlertResponse_keeps {M : Mask} {s0 : State} {s : State} (hM : Sub ⟨0xa0800, 0x80000000000000000000000000000000000000⟩ M) (hK : Keeps M s0 s) :
    Good M s0 (execAlertResponse s) := by
  unfold execAlertResponse
  repeat' first
    | with_reducible assumption
    | ((with_reducible apply hM.of) <;> rfl)
    | with_reducible apply Wr.SMB_STAT
    | ((with_reducible apply hM.reg); decide)
    | with_reducible apply hM.bit
    | with_reducible apply State.wb_keeps
    | with_reducible apply State.answer_keeps
    | with_reducible apply Good.ite
    | with_reducible apply Good.next
    | with_reducible apply Keeps.ite
    | (extract_lets +onlyGivenNames x1; with_reducible refine Cut x1 ?_ ?_)
    | (intro _; clear_value x1; revert x1; intro _ _)
    | subst x1
    | (extract_lets +onlyGivenNames x1; subst x1)
    | exact rfl
    | split
    | with_reducible apply Keeps.set_power

theorem execSmbRegwr_keeps {M : Mask} {s0 : State} {count : Byte} {bytes : List Byte} {pec : Option Byte} {s : State} (hM : Sub ⟨0xdffff, 0xc082b20120d687b747c65cb52794ae0fb018f31c⟩ M) (hK : Keeps M s0 s) :
    Good M s0 (execSmbRegwr count bytes pec s) := by
  unfold execSmbRegwr
  repeat' first
    | with_reducible assumption
    | ((with_reducible apply hM.of) <;> rfl)
    | with_reducible apply State.access_keeps
    | with_reducible apply Good.ite
    | with_reducible apply Good.next
    | with_reducible apply Keeps.ite
    | (extract_lets +onlyGivenNames x1; with_reducible refine Cut x1 ?_ ?_)
    | (intro _; clear_value x1; revert x1; intro _ _)
    | subst x1
    | (extract_lets +onlyGivenNames x1; subst x1)
    | split
    | dsimp -zeta only

theorem State.regrdAnswer_keeps {M : Mask} {s0 : State} {count : Byte} {bytes : List Byte} {status : Nat} {v : Word} {s : State} (hM : Sub ⟨0x20000, 0x0⟩ M) (hK : Keeps M s0 s) :
    Keeps M s0 (State.regrdAnswer count bytes status v s) := by
  unfold State.regrdAnswer
  repeat' first
    | with_reducible assumption
    | ((with_reducible apply hM.of) <;> rfl)
    | with_reducible apply State.answer_keeps
    | (extract_lets +onlyGivenNames x1; with_reducible refine Cut x1 ?_ ?_)
    | (intro _; clear_value x1; revert x1; intro _ _)
    | subst x1
    | (extract_lets +onlyGivenNames x1; subst x1)
    | split
    | dsimp -zeta only

theorem execSmbRegrd_keeps {M : Mask} {s0 : State} {count : Byte} {bytes : List Byte} {s : State} (hM : Sub ⟨0xb1500, 0x20100400000000200000000000000000000⟩ M) (hK : Keeps M s0 s) :
    Good M s0 (execSmbRegrd count bytes s) := by
  unfold execSmbRegrd
  repeat' first
    | with_reducible assumption
    | ((with_reducible apply hM.of) <;> rfl)
    | with_reducible apply State.busRead_keeps
    | with_reducible apply State.regrdAnswer_keeps
    | with_reducible apply Good.ite
    | with_reducible apply Good.next
    | with_reducible apply Keeps.ite
    | (with_reducible apply Keeps2.of; with_reducible assumption)
    | with_reducible apply Keeps2.snd
    | (extract_lets +onlyGivenNames x1; with_reducible refine Cut x1 ?_ ?_)
    | (intro _; clear_value x1; revert x1; intro _ _)
    | subst x1
    | (extract_lets +onlyGivenNames x1; subst x1)
    | split
    | with_reducible apply Keeps2.mk
    | dsimp -zeta only

theorem execSmbBusTimeout_keeps {M : Mask} {s0 : State} {s : State} (_ : Sub ⟨0x0, 0x0⟩ M) (hK : Keeps M s0 s) :
    Good M s0 (execSmbBusTimeout s) := by
  unfold execSmbBusTimeout
  repeat' first
    | with_reducible assumption
    | with_reducible apply Good.next
    | split
    | dsimp -zeta only

end Sys2Proof.Machine
end

