-- ==== Sys2Proof/Laws/Power.lean ====
section
/-! SUPPORT. What the operations of Machine/Power.lean do: a device reset and its end. -/

namespace Sys2Proof.Machine

variable (s : State)

theorem State.rd_cut {a : Nat} (hs : resetShown a = false ∨ a = R.RST_CAUSE) (hl : a ≠ R.LEHR_CTL) :
    s.cut.rd a = if resetKept a then s.rd a else resetVal a := by
  have hne : a ≠ R.RST_STAT ∧ a ≠ R.STO_STAT ∧ a ≠ R.HLT_STAT ∧ a ≠ R.SMB_STAT ∧ a ≠ R.KEY_LCS ∧ a ≠ R.KEY_STAT ∧
      a ≠ R.CFL_STAT := by
    rcases hs with h | h
    · simp only [resetShown, List.contains_eq_mem, List.mem_cons, List.not_mem_nil, or_false, decide_eq_false_iff_not,
        not_or] at h
      exact ⟨h.2.1, h.2.2.1, h.2.2.2.1, h.2.2.2.2.1, h.2.2.2.2.2.1, h.2.2.2.2.2.2.1, h.2.2.2.2.2.2.2⟩
    · subst h; decide
  obtain ⟨h1, h2, h3, h4, h5, h6, h7⟩ := hne
  unfold State.cut
  dsimp only
  rw [State.rd_showFixed _ h1 h2 h5 h6 h7 h3 h4]
  refine (State.rd_congr a (u := s.flashCut.jnlCut.keysCut.lehrCut.resetRegs fun a => !resetKept a) rfl).trans ?_
  rw [State.rd_resetRegs, State.rd_lehrCut _ hl]
  have e : s.flashCut.jnlCut.keysCut.rd a = s.rd a := State.rd_congr a (by simp)
  cases resetKept a <;> simp [e]

theorem State.cut_deviceReset : DeviceReset s s.cut where
  regs a h h' := by
    have hl : a ≠ R.LEHR_CTL := by rintro rfl; revert h; decide
    rw [State.rd_cut s (.inl h') hl, h]; rfl
  hri := by unfold State.cut; simp
  mac := by unfold State.cut; simp
  newts := by unfold State.cut; simp
  gather := by unfold State.cut; simp
  roles := by unfold State.cut; simp
  svc := by unfold State.cut; simp
  units := by unfold State.cut; simp [Store.dramLost]
  nand := by unfold State.cut; simp [Store.dramLost]
  dram := by unfold State.cut; simp [Store.dramLost]
  time := by unfold State.cut; simp [State.lehrCut, State.keysCut]
  link := by unfold State.cut; simp

theorem State.cut_power : s.cut.power =
    { phase := .held, holds := s.power.holds, straps := s.power.straps, strapped := s.power.strapped
      pfailn := s.power.pfailn, seqerr := s.power.seqerr, replacen := s.power.replacen, fromPor := s.power.fromPor } := by
  unfold State.cut; simp

/-- A change of RST_CAUSE leaves a reset state one. -/
theorem DeviceReset.wb {s t : State} (h : DeviceReset s t) (i : Nat) (b : Bool) : DeviceReset s (t.wb R.RST_CAUSE i b) where
  regs a x y := by
    rw [State.rd_wb, if_neg (by rintro rfl; revert y; decide)]
    exact h.regs a x y
  hri := h.hri
  mac := h.mac
  newts := h.newts
  gather := h.gather
  roles := h.roles
  svc := h.svc
  units := h.units
  nand := h.nand
  dram := h.dram
  time := h.time
  link := h.link

/-- What is reset may be described from any state with the same rings, store and lehr. -/
theorem DeviceReset.source {s u t : State} (h : DeviceReset u t) (h1 : u.hri = s.hri) (h2 : u.store = s.store)
    (h3 : u.lehr = s.lehr) : DeviceReset s t where
  regs := h.regs
  hri := by rw [h.hri, h1]
  mac := h.mac
  newts := h.newts
  gather := h.gather
  roles := h.roles
  svc := h.svc
  units := h.units
  nand := h2 ▸ h.nand
  dram := h.dram
  time := by rw [h.time.1, h.time.2, h3]; exact ⟨rfl, rfl⟩
  link := h.link

theorem State.deviceReset_eq (c : Nat) (h : s.power.phase = .run ∨ s.power.phase = .held) :
    s.deviceReset c = s.cut.flag R.RST_CAUSE c := by
  unfold State.deviceReset; rcases h with h | h <;> rw [h] <;> rfl

theorem State.deviceReset_reset (c : Nat) (h : s.power.phase = .run ∨ s.power.phase = .held) :
    DeviceReset s (s.deviceReset c) := by
  rw [State.deviceReset_eq s c h]; exact (State.cut_deviceReset s).wb c true

theorem State.deviceReset_power (c : Nat) (h : s.power.phase = .run ∨ s.power.phase = .held) :
    (s.deviceReset c).power.phase = .held ∧ (s.deviceReset c).power.holds = s.power.holds := by
  rw [State.deviceReset_eq s c h, State.flag_power, State.cut_power]; exact ⟨rfl, rfl⟩

theorem State.deviceReset_cause (c : Nat) (h : s.power.phase = .run ∨ s.power.phase = .held) :
    (s.deviceReset c).rd R.RST_CAUSE = putBit c true (s.rd R.RST_CAUSE) := by
  rw [State.deviceReset_eq s c h, State.rd_flag, if_pos rfl, State.rd_cut s (.inr rfl) (by decide)]; rfl

end Sys2Proof.Machine
end

