-- ==== Sys2Proof/Tests/Slice0.lean ====
section
/-! SUPPORT. Tests: ill-formed commands, worked examples of the spec, and for every statement and every clause of one a
state and operands that meet its hypotheses. -/

open Sys2Proof Sys2Proof.Machine
namespace Sys2Proof.Tests
set_option maxRecDepth 20000
set_option exponentiation.threshold 1100
/-- A device in IDLE that may enter DOZE: link parked, D0 up. -/
def witDoze : State :=
  { regs := [(R.PWR_CTL, 2), (R.PWR_STAT, 0x79), (R.GLB_STAT, 8)], power := { phase := .run, d0run := true },
    hri := { link := .l12 } }
/-- A device in DOZE that may enter HUSH. -/
def witHush : State :=
  { regs := [(R.PWR_CTL, 6), (R.PWR_STAT, 0x7A), (R.RST_CTL, 1), (R.GLB_STAT, 8)]
    power := { phase := .run, d0run := true }, hri := { link := .l2l3 } }
/-- A codeword of zeros whose CRC checks, on a die that is gone. -/
def witCw : Codeword := { crc := crc32 (codewordBody 0 0 0) }
theorem witCw_crcOk : witCw.crcOk = true := by simp [Codeword.crcOk, witCw]
def witGone : Store :=
  { map := [(5, 77)], cells := [(77, some witCw)], panes := [(0, { opened := true })], dieTable := some (0, false) }
theorem witGone_rebuild : witGone.rebuild 77 = some witCw := by
  show Option.filter Codeword.crcOk (some witCw) = some witCw
  simp [Option.filter, witCw_crcOk]

/-! ### Ill-formed commands: each check of WellFormed refuses one -/

/-- A frame, and the report of its reception, that pass every check. -/
def goodFrame : MacFrame :=
  { version := 2, kind := .data, dst := .absent, src := .absent, seq := 0, ar := false, secured := false, secLevel := 0,
    fc := 0, body := [], mic := [], chorus := none }
def goodRx (ch : RxChan) (mode : Byte) : RxFrame :=
  { ch, rssi := 0, evmq := 0, mode, cfo := 0, tstamp := 0, shr := 0, frame := goodFrame }
/-- Segments without an entry in one of them. -/
def emptySeg : Segs := some [[]]
def longSeg : Segs := some [List.replicate 257 ⟨0, 16, 0, 0⟩]

theorem test_wf_register_address : Instr.wf (.registerStore .host .bar0 0xFFFFFF 4 0) = false := by decide
theorem test_wf_register_no_bytes : Instr.wf (.registerStore .host .bar0 0 0 0) = false := by decide
theorem test_wf_register_nine_bytes : Instr.wf (.registerStore .host .bar0 0 9 0) = false := by decide
theorem test_wf_register_space : Instr.wf (.registerStore .smbus .bar4 0 4 0) = false := by decide
theorem test_wf_doorbell_offset : Instr.wf (.submissionBell 0xFFFD 4 none) = false := by decide
theorem test_wf_completion_doorbell_no_bytes : Instr.wf (.completionBell 24 0 none) = false := by decide
theorem test_wf_scrub_line : Instr.wf (.sramScrub (.mapDirty 93750000) true) = false := by decide
theorem test_wf_invalidate_reads :
    Instr.wf (.contextBell 0x1000 4 none (List.replicate 38 none)) = false := by decide
theorem test_wf_log_page_segment : Instr.wf (.getLogPage emptySeg true) = false := by decide
theorem test_wf_segment_length : Segs.wf longSeg = false := by decide
theorem test_wf_read_segment : Instr.wf (.readBlocks 1 0 emptySeg [] true 0) = false := by decide
theorem test_wf_read_units : Instr.wf (.readBlocks 1 0 none (List.replicate 1025 .tier1) true 0) = false := by decide
theorem test_wf_write_segment : Instr.wf (.writeBlocks 1 0 emptySeg none .placed 0) = false := by decide
theorem test_wf_write_blocks :
    Instr.wf (.writeBlocks 1 0 none (some (List.replicate 1025 0)) .placed 0) = false := by decide
theorem test_wf_commit_too_many : Instr.wf (.unitCommit 0 (List.replicate 33 0)) = false := by decide
theorem test_wf_commit_location_die : Instr.wf (.unitCommit 0 [5 * 2 ^ 26]) = false := by decide
theorem test_wf_commit_location_block : Instr.wf (.unitCommit 0 [5504 * 8192]) = false := by decide
theorem test_wf_commit_location_page : Instr.wf (.unitCommit 0 [1536 * 4]) = false := by decide
theorem test_wf_fold_unit : Instr.wf (.foldBegin [(93750000, 0)]) = false := by decide
theorem test_wf_fold_release_unit : Instr.wf (.releaseFold 93750000 0 true true) = false := by decide
theorem test_wf_fold_release_location : Instr.wf (.releaseFold 0 (2 ^ 29) true true) = false := by decide
theorem test_wf_gc_unit : Instr.wf (.gcStart [(2 ^ 29, 0)]) = false := by decide
theorem test_wf_gc_location : Instr.wf (.gcStart [(0, 2 ^ 29)]) = false := by decide
theorem test_wf_scan_block : Instr.wf (.scanRefresh 0 5504) = false := by decide
theorem test_wf_retire_block : Instr.wf (.blockRetire 0 5504 none) = false := by decide
theorem test_wf_retire_replacement : Instr.wf (.blockRetire 0 0 (some 5504)) = false := by decide
theorem test_wf_rebuild_block : Instr.wf (.mapRebuild 93750000 false) = false := by decide
theorem test_wf_decode_receiver : Instr.wf (.frameDecoded .ghz24 (.ok (goodRx (.lead 0) 0x10))) = false := by decide
theorem test_wf_decode_mode : Instr.wf (.frameDecoded (.lead 0) (.ok (goodRx (.lead 0) 0x50))) = false := by decide
theorem test_wf_decode_rssi :
    Instr.wf (.frameDecoded .ghz24 (.ok { goodRx .ghz24 0x50 with rssi := 41 })) = false := by decide
theorem test_wf_decode_psdu :
    Instr.wf (.frameDecoded .ghz24 (.ok { goodRx .ghz24 0x50 with
        frame := { goodFrame with body := List.replicate 2030 0, mic := List.replicate 16 0 } })) = false := by decide
theorem test_wf_send_segment : Instr.wf (.sendFrame 0 emptySeg none ⟨0, none⟩) = false := by decide
theorem test_wf_send_mic :
    Instr.wf (.sendFrame 0 none (some { goodFrame with mic := List.replicate 17 0 }) ⟨0, none⟩) = false := by decide
theorem test_wf_slotmap_segment : Instr.wf (.planWrite emptySeg none false) = false := by decide
theorem test_wf_slotmap_length :
    Instr.wf (.planWrite none (some (List.replicate 6001 0)) false) = false := by decide +kernel
theorem test_wf_journal_segment : Instr.wf (.readJournal 1 0 emptySeg none [] [] true ⟨0, none⟩) = false := by decide
theorem test_wf_journal_clutch :
    Instr.wf (.readJournal 1 0 none none [(3906250, .tier1)] [] true ⟨0, none⟩) = false := by decide
theorem test_wf_adc_reference : Instr.wf (.adcConversionDone 0 899999 true) = false := by decide
theorem test_wf_adc_hop : Instr.wf (.adcTrigger (.task 16)) = false := by decide
theorem test_wf_adc_result_size : Instr.wf (.readAdcResult .host 0 3 6) = false := by decide
theorem test_wf_time_word_size : Instr.wf (.readTimeWord .host .cnt0 0 0) = false := by decide
theorem test_wf_cycle_size : Instr.wf (.readPmcCycl .host 0 0 9) = false := by decide
theorem test_wf_event_hop : Instr.wf (.eventRaise 0 16) = false := by decide
theorem test_wf_window_offset : Instr.wf (.readFlashWindow .host 32766 4 .clean) = false := by decide
theorem test_wf_spi_empty : Instr.wf (.spiWriteTransaction []) = false := by decide
theorem test_wf_flprog_lines : Instr.wf (.svcFlprog 257) = false := by decide
theorem test_wf_regwr_bytes : Instr.wf (.smbRegwr 7 (List.replicate 256 0) none) = false := by decide
theorem test_wf_regrd_bytes : Instr.wf (.smbRegrd 3 (List.replicate 256 0)) = false := by decide
theorem test_wf_good :
    ([.registerStore .host .bar0 0x010010 4 1, .frameDecoded (.lead 3) (.ok (goodRx (.lead 3) 0x46)), .unitCommit 0 [5],
      .smbRegrd 3 [0, 0, 0x14], .eventRaise 7 15, .slotStart, .releaseFold (2 ^ 27) 5 true true] : List Instr).all
      Instr.wf = true := by decide

/-! ### Worked examples of the spec, and the published check values of its CRCs -/

/-- The worked example after R365: alu1.r to mac.a, 1 to mac.n, g2 to mac.t.mul, a slot that does nothing. -/
theorem test_word_example_moves :
    movesOf 0xFFE00000300000022060000120000061 =
      [⟨0, 0x080, .port 0x061⟩, ⟨1, 0x081, .val 1⟩, ⟨2, 0x0C0, .port 0x002⟩] := by decide
/-- The same example: a literal of 32 bits for g4 takes two slots; one in slot 3 is ILLEGAL (R365). -/
theorem test_word_example_literal :
    movesOf 0xFFE00000FFE0000078000000010003FF = [⟨0, 0x004, .val 0x78000000⟩] ∧
      wordLegal 0x010003FFFFE00000FFE00000FFE00000 = false := by decide
/-- The worked example "speed loop": W9 and W16 (saturated), and the products of W10 and W11. -/
theorem test_alu_example :
    alu 13 0x40000000 805306368 = 268435456 ∧ alu 12 201326592 2013265920 = 0x7FFFFFFF ∧
      alu 6 742391808 16 = 11328 := by decide
theorem test_mac_example :
    (macOp [] 0xC0 268435456 0x60000000 1 6).r = 201326592 ∧
      (macOp [(0, BitVec.ofNat 72 (2 ^ 60))] 0xC8 268435456 0x02000000 0 6).r = 541065216 := by decide
/-- CRC-32 of IEEE 802.3 and CRC-8 of SMBus, over the digits 1 to 9. -/
theorem test_crc32_check_value : crc32 [49, 50, 51, 52, 53, 54, 55, 56, 57] = 0xCBF43926 := by decide
theorem test_crc8_check_value : crc8 [49, 50, 51, 52, 53, 54, 55, 56, 57] = 0xF4 := by decide
/-- R218's examples: EVMQ 94 gives LQI 157, RSSI 0xFE7B gives RSSIC 85. -/
theorem test_lqi_example : lqiOf 94 = 157 ∧ rssicOf 0xFE7B = 85 := by decide
/-- R476: 2000-01-01 is a Saturday, 2100 has no 29 February, the calendar ends with 9999. -/
theorem test_calendar_starts :
    (({ regs := [] } : State).calWords).2 = BitVec.ofNat 32 (1 + 256 * 2000 + 2 ^ 24 * 6) := by decide
theorem test_calendar_leap_years :
    civil (dayOf 2100 2 28 + 1) = (2100, 3, 1) ∧ civil (dayOf 2400 2 28 + 1) = (2400, 2, 29) := by decide
theorem test_calendar_ends :
    (dayOf 9999 12 31 - dayZero) * 86400 + 86399 = 252455615999 := by decide
/-- The worked example of the register index: EVM_CCTL5 at 0x0E_01BC, counter 3 of NEWT12 at 0x12_1C3C. -/
theorem test_register_index_example : R.EVM_CCTL 5 = 0x0E01BC ∧ R.PMC_CNT 12 3 = 0x121C3C := by decide

/-! ### Single steps -/

/-- R71 and R69: at reset the watchdog expects 0xA5A5. -/
theorem test_reset_kick_expects_first_value : State.reset.power.wdtKey = false := by decide
/-- R17: GLB_CAP0 as a host read over the link would return it. -/
theorem test_reset_capability_word : State.reset.rd R.GLB_CAP0 = 0xFB090184 := by decide
/-- The command at the front of the queue is taken, the next one waits. -/
theorem test_step_queue_order :
    (match step { witDoze with pending := [.perstnRelease, .idleEntry] } with
      | .next t => t.pending
      | _ => []) = [.idleEntry] := by decide
/-- An empty queue is one cycle of CK_RTC: the fraction goes from 7 to 8 (R470). -/
theorem test_step_idle_counts :
    (match step { regs := [], lehr := { frac := 7 } } with
      | .next t => t.lehr.frac.toNat
      | _ => 0) = 8 := by decide

/-! ### Witnesses: hypotheses of the statements that can be met -/

theorem witness_RegisterWritesFollowTheFieldTypes_1 : ∃ s : State, ∃ m : Master, ∃ a : Nat, ∃ d : Dword, ∃ r :
    RegDef, regDef a = some r ∧ a % 4 = 0 ∧ specialRegs.contains a = false ∧ s.reaches m a = true ∧ s.takesWrite m a
    = true ∧ ((∀ l ∈ r.legal, l.ok (d.setWidth 32) = true)) ∧ (s.lockedAt a = false ∨ r.rwl = 0) :=
  ⟨{ power := { phase := .run, d0run := true }, regs := [(R.GLB_STAT, 8)] }, .host, R.PWR_WAKEST, 0xFFFF, { w1c := 0xf3ff }, by decide⟩

theorem witness_RegisterWritesFollowTheFieldTypes_2 : ∃ s : State, ∃ m : Master, ∃ a : Nat, ∃ d : Dword, ∃ r :
    RegDef, regDef a = some r ∧ a % 4 = 0 ∧ specialRegs.contains a = false ∧ s.reaches m a = true ∧ s.takesWrite m a
    = true ∧ ((∀ l ∈ r.legal, l.ok (d.setWidth 32) = true)) ∧ s.lockedAt a = true ∧ d.setWidth 32 &&& r.rwl ≠ s.rd a
    &&& r.rwl :=
  ⟨{ power := { phase := .run, d0run := true }, regs := [(R.PWR_CTL, 0x400), (R.GLB_STAT, 8)] }, .host, R.PWR_RETSEL, 1, { rwl := 0xffffffff }, by decide⟩

theorem witness_AccessesThatNameNoWholeWord_1 : ∃ s : State, ∃ a : Nat, a % 4 = 0 ∧ s.masterUp .host = true :=
  ⟨{ power := { phase := .run, d0run := true }, regs := [] }, 0x10020, by decide⟩

theorem witness_AccessesThatNameNoWholeWord_2 : ∃ s : State, ∃ a : Nat, ∃ n : Nat, s.masterUp .host = true ∧
    s.mustWait .host a n = false ∧ s.refusedAt a = false ∧ 1 ≤ n ∧ n ≤ 4 ∧ (n < 4 ∨ a % 4 ≠ 0) ∧ (badvalOf (a /
    65536)).isSome = true :=
  ⟨{ power := { phase := .run, d0run := true }, regs := [(R.GLB_STAT, 8)] }, 0x10001, 4, by decide⟩

theorem witness_AccessesThatNameNoWholeWord_3 : ∃ s : State, ∃ a : Nat, ∃ n : Nat, 1 ≤ n ∧ n ≤ 4 ∧ a < 0x150000 ∧
    s.masterUp .host = true ∧ s.mustWait .host a n = true :=
  ⟨{ power := { phase := .run, d0run := true }, regs := [] }, 0x0F0001, 2, by decide⟩

theorem witness_AccessesThatNameNoWholeWord_4 : ∃ s : State, ∃ m : Master, ∃ a : Nat, a % 4 = 0 ∧ s.reaches m a =
    true ∧ s.refusedAt a = true :=
  ⟨{ power := { phase := .run, d0run := true, islands := 14 }, regs := [(R.GLB_STAT, 8), (R.PWR_STAT, 2)] }, .host, R.PMC_CYCL 0, by decide⟩

theorem witness_AccessesThatNameNoWholeWord_5 : ∃ s : State, ∃ m : Master, ∃ a : Nat, a % 4 = 0 ∧ a < 0x150000 ∧
    s.masterUp m = true ∧ crosses m a = true ∧ s.rb R.GLB_STAT 3 = false :=
  ⟨{ power := { phase := .run, d0run := true }, regs := [] }, .host, 0x0F0004, by decide⟩

theorem witness_DeviceResetsClearAndHold_1 : ∃ s : State, (s.power.phase = .run ∨ s.power.phase = .held) :=
  ⟨{ power := { phase := .run } }, by decide⟩

theorem witness_DeviceResetsClearAndHold_2 : ∃ s : State, (s.power.phase = .run ∨ s.power.phase = .held) :=
  ⟨{ power := { phase := .run } }, by decide⟩

theorem witness_DeviceResetsClearAndHold_3 : ∃ s : State, s.power.phase = .run ∧ s.power.ckref = true :=
  ⟨{ power := { phase := .run, ckref := true } }, by decide⟩

theorem witness_DeviceResetsClearAndHold_4 : ∃ s : State, ∃ p : Pll, s.power.phase = .run ∧ s.locked p = true :=
  ⟨{ power := { phase := .run, d1Locked := true } }, .d1, by decide⟩

theorem witness_DeviceResetsClearAndHold_5 : ∃ s : State, (s.power.phase = .run ∨ s.power.phase = .held) ∧
    (s.power.phase = .held ∨ s.rb R.RST_CTL 0 = false) :=
  ⟨{ power := { phase := .run } }, by decide⟩

theorem witness_DeviceResetsClearAndHold_6 : ∃ s : State, ∃ rails : List Rail, ∃ radio : List RadioRail,
    (s.power.phase = .run ∨ s.power.phase = .held) ∧ (rails ≠ [] ∨ radio ≠ []) :=
  ⟨{ power := { phase := .run } }, [.vddDdr], [], by decide⟩

theorem witness_ResetsThatEndAtOnceAndTheWatchdog_1 : ∃ s : State, ∃ m : Master, ∃ w : Word, s.power.phase = .run ∧
    s.reaches m R.RST_CTL = true ∧ bit 1 w = true ∧ fld 31 16 w = 0x5253 :=
  ⟨{ power := { phase := .run } }, .smbus, 0x52530002, by decide⟩

theorem witness_ResetsThatEndAtOnceAndTheWatchdog_2 : ∃ s : State, s.wdtActive = true ∧ s.power.wdtStage = false :=
  ⟨{ power := { phase := .run }, regs := [(R.RST_STAT, 0x20), (R.NWT_ROLE 7, 0x1F0010), (R.PWR_STAT, 0x78)] }, by decide⟩

theorem witness_ResetsThatEndAtOnceAndTheWatchdog_3 : ∃ s : State, s.wdtActive = true ∧ s.power.wdtStage = true :=
  ⟨{ power := { phase := .run, wdtStage := true }, regs := [(R.RST_STAT, 0x20), (R.NWT_ROLE 7, 0x1F0010), (R.PWR_STAT, 0x78)] }, by decide⟩

theorem witness_ResetsThatEndAtOnceAndTheWatchdog_4 : ∃ s : State, ∃ m : Master, ∃ w : Word, s.reaches m
    R.RST_WDT_KICK = true ∧ (fld 15 0 w = (if s.power.wdtKey then 0x5A5A else 0xA5A5)) :=
  ⟨{ power := { phase := .run, wdtKey := true } }, .smbus, 0x5A5A, by decide⟩

theorem witness_ResetsThatEndAtOnceAndTheWatchdog_5 : ∃ s : State, ∃ m : Master, ∃ w : Word, s.reaches m
    R.RST_WDT_KICK = true ∧ (fld 15 0 w ≠ (if s.power.wdtKey then 0x5A5A else 0xA5A5)) ∧ s.wdtActive = true :=
  ⟨{ power := { phase := .run }, regs := [(R.RST_STAT, 0x20), (R.NWT_ROLE 7, 0x1F0010), (R.PWR_STAT, 0x78)] }, .smbus, 0x5A5A, by decide⟩

theorem witness_ResetsEndWhenNothingHolds_1 : ∃ s : State, (s.power.phase ≠ .backup ∨ s.lehr.fromMain = true) :=
  ⟨{ power := { phase := .run } }, by decide⟩

theorem witness_ResetsEndWhenNothingHolds_2 : ∃ s : State, s.power.phase = .por :=
  ⟨{}, by decide⟩

theorem witness_ResetsEndWhenNothingHolds_3 : ∃ s : State, s.power.phase = .held ∧ ({ s with power.holds.sysrstn :=
    false } : State).released = true :=
  ⟨{ power := { phase := .held, holds := { porn := false, sysrstn := true } } }, by decide⟩

theorem witness_ResetsEndWhenNothingHolds_4 : ∃ s : State, ∃ rail : Rail, s.power.phase = .held ∧
    s.power.holds.brownout = [rail] ∧ ({ s with power.holds.brownout := [] } : State).released = true :=
  ⟨{ power := { phase := .held, holds := { porn := false, brownout := [.vddDdr] } } }, .vddDdr, by decide⟩

theorem witness_ResetsEndWhenNothingHolds_5 : ∃ s : State, ∃ rail : Rail, s.power.phase = .held ∧
    s.power.holds.sequence = [rail] ∧ ({ s with power.holds.sequence := [] } : State).released = true :=
  ⟨{ power := { phase := .held, holds := { porn := false, sequence := [.vddDdr] } } }, .vddDdr, by decide⟩

theorem witness_ResetsEndWhenNothingHolds_6 : ∃ s : State, s.power.phase = .held ∧ ({ s with power.holds.perstn :=
    false } : State).released = true :=
  ⟨{ power := { phase := .held, holds := { porn := false, perstn := true } } }, by decide⟩

theorem witness_ResetsEndWhenNothingHolds_7 : ∃ s : State, s.power.phase = .run ∧ s.pstate = 3 ∧ s.rb R.PWR_WAKEEN 8
    = true :=
  ⟨{ power := { phase := .run }, regs := [(R.PWR_STAT, 3)] }, by decide⟩

theorem witness_ResetsEndWhenNothingHolds_8 : ∃ s : State, s.power.phase = .run ∧ s.rb R.RST_CTL 0 = true :=
  ⟨{ power := { phase := .run }, regs := [(R.RST_CTL, 1)] }, by decide⟩

theorem witness_BringUpFollowsItsSteps_1 : ∃ s : State, s.power.phase = .run ∧ s.power.strapped = false ∧
    s.power.sampled = false :=
  ⟨{ power := { phase := .run } }, by decide⟩

theorem witness_BringUpFollowsItsSteps_2 : ∃ s : State, s.power.phase = .run ∧ s.power.strapped = true ∧
    s.power.sampled = false :=
  ⟨{ power := { phase := .run, strapped := true } }, by decide⟩

theorem witness_BringUpFollowsItsSteps_3 : ∃ s : State, s.power.phase = .run ∧ s.power.sampled = true ∧
    s.power.ckref = false ∧ s.pstate ≠ 3 ∧ (s.power.waking ≠ .fromHush ∨ s.power.settled = true) :=
  ⟨{ power := { phase := .run, sampled := true } }, by decide⟩

theorem witness_BringUpFollowsItsSteps_4 : ∃ s : State, s.power.phase = .held ∧ s.power.holds.clockFail = true :=
  ⟨{ power := { phase := .held, holds := { clockFail := true } } }, by decide⟩

theorem witness_BringUpFollowsItsSteps_5 : ∃ s : State, s.power.phase = .run ∧ s.power.ckref = true :=
  ⟨{ power := { phase := .run, ckref := true } }, by decide⟩

theorem witness_BringUpFollowsItsSteps_6 : ∃ s : State, s.power.phase = .run ∧ s.power.ckref = true ∧
    s.power.d1Locked = true ∧ s.readyBits = 1 :=
  ⟨{ power := { phase := .run, ckref := true, d1Locked := true }, regs := [(R.PWR_STAT, 8)] }, by decide⟩

theorem witness_BringUpFollowsItsSteps_7 : ∃ s : State, s.power.phase = .run ∧ s.power.ckref = true ∧ s.readyBits =
    1 :=
  ⟨{ power := { phase := .run, ckref := true }, regs := [(R.PWR_STAT, 8)] }, by decide⟩

theorem witness_BringUpFollowsItsSteps_8 : ∃ s : State, s.power.phase = .run ∧ s.readyBits = 3 :=
  ⟨{ power := { phase := .run }, regs := [(R.PWR_STAT, 0x18)] }, by decide⟩

theorem witness_BringUpFollowsItsSteps_9 : ∃ s : State, s.power.phase = .run ∧ s.rb R.PWR_STAT 5 = true ∧
    s.power.waking = .no :=
  ⟨{ power := { phase := .run } }, by decide⟩

theorem witness_BringUpFollowsItsSteps_10 : ∃ s : State, s.d0up = true ∧ s.pstate ≤ 1 :=
  ⟨{ power := { phase := .run, d0run := true } }, by decide⟩

theorem witness_BringUpFollowsItsSteps_11 : ∃ s : State, s.d0up = true ∧ s.power.dramOn = true ∧ s.power.bootHeld =
    false :=
  ⟨{ power := { phase := .run, d0run := true, dramOn := true } }, by decide⟩

theorem witness_LogicReleaseBootAndTheDieLink_1 : ∃ s : State, s.power.phase = .run ∧ s.readyBits = 7 ∧
    s.power.waking = .no :=
  ⟨{ power := { phase := .run }, regs := [(R.PWR_STAT, 0x38)] }, by decide⟩

theorem witness_LogicReleaseBootAndTheDieLink_2 : ∃ s : State, s.power.phase = .run ∧ s.readyBits = 7 ∧
    s.power.waking = .fromDoze ∧ s.power.settled = true :=
  ⟨{ power := { phase := .run, waking := .fromDoze, settled := true }, regs := [(R.PWR_STAT, 0x3C)] }, by decide⟩

theorem witness_LogicReleaseBootAndTheDieLink_3 : ∃ s : State, s.power.phase = .run ∧ s.readyBits = 7 ∧
    s.power.waking = .fromHush :=
  ⟨{ power := { phase := .run, waking := .fromHush }, regs := [(R.PWR_STAT, 0x3C)] }, by decide⟩

theorem witness_LogicReleaseBootAndTheDieLink_5 : ∃ s : State, s.d0up = true ∧ s.rb R.PWR_STAT 6 = true ∧ s.rb
    R.GLB_STAT 3 = false :=
  ⟨{ power := { phase := .run, d0run := true } }, by decide⟩

theorem witness_LogicReleaseBootAndTheDieLink_6 : ∃ s : State, ∃ h : HeldAccess, ∃ r : List HeldAccess, s.link.held
    = h :: r ∧ s.rb R.GLB_STAT 3 = false :=
  ⟨{ link := { held := [⟨.host, true, R.LEHR_OFS, 4, 0⟩] } }, ⟨.host, true, R.LEHR_OFS, 4, 0⟩, [], by decide⟩

theorem witness_LogicReleaseBootAndTheDieLink_7 : ∃ s : State, s.rb R.GLB_STAT 3 = true :=
  ⟨{ regs := [(R.GLB_STAT, 8)] }, by decide⟩

theorem witness_LogicReleaseBootAndTheDieLink_8 : ∃ s : State, ∃ m : Master, s.rb R.GLB_STAT 3 = true ∧
    s.link.regRetries = 3 ∧ (∀ k, m ≠ .newt k) :=
  ⟨{ regs := [(R.GLB_STAT, 8)], link := { regRetries := 3 } }, .host, by decide⟩

theorem witness_LogicReleaseBootAndTheDieLink_9 : ∃ s : State, ∃ n : Fin 16, ∃ r : RegReq, ∃ l : List RegReq, s.rb
    R.GLB_STAT 3 = true ∧ s.link.regRetries = 3 ∧ (s.newt n.val).regq = r :: l ∧ crosses (.newt n) r.addr = true :=
  ⟨{ regs := [(R.GLB_STAT, 8)], link := { regRetries := 3 }, newts := [(3, { regq := [{ store := false, addr := R.LEHR_OFS, data := 0, pc := 0 }] })] }, 3, { store := false, addr := R.LEHR_OFS, data := 0, pc := 0 }, [], by decide⟩

theorem witness_LogicReleaseBootAndTheDieLink_10 : ∃ s : State, s.rb R.GLB_STAT 3 = false :=
  ⟨{}, by decide⟩

theorem witness_LogicReleaseBootAndTheDieLink_11 : ∃ s : State, s.rb R.GLB_STAT 3 = true ∧ s.link.regRetries < 3 :=
  ⟨{ regs := [(R.GLB_STAT, 8)] }, by decide⟩

theorem witness_LogicReleaseBootAndTheDieLink_12 : ∃ s : State, s.rb R.GLB_STAT 3 = true ∧ s.link.smpRetries < 3 :=
  ⟨{ regs := [(R.GLB_STAT, 8)] }, by decide⟩

theorem witness_LogicReleaseBootAndTheDieLink_13 : ∃ s : State, s.rb R.GLB_STAT 3 = true ∧ s.link.smpRetries = 3 :=
  ⟨{ regs := [(R.GLB_STAT, 8)], link := { smpRetries := 3 } }, by decide⟩

theorem witness_LogicReleaseBootAndTheDieLink_14 : ∃ s : State, ∃ m : Master, ∃ w : Word, s.reaches m R.CLK_CDCLOST
    = true ∧ bit 31 w = true :=
  ⟨{ power := { phase := .run, d0run := true } }, .host, 0x80000000, by decide⟩

theorem witness_LogicReleaseBootAndTheDieLink_15 : ∃ s : State, s.d0up = true :=
  ⟨{ power := { phase := .run, d0run := true } }, by decide⟩

theorem witness_LogicReleaseBootAndTheDieLink_16 : ∃ s : State, s.d0up = true :=
  ⟨{ power := { phase := .run, d0run := true } }, by decide⟩

theorem witness_LogicReleaseBootAndTheDieLink_17 : ∃ s : State, s.d0up = false :=
  ⟨{}, by decide⟩

theorem witness_LogicReleaseBootAndTheDieLink_18 : ∃ s : State, ∃ n : Fin 16, s.d0up = true ∧ (s.newtGated n.val =
    true ∨ s.running n.val = false) :=
  ⟨{ power := { phase := .run, d0run := true }, regs := [(R.NWT_CST 3, 4)] }, 3, by decide⟩

theorem witness_LogicReleaseBootAndTheDieLink_19 : ∃ s : State, ∃ n : Fin 16, s.d0up = true ∧ s.newtGated n.val =
    false ∧ s.running n.val = true :=
  ⟨{ power := { phase := .run, d0run := true }, regs := [(R.NWT_CST 3, 0)] }, 3, by decide⟩

theorem witness_LogicReleaseBootAndTheDieLink_20 : ∃ s : State, s.d0up = true :=
  ⟨{ power := { phase := .run, d0run := true } }, by decide⟩

theorem witness_LogicReleaseBootAndTheDieLink_21 : ∃ s : State, s.d0up = true :=
  ⟨{ power := { phase := .run, d0run := true } }, by decide⟩

theorem witness_LogicReleaseBootAndTheDieLink_22 : ∃ s : State, s.d0up = true :=
  ⟨{ power := { phase := .run, d0run := true } }, by decide⟩

theorem witness_LogicReleaseBootAndTheDieLink_23 : ∃ s : State, s.d0up = true :=
  ⟨{ power := { phase := .run, d0run := true } }, by decide⟩

theorem witness_BackupSupplyAndCrystal_1 : ∃ s : State, s.power.phase ≠ .backup :=
  ⟨{ power := { phase := .run } }, by decide⟩

theorem witness_BackupSupplyAndCrystal_2 : ∃ s : State, s.power.phase = .backup ∧ s.lehr.fromMain = false :=
  ⟨{ power := { phase := .backup }, lehr := { fromMain := false } }, by decide⟩

theorem witness_BackupSupplyAndCrystal_3 : ∃ s : State, s.lehr.qualifying = true :=
  ⟨{ power := { phase := .backup }, lehr := { fromMain := false, qualifying := true } }, by decide⟩

theorem witness_BackupSupplyAndCrystal_4 : ∃ s : State, s.lehr.ckAo = true :=
  ⟨{}, by decide⟩

theorem witness_BackupSupplyAndCrystal_5 : ∃ s : State, s.lehr.ckAo = false :=
  ⟨{ lehr := { ckAo := false } }, by decide⟩

theorem witness_BackupSupplyAndCrystal_6 : ∃ s : State, s.lehr.ckAo = true :=
  ⟨{}, by decide⟩

theorem witness_PowerStatesAreEnteredOnTheirConditions_1 : ∃ s : State, s.d0up = true ∧ s.pstate = 0 ∧ s.rb
    R.PWR_CTL 0 = true ∧ s.dataIdle = true :=
  ⟨{ power := { phase := .run, d0run := true }, regs := (R.STO_STAT, 2) :: (List.range 16).map fun n => (R.NWT_CST n, 3) }, by decide⟩

theorem witness_PowerStatesAreEnteredOnTheirConditions_2 : ∃ s : State, ∃ u : State, s.d0up = true ∧ s.pstate = 1 ∧
    s.rb R.PWR_CTL 1 = true ∧ s.dozeOk = true ∧ u = ({ s with power.wakeToRun := false } : State).drained ∧ u.d0up =
    true ∧ u.pstate ≤ 1 ∧ u.dozeOk = true ∧ u.power.wakeToRun = false :=
  ⟨witDoze, ({ witDoze with power.wakeToRun := false } : State).drained, by decide⟩

theorem witness_PowerStatesAreEnteredOnTheirConditions_3 : ∃ s : State, s.d0up = true ∧ s.pstate = 1 ∧ s.rb
    R.PWR_CTL 1 = true ∧ s.dozeOk = false :=
  ⟨{ power := { phase := .run, d0run := true }, regs := [(R.PWR_CTL, 2), (R.PWR_STAT, 1)] }, by decide⟩

theorem witness_PowerStatesAreEnteredOnTheirConditions_4 : ∃ s : State, ∃ m : Master, ∃ w : Word, ∃ u : State,
    s.reaches m R.PWR_CTL = true ∧ fld 9 8 w = 2 ∧ s.pstate ≤ 1 ∧ (s.pwrCtlWrite w).dozeOk = true ∧ u = ({
    s.pwrCtlWrite w with power.wakeToRun := false } : State).drained ∧ u.d0up = true ∧ u.pstate ≤ 1 ∧ u.dozeOk =
    true ∧ u.power.wakeToRun = false :=
  ⟨witDoze, .host, 0x202, ({ witDoze.pwrCtlWrite 0x202 with power.wakeToRun := false } : State).drained, by decide⟩

theorem witness_PowerStatesAreEnteredOnTheirConditions_5 : ∃ s : State, ∃ m : Master, ∃ w : Word, s.reaches m
    R.PWR_CTL = true ∧ fld 9 8 w = 2 ∧ (s.pwrCtlWrite w).dozeOk = false :=
  ⟨{ power := { phase := .run, d0run := true }, regs := [(R.PWR_STAT, 0x78), (R.GLB_STAT, 8)] }, .host, 0x200, by decide⟩

theorem witness_PowerStatesAreEnteredOnTheirConditions_6 : ∃ s : State, ∃ u : State, s.hushOk = true ∧ u =
    ((List.finRange 16).filter fun n => decide (12 ≤ n.val)).foldl State.regDrain  s ∧ u.hushOk = true ∧
    u.power.phase = .run :=
  ⟨witHush, ((List.finRange 16).filter fun n => decide (12 ≤ n.val)).foldl State.regDrain  witHush, by decide⟩

theorem witness_PowerStatesAreEnteredOnTheirConditions_7 : ∃ s : State, ∃ m : Master, ∃ w : Word, ∃ u : State,
    s.reaches m R.PWR_CTL = true ∧ fld 9 8 w = 3 ∧ s.pstate = 2 ∧ (s.pwrCtlWrite w).hushOk = true ∧ u =
    ((List.finRange 16).filter fun n => decide (12 ≤ n.val)).foldl State.regDrain  (s.pwrCtlWrite w) ∧ u.hushOk =
    true :=
  ⟨witHush, .host, 0x306, ((List.finRange 16).filter fun n => decide (12 ≤ n.val)).foldl State.regDrain  (witHush.pwrCtlWrite 0x306), by decide⟩

theorem witness_PowerStatesAreEnteredOnTheirConditions_8 : ∃ s : State, ∃ m : Master, ∃ w : Word, s.reaches m
    R.PWR_CTL = true ∧ fld 9 8 w = 3 ∧ (s.pwrCtlWrite w).hushOk = false :=
  ⟨{ power := { phase := .run, d0run := true }, regs := [(R.PWR_STAT, 0x78), (R.GLB_STAT, 8)] }, .host, 0x300, by decide⟩

theorem witness_WakesStartAndReachTheirStates_1 : ∃ s : State, ∃ c : WakeSrc, s.power.phase = .run ∧ s.wakeEnabled c
    = true ∧ s.pstate = 2 ∧ (wakesFrom c).1 = true :=
  ⟨{ power := { phase := .run }, regs := [(R.PWR_STAT, 2)] }, .mbx, by decide⟩

theorem witness_WakesStartAndReachTheirStates_2 : ∃ s : State, ∃ c : WakeSrc, s.power.phase = .run ∧ s.wakeEnabled c
    = true ∧ s.pstate = 3 ∧ (wakesFrom c).2 = true :=
  ⟨{ power := { phase := .run }, regs := [(R.PWR_STAT, 3)] }, .alarm, by decide⟩

theorem witness_WakesStartAndReachTheirStates_3 : ∃ s : State, ∃ c : WakeSrc, s.power.phase = .run ∧ s.wakeEnabled c
    = true ∧ s.pstate = 1 :=
  ⟨{ power := { phase := .run }, regs := [(R.PWR_STAT, 1)] }, .mbx, by decide⟩

theorem witness_WakesStartAndReachTheirStates_4 : ∃ s : State, ∃ c : WakeSrc, s.power.phase = .run ∧ s.wakeEnabled c
    = true ∧ s.pstate = 4 :=
  ⟨{ power := { phase := .run }, regs := [(R.PWR_STAT, 4)] }, .mbx, by decide⟩

theorem witness_WakesStartAndReachTheirStates_5 : ∃ s : State, ∃ c : WakeSrc, s.canEnter = true ∧ s.wakeEnabled c =
    true :=
  ⟨witHush, .alarm, by decide⟩

theorem witness_WakesStartAndReachTheirStates_6 : ∃ s : State, ∃ m : Master, ∃ w : Word, s.power.phase = .run ∧
    s.reaches m R.PWR_CTL = true ∧ fld 9 8 w = 1 ∧ s.pstate = 2 :=
  ⟨{ power := { phase := .run, d0run := true }, regs := [(R.PWR_STAT, 2), (R.GLB_STAT, 8)] }, .host, 0x100, by decide⟩

theorem witness_WakesStartAndReachTheirStates_7 : ∃ s : State, ∃ m : Master, ∃ w : Word, s.power.phase = .run ∧
    s.reaches m R.PWR_CTL = true ∧ fld 9 8 w = 1 ∧ s.pstate ≤ 1 :=
  ⟨{ power := { phase := .run, d0run := true }, regs := [(R.PWR_STAT, 1), (R.GLB_STAT, 8)] }, .host, 0x100, by decide⟩

theorem witness_WakesStartAndReachTheirStates_8 : ∃ s : State, ∃ a : BitVec 7, s.power.phase = .run ∧ s.pstate = 3 ∧
    s.rb R.PWR_WAKEEN 0 = true ∧ a.toNat = 0x58 + s.rf R.RST_STRAP 2 0 :=
  ⟨{ power := { phase := .run }, regs := [(R.PWR_STAT, 3)] }, 0x58, by decide⟩

theorem witness_WakesStartAndReachTheirStates_9 : ∃ s : State, s.power.waking = .fromHush :=
  ⟨{ power := { waking := .fromHush } }, by decide⟩

theorem witness_WakesStartAndReachTheirStates_10 : ∃ s : State, s.power.waking = .fromDoze ∧ s.readyBits = 7 :=
  ⟨{ power := { waking := .fromDoze }, regs := [(R.PWR_STAT, 0x3C)] }, by decide⟩

theorem witness_WakesStartAndReachTheirStates_11 : ∃ s : State, s.power.waking = .fromDoze ∧ s.readyBits = 7 :=
  ⟨{ power := { waking := .fromDoze }, regs := [(R.PWR_STAT, 0x3C)] }, by decide⟩

theorem witness_WakesStartAndReachTheirStates_12 : ∃ s : State, s.d0up = true ∧ s.pstate ≠ 3 :=
  ⟨{ power := { phase := .run, d0run := true } }, by decide⟩

theorem witness_WakesStartAndReachTheirStates_13 : ∃ s : State, s.power.bootHeld = false :=
  ⟨{}, by decide⟩

theorem witness_EventsAreWrittenHeldOrCounted_1 : ∃ s : State, s.power.phase = .run ∧ s.evReady = true ∧ s.hri.held
    = [] ∧ s.hri.lostRun = 0 :=
  ⟨{ power := { phase := .run, d0run := true }, regs := [], hri := { queues := [(35, { exists' := true, sqsize := 8, cqsize := 8 })] } }, by decide⟩

theorem witness_EventsAreWrittenHeldOrCounted_2 : ∃ s : State, s.power.phase = .run ∧ (s.evReady = false ∨
    s.hri.held ≠ [] ∨ s.hri.lostRun ≠ 0) ∧ s.hri.held.length < 64 :=
  ⟨{ power := { phase := .run, d0run := true } }, by decide⟩

theorem witness_EventsAreWrittenHeldOrCounted_3 : ∃ s : State, s.power.phase = .run ∧ 64 ≤ s.hri.held.length :=
  ⟨{ power := { phase := .run, d0run := true }, hri := { held := List.replicate 64 ⟨1, 0, 0, 0, 0, 0⟩ } }, by decide⟩

theorem witness_EventsAreWrittenHeldOrCounted_4 : ∃ s : State, s.power.phase ≠ .run :=
  ⟨{}, by decide⟩

theorem witness_EventsAreWrittenHeldOrCounted_5 : ∃ s : State, ∃ e : Event, s.hri.held = [e] ∧ s.hri.lostRun = 0 ∧
    s.evReady = true :=
  ⟨{ power := { phase := .run, d0run := true }, regs := [], hri := { queues := [(35, { exists' := true, sqsize := 8, cqsize := 8 })], held := [⟨1, 0, 0, 0, 0, 0⟩] } }, ⟨1, 0, 0, 0, 0, 0⟩, by decide⟩

theorem witness_EventsAreWrittenHeldOrCounted_6 : ∃ s : State, s.hri.held = [] ∧ s.hri.lostRun ≠ 0 ∧ s.evReady =
    true :=
  ⟨{ power := { phase := .run, d0run := true }, regs := [], hri := { queues := [(35, { exists' := true, sqsize := 8, cqsize := 8 })], lostRun := 3 } }, by decide⟩

theorem witness_EventsAreWrittenHeldOrCounted_7 : ∃ s : State, s.evReady = false :=
  ⟨{}, by decide⟩

theorem witness_EntriesAndBuffersReachHostMemory_1 : ∃ s : State, ∃ n : Nat, ∃ l : List Byte,
    s.hri.badAddrs.contains ((s.q n).cqbase + (s.q n).cqtail * l.length) = false :=
  ⟨{}, 3, [1, 2], by decide⟩

theorem witness_EntriesAndBuffersReachHostMemory_2 : ∃ s : State, ∃ n : Nat, ∃ l : List Byte,
    s.hri.badAddrs.contains ((s.q n).cqbase + (s.q n).cqtail * l.length) = true :=
  ⟨{ hri := { badAddrs := [0] } }, 3, [1, 2], by decide⟩

theorem witness_EntriesAndBuffersReachHostMemory_3 : ∃ s : State, ∃ c : Compl, (s.q c.queue).exists' = true ∧
    s.hri.d3hot = false ∧ s.hri.badAddrs.contains ((s.q c.queue).cqbase + (s.q c.queue).cqtail * 16) = false :=
  ⟨{ power := { phase := .run, d0run := true }, regs := [], hri := { queues := [(1, { exists' := true, sqsize := 8, cqsize := 8 })] } }, { queue := 1, tag := 7, typ := 0, code := 0, frz := false, result := 0 }, by decide⟩

theorem witness_EntriesAndBuffersReachHostMemory_4 : ∃ s : State, ∃ c : Compl, (s.q c.queue).exists' = true ∧
    s.hri.d3hot = false ∧ s.hri.badAddrs.contains ((s.q c.queue).cqbase + (s.q c.queue).cqtail * 16) = true :=
  ⟨{ power := { phase := .run, d0run := true }, regs := [], hri := { queues := [(1, { exists' := true, sqsize := 8, cqsize := 8 })], badAddrs := [0] } }, { queue := 1, tag := 7, typ := 0, code := 0, frz := false, result := 0 }, by decide⟩

theorem witness_EntriesAndBuffersReachHostMemory_5 : ∃ s : State, ∃ c : Compl, (s.q c.queue).exists' = true ∧
    s.hri.d3hot = true :=
  ⟨{ power := { phase := .run, d0run := true }, regs := [], hri := { queues := [(1, { exists' := true, sqsize := 8, cqsize := 8 })], d3hot := true } }, { queue := 1, tag := 7, typ := 0, code := 0, frz := false, result := 0 }, by decide⟩

theorem witness_EntriesAndBuffersReachHostMemory_6 : ∃ s : State, ∃ c : Compl, (s.q c.queue).exists' = false :=
  ⟨{}, { queue := 1, tag := 7, typ := 0, code := 0, frz := false, result := 0 }, by decide⟩

theorem witness_EntriesAndBuffersReachHostMemory_7 : ∃ c : Cmd, ∃ segs : Segs, ∃ len : Nat, ∃ off : Nat, ∃ a : Nat,
    ∃ j : Nat, ∃ l : List Byte, j < l.length ∧ bufAddr (bufRanges c segs len) (off + j) = some a ∧ ((∀ i < l.length,
    j < i → bufAddr (bufRanges c segs len) (off + i) ≠ some a)) :=
  ⟨{ entry := 0x1000000000000000100 }, none, 16, 4, 0x104, 0, [9], by decide⟩

theorem witness_EntriesAndBuffersReachHostMemory_8 : ∃ c : Cmd, ∃ segs : Segs, ∃ len : Nat, ∃ off : Nat, ∃ a : Nat,
    ∃ l : List Byte, ((∀ i < l.length, bufAddr (bufRanges c segs len) (off + i) ≠ some a)) :=
  ⟨{}, none, 16, 4, 0, [9], by decide⟩

theorem witness_RingsSignalTheirVectors_1 : ∃ s : State, ∃ n : Nat, (s.q n).ien = false :=
  ⟨{}, 1, by decide⟩

theorem witness_RingsSignalTheirVectors_2 : ∃ s : State, ∃ n : Nat, ∃ urgent : Bool, (s.q n).ien = true ∧ (urgent =
    true ∨ ((s.q n).cthresh = 0 ∧ (s.q n).ctime = 0) ∨ ((s.q n).cthresh ≠ 0 ∧ (s.q n).cthresh ≤ (s.q n).count + 1))
    :=
  ⟨{ power := { phase := .run, d0run := true }, regs := [], hri := { queues := [(1, { exists' := true, sqsize := 8, cqsize := 8, ien := true })] } }, 1, false, by decide⟩

theorem witness_RingsSignalTheirVectors_3 : ∃ s : State, ∃ n : Nat, (s.q n).ien = true ∧ ((s.q n).cthresh ≠ 0 ∨ (s.q
    n).ctime ≠ 0) ∧ ((s.q n).cthresh = 0 ∨ (s.q n).count + 1 < (s.q n).cthresh) :=
  ⟨{ power := { phase := .run, d0run := true }, regs := [], hri := { queues := [(1, { exists' := true, sqsize := 8, cqsize := 8, ien := true, ctime := 5 })] } }, 1, by decide⟩

theorem witness_RingsSignalTheirVectors_4 : ∃ s : State, ∃ v : Nat, s.hri.msixEnable = true ∧ (s.vec v).masked =
    false ∧ s.hri.funcMask = false ∧ s.hri.d3hot = false :=
  ⟨{ hri := { msixEnable := true, vectors := [(2, { masked := false })] } }, 2, by decide⟩

theorem witness_RingsSignalTheirVectors_5 : ∃ s : State, ∃ v : Nat, s.hri.msixEnable = true ∧ ((s.vec v).masked =
    true ∨ s.hri.funcMask = true ∨ s.hri.d3hot = true) :=
  ⟨{ hri := { msixEnable := true } }, 2, by decide⟩

theorem witness_RingsSignalTheirVectors_6 : ∃ s : State, s.hri.msixEnable = false :=
  ⟨{}, by decide⟩

theorem witness_RingsSignalTheirVectors_7 : ∃ s : State, ∃ q : Fin 37, s.d0up = true ∧ (s.q q.val).exists' = true ∧
    (s.q q.val).timer = true ∧ (s.q q.val).ien = true ∧ (s.q q.val).ctime ≠ 0 :=
  ⟨{ power := { phase := .run, d0run := true }, regs := [], hri := { queues := [(1, { exists' := true, sqsize := 8, cqsize := 8, timer := true, ien := true, ctime := 5 })] } }, 1, by decide⟩

theorem witness_RingsSignalTheirVectors_8 : ∃ s : State, ∃ q : Fin 37, ((s.q q.val).ien = false ∨ (s.q q.val).ctime
    = 0) :=
  ⟨{}, 1, by decide⟩

theorem witness_RingsSignalTheirVectors_9 : ∃ s : State, s.bar2Up = true ∧ s.hri.msixEnable = true ∧ s.hri.funcMask
    = false :=
  ⟨{ power := { phase := .run, d0run := true }, hri := { msixEnable := true } }, by decide⟩

theorem witness_RingsSignalTheirVectors_10 : ∃ s : State, s.bar2Up = true ∧ (s.hri.msixEnable = false ∨
    s.hri.funcMask = true) :=
  ⟨{ power := { phase := .run, d0run := true } }, by decide⟩

theorem witness_RingsSignalTheirVectors_11 : ∃ s : State, s.bar2Up = true :=
  ⟨{ power := { phase := .run, d0run := true } }, by decide⟩

theorem witness_RingsSignalTheirVectors_12 : ∃ s : State, s.bar2Up = true :=
  ⟨{ power := { phase := .run, d0run := true } }, by decide⟩

theorem witness_RingsSignalTheirVectors_13 : ∃ s : State, ∃ d : Dword, s.bar2Up = true ∧ d.getLsbD 0 = true ∧
    (s.hri.msixEnable = false ∨ s.hri.funcMask = true) :=
  ⟨{ power := { phase := .run, d0run := true } }, 1, by decide⟩

theorem witness_RingsSignalTheirVectors_14 : ∃ s : State, s.d0up = true ∧ s.rb R.RST_STAT 5 = true :=
  ⟨{ power := { phase := .run, d0run := true }, regs := [(R.RST_STAT, 0x20)] }, by decide⟩

theorem witness_RingsSignalTheirVectors_15 : ∃ s : State, s.d0up = true ∧ s.rb R.RST_STAT 5 = false :=
  ⟨{ power := { phase := .run, d0run := true } }, by decide⟩

theorem witness_DoorbellsMoveHeadsAndTails_1 : ∃ s : State, ∃ off : Nat, ∃ size : Nat, ∃ d : Dword, ∃ q : Fin 37, ∃
    v : Nat, doorbellAt off size d = some (16 * q.val, v) ∧ s.bar2Up = true ∧ (s.q q.val).exists' = true ∧ q.val ≠
    34 ∧ q.val ≠ 35 ∧ v % 65536 < (s.q q.val).sqsize :=
  ⟨{ power := { phase := .run, d0run := true }, regs := [], hri := { queues := [(1, { exists' := true, sqsize := 8, cqsize := 8 })] } }, 16, 8, 7, 1, 7, by decide⟩

theorem witness_DoorbellsMoveHeadsAndTails_2 : ∃ s : State, ∃ off : Nat, ∃ size : Nat, ∃ d : Dword, ∃ q : Fin 37, ∃
    v : Nat, doorbellAt off size d = some (16 * q.val, v) ∧ (q.val = 34 ∨ q.val = 35 ∨ (s.q q.val).exists' = false ∨
    (s.q q.val).sqsize ≤ v % 65536) ∧ s.rb R.HRI_STAT 4 = true :=
  ⟨{ regs := [(R.HRI_STAT, 16)] }, 16, 8, 8, 1, 8, by decide⟩

theorem witness_DoorbellsMoveHeadsAndTails_3 : ∃ s : State, ∃ off : Nat, ∃ size : Nat, ∃ d : Dword, ∃ q : Fin 37, ∃
    v : Nat, doorbellAt off size d = some (16 * q.val + 8, v) ∧ s.bar2Up = true ∧ (s.q q.val).exists' = true ∧ v %
    65536 ≠ (s.q q.val).cqhead ∧ v % 65536 < (s.q q.val).cqsize ∧ (v % 65536 + (s.q q.val).cqsize - (s.q
    q.val).cqhead) % (s.q q.val).cqsize ≤ (s.q q.val).used :=
  ⟨{ power := { phase := .run, d0run := true }, regs := [], hri := { queues := [(1, { exists' := true, sqsize := 8, cqsize := 8, cqtail := 3 })] } }, 24, 8, 3, 1, 3, by decide⟩

theorem witness_DoorbellsMoveHeadsAndTails_4 : ∃ s : State, ∃ off : Nat, ∃ size : Nat, ∃ d : Dword, ∃ v : Nat, ∃ e :
    Entry, ∃ n : Nat, doorbellAt off size d = some (0x1000, v) ∧ s.bar2Up = true ∧ v % 65536 = n ∧ n ≤ 36 ∧ (s.q
    n).exists' = true ∧ ctxOffends n (s.q n) e = none :=
  ⟨{ power := { phase := .run, d0run := true }, regs := [], hri := { queues := [(1, { exists' := true, sqsize := 8, cqsize := 8, kind := 2 })] } }, 0x1000, 8, 1, 1, 0x309000800080102, 1, by decide⟩

theorem witness_DoorbellsMoveHeadsAndTails_5 : ∃ s : State, ∃ off : Nat, ∃ size : Nat, ∃ d : Dword, ∃ v : Nat, ∃ e :
    Entry, ∃ n : Nat, ∃ o : Nat, doorbellAt off size d = some (0x1000, v) ∧ s.bar2Up = true ∧ v % 65536 = n ∧ n ≤ 36
    ∧ (s.q n).exists' = true ∧ ctxOffends n (s.q n) e = some o :=
  ⟨{ power := { phase := .run, d0run := true }, regs := [], hri := { queues := [(1, { exists' := true, sqsize := 8, cqsize := 8, kind := 2 })] } }, 0x1000, 8, 1, 1, 0x309000800090102, 1, 2, by decide⟩

theorem witness_DoorbellsMoveHeadsAndTails_6 : ∃ s : State, ∃ off : Nat, ∃ size : Nat, ∃ d : Dword, ∃ v : Nat, ∃ n :
    Nat, doorbellAt off size d = some (0x1000, v) ∧ s.bar2Up = true ∧ v % 65536 = n ∧ n ≤ 36 ∧ (s.q n).exists' =
    true :=
  ⟨{ power := { phase := .run, d0run := true }, regs := [], hri := { queues := [(1, { exists' := true, sqsize := 8, cqsize := 8 })] } }, 0x1000, 8, 1, 1, 1, by decide⟩

theorem witness_DoorbellsMoveHeadsAndTails_7 : ∃ s : State, ∃ off : Nat, ∃ size : Nat, ∃ d : Dword, ∃ v : Nat,
    doorbellAt off size d = some (0x1000, v) ∧ v % 65536 ≠ 0xFFFF ∧ ((s.q (v % 65536)).exists' = false ∨ 36 < v %
    65536) :=
  ⟨{}, 0x1000, 8, 5, 5, by decide⟩

theorem witness_DoorbellsMoveHeadsAndTails_8 : ∃ s : State, ∃ off : Nat, ∃ size : Nat, ∃ d : Dword, ∃ q : Fin 37, ∃
    v : Nat, doorbellAt off size d = some (16 * q.val + 8, v) ∧ (s.q q.val).exists' = true ∧ v % 65536 < (s.q
    q.val).cqsize ∧ v % 65536 = (s.q q.val).cqhead :=
  ⟨{ power := { phase := .run, d0run := true }, regs := [], hri := { queues := [(1, { exists' := true, sqsize := 8, cqsize := 8 })] } }, 24, 4, 0, 1, 0, by decide⟩

theorem witness_DoorbellsMoveHeadsAndTails_9 : ∃ s : State, s.bar2Up = true :=
  ⟨{ power := { phase := .run, d0run := true } }, by decide⟩

theorem witness_DoorbellsMoveHeadsAndTails_10 : ∃ s : State, s.bar2Up = true :=
  ⟨{ power := { phase := .run, d0run := true } }, by decide⟩

theorem witness_DoorbellsMoveHeadsAndTails_11 : ∃ s : State, s.bar2Up = true :=
  ⟨{ power := { phase := .run, d0run := true } }, by decide⟩

theorem witness_DoorbellsMoveHeadsAndTails_12 : ∃ s : State, ∃ off : Nat, ∃ size : Nat, ∃ d : Dword, ∃ v : Nat,
    doorbellAt off size d = some (0x1000, v) ∧ s.bar2Up = true :=
  ⟨{ power := { phase := .run, d0run := true } }, 0x1000, 8, 3, 3, by decide⟩

theorem witness_DoorbellsMoveHeadsAndTails_13 : ∃ off : Nat, ∃ size : Nat, ∃ d : Dword, (∀ o v, doorbellAt off size
    d = some (o, v) → 592 ≤ o ∧ o ≠ 0x1000) :=
  ⟨20, 4, 9, fun _ _ h => by simp [doorbellAt] at h⟩

theorem witness_QueuesAreCreatedDeletedAndReset_1 : ∃ s : State, ∃ c : Cmd, ∃ n : Nat, ∃ e : Entry, s.admin 1 = some
    c ∧ c.f 48 2 = n ∧ 1 ≤ n ∧ n ≤ 36 ∧ n ≠ 35 ∧ (s.q n).exists' = false ∧ ctxBad n e = none ∧ s.hri.d3hot = false
    :=
  ⟨{ power := { phase := .run, d0run := true }, regs := [], hri := { queues := [(0, { exists' := true, sqsize := 8, cqsize := 8, inflight := [{ entry := 0x1000000000000000000000000000000000000000000000000000000000000000000000000000000000000000000050001 }] })] } }, { entry := 0x1000000000000000000000000000000000000000000000000000000000000000000000000000000000000000000050001 }, 1, 0x309000800080102, by decide⟩

theorem witness_QueuesAreCreatedDeletedAndReset_2 : ∃ s : State, ∃ c : Cmd, ∃ n : Nat, ∃ e : Entry, s.admin 1 = some
    c ∧ c.f 48 2 = n ∧ 1 ≤ n ∧ n ≤ 36 ∧ (s.q n).exists' = false ∧ ctxBad n e = none ∧ s.hri.d3hot = true ∧ (s.q
    0).exists' = true :=
  ⟨{ power := { phase := .run, d0run := true }, regs := [], hri := { queues := [(0, { exists' := true, sqsize := 8, cqsize := 8, inflight := [{ entry := 0x1000000000000000000000000000000000000000000000000000000000000000000000000000000000000000000050001 }] })], d3hot := true } }, { entry := 0x1000000000000000000000000000000000000000000000000000000000000000000000000000000000000000000050001 }, 1, 0x309000800080102, by decide⟩

theorem witness_QueuesAreCreatedDeletedAndReset_3 : ∃ s : State, ∃ c : Cmd, ∃ e : Entry, s.admin 1 = some c ∧ c.f 48
    2 = 35 ∧ (s.q 35).exists' = false ∧ ctxBad 35 e = none ∧ s.hri.d3hot = false :=
  ⟨{ power := { phase := .run, d0run := true }, regs := [], hri := { queues := [(0, { exists' := true, sqsize := 8, cqsize := 8, inflight := [{ entry := 0x23000000000000000000000000000000000000000000000000000000000000000000000000000000000000000000050001 }] })] } }, { entry := 0x23000000000000000000000000000000000000000000000000000000000000000000000000000000000000000000050001 }, 0x1000000105, by decide⟩

theorem witness_QueuesAreCreatedDeletedAndReset_4 : ∃ s : State, ∃ c : Cmd, ∃ code : Nat, s.admin 1 = some c ∧ ((c.f
    48 2 = 0 ∨ (s.q (c.f 48 2)).exists' = true) ∧ code = 8 ∨ (c.f 48 2 ≠ 0 ∧ (s.q (c.f 48 2)).exists' = false ∧ 36 <
    c.f 48 2) ∧ code = 0x0A) :=
  ⟨{ power := { phase := .run, d0run := true }, regs := [], hri := { queues := [(0, { exists' := true, sqsize := 8, cqsize := 8, inflight := [{ entry := 0x50001 }] })] } }, { entry := 0x50001 }, 8, by decide⟩

theorem witness_QueuesAreCreatedDeletedAndReset_5 : ∃ s : State, ∃ c : Cmd, s.admin 1 = some c ∧ c.f 48 2 ≠ 0 ∧ c.f
    48 2 ≤ 36 ∧ (s.q (c.f 48 2)).exists' = false :=
  ⟨{ power := { phase := .run, d0run := true }, regs := [], hri := { queues := [(0, { exists' := true, sqsize := 8, cqsize := 8, inflight := [{ entry := 0x2000000000000000000000000000000000000000000000000000000000000000000000000000000000000000000050001 }] })] } }, { entry := 0x2000000000000000000000000000000000000000000000000000000000000000000000000000000000000000000050001 }, by decide⟩

theorem witness_QueuesAreCreatedDeletedAndReset_6 : ∃ s : State, ∃ c : Cmd, ∃ e : Entry, ∃ off : Nat, s.admin 1 =
    some c ∧ c.f 48 2 ≠ 0 ∧ c.f 48 2 ≤ 36 ∧ (s.q (c.f 48 2)).exists' = false ∧ ctxBad (c.f 48 2) e = some off :=
  ⟨{ power := { phase := .run, d0run := true }, regs := [], hri := { queues := [(0, { exists' := true, sqsize := 8, cqsize := 8, inflight := [{ entry := 0x2000000000000000000000000000000000000000000000000000000000000000000000000000000000000000000050001 }] })] } }, { entry := 0x2000000000000000000000000000000000000000000000000000000000000000000000000000000000000000000050001 }, 0, 0, by decide⟩

theorem witness_QueuesAreCreatedDeletedAndReset_7 : ∃ s : State, ∃ c : Cmd, ∃ n : Nat, s.admin 2 = some c ∧ c.f 48 2
    = n ∧ 1 ≤ n ∧ n ≤ 36 ∧ (s.q n).exists' = true ∧ (s.q n).deleting = none ∧ (s.q n).inflight = [] ∧ s.hri.deferred
    = [] :=
  ⟨{ power := { phase := .run, d0run := true }, regs := [], hri := { queues := [(0, { exists' := true, sqsize := 8, cqsize := 8, inflight := [{ entry := 0x3000000000000000000000000000000000000000000000000000000000000000000000000000000000000000000050002 }] }), (3, { exists' := true, sqsize := 8, cqsize := 8 })] } }, { entry := 0x3000000000000000000000000000000000000000000000000000000000000000000000000000000000000000000050002 }, 3, by decide⟩

theorem witness_QueuesAreCreatedDeletedAndReset_8 : ∃ s : State, ∃ c : Cmd, ∃ n : Nat, s.admin 2 = some c ∧ c.f 48 2
    = n ∧ 1 ≤ n ∧ n ≤ 36 ∧ n ≠ 34 ∧ n ≠ 35 ∧ (s.q n).exists' = true ∧ (s.q n).deleting = none ∧ (s.q n).inflight ≠
    [] :=
  ⟨{ power := { phase := .run, d0run := true }, regs := [], hri := { queues := [(0, { exists' := true, sqsize := 8, cqsize := 8, inflight := [{ entry := 0x3000000000000000000000000000000000000000000000000000000000000000000000000000000000000000000050002 }] }), (3, { exists' := true, sqsize := 8, cqsize := 8, inflight := [{}] })] } }, { entry := 0x3000000000000000000000000000000000000000000000000000000000000000000000000000000000000000000050002 }, 3, by decide⟩

theorem witness_QueuesAreCreatedDeletedAndReset_9 : ∃ s : State, ∃ c : Cmd, ∃ code : Nat, s.admin 2 = some c ∧ ((c.f
    48 2 = 0 ∨ 36 < c.f 48 2) ∧ code = 0x0A ∨ (1 ≤ c.f 48 2 ∧ c.f 48 2 ≤ 36 ∧ (s.q (c.f 48 2)).exists' = false) ∧
    code = 9) :=
  ⟨{ power := { phase := .run, d0run := true }, regs := [], hri := { queues := [(0, { exists' := true, sqsize := 8, cqsize := 8, inflight := [{ entry := 0x3000000000000000000000000000000000000000000000000000000000000000000000000000000000000000000050002 }] })] } }, { entry := 0x3000000000000000000000000000000000000000000000000000000000000000000000000000000000000000000050002 }, 9, by decide⟩

theorem witness_QueuesAreCreatedDeletedAndReset_10 : ∃ s : State, ∃ c : Cmd, ∃ n : Nat, s.admin 3 = some c ∧ c.f 48
    2 = n ∧ 1 ≤ n ∧ n ≤ 36 ∧ n ≠ 34 ∧ n ≠ 35 ∧ (s.q n).exists' = true ∧ (s.q n).deleting = none ∧ s.hri.d3hot =
    false :=
  ⟨{ power := { phase := .run, d0run := true }, regs := [], hri := { queues := [(0, { exists' := true, sqsize := 8, cqsize := 8, inflight := [{ entry := 0x3000000000000000000000000000000000000000000000000000000000000000000000000000000000000000000050003 }] }), (3, { exists' := true, sqsize := 8, cqsize := 8, frozen := true })] } }, { entry := 0x3000000000000000000000000000000000000000000000000000000000000000000000000000000000000000000050003 }, 3, by decide⟩

theorem witness_QueuesAreCreatedDeletedAndReset_11 : ∃ s : State, ∃ c : Cmd, ∃ n : Nat, s.admin 3 = some c ∧ c.f 48
    2 = n ∧ 1 ≤ n ∧ n ≤ 36 ∧ n ≠ 34 ∧ n ≠ 35 ∧ (s.q n).exists' = true ∧ (s.q 0).exists' = true ∧ (s.q n).deleting =
    none ∧ s.hri.d3hot = true :=
  ⟨{ power := { phase := .run, d0run := true }, regs := [], hri := { queues := [(0, { exists' := true, sqsize := 8, cqsize := 8, inflight := [{ entry := 0x3000000000000000000000000000000000000000000000000000000000000000000000000000000000000000000050003 }] }), (3, { exists' := true, sqsize := 8, cqsize := 8, frozen := true })], d3hot := true } }, { entry := 0x3000000000000000000000000000000000000000000000000000000000000000000000000000000000000000000050003 }, 3, by decide⟩

theorem witness_QueuesAreCreatedDeletedAndReset_12 : ∃ s : State, ∃ c : Cmd, ∃ code : Nat, s.admin 3 = some c ∧
    ((c.f 48 2 = 0 ∨ c.f 48 2 = 34 ∨ c.f 48 2 = 35 ∨ 36 < c.f 48 2) ∧ code = 0x0A ∨ (1 ≤ c.f 48 2 ∧ c.f 48 2 ≤ 36 ∧
    c.f 48 2 ≠ 34 ∧ c.f 48 2 ≠ 35 ∧ (s.q (c.f 48 2)).exists' = false) ∧ code = 9) :=
  ⟨{ power := { phase := .run, d0run := true }, regs := [], hri := { queues := [(0, { exists' := true, sqsize := 8, cqsize := 8, inflight := [{ entry := 0x3000000000000000000000000000000000000000000000000000000000000000000000000000000000000000000050003 }] })] } }, { entry := 0x3000000000000000000000000000000000000000000000000000000000000000000000000000000000000000000050003 }, 9, by decide⟩

theorem witness_QueuesAreCreatedDeletedAndReset_13 : ∃ s : State, ∃ m : Master, ∃ e : Entry, s.rb R.HRI_CTL 0 =
    false ∧ s.reaches m R.HRI_CTL = true ∧ s.rb R.RST_STAT 5 = true ∧ s.d0up = true ∧ ctxBad 0 e = none :=
  ⟨{ power := { phase := .run, d0run := true }, regs := [(R.RST_STAT, 0x20)] }, .host, 0x800080001, by decide⟩

theorem witness_QueuesAreCreatedDeletedAndReset_14 : ∃ s : State, ∃ m : Master, ∃ e : Option Entry, s.rb R.HRI_CTL 0
    = false ∧ s.reaches m R.HRI_CTL = true ∧ s.rb R.RST_STAT 5 = true ∧ s.d0up = true ∧ e.all (fun x => (ctxBad 0
    x).isSome) = true :=
  ⟨{ power := { phase := .run, d0run := true }, regs := [(R.RST_STAT, 0x20)] }, .host, none, by decide⟩

theorem witness_QueuesAreCreatedDeletedAndReset_15 : ∃ s : State, ∃ m : Master, s.rb R.HRI_CTL 0 = true ∧ s.reaches
    m R.HRI_CTL = true :=
  ⟨{ power := { phase := .run, d0run := true }, regs := [(R.HRI_CTL, 1)] }, .host, by decide⟩

theorem witness_EntriesAreCheckedAndLogPagesRead_1 : ∃ s : State, ∃ q : Fin 37, s.fetchTurn q.val = true :=
  ⟨{ power := { phase := .run, d0run := true }, regs := [(R.RST_STAT, 0x20), (R.HRI_CTL, 1), (R.STO_STAT, 2)], hri := { queues := [(1, { exists' := true, sqsize := 8, cqsize := 8, sqtail := 1, weight := 1 })] } }, 1, by decide⟩

theorem witness_EntriesAreCheckedAndLogPagesRead_2 : ∃ s : State, ∃ q : Fin 37, ∃ e : Entry, ∃ c : Cmd, s.fetchTurn
    q.val = true ∧ isStorage q.val = true ∧ c = { entry := e, sqidx := (s.q q.val).sqhead, order := s.hri.order } ∧
    [1, 2, 3, 4, 0x20].contains c.opcode = true ∧ ((if c.opcode = 0x20 then jrBadField c else stoBadField c) = none)
    ∧ ((if c.opcode = 0x20 then c.nsid = 2 else stoNsOk c = true)) ∧ s.tagUsed q.val c = false ∧ (c.opcode = 0x20 ∨
    stoRange c = none) ∧ s.notReady c = false :=
  ⟨{ power := { phase := .run, d0run := true }, regs := [(R.RST_STAT, 0x20), (R.HRI_CTL, 1), (R.STO_STAT, 2)], hri := { queues := [(1, { exists' := true, sqsize := 8, cqsize := 8, sqtail := 1, weight := 1 })] } }, 1, 0x2000000000000000500000000000010000000000100090101, { entry := 0x2000000000000000500000000000010000000000100090101 }, by decide⟩

theorem witness_EntriesAreCheckedAndLogPagesRead_3 : ∃ s : State, ∃ q : Fin 37, ∃ e : Entry, ∃ c : Cmd, s.fetchTurn
    q.val = true ∧ isStorage q.val = true ∧ c = { entry := e, sqidx := (s.q q.val).sqhead, order := s.hri.order } ∧
    [1, 2, 3, 4, 0x20].contains c.opcode = false :=
  ⟨{ power := { phase := .run, d0run := true }, regs := [(R.RST_STAT, 0x20), (R.HRI_CTL, 1), (R.STO_STAT, 2)], hri := { queues := [(1, { exists' := true, sqsize := 8, cqsize := 8, sqtail := 1, weight := 1 })] } }, 1, 0x90009, { entry := 0x90009 }, by decide⟩

theorem witness_EntriesAreCheckedAndLogPagesRead_4 : ∃ s : State, ∃ q : Fin 37, ∃ e : Entry, ∃ c : Cmd, ∃ off : Nat,
    s.fetchTurn q.val = true ∧ isStorage q.val = true ∧ c = { entry := e, sqidx := (s.q q.val).sqhead, order :=
    s.hri.order } ∧ [1, 2, 3, 4, 0x20].contains c.opcode = true ∧ ((if c.opcode = 0x20 then jrBadField c else
    stoBadField c) = some off) :=
  ⟨{ power := { phase := .run, d0run := true }, regs := [(R.RST_STAT, 0x20), (R.HRI_CTL, 1), (R.STO_STAT, 2)], hri := { queues := [(1, { exists' := true, sqsize := 8, cqsize := 8, sqtail := 1, weight := 1 })] } }, 1, 0x90001, { entry := 0x90001 }, 24, by decide⟩

theorem witness_EntriesAreCheckedAndLogPagesRead_5 : ∃ s : State, ∃ q : Fin 37, ∃ e : Entry, ∃ c : Cmd, s.fetchTurn
    q.val = true ∧ isStorage q.val = true ∧ c = { entry := e, sqidx := (s.q q.val).sqhead, order := s.hri.order } ∧
    [1, 2, 3, 4, 0x20].contains c.opcode = true ∧ ((if c.opcode = 0x20 then jrBadField c else stoBadField c) = none)
    ∧ ((if c.opcode = 0x20 then c.nsid ≠ 2 else stoNsOk c = false)) :=
  ⟨{ power := { phase := .run, d0run := true }, regs := [(R.RST_STAT, 0x20), (R.HRI_CTL, 1), (R.STO_STAT, 2)], hri := { queues := [(1, { exists' := true, sqsize := 8, cqsize := 8, sqtail := 1, weight := 1 })] } }, 1, 0x2000000000000000000000000000010000000000700090101, { entry := 0x2000000000000000000000000000010000000000700090101 }, by decide⟩

theorem witness_EntriesAreCheckedAndLogPagesRead_6 : ∃ s : State, ∃ q : Fin 37, ∃ e : Entry, ∃ c : Cmd, s.fetchTurn
    q.val = true ∧ isStorage q.val = true ∧ c = { entry := e, sqidx := (s.q q.val).sqhead, order := s.hri.order } ∧
    [1, 2, 3, 4, 0x20].contains c.opcode = true ∧ ((if c.opcode = 0x20 then jrBadField c else stoBadField c) = none)
    ∧ ((if c.opcode = 0x20 then c.nsid = 2 else stoNsOk c = true)) ∧ s.tagUsed q.val c = true :=
  ⟨{ power := { phase := .run, d0run := true }, regs := [(R.RST_STAT, 0x20), (R.HRI_CTL, 1), (R.STO_STAT, 2)], hri := { queues := [(1, { exists' := true, sqsize := 8, cqsize := 8, sqtail := 1, weight := 1, inflight := [{ entry := 0x2000000000000000500000000000010000000000100090101 }] })] } }, 1, 0x2000000000000000500000000000010000000000100090101, { entry := 0x2000000000000000500000000000010000000000100090101 }, by decide⟩

theorem witness_EntriesAreCheckedAndLogPagesRead_7 : ∃ s : State, ∃ q : Fin 37, ∃ e : Entry, ∃ c : Cmd, ∃ code :
    Nat, s.fetchTurn q.val = true ∧ isStorage q.val = true ∧ c = { entry := e, sqidx := (s.q q.val).sqhead, order :=
    s.hri.order } ∧ [1, 2, 3, 4].contains c.opcode = true ∧ stoBadField c = none ∧ stoNsOk c = true ∧ s.tagUsed
    q.val c = false ∧ stoRange c = some code :=
  ⟨{ power := { phase := .run, d0run := true }, regs := [(R.RST_STAT, 0x20), (R.HRI_CTL, 1), (R.STO_STAT, 2)], hri := { queues := [(1, { exists' := true, sqsize := 8, cqsize := 8, sqtail := 1, weight := 1 })] } }, 1, 0x200000000059682ef00000000000010000000000100090101, { entry := 0x200000000059682ef00000000000010000000000100090101 }, 1, by decide⟩

theorem witness_EntriesAreCheckedAndLogPagesRead_8 : ∃ s : State, ∃ q : Fin 37, ∃ e : Entry, ∃ c : Cmd, s.fetchTurn
    q.val = true ∧ isStorage q.val = true ∧ c = { entry := e, sqidx := (s.q q.val).sqhead, order := s.hri.order } ∧
    [1, 2, 3, 4].contains c.opcode = true ∧ stoBadField c = none ∧ stoNsOk c = true ∧ s.tagUsed q.val c = false ∧
    stoRange c = none ∧ s.notReady c = true :=
  ⟨{ power := { phase := .run, d0run := true }, regs := [(R.RST_STAT, 0x20), (R.HRI_CTL, 1)], hri := { queues := [(1, { exists' := true, sqsize := 8, cqsize := 8, sqtail := 1, weight := 1 })] } }, 1, 0x2000000000000000500000000000010000000000100090101, { entry := 0x2000000000000000500000000000010000000000100090101 }, by decide⟩

theorem witness_EntriesAreCheckedAndLogPagesRead_9 : ∃ s : State, ∃ e : Entry, ∃ c : Cmd, s.fetchTurn 0 = true ∧ c =
    { entry := e, sqidx := (s.q 0).sqhead, order := s.hri.order } ∧ adminOps.contains c.opcode = true ∧ adminBad c =
    none ∧ s.tagUsed 0 c = false :=
  ⟨{ power := { phase := .run, d0run := true }, regs := [(R.RST_STAT, 0x20), (R.HRI_CTL, 1), (R.STO_STAT, 2)], hri := { queues := [(0, { exists' := true, sqsize := 8, cqsize := 8, sqtail := 1 })] } }, 0x1000000000000000000000000000000000000000000000000000000000000000000000000000000000000000000090201, { entry := 0x1000000000000000000000000000000000000000000000000000000000000000000000000000000000000000000090201 }, by decide⟩

theorem witness_EntriesAreCheckedAndLogPagesRead_10 : ∃ s : State, ∃ q : Fin 37, ∃ e : Entry, ∃ c : Cmd, s.fetchTurn
    q.val = true ∧ (q.val = 33 ∨ q.val = 36) ∧ c = { entry := e, sqidx := (s.q q.val).sqhead, order := s.hri.order }
    ∧ c.opcode = 1 ∧ ((if q.val = 33 then s.sendBad c else spBadField c) = none) ∧ s.tagUsed q.val c = false :=
  ⟨{ power := { phase := .run, d0run := true }, regs := [(R.RST_STAT, 0x20), (R.HRI_CTL, 1), (R.STO_STAT, 2)], hri := { queues := [(36, { exists' := true, sqsize := 8, cqsize := 8, sqtail := 1 })] } }, 36, 0x90201, { entry := 0x90201 }, by decide⟩

theorem witness_EntriesAreCheckedAndLogPagesRead_11 : ∃ s : State, ∃ q : Fin 37, s.fetchTurn q.val = false :=
  ⟨{}, 1, by decide⟩

theorem witness_EntriesAreCheckedAndLogPagesRead_12 : ∃ s : State, ∃ segs : Segs, ∃ c : Cmd, ∃ p : Nat, s.admin 4 =
    some c ∧ c.f 48 1 = p ∧ 2 ≤ p ∧ p ≤ 5 ∧ checkSegs c segs (c.f 52 4) = .good :=
  ⟨{ power := { phase := .run, d0run := true }, regs := [], hri := { queues := [(0, { exists' := true, sqsize := 8, cqsize := 8, inflight := [{ entry := 0x4000000003000000000000000000000000000000000000000000000000000000000000000000000000001000000000000000050104 }] })] } }, none, { entry := 0x4000000003000000000000000000000000000000000000000000000000000000000000000000000000001000000000000000050104 }, 3, by decide⟩

theorem witness_EntriesAreCheckedAndLogPagesRead_13 : ∃ s : State, ∃ segs : Segs, ∃ c : Cmd, ∃ n : Nat, s.admin 4 =
    some c ∧ c.f 48 1 = 1 ∧ c.f 50 2 = n ∧ 1 ≤ n ∧ n ≤ 36 ∧ n ≠ 34 ∧ n ≠ 35 ∧ (s.q n).exists' = true ∧ checkSegs c
    segs (c.f 52 4) = .good :=
  ⟨{ power := { phase := .run, d0run := true }, regs := [], hri := { queues := [(0, { exists' := true, sqsize := 8, cqsize := 8, inflight := [{ entry := 0x4000020001000000000000000000000000000000000000000000000000000000000000000000000000001000000000000000050104 }] }), (2, { exists' := true, sqsize := 8, cqsize := 8 })] } }, none, { entry := 0x4000020001000000000000000000000000000000000000000000000000000000000000000000000000001000000000000000050104 }, 2, by decide⟩

theorem witness_EntriesAreCheckedAndLogPagesRead_14 : ∃ s : State, ∃ c : Cmd, ∃ code : Nat, s.admin 4 = some c ∧
    ((c.f 48 1 = 0 ∨ 5 < c.f 48 1) ∧ code = 0x0B ∨ (c.f 48 1 = 1 ∧ (c.f 50 2 = 0 ∨ c.f 50 2 = 34 ∨ c.f 50 2 = 35 ∨
    36 < c.f 50 2)) ∧ code = 0x0A ∨ (c.f 48 1 = 1 ∧ 1 ≤ c.f 50 2 ∧ c.f 50 2 ≤ 36 ∧ c.f 50 2 ≠ 34 ∧ c.f 50 2 ≠ 35 ∧
    (s.q (c.f 50 2)).exists' = false) ∧ code = 9) :=
  ⟨{ power := { phase := .run, d0run := true }, regs := [], hri := { queues := [(0, { exists' := true, sqsize := 8, cqsize := 8, inflight := [{ entry := 0x4000000009000000000000000000000000000000000000000000000000000000000000000000000000001000000000000000050104 }] })] } }, { entry := 0x4000000009000000000000000000000000000000000000000000000000000000000000000000000000001000000000000000050104 }, 0x0B, by decide⟩

theorem witness_EntriesAreCheckedAndLogPagesRead_15 : ∃ s : State, ∃ segs : Segs, ∃ c : Cmd, s.admin 4 = some c ∧ 2
    ≤ c.f 48 1 ∧ c.f 48 1 ≤ 5 ∧ checkSegs c segs (c.f 52 4) = .good :=
  ⟨{ power := { phase := .run, d0run := true }, regs := [], hri := { queues := [(0, { exists' := true, sqsize := 8, cqsize := 8, inflight := [{ entry := 0x4000000003000000000000000000000000000000000000000000000000000000000000000000000000001000000000000000050104 }] })] } }, none, { entry := 0x4000000003000000000000000000000000000000000000000000000000000000000000000000000000001000000000000000050104 }, by decide⟩

theorem witness_ReadsReturnTheContent_1 : ∃ s : State, ∃ q : Fin 37, ∃ tag : Half, ∃ segs : Segs, ∃ outs : List
    UnitOut, ∃ c : Cmd, s.stoCmd q.val tag.toNat 1 = some c ∧ s.dataUp = true ∧ c.nsid = 1 ∧ checkSegs c segs (4096
    * c.nblk) = .good ∧ s.store.dieTable = none ∧ s.store.die2 = none ∧ s.store.badLocs = [] ∧ ((∀ o ∈ outs, o =
    .tier1 ∨ o = .tier1High ∨ o = .tier2 ∨ o = .tier3)) :=
  ⟨{ power := { phase := .run, d0run := true }, regs := [(R.STO_STAT, 2)], hri := { queues := [(1, { exists' := true, sqsize := 8, cqsize := 8, inflight := [{ entry := 0x1000000000000000500000000000010000000000100090101 }] })] } }, 1, 9, none, [.tier2], { entry := 0x1000000000000000500000000000010000000000100090101 }, by decide⟩

theorem witness_ReadsReturnTheContent_2 : ∃ s : State, ∃ q : Fin 37, ∃ tag : Half, ∃ segs : Segs, ∃ outs : List
    UnitOut, ∃ c : Cmd, s.stoCmd q.val tag.toNat 1 = some c ∧ s.dataUp = true ∧ c.nsid = 2 ∧ checkSegs c segs (4096
    * c.nblk) = .good ∧ s.store.dieTable = none ∧ s.store.die2 = none ∧ s.store.badNs2 = [] ∧ ((∀ o ∈ outs, o =
    .tier1 ∨ o = .tier1High ∨ o = .tier2 ∨ o = .tier3)) :=
  ⟨{ power := { phase := .run, d0run := true }, regs := [(R.STO_STAT, 2)], hri := { queues := [(1, { exists' := true, sqsize := 8, cqsize := 8, inflight := [{ entry := 0x1000000000000000500000000000010000000000200090101 }] })] } }, 1, 9, none, [], { entry := 0x1000000000000000500000000000010000000000200090101 }, by decide⟩

theorem witness_ReadsReturnTheContent_3 : ∃ s : State, ∃ q : Fin 37, ∃ tag : Half, ∃ segs : Segs, ∃ o : UnitOut, ∃ c
    : Cmd, ∃ w : Codeword, s.stoCmd q.val tag.toNat 1 = some c ∧ s.dataUp = true ∧ c.nsid = 1 ∧ c.nblk = 1 ∧
    checkSegs c segs (4096 * c.nblk) = .good ∧ s.staged c.slba = none ∧ (s.store.cell (s.mapAt c.slba).toNat).isSome
    = true ∧ s.store.die2 = none ∧ s.store.gone.contains (dieOf (s.mapAt c.slba)) = true ∧ s.store.badLocs.contains
    (s.mapAt c.slba).toNat = false ∧ s.store.rebuild (s.mapAt c.slba).toNat = some w ∧ o ≠ .failed ∧ o ≠ .sramUe :=
  ⟨{ power := { phase := .run, d0run := true }, regs := [(R.STO_STAT, 2)], hri := { queues := [(1, { exists' := true, sqsize := 8, cqsize := 8, inflight := [{ entry := 0x1000000000000000500000000000010000000000100090101 }] })] }, store := witGone }, 1, 9, none, .tier4, { entry := 0x1000000000000000500000000000010000000000100090101 }, witCw, by decide, by decide, by decide, by decide, by decide, by decide, by decide, by decide, by decide, by decide, witGone_rebuild, by decide, by decide⟩

theorem witness_ReadsReturnTheContent_4 : ∃ s : State, ∃ q : Fin 37, ∃ tag : Half, ∃ segs : Segs, ∃ c : Cmd, ∃ code
    : Nat, ∃ detail : Nat, s.stoCmd q.val tag.toNat 1 = some c ∧ s.dataUp = true ∧ (checkSegs c segs (4096 * c.nblk)
    = .mismatch ∧ code = 7 ∧ detail = 0 ∨ checkSegs c segs (4096 * c.nblk) = .unreadable ∧ code = 4 ∧ detail = 1) :=
  ⟨{ power := { phase := .run, d0run := true }, regs := [(R.STO_STAT, 2)], hri := { queues := [(1, { exists' := true, sqsize := 8, cqsize := 8, inflight := [{ entry := 0x1000000000000000500000000000010000000000100090001 }] })] } }, 1, 9, none, { entry := 0x1000000000000000500000000000010000000000100090001 }, 4, 1, by decide⟩

theorem witness_ReadsReturnTheContent_5 : ∃ s : State, ∃ q : Fin 37, ∃ tag : Half, ∃ segs : Segs, ∃ c : Cmd,
    s.stoCmd q.val tag.toNat 1 = some c ∧ s.dataUp = true ∧ c.nsid = 2 ∧ checkSegs c segs (4096 * c.nblk) = .good ∧
    s.store.dieTable = none ∧ s.store.die2 = none ∧ s.store.badNs2 = [] :=
  ⟨{ power := { phase := .run, d0run := true }, regs := [(R.STO_STAT, 2)], hri := { queues := [(1, { exists' := true, sqsize := 8, cqsize := 8, inflight := [{ entry := 0x1000000000000000500000000000010000000000200090101 }] })] } }, 1, 9, none, { entry := 0x1000000000000000500000000000010000000000200090101 }, by decide⟩

theorem witness_WritesAndTrimsChangeTheirBlocksOnly_7 : ∃ s : State, ∃ q : Fin 37, ∃ tag : Half, ∃ c : Cmd, s.stoCmd
    q.val tag.toNat 4 = some c ∧ s.dataUp = true ∧ s.store.die2 = none ∧ s.logFull true (unitsOf c.slba c.nblk) =
    false :=
  ⟨{ power := { phase := .run, d0run := true }, regs := [(R.STO_STAT, 2)], hri := { queues := [(1, { exists' := true, sqsize := 8, cqsize := 8, inflight := [{ entry := 0x1000000000000000500000000000000000000000100090204 }] })] } }, 1, 9, { entry := 0x1000000000000000500000000000000000000000100090204 }, by decide⟩

theorem witness_WritesAndTrimsChangeTheirBlocksOnly_9 : ∃ s : State, ∃ q : Fin 37, ∃ tag : Half, ∃ segs : Segs, ∃ c
    : Cmd, s.stoCmd q.val tag.toNat 2 = some c ∧ s.dataUp = true ∧ checkSegs c segs (4096 * c.nblk) = .good ∧
    s.store.die2.isSome = true :=
  ⟨{ power := { phase := .run, d0run := true }, regs := [(R.STO_STAT, 2)], hri := { queues := [(1, { exists' := true, sqsize := 8, cqsize := 8, inflight := [{ entry := 0x1000000000000000500000000000010000000000100090102 }] })] }, store := { die2 := some 1 } }, 1, 9, none, { entry := 0x1000000000000000500000000000010000000000100090102 }, by decide⟩

theorem witness_WritesAndTrimsChangeTheirBlocksOnly_10 : ∃ s : State, ∃ q : Fin 37, ∃ tag : Half, ∃ segs : Segs, ∃ c
    : Cmd, s.stoCmd q.val tag.toNat 2 = some c ∧ s.dataUp = true ∧ checkSegs c segs (4096 * c.nblk) = .good ∧
    s.store.die2 = none ∧ c.data = none :=
  ⟨{ power := { phase := .run, d0run := true }, regs := [(R.STO_STAT, 2)], hri := { queues := [(1, { exists' := true, sqsize := 8, cqsize := 8, inflight := [{ entry := 0x1000000000000000500000000000010000000000100090102 }] })] } }, 1, 9, none, { entry := 0x1000000000000000500000000000010000000000100090102 }, by decide⟩

theorem witness_FlushWaitsForItsCoveredSet_1 : ∃ s : State, ∃ q : Fin 37, ∃ tag : Half, ∃ c : Cmd, s.stoCmd q.val
    tag.toNat 3 = some c :=
  ⟨{ power := { phase := .run, d0run := true }, regs := [(R.STO_STAT, 2)], hri := { queues := [(1, { exists' := true, sqsize := 8, cqsize := 8, inflight := [{ entry := 0x100090203 }] })] } }, 1, 9, { entry := 0x100090203 }, by decide⟩

theorem witness_FlushWaitsForItsCoveredSet_2 : ∃ s : State, ∃ q : Fin 37, ∃ tag : Half, ∃ c : Cmd, (s.q
    q.val).inflight.find? (fun d => d.tag == tag.toNat && d.opcode == 3 && d.started && !d.ended) = some c ∧
    s.dataUp = true ∧ s.rb R.STO_STAT 1 = true ∧ (s.q q.val).inflight.any (fun d => (d.opcode == 2 || d.opcode == 4)
    && !d.ended && c.waits.contains d.order) = false ∧ s.store.units.any (fun u => c.waits.contains u.order) = false
    ∧ s.power.pfailn = true ∧ s.store.die2 = none :=
  ⟨{ power := { phase := .run, d0run := true }, regs := [(R.STO_STAT, 2)], hri := { queues := [(1, { exists' := true, sqsize := 8, cqsize := 8, inflight := [{ entry := 0x100090203, started := true }] })] } }, 1, 9, { entry := 0x100090203, started := true }, by decide⟩

theorem witness_FlushWaitsForItsCoveredSet_3 : ∃ s : State, ∃ q : Fin 37, ∃ tag : Half, ∃ c : Cmd, (s.q
    q.val).inflight.find? (fun d => d.tag == tag.toNat && d.opcode == 3 && d.started && !d.ended) = some c ∧ ((s.q
    q.val).inflight.any (fun d => (d.opcode == 2 || d.opcode == 4) && !d.ended && c.waits.contains d.order) = true ∨
    s.power.pfailn = false ∨ (s.store.units.any (fun u => c.waits.contains u.order) = true ∧ s.store.die2 = none))
    :=
  ⟨{ power := { phase := .run, d0run := true }, regs := [(R.STO_STAT, 2)], hri := { queues := [(1, { exists' := true, sqsize := 8, cqsize := 8, inflight := [{ entry := 0x100090203, started := true, waits := [4] }] })] }, store := { units := [⟨0, 4, 0, [none], false⟩] } }, 1, 9, { entry := 0x100090203, started := true, waits := [4] }, by decide⟩

theorem witness_FlushWaitsForItsCoveredSet_4 : ∃ s : State, ∃ q : Fin 37, ∃ tag : Half, ∃ c : Cmd, (s.q
    q.val).inflight.find? (fun d => d.tag == tag.toNat && d.opcode == 3 && d.started && !d.ended) = some c ∧
    s.dataUp = true ∧ s.rb R.STO_STAT 1 = true ∧ (s.q q.val).inflight.any (fun d => (d.opcode == 2 || d.opcode == 4)
    && !d.ended && c.waits.contains d.order) = false ∧ s.power.pfailn = true ∧ s.store.die2.isSome = true ∧
    (s.store.units.any (fun u => c.waits.contains u.order && !u.failed) = true ∨ s.store.fresh.any (fun f =>
    c.waits.contains f.order && !s.store.settled f) = true) :=
  ⟨{ power := { phase := .run, d0run := true }, regs := [(R.STO_STAT, 2)], hri := { queues := [(1, { exists' := true, sqsize := 8, cqsize := 8, inflight := [{ entry := 0x100090203, started := true, waits := [4] }] })] }, store := { units := [⟨0, 4, 0, [none], false⟩], die2 := some 1 } }, 1, 9, { entry := 0x100090203, started := true, waits := [4] }, by decide⟩

theorem witness_FlushWaitsForItsCoveredSet_5 : ∃ s : State, ∃ q : Fin 37, ∃ tag : Half, ∃ c : Cmd, (s.q
    q.val).inflight.find? (fun d => d.tag == tag.toNat && d.opcode == 3 && d.started && !d.ended) = some c ∧
    s.dataUp = true ∧ s.rb R.STO_STAT 1 = true ∧ (s.q q.val).inflight.any (fun d => (d.opcode == 2 || d.opcode == 4)
    && !d.ended && c.waits.contains d.order) = false ∧ s.power.pfailn = true ∧ s.store.die2.isSome = true ∧
    s.store.units.any (fun u => c.waits.contains u.order && !u.failed) = false ∧ s.store.fresh.any (fun f =>
    c.waits.contains f.order && !s.store.settled f) = false :=
  ⟨{ power := { phase := .run, d0run := true }, regs := [(R.STO_STAT, 2)], hri := { queues := [(1, { exists' := true, sqsize := 8, cqsize := 8, inflight := [{ entry := 0x100090203, started := true, waits := [4] }] })] }, store := { units := [⟨0, 4, 0, [none], true⟩], die2 := some 1 } }, 1, 9, { entry := 0x100090203, started := true, waits := [4] }, by decide⟩

theorem witness_FlushWaitsForItsCoveredSet_6 : ∃ s : State, ∃ q : Fin 37, ∃ tag : Half, ∃ c : Cmd, s.stoCmd q.val
    tag.toNat 4 = some c ∧ s.dataUp = true ∧ s.store.die2.isSome = true :=
  ⟨{ power := { phase := .run, d0run := true }, regs := [(R.STO_STAT, 2)], hri := { queues := [(1, { exists' := true, sqsize := 8, cqsize := 8, inflight := [{ entry := 0x1000000000000000500000000000000000000000100090204 }] })] }, store := { die2 := some 1 } }, 1, 9, { entry := 0x1000000000000000500000000000000000000000100090204 }, by decide⟩

theorem witness_BackgroundWorkChangesNoContent_3 : ∃ s : State, ∃ lba : Nat, ∃ target : Nat, ∃ m : Moving, s.nandOk
    = true ∧ s.store.moves.find? (fun m => m.lba == lba && m.target == target) = some m :=
  ⟨{ power := { phase := .run, d0run := true }, regs := [(R.STO_STAT, 2)], store := { moves := [⟨5, 72, 0, 4⟩] } }, 5, 4, ⟨5, 72, 0, 4⟩, by decide⟩

theorem witness_BackgroundWorkChangesNoContent_8 : ∃ s : State, s.rb R.STO_CTL 0 = true ∧ s.roleState 2 ≠ 0 :=
  ⟨{ regs := [(R.NWT_ROLE 2, 0x10), (R.STO_CTL, 1)] }, by decide⟩

theorem witness_BackgroundWorkChangesNoContent_9 : ∃ s : State, s.nandOk = true ∧ s.store.mapSound = true ∧
    s.store.ckptRun = none ∧ s.ckptDue = true :=
  ⟨{ power := { phase := .run, d0run := true }, regs := [(R.STO_STAT, 2)], store := {  } }, by decide⟩

theorem witness_BackgroundWorkChangesNoContent_10 : ∃ s : State, ∃ b : Bool, ∃ c : Checkpoint, s.nandOk = true ∧
    s.store.mapSound = true ∧ s.store.ckptRun = some (b, c) :=
  ⟨{ power := { phase := .run, d0run := true }, regs := [(R.STO_STAT, 2)], store := { ckptRun := some (true, { valid := true }) } }, true, { valid := true }, by decide⟩

theorem witness_StoreRebuildsFromCheckpointAndLog_1 : ∃ s : State, ∃ aOk : Bool, ∃ bOk : Bool, s.rb R.STO_STAT 1 =
    false ∧ s.rb R.RST_STAT 4 = true ∧ s.d0up = true ∧ s.power.bootHeld = false ∧ s.keys.wipePend = false ∧
    ((s.store.ckptA.good = true ∧ aOk = true) ∨ (s.store.ckptB.good = true ∧ bOk = true) ∨ (s.store.ckptA.valid =
    false ∧ s.store.ckptB.valid = false)) :=
  ⟨{ power := { phase := .run, d0run := true }, regs := [(R.RST_STAT, 0x10)] }, true, false, by decide⟩

theorem witness_StoreRebuildsFromCheckpointAndLog_2 : ∃ s : State, ∃ aOk : Bool, ∃ bOk : Bool, s.rb R.STO_STAT 1 =
    false ∧ s.rb R.RST_STAT 4 = true ∧ s.d0up = true ∧ s.power.bootHeld = false ∧ s.keys.wipePend = false ∧
    (s.store.ckptA.valid = true ∨ s.store.ckptB.valid = true) ∧ (s.store.ckptA.good = true → aOk = false) ∧
    (s.store.ckptB.good = true → bOk = false) :=
  ⟨{ power := { phase := .run, d0run := true }, regs := [(R.RST_STAT, 0x10)], store := { ckptA := { valid := true } } }, false, true, by decide⟩

theorem witness_StoreRebuildsFromCheckpointAndLog_3 : ∃ s : State, s.rb R.STO_STAT 8 = true :=
  ⟨{ regs := [(R.STO_STAT, 0x102)] }, by decide⟩

theorem witness_StoreRebuildsFromCheckpointAndLog_4 : ∃ s : State, s.rb R.STO_STAT 8 = false :=
  ⟨{}, by decide⟩

theorem witness_StoreRebuildsFromCheckpointAndLog_5 : ∃ s : State, ∃ first : Nat, s.rb R.STO_STAT 8 = false ∧
    s.lineDirty first = true :=
  ⟨{ store := { mapCache := [(0, true)] } }, 0, by decide⟩

theorem witness_StoreRebuildsFromCheckpointAndLog_6 : ∃ s : State, ∃ first : Nat, s.lineDirty first = false :=
  ⟨{}, 0, by decide⟩

theorem witness_DiesRetireAndFail_1 : ∃ s : State, ∃ d : Fin 5, (s.die d.val).timeouts = 2 ∧ s.store.dieTable = none
    ∧ s.store.die2 = none :=
  ⟨{ store := { dies := [(1, { timeouts := 2 })] } }, 1, by decide⟩

theorem witness_DiesRetireAndFail_2 : ∃ s : State, ∃ d : Fin 5, ∃ e : Nat, ∃ f : Bool, (s.die d.val).timeouts = 2 ∧
    s.store.dieTable = some (e, f) ∧ e ≠ d.val ∧ s.store.die2 = none :=
  ⟨{ store := { dies := [(1, { timeouts := 2 })], dieTable := some (3, true) } }, 1, 3, true, by decide⟩

theorem witness_DiesRetireAndFail_3 : ∃ s : State, ∃ d : Fin 5, (s.die d.val).timeouts ≠ 2 :=
  ⟨{}, 1, by decide⟩

theorem witness_DiesRetireAndFail_4 : ∃ s : State, ∃ m : Master, ∃ w : Word, s.reaches m R.STO_CTL = true ∧ bit 3 w
    = true ∧ fld 31 16 w = 0x5254 ∧ fld 6 4 w ≤ 4 ∧ s.rb R.STO_CTL 2 = false ∧ s.store.dieTable = none ∧
    s.store.die2 = none :=
  ⟨{ power := { phase := .run, d0run := true } }, .host, 0x52540028, by decide⟩

theorem witness_DiesRetireAndFail_5 : ∃ s : State, ∃ m : Master, ∃ w : Word, s.reaches m R.STO_CTL = true ∧ bit 3 w
    = true ∧ (fld 31 16 w ≠ 0x5254 ∨ 4 < fld 6 4 w ∨ s.rb R.STO_CTL 2 = true ∨ s.store.dieTable.isSome = true) :=
  ⟨{ power := { phase := .run, d0run := true } }, .host, 0x28, by decide⟩

theorem witness_DiesRetireAndFail_6 : ∃ s : State, ∃ d : Nat, s.store.dieTable = some (d, false) ∧ s.store.rgBegun =
    true ∧ s.roleState 2 ≠ 0 ∧ s.mapWhole = true ∧ s.rd R.STO_RGLEFT = 0 ∧ s.onDie d + s.store.rgOther.length = 0 :=
  ⟨{ store := { dieTable := some (1, false), rgBegun := true }, regs := [(R.STO_STAT, 2), (R.NWT_ROLE 2, 0x10)] }, 1, by decide⟩

theorem witness_DiesRetireAndFail_7 : ∃ s : State, (s.rd R.STO_RGLEFT ≠ 0 ∨ s.roleState 2 = 0) :=
  ⟨{}, by decide⟩

theorem witness_DiesRetireAndFail_8 : ∃ s : State, s.power.pfailn = false ∧ s.power.pfell = true ∧ s.power.phase =
    .run :=
  ⟨{ power := { phase := .run, pfailn := false, pfell := true } }, by decide⟩

theorem witness_DiesRetireAndFail_9 : ∃ s : State, s.power.pfailn = false ∧ (s.power.pfell = false ∨ s.power.phase ≠
    .run) :=
  ⟨{ power := { pfailn := false } }, by decide⟩

theorem witness_RadioConfigurationIsCheckedAndApplied_1 : ∃ s : State, ∃ m : Master, ∃ w : Word, ∃ k : Nat, ∃ n :
    Nat, s.reaches m R.RFS_APPLY = true ∧ s.rb R.RFS_STAT 5 = false ∧ bit 0 w = true ∧ s.applyCheck = some (k, n) :=
  ⟨{ power := { phase := .run, d0run := true }, regs := [(R.GLB_STAT, 8), (R.RFS_TYMCFG 1, 3)] }, .host, 1, 1, 1, by decide⟩

theorem witness_RadioConfigurationIsCheckedAndApplied_2 : ∃ s : State, ∃ m : Master, ∃ w : Word, s.reaches m
    R.RFS_APPLY = true ∧ s.rb R.RFS_STAT 5 = false ∧ bit 0 w = true ∧ bit 1 w = false ∧ s.applyCheck = none :=
  ⟨{ power := { phase := .run, d0run := true }, regs := [(R.GLB_STAT, 8), (R.RFS_TYMCFG 1, 1)] }, .host, 1, by decide⟩

theorem witness_RadioConfigurationIsCheckedAndApplied_3 : ∃ s : State, ∃ m : Master, ∃ w : Word, s.reaches m
    R.RFS_APPLY = true ∧ s.rb R.RFS_STAT 5 = false ∧ bit 0 w = true ∧ bit 1 w = true ∧ s.applyCheck = none :=
  ⟨{ power := { phase := .run, d0run := true }, regs := [(R.GLB_STAT, 8), (R.RFS_TYMCFG 1, 1)] }, .host, 3, by decide⟩

theorem witness_RadioConfigurationIsCheckedAndApplied_4 : ∃ s : State, ∃ m : Master, ∃ w : Word, ∃ l : Nat,
    s.reaches m R.RFS_APPLY = true ∧ s.rb R.RFS_STAT 5 = false ∧ bit 0 w = true ∧ bit 1 w = true ∧ s.applyCheck =
    none ∧ s.leadBusy l = true ∧ tget (fun _ => RxState.searching) s.radio.sub.rx l ≠ .searching :=
  ⟨{ power := { phase := .run, d0run := true }, regs := [(R.GLB_STAT, 8), (R.RFS_WIN, 868200)], radio := { inForce := [(R.RFS_TYMCFG 3, 1)], sub := { rx := [(3, .decoding)] } } }, .host, 3, 3, by decide⟩

theorem witness_RadioConfigurationIsCheckedAndApplied_5 : ∃ s : State, ∃ m : Master, s.reaches m R.RFS_APPLY = true
    ∧ s.rb R.RFS_STAT 5 = true :=
  ⟨{ power := { phase := .run, d0run := true }, regs := [(R.GLB_STAT, 8), (R.RFS_STAT, 0x20)] }, .host, by decide⟩

theorem witness_RadioConfigurationIsCheckedAndApplied_6 : ∃ s : State, ∃ l : Fin 16, s.rb R.RFS_STAT 5 = true ∧
    s.radio.waiting.contains l.val = true ∧ s.leadBusy l.val = false :=
  ⟨{ power := { phase := .run, d0run := true }, regs := [(R.GLB_STAT, 8), (R.RFS_STAT, 0x20)], radio := { waiting := [3] } }, 3, by decide⟩

theorem witness_RadioConfigurationIsCheckedAndApplied_7 : ∃ s : State, s.radio.relock = true ∧ s.winChanged = false
    :=
  ⟨{ power := { phase := .run, d0run := true }, regs := [(R.GLB_STAT, 8)], radio := { relock := true } }, by decide⟩

theorem witness_ReceptionGoesFromSearchToDecode_1 : ∃ s : State, ∃ ch : RxChan, s.rxUp ch = true ∧ s.rxState ch =
    .searching :=
  ⟨{ power := { phase := .run, d0run := true }, regs := [(R.GLB_STAT, 8), (R.RF2_CTL, 3)] }, .ghz24, by decide⟩

theorem witness_ReceptionGoesFromSearchToDecode_2 : ∃ s : State, ∃ ch : RxChan, s.rxUp ch = true ∧ s.rxState ch =
    .qualifying :=
  ⟨{ power := { phase := .run, d0run := true }, regs := [(R.GLB_STAT, 8), (R.RF2_CTL, 3)], radio := { ghz := { rx := [(0, .qualifying)] } } }, .ghz24, by decide⟩

theorem witness_ReceptionGoesFromSearchToDecode_3 : ∃ s : State, ∃ i : Fin 16, s.rxState (.lead i) = .qualifying :=
  ⟨{ power := { phase := .run, d0run := true }, regs := [(R.GLB_STAT, 8)], radio := { sub := { rx := [(2, .qualifying)] } } }, 2, by decide⟩

theorem witness_ReceptionGoesFromSearchToDecode_4 : ∃ s : State, s.rxState .ghz24 = .qualifying :=
  ⟨{ power := { phase := .run, d0run := true }, regs := [(R.GLB_STAT, 8)], radio := { ghz := { rx := [(0, .qualifying)] } } }, by decide⟩

theorem witness_ReceptionGoesFromSearchToDecode_5 : ∃ s : State, ∃ i : Fin 16, ∃ r : Decode, s.rxState (.lead i) =
    .decoding ∧ (r = .headerError ∨ ∃ f, r = .ok f ∧ s.frameOk (.lead i) f = false) :=
  ⟨{ power := { phase := .run, d0run := true }, regs := [(R.GLB_STAT, 8)], radio := { sub := { rx := [(2, .decoding)] } } }, 2, .headerError, ⟨by decide, .inl rfl⟩⟩

theorem witness_ReceptionGoesFromSearchToDecode_6 : ∃ s : State, ∃ i : Fin 16, s.rxState (.lead i) = .decoding :=
  ⟨{ power := { phase := .run, d0run := true }, regs := [(R.GLB_STAT, 8)], radio := { sub := { rx := [(2, .decoding)] } } }, 2, by decide⟩

theorem witness_ReceptionGoesFromSearchToDecode_8 : ∃ s : State, s.rxState .ghz24 = .decoding :=
  ⟨{ power := { phase := .run, d0run := true }, regs := [(R.GLB_STAT, 8)], radio := { ghz := { rx := [(0, .decoding)] } } }, by decide⟩

theorem witness_ReceptionGoesFromSearchToDecode_9 : ∃ s : State, s.chainOn .subGhz = true ∧ s.d0up = true :=
  ⟨{ power := { phase := .run, d0run := true }, regs := [(R.GLB_STAT, 8), (R.RFS_CTL, 3)] }, by decide⟩

theorem witness_ReceptionGoesFromSearchToDecode_10 : ∃ s : State, s.chainOn .subGhz = true ∧ s.d0up = true :=
  ⟨{ power := { phase := .run, d0run := true }, regs := [(R.GLB_STAT, 8), (R.RFS_CTL, 3)] }, by decide⟩

theorem witness_ReceptionGoesFromSearchToDecode_11 : ∃ s : State, ∃ ch : RxChan, s.rxUp ch = true :=
  ⟨{ power := { phase := .run, d0run := true }, regs := [(R.GLB_STAT, 8), (R.RF2_CTL, 3)] }, .ghz24, by decide⟩

theorem witness_ReceptionGoesFromSearchToDecode_12 : ∃ s : State, ∃ ch : RxChan, s.rxUp ch = false :=
  ⟨{ power := { phase := .run, d0run := true }, regs := [(R.GLB_STAT, 8)] }, .ghz24, by decide⟩

theorem witness_CalibrationsAreRequestedRunAndJudged_1 : ∃ s : State, ∃ m : Master, ∃ w : Word, s.reaches m
    R.RFS_CTL = true ∧ s.chainOn .subGhz = false ∧ bit 0 w = true ∧ s.power.afterHush = false ∧
    s.radio.sub.railDown.contains .rf = false ∧ s.radio.sub.tx = none ∧ s.radio.sub.calRunning = false :=
  ⟨{ power := { phase := .run, d0run := true }, regs := [(R.GLB_STAT, 8)] }, .host, 3, by decide⟩

theorem witness_CalibrationsAreRequestedRunAndJudged_2 : ∃ s : State, ∃ m : Master, ∃ w : Word, s.reaches m
    R.RFS_CTL = true ∧ s.chainOn .subGhz = true ∧ bit 0 w = false :=
  ⟨{ power := { phase := .run, d0run := true }, regs := [(R.GLB_STAT, 8), (R.RFS_CTL, 3)] }, .host, 0, by decide⟩

theorem witness_CalibrationsAreRequestedRunAndJudged_3 : ∃ s : State, ∃ m : Master, ∃ w : Word, s.reaches m
    R.RF2_CTL = true ∧ s.chainOn .ghz24 = false ∧ bit 0 w = true ∧ s.power.afterHush = false ∧
    s.radio.ghz.railDown.contains .rf = false ∧ s.radio.ghz.tx = none ∧ s.radio.ghz.calRunning = false :=
  ⟨{ power := { phase := .run, d0run := true }, regs := [(R.GLB_STAT, 8)] }, .host, 3, by decide⟩

theorem witness_CalibrationsAreRequestedRunAndJudged_4 : ∃ s : State, ∃ m : Master, ∃ w : Word, s.reaches m
    R.RF2_CTL = true ∧ s.chainOn .ghz24 = bit 0 w :=
  ⟨{ power := { phase := .run, d0run := true }, regs := [(R.GLB_STAT, 8), (R.RF2_CTL, 3)] }, .host, 7, by decide⟩

theorem witness_CalibrationsAreRequestedRunAndJudged_5 : ∃ s : State, ∃ m : Master, ∃ w : Word, s.reaches m
    R.RFS_CAL = true ∧ bit 0 w = true :=
  ⟨{ power := { phase := .run, d0run := true }, regs := [(R.GLB_STAT, 8), (R.RFS_CTL, 3)] }, .host, 3, by decide⟩

theorem witness_CalibrationsAreRequestedRunAndJudged_6 : ∃ s : State, ∃ m : Master, ∃ w : Word, s.reaches m
    R.RFS_CAL = true ∧ bit 1 w = true :=
  ⟨{ power := { phase := .run, d0run := true }, regs := [(R.GLB_STAT, 8), (R.RFS_CTL, 3)] }, .host, 3, by decide⟩

theorem witness_CalibrationsAreRequestedRunAndJudged_7 : ∃ s : State, s.d0up = true :=
  ⟨{ power := { phase := .run, d0run := true }, regs := [(R.GLB_STAT, 8)] }, by decide⟩

theorem witness_CalibrationsAreRequestedRunAndJudged_8 : ∃ s : State, ∃ code : Byte, s.d0up = true ∧ s.chainOn
    .subGhz = true ∧ s.radio.sub.calTemp ≠ 0 ∧ s.rf R.RFS_CAL 6 2 ≠ 0 ∧ (s.rf R.RFS_CAL 6 2 +
    s.radio.sub.calTemp.toNat ≤ code.toNat ∨ s.rf R.RFS_CAL 6 2 + code.toNat ≤ s.radio.sub.calTemp.toNat) :=
  ⟨{ power := { phase := .run, d0run := true }, regs := [(R.GLB_STAT, 8), (R.RFS_CTL, 1)], radio := { sub := { calTemp := 40 } } }, 60, by decide⟩

theorem witness_CalibrationsAreRequestedRunAndJudged_9 : ∃ s : State, s.radio.wakeCalWait = true :=
  ⟨{ power := { phase := .run, d0run := true }, regs := [(R.GLB_STAT, 8)], radio := { wakeCalWait := true } }, by decide⟩

theorem witness_CalibrationsAreRequestedRunAndJudged_10 : ∃ s : State, ∃ c : Chain, (c = .ghz24 ∨ s.mac.running =
    false) ∧ ((s.chain c).pendRx = true ∨ (s.chain c).pendTx = true) ∧ (s.chain c).calRunning = false :=
  ⟨{ power := { phase := .run, d0run := true }, regs := [(R.GLB_STAT, 8)], radio := { sub := { pendRx := true } } }, .subGhz, by decide⟩

theorem witness_CalibrationsAreRequestedRunAndJudged_11 : ∃ s : State, ∃ c : Chain, (s.chain c).calRunning = true ∧
    s.d0up = true ∧ (s.chain c).pendRx = false ∧ (s.chain c).pendTx = false :=
  ⟨{ power := { phase := .run, d0run := true }, regs := [(R.GLB_STAT, 8)], radio := { sub := { calRunning := true } } }, .subGhz, by decide⟩

theorem witness_CalibrationsAreRequestedRunAndJudged_12 : ∃ s : State, s.radio.sub.calRunning = true ∧
    s.radio.sub.runTx = true ∧ s.d0up = true :=
  ⟨{ power := { phase := .run, d0run := true }, regs := [(R.GLB_STAT, 8)], radio := { sub := { calRunning := true, runTx := true } } }, by decide⟩

theorem witness_TransmissionsStartEndAndFail_2 : ∃ s : State, ∃ c : Chain, ∃ lock : Bool, ∃ r : TxReq, s.macUp =
    true ∧ s.macEn = true ∧ s.strobeReq .ack c lock = some r ∧ s.strobeRefused r = none ∧ (r.chain = .ghz24 ∨
    (s.slotAllowsTx = true ∧ s.mac.chorusDue = none)) :=
  ⟨{ power := { phase := .run, d0run := true }, regs := [(R.GLB_STAT, 8), (R.MAC_CTL, 1), (R.RF2_CTL, 3)], mac := { acks := [{ chain := .ghz24, ch := .ghz24, mcs := 0, node := 3, seq := 7, enh := true, secured := false, correction := 0, fc := 0, frame := ⟨2, .ack, .absent, .absent, 7, false, false, 0, 0, [], [], none⟩ }] } }, .ghz24, true, ⟨.ghz24, .ack, 2405000, 0, 0, none, true⟩, by decide⟩

theorem witness_TransmissionsStartEndAndFail_6 : ∃ s : State, ∃ c : Chain, ∃ lock : Bool, ∃ r : TxReq, s.macUp =
    true ∧ s.macEn = true ∧ s.strobeReq .ack c lock = some r ∧ (s.strobeRefused r ≠ none ∨ (r.chain = .subGhz ∧
    (s.slotAllowsTx = false ∨ s.mac.chorusDue ≠ none))) :=
  ⟨{ power := { phase := .run, d0run := true }, regs := [(R.GLB_STAT, 8), (R.MAC_CTL, 1), (R.RF2_CTL, 0)], mac := { acks := [{ chain := .ghz24, ch := .ghz24, mcs := 0, node := 3, seq := 7, enh := true, secured := false, correction := 0, fc := 0, frame := ⟨2, .ack, .absent, .absent, 7, false, false, 0, 0, [], [], none⟩ }] } }, .ghz24, true, ⟨.ghz24, .ack, 2405000, 0, 0, none, true⟩, by decide⟩

theorem witness_TransmissionsStartEndAndFail_8 : ∃ s : State, ∃ c : Chain, ∃ lock : Bool, s.macUp = true ∧ s.macEn =
    true ∧ s.strobeReq .ack c lock = none ∧ (s.ackDue c).isSome = true :=
  ⟨{ power := { phase := .run, d0run := true }, regs := [(R.GLB_STAT, 8), (R.MAC_CTL, 1), (R.RF2_CTL, 3)], mac := { acks := [{ chain := .ghz24, ch := .lead 3, mcs := 0, node := 3, seq := 7, enh := true, secured := false, correction := 0, fc := 0, frame := ⟨2, .ack, .absent, .absent, 7, false, false, 0, 0, [], [], none⟩ }] } }, .ghz24, true, by decide⟩

theorem witness_TransmissionsStartEndAndFail_9 : ∃ s : State, ∃ who : TxWho, ∃ c : Chain, ∃ lock : Bool, s.macUp =
    true ∧ s.macEn = true ∧ s.strobeReq who c lock = none ∧ (who ≠ .ack ∨ s.ackDue c = none) :=
  ⟨{ power := { phase := .run, d0run := true }, regs := [(R.GLB_STAT, 8), (R.MAC_CTL, 1)] }, .ack, .ghz24, true, by decide⟩

theorem witness_TransmissionsStartEndAndFail_10 : ∃ s : State, ∃ c : Chain, ∃ r : TxReq, (s.chain c).tx = some r :=
  ⟨{ power := { phase := .run, d0run := true }, regs := [(R.GLB_STAT, 8)], radio := { sub := { tx := some ⟨.subGhz, .ack, 2405000, 0, 0, none, true⟩ } } }, .subGhz, ⟨.subGhz, .ack, 2405000, 0, 0, none, true⟩, by decide⟩

theorem witness_TransmissionsStartEndAndFail_11 : ∃ s : State, ∃ c : Chain, (s.chain c).blanked = true ∧ (s.chain
    c).tx = none ∧ (s.chain c).calRunning = false ∧ (s.chain c).pendRx = false ∧ (s.chain c).pendTx = false :=
  ⟨{ power := { phase := .run, d0run := true }, regs := [(R.GLB_STAT, 8)], radio := { sub := { blanked := true } } }, .subGhz, by decide⟩

theorem witness_TransmissionsStartEndAndFail_14 : ∃ s : State, ∃ m : Master, ∃ w : Word, s.reaches m R.RFS_TXCFG =
    true ∧ bit 12 w = false :=
  ⟨{ power := { phase := .run, d0run := true }, regs := [(R.GLB_STAT, 8)] }, .host, 0, by decide⟩

theorem witness_TransmissionsStartEndAndFail_15 : ∃ s : State, ∃ m : Master, ∃ i : Fin 48, s.reaches m (R.RFS_FIR
    i.val) = true ∧ i.val < 32 ∧ s.rb R.RFS_CTL 2 = false ∧ s.rd (R.RFS_FIR i.val) &&& 0xFFFF0000 = 0 :=
  ⟨{ power := { phase := .run, d0run := true }, regs := [(R.GLB_STAT, 8)] }, .host, 4, by decide⟩

theorem witness_TransmissionsStartEndAndFail_16 : ∃ s : State, ∃ m : Master, ∃ i : Fin 48, (s.reaches m (if i.val <
    32 then R.RFS_FIR i.val else R.RFS_MASK (i.val - 32)) = true) :=
  ⟨{ power := { phase := .run, d0run := true }, regs := [(R.GLB_STAT, 8), (R.RFS_CTL, 4), (R.RFS_TXCFG, 0x1000)] }, .host, 40, by decide⟩

theorem witness_TransmissionsStartEndAndFail_17 : ∃ s : State, ∃ r : RadioRail, s.d0up = true ∧
    s.radio.sub.railDown.contains r = false :=
  ⟨{ power := { phase := .run, d0run := true }, regs := [(R.GLB_STAT, 8)] }, .pa, by decide⟩

theorem witness_TransmissionsStartEndAndFail_18 : ∃ s : State, ∃ r : RadioRail, s.d0up = false ∧
    s.radio.sub.railDown.contains r = false :=
  ⟨{}, .pa, by decide⟩

theorem witness_ReceivedFramesAreJudged_1 : ∃ s : State, ∃ f : RxFrame, nextHanded s.mac.handed = some f ∧ s.macUp =
    true ∧ s.dramWiped = true :=
  ⟨{ power := { phase := .run, d0run := true }, regs := [(R.GLB_STAT, 8), (R.RST_STAT, 0x10)], mac := { handed := [⟨.ghz24, 0, 30, 0, 0, 5000, 0, { version := 0, kind := .beacon, dst := .absent, src := .ext 0xFFFF 5, seq := 7, ar := false, secured := false, secLevel := 0, fc := 0, body := [1, 2], mic := [], chorus := none }⟩] } }, ⟨.ghz24, 0, 30, 0, 0, 5000, 0, { version := 0, kind := .beacon, dst := .absent, src := .ext 0xFFFF 5, seq := 7, ar := false, secured := false, secLevel := 0, fc := 0, body := [1, 2], mic := [], chorus := none }⟩, by decide⟩

theorem witness_ReceivedFramesAreJudged_2 : ∃ s : State, (s.mac.handed = [] ∨ s.macUp = false ∨ s.dramWiped = false)
    :=
  ⟨{}, by decide⟩

theorem witness_ReceivedFramesAreJudged_3 : ∃ s : State, ∃ f : RxFrame, nextHanded s.mac.handed = some f :=
  ⟨{ mac := { handed := [⟨.ghz24, 0, 30, 0, 0, 5000, 0, { version := 0, kind := .beacon, dst := .absent, src := .ext 0xFFFF 5, seq := 7, ar := false, secured := false, secLevel := 0, fc := 0, body := [1, 2], mic := [], chorus := none }⟩] } }, ⟨.ghz24, 0, 30, 0, 0, 5000, 0, { version := 0, kind := .beacon, dst := .absent, src := .ext 0xFFFF 5, seq := 7, ar := false, secured := false, secLevel := 0, fc := 0, body := [1, 2], mic := [], chorus := none }⟩, by decide⟩

theorem witness_ReceivedFramesAreJudged_4 : ∃ s : State, s.mac.late = true :=
  ⟨{ mac := { late := true } }, by decide⟩

theorem witness_ReceivedFramesAreJudged_5 : ∃ f : RxFrame, (f.frame.kind = .multipurpose ∨ f.frame.kind = .fragment
    ∨ f.frame.version = 3) :=
  ⟨⟨.ghz24, 0, 30, 0, 0, 5000, 0, { version := 0, kind := .fragment, dst := .absent, src := .ext 0xFFFF 5, seq := 7, ar := false, secured := false, secLevel := 0, fc := 0, body := [1, 2], mic := [], chorus := none }⟩, by decide⟩

theorem witness_ReceivedFramesAreJudged_6 : ∃ s : State, ∃ f : RxFrame, (f.frame.kind = .beacon ∨ f.frame.kind =
    .data ∨ f.frame.kind = .command) ∧ f.frame.version ≠ 3 ∧ s.addressed f.frame = false :=
  ⟨{ power := { phase := .run, d0run := true }, regs := [(R.GLB_STAT, 8)], mac := {  } }, ⟨.ghz24, 0, 30, 0, 0, 5000, 0, { version := 0, kind := .data, dst := .absent, src := .ext 0xFFFF 5, seq := 7, ar := false, secured := false, secLevel := 0, fc := 0, body := [1, 2], mic := [], chorus := none }⟩, by decide⟩

theorem witness_ReceivedFramesAreJudged_7 : ∃ s : State, ∃ f : RxFrame, (f.frame.kind = .beacon ∨ f.frame.kind =
    .data ∨ f.frame.kind = .command) ∧ f.frame.version ≠ 3 ∧ s.addressed f.frame = true ∧ s.findNode f.frame.src =
    none ∧ f.frame.secured = true :=
  ⟨{ power := { phase := .run, d0run := true }, regs := [(R.GLB_STAT, 8)], mac := {  } }, ⟨.ghz24, 0, 30, 0, 0, 5000, 0, { version := 0, kind := .beacon, dst := .absent, src := .ext 0xFFFF 5, seq := 7, ar := false, secured := true, secLevel := 0, fc := 0, body := [1, 2], mic := [], chorus := none }⟩, by decide⟩

theorem witness_ReceivedFramesAreJudged_8 : ∃ s : State, ∃ f : RxFrame, (f.frame.kind = .beacon ∨ f.frame.kind =
    .data ∨ f.frame.kind = .command) ∧ f.frame.version ≠ 3 ∧ s.addressed f.frame = true ∧ s.findNode f.frame.src =
    none ∧ f.frame.secured = false ∧ s.rb R.MAC_CTL 2 = false :=
  ⟨{ power := { phase := .run, d0run := true }, regs := [(R.GLB_STAT, 8)], mac := {  } }, ⟨.ghz24, 0, 30, 0, 0, 5000, 0, { version := 0, kind := .beacon, dst := .absent, src := .ext 0xFFFF 5, seq := 7, ar := false, secured := false, secLevel := 0, fc := 0, body := [1, 2], mic := [], chorus := none }⟩, by decide⟩

theorem witness_ReceivedFramesAreJudged_9 : ∃ s : State, ∃ f : RxFrame, ∃ i : Nat, (f.frame.kind = .beacon ∨
    f.frame.kind = .data ∨ f.frame.kind = .command) ∧ f.frame.version ≠ 3 ∧ s.addressed f.frame = true ∧ s.findNode
    f.frame.src = some i ∧ (f.frame.secured = true ∧ f.frame.secLevel.toNat < (s.node i).seclvl.toNat ∨
    f.frame.secured = false ∧ (s.node i).flags.getLsbD 0 = false) :=
  ⟨{ power := { phase := .run, d0run := true }, regs := [(R.GLB_STAT, 8)], mac := { nodes := [(3, { extaddr := 5, state := 1, flags := 0, seclvl := 2, rxfc := 9 })] } }, ⟨.ghz24, 0, 30, 0, 0, 5000, 0, { version := 0, kind := .beacon, dst := .absent, src := .ext 0xFFFF 5, seq := 7, ar := false, secured := false, secLevel := 0, fc := 0, body := [1, 2], mic := [], chorus := none }⟩, 3, by decide⟩

theorem witness_ReceivedFramesAreJudged_10 : ∃ s : State, ∃ f : RxFrame, ∃ i : Nat, (f.frame.kind = .beacon ∨
    f.frame.kind = .data ∨ f.frame.kind = .command) ∧ f.frame.version ≠ 3 ∧ s.addressed f.frame = true ∧ s.findNode
    f.frame.src = some i ∧ f.frame.secured = true ∧ (s.node i).seclvl.toNat ≤ f.frame.secLevel.toNat :=
  ⟨{ power := { phase := .run, d0run := true }, regs := [(R.GLB_STAT, 8)], mac := { nodes := [(3, { extaddr := 5, state := 1, flags := 0, seclvl := 2, rxfc := 9 })] } }, ⟨.ghz24, 0, 30, 0, 0, 5000, 0, { version := 0, kind := .beacon, dst := .absent, src := .ext 0xFFFF 5, seq := 7, ar := false, secured := true, secLevel := 3, fc := 9, body := [1, 2], mic := [], chorus := none }⟩, 3, by decide⟩

theorem witness_ReceivedFramesAreJudged_11 : ∃ s : State, ∃ f : RxFrame, ∃ i : Nat, (f.frame.kind = .beacon ∨
    f.frame.kind = .data ∨ f.frame.kind = .command) ∧ f.frame.version ≠ 3 ∧ s.addressed f.frame = true ∧ s.findNode
    f.frame.src = some i ∧ f.frame.secured = false ∧ (s.node i).flags.getLsbD 0 = true ∧ isDuplicate (s.node i) f =
    true :=
  ⟨{ power := { phase := .run, d0run := true }, regs := [(R.GLB_STAT, 8)], mac := { nodes := [(3, { extaddr := 5, state := 1, flags := 1, dup := [⟨0, 7, false, 4990⟩] })] } }, ⟨.ghz24, 0, 30, 0, 0, 5000, 0, { version := 0, kind := .beacon, dst := .absent, src := .ext 0xFFFF 5, seq := 7, ar := false, secured := false, secLevel := 0, fc := 0, body := [1, 2], mic := [], chorus := none }⟩, 3, by decide⟩

theorem witness_ReceivedFramesAreJudged_12 : ∃ s : State, ∃ f : RxFrame, ∃ i : Nat, (f.frame.kind = .beacon ∨
    f.frame.kind = .data ∨ f.frame.kind = .command) ∧ f.frame.version ≠ 3 ∧ s.addressed f.frame = true ∧ s.findNode
    f.frame.src = some i ∧ f.frame.secured = false ∧ (s.node i).flags.getLsbD 0 = true ∧ isDuplicate (s.node i) f =
    false :=
  ⟨{ power := { phase := .run, d0run := true }, regs := [(R.GLB_STAT, 8)], mac := { nodes := [(3, { extaddr := 5, state := 1, flags := 1, seclvl := 0, rxfc := 9 })] } }, ⟨.ghz24, 0, 30, 0, 0, 5000, 0, { version := 0, kind := .beacon, dst := .absent, src := .ext 0xFFFF 5, seq := 7, ar := false, secured := false, secLevel := 0, fc := 0, body := [1, 2], mic := [], chorus := none }⟩, 3, by decide⟩

theorem witness_ReceivedFramesAreJudged_13 : ∃ s : State, ∃ f : RxFrame, ∃ x : SendOp, f.frame.kind = .ack ∧
    f.frame.version ≠ 3 ∧ f.frame.secured = false ∧ s.mac.sends.find? (fun y => s.ackAnswers f y) = some x :=
  ⟨{ power := { phase := .run, d0run := true }, regs := [(R.GLB_STAT, 8)], mac := { sends := [{ tag := 9, node := 5, chain := 0x80, timing := 0, frame := ⟨0, .data, .absent, .absent, 7, false, false, 0, 0, [], [], none⟩, mcs := 0, power := 0xFF, sec := false, waitAck := true, endAt := 4808 }] } }, ⟨.ghz24, 0, 30, 0, 0, 5000, 0, { version := 0, kind := .ack, dst := .absent, src := .ext 0xFFFF 5, seq := 7, ar := false, secured := false, secLevel := 0, fc := 0, body := [1, 2], mic := [], chorus := none }⟩, { tag := 9, node := 5, chain := 0x80, timing := 0, frame := ⟨0, .data, .absent, .absent, 7, false, false, 0, 0, [], [], none⟩, mcs := 0, power := 0xFF, sec := false, waitAck := true, endAt := 4808 }, by decide⟩

theorem witness_ReceivedFramesAreJudged_14 : ∃ f : RxFrame, f.frame.kind = .ack ∧ f.frame.version ≠ 3 ∧
    f.frame.secured = true :=
  ⟨⟨.ghz24, 0, 30, 0, 0, 5000, 0, { version := 0, kind := .ack, dst := .absent, src := .ext 0xFFFF 5, seq := 7, ar := false, secured := true, secLevel := 5, fc := 1, body := [1, 2], mic := [], chorus := none }⟩, by decide⟩

theorem witness_TheScheduleRunsSlotBySlot_1 : ∃ s : State, s.macUp = true ∧ s.mac.running = true ∧ s.mac.inSlot =
    false ∧ (s.mac.plan ≠ [] ∨ s.mac.nextPlan ≠ none) :=
  ⟨{ power := { phase := .run, d0run := true }, regs := [(R.GLB_STAT, 8)], mac := { running := true, plan := [1] } }, by decide⟩

theorem witness_TheScheduleRunsSlotBySlot_2 : ∃ s : State, s.macUp = true ∧ s.mac.running = true ∧ s.mac.inSlot =
    false ∧ (s.mac.plan ≠ [] ∨ s.mac.nextPlan ≠ none) ∧ s.mac.nextSlot = 0 :=
  ⟨{ power := { phase := .run, d0run := true }, regs := [(R.GLB_STAT, 8)], mac := { running := true, nextPlan := some [1] } }, by decide⟩

theorem witness_TheScheduleRunsSlotBySlot_3 : ∃ s : State, s.macUp = true ∧ s.mac.running = true ∧ s.mac.inSlot =
    true :=
  ⟨{ power := { phase := .run, d0run := true }, regs := [(R.GLB_STAT, 8)], mac := { running := true, inSlot := true, plan := [1] } }, by decide⟩

theorem witness_TheScheduleRunsSlotBySlot_4 : ∃ s : State, s.rf R.MAC_STAT 4 2 = 3 ∧ s.mac.running = true :=
  ⟨{ power := { phase := .run, d0run := true }, regs := [(R.GLB_STAT, 8), (R.MAC_STAT, 0xC)], mac := { running := true } }, by decide⟩

theorem witness_TheScheduleRunsSlotBySlot_5 : ∃ s : State, ∃ m : Master, ∃ w : Word, s.reaches m R.MAC_CTL = true ∧
    s.rb R.MAC_CTL 0 = false ∧ bit 0 w = true :=
  ⟨{ power := { phase := .run, d0run := true }, regs := [(R.GLB_STAT, 8)], mac := {  } }, .host, 3, by decide⟩

theorem witness_TheScheduleRunsSlotBySlot_6 : ∃ s : State, ∃ m : Master, ∃ w : Word, s.reaches m R.MAC_CTL = true ∧
    s.rb R.MAC_CTL 0 = true ∧ bit 0 w = false :=
  ⟨{ power := { phase := .run, d0run := true }, regs := [(R.GLB_STAT, 8), (R.MAC_CTL, 1)], mac := { running := true } }, .host, 0, by decide⟩

theorem witness_TheScheduleRunsSlotBySlot_7 : ∃ s : State, ∃ d : Delivery, ∃ r : List Delivery, s.hri.deliveries = d
    :: r ∧ (s.q 34).exists' = true ∧ s.hri.d3hot = false ∧ s.d0up = true ∧ (deliveryEntries d s.time32).length ≤
    (s.q 34).room :=
  ⟨{ power := { phase := .run, d0run := true }, regs := [], hri := { queues := [(34, { exists' := true, sqsize := 8, cqsize := 8 })], deliveries := [⟨[], [1]⟩] } }, ⟨[], [1]⟩, [], by decide⟩

theorem witness_TheScheduleRunsSlotBySlot_8 : ∃ s : State, ∃ d : Delivery, ∃ r : List Delivery, s.hri.deliveries = d
    :: r ∧ ((s.q 34).exists' = false ∨ s.hri.d3hot = true ∨ s.d0up = false ∨ (s.q 34).room < (deliveryEntries d
    s.time32).length) :=
  ⟨{ hri := { deliveries := [⟨[], [1]⟩] } }, ⟨[], [1]⟩, [], by decide⟩

theorem witness_SendsAreCheckedTriedAndCompleted_1 : ∃ s : State, ∃ tag : Half, ∃ c : Cmd, (s.q 33).inflight.find?
    (fun d => d.tag == tag.toNat && !d.started && !d.ended) = some c ∧ s.macUp = true ∧ s.dramWiped = true ∧
    s.sendBehind c = false ∧ s.macEn = false :=
  ⟨{ power := { phase := .run, d0run := true }, regs := [(R.GLB_STAT, 8), (R.RST_STAT, 0x10), (R.MAC_CTL, 0)], hri := { queues := [(33, { exists' := true, sqsize := 8, cqsize := 8, inflight := [{ entry := 0xff00000400000000000010000080000500090101 }] })] }, mac := {  } }, 9, { entry := 0xff00000400000000000010000080000500090101 }, by decide⟩

theorem witness_SendsAreCheckedTriedAndCompleted_2 : ∃ s : State, ∃ tag : Half, ∃ segs : Segs, ∃ f : Option
    MacFrame, ∃ c : Cmd, ∃ code : Nat, ∃ detail : Nat, (s.q 33).inflight.find? (fun d => d.tag == tag.toNat &&
    !d.started && !d.ended) = some c ∧ s.macUp = true ∧ s.dramWiped = true ∧ s.sendBehind c = false ∧ s.macEn = true
    ∧ (checkSegs c segs ((c.sendLen + 3) / 4 * 4) = .mismatch ∧ code = 7 ∧ detail = 0 ∨ checkSegs c segs ((c.sendLen
    + 3) / 4 * 4) = .unreadable ∧ code = 4 ∧ detail = 1 ∨ checkSegs c segs ((c.sendLen + 3) / 4 * 4) = .good ∧ f =
    none ∧ code = 4 ∧ detail = 0) :=
  ⟨{ power := { phase := .run, d0run := true }, regs := [(R.GLB_STAT, 8), (R.RST_STAT, 0x10), (R.MAC_CTL, 1)], hri := { queues := [(33, { exists' := true, sqsize := 8, cqsize := 8, inflight := [{ entry := 0xff00000400000000000010000080000500090101 }] })] }, mac := {  } }, 9, none, none, { entry := 0xff00000400000000000010000080000500090101 }, 4, 0, by decide⟩

theorem witness_SendsAreCheckedTriedAndCompleted_3 : ∃ s : State, ∃ tag : Half, ∃ segs : Segs, ∃ sram : SramRead, ∃
    c : Cmd, (s.q 33).inflight.find? (fun d => d.tag == tag.toNat && !d.started && !d.ended) = some c ∧ s.macUp =
    true ∧ s.dramWiped = true ∧ s.sendBehind c = false ∧ s.macEn = true ∧ checkSegs c segs ((c.sendLen + 3) / 4 * 4)
    = .good ∧ sramBank sram ≠ none :=
  ⟨{ power := { phase := .run, d0run := true }, regs := [(R.GLB_STAT, 8), (R.RST_STAT, 0x10), (R.MAC_CTL, 1)], hri := { queues := [(33, { exists' := true, sqsize := 8, cqsize := 8, inflight := [{ entry := 0xff00000400000000000010000080000500090101 }] })] }, mac := {  } }, 9, none, ⟨0, some (.gather 3)⟩, { entry := 0xff00000400000000000010000080000500090101 }, by decide⟩

theorem witness_SendsAreCheckedTriedAndCompleted_4 : ∃ s : State, ∃ tag : Half, ∃ segs : Segs, ∃ f : MacFrame, ∃
    sram : SramRead, ∃ c : Cmd, (s.q 33).inflight.find? (fun d => d.tag == tag.toNat && !d.started && !d.ended) =
    some c ∧ s.macUp = true ∧ s.dramWiped = true ∧ s.sendBehind c = false ∧ s.macEn = true ∧ checkSegs c segs
    ((c.sendLen + 3) / 4 * 4) = .good ∧ sramBank sram = none ∧ (2047 < c.sendLen + (if 125 < c.sendLen then 4 else
    2) + (if c.sec then micLen f.secLevel else 0)) :=
  ⟨{ power := { phase := .run, d0run := true }, regs := [(R.GLB_STAT, 8), (R.RST_STAT, 0x10), (R.MAC_CTL, 1)], hri := { queues := [(33, { exists' := true, sqsize := 8, cqsize := 8, inflight := [{ entry := 0xff0007fe00000000000010000080000500090101 }] })] }, mac := {  } }, 9, none, ⟨0, .data, .absent, .absent, 7, false, false, 0, 0, [], [], none⟩, ⟨0, none⟩, { entry := 0xff0007fe00000000000010000080000500090101 }, by decide⟩

theorem witness_SendsAreCheckedTriedAndCompleted_5 : ∃ s : State, ∃ tag : Half, ∃ segs : Segs, ∃ f : MacFrame, ∃
    sram : SramRead, ∃ c : Cmd, (s.q 33).inflight.find? (fun d => d.tag == tag.toNat && !d.started && !d.ended) =
    some c ∧ s.macUp = true ∧ s.dramWiped = true ∧ s.sendBehind c = false ∧ s.macEn = true ∧ checkSegs c segs
    ((c.sendLen + 3) / 4 * 4) = .good ∧ sramBank sram = none ∧ (c.sendLen + (if 125 < c.sendLen then 4 else 2) + (if
    c.sec then micLen f.secLevel else 0) ≤ 2047) ∧ s.schedulable c = false :=
  ⟨{ power := { phase := .run, d0run := true }, regs := [(R.GLB_STAT, 8), (R.RST_STAT, 0x10), (R.MAC_CTL, 1)], hri := { queues := [(33, { exists' := true, sqsize := 8, cqsize := 8, inflight := [{ entry := 0xff00000400000000000010000003000500090101 }] })] }, mac := {  } }, 9, none, ⟨0, .data, .absent, .absent, 7, false, false, 0, 0, [], [], none⟩, ⟨0, none⟩, { entry := 0xff00000400000000000010000003000500090101 }, by decide⟩

theorem witness_SendsAreCheckedTriedAndCompleted_6 : ∃ s : State, ∃ tag : Half, ∃ segs : Segs, ∃ f : MacFrame, ∃
    sram : SramRead, ∃ c : Cmd, (s.q 33).inflight.find? (fun d => d.tag == tag.toNat && !d.started && !d.ended) =
    some c ∧ s.macUp = true ∧ s.dramWiped = true ∧ s.sendBehind c = false ∧ s.macEn = true ∧ checkSegs c segs
    ((c.sendLen + 3) / 4 * 4) = .good ∧ sramBank sram = none ∧ (c.sendLen + (if 125 < c.sendLen then 4 else 2) + (if
    c.sec then micLen f.secLevel else 0) ≤ 2047) ∧ s.schedulable c = true ∧ c.headerBad f = true :=
  ⟨{ power := { phase := .run, d0run := true }, regs := [(R.GLB_STAT, 8), (R.RST_STAT, 0x10), (R.MAC_CTL, 1)], hri := { queues := [(33, { exists' := true, sqsize := 8, cqsize := 8, inflight := [{ entry := 0xff00000400000000000010000080ffff00090501 }] })] }, mac := {  } }, 9, none, ⟨0, .data, .absent, .absent, 7, false, false, 0, 0, [], [], none⟩, ⟨0, none⟩, { entry := 0xff00000400000000000010000080ffff00090501 }, by decide⟩

theorem witness_SendsAreCheckedTriedAndCompleted_7 : ∃ s : State, ∃ tag : Half, ∃ segs : Segs, ∃ f : MacFrame, ∃
    sram : SramRead, ∃ c : Cmd, (s.q 33).inflight.find? (fun d => d.tag == tag.toNat && !d.started && !d.ended) =
    some c ∧ s.macUp = true ∧ s.dramWiped = true ∧ s.sendBehind c = false ∧ s.macEn = true ∧ checkSegs c segs
    ((c.sendLen + 3) / 4 * 4) = .good ∧ sramBank sram = none ∧ (c.sendLen + (if 125 < c.sendLen then 4 else 2) + (if
    c.sec then micLen f.secLevel else 0) ≤ 2047) ∧ s.schedulable c = true ∧ c.sec = true ∧ c.headerBad f = false ∧
    s.ccmSlot (s.sendKey c.sendNode) = false :=
  ⟨{ power := { phase := .run, d0run := true }, regs := [(R.GLB_STAT, 8), (R.RST_STAT, 0x10), (R.MAC_CTL, 1)], hri := { queues := [(33, { exists' := true, sqsize := 8, cqsize := 8, inflight := [{ entry := 0xff00000400000000000010000080ffff00090501 }] })] }, mac := {  } }, 9, none, ⟨2, .data, .absent, .absent, 7, false, true, 0, 0, [], [], none⟩, ⟨0, none⟩, { entry := 0xff00000400000000000010000080ffff00090501 }, by decide⟩

theorem witness_SendsAreCheckedTriedAndCompleted_8 : ∃ s : State, ∃ tag : Half, ∃ segs : Segs, ∃ f : MacFrame, ∃
    sram : SramRead, ∃ c : Cmd, (s.q 33).inflight.find? (fun d => d.tag == tag.toNat && !d.started && !d.ended) =
    some c ∧ s.macUp = true ∧ s.dramWiped = true ∧ s.sendBehind c = false ∧ s.macEn = true ∧ checkSegs c segs
    ((c.sendLen + 3) / 4 * 4) = .good ∧ sramBank sram = none ∧ (c.sendLen + (if 125 < c.sendLen then 4 else 2) + (if
    c.sec then micLen f.secLevel else 0) ≤ 2047) ∧ s.schedulable c = true ∧ c.sec = true ∧ c.headerBad f = false ∧
    s.ccmSlot (s.sendKey c.sendNode) = true ∧ (s.slot (s.sendKey c.sendNode)).txfc = 0xFFFFFFFF :=
  ⟨{ power := { phase := .run, d0run := true }, regs := [(R.GLB_STAT, 8), (R.RST_STAT, 0x10), (R.MAC_CTL, 1)], hri := { queues := [(33, { exists' := true, sqsize := 8, cqsize := 8, inflight := [{ entry := 0xff00000400000000000010000080ffff00090501 }] })] }, mac := {  }, keys := { slots := [(0, { state := 1, txfc := 0xFFFFFFFF })] } }, 9, none, ⟨2, .data, .absent, .absent, 7, false, true, 0, 0, [], [], none⟩, ⟨0, none⟩, { entry := 0xff00000400000000000010000080ffff00090501 }, by decide⟩

theorem witness_SendsAreCheckedTriedAndCompleted_9 : ∃ s : State, ∃ tag : Half, ∃ segs : Segs, ∃ f : MacFrame, ∃
    sram : SramRead, ∃ c : Cmd, (s.q 33).inflight.find? (fun d => d.tag == tag.toNat && !d.started && !d.ended) =
    some c ∧ s.macUp = true ∧ s.dramWiped = true ∧ s.sendBehind c = false ∧ s.macEn = true ∧ checkSegs c segs
    ((c.sendLen + 3) / 4 * 4) = .good ∧ sramBank sram = none ∧ (c.sendLen + (if 125 < c.sendLen then 4 else 2) + (if
    c.sec then micLen f.secLevel else 0) ≤ 2047) ∧ s.schedulable c = true ∧ (c.sec = false ∨ (c.headerBad f = false
    ∧ s.ccmSlot (s.sendKey c.sendNode) = true ∧ (s.slot (s.sendKey c.sendNode)).txfc ≠ 0xFFFFFFFF)) :=
  ⟨{ power := { phase := .run, d0run := true }, regs := [(R.GLB_STAT, 8), (R.RST_STAT, 0x10), (R.MAC_CTL, 1)], hri := { queues := [(33, { exists' := true, sqsize := 8, cqsize := 8, inflight := [{ entry := 0xff00000400000000000010000080ffff00090501 }] })] }, mac := {  }, keys := { slots := [(0, { state := 1, txfc := 5 })] } }, 9, none, ⟨2, .data, .absent, .absent, 7, false, true, 0, 0, [], [], none⟩, ⟨0, none⟩, { entry := 0xff00000400000000000010000080ffff00090501 }, by decide⟩

theorem witness_SendsAreCheckedTriedAndCompleted_10 : ∃ s : State, ∃ tag : Half, ∃ c : Cmd, (s.q 33).inflight.find?
    (fun d => d.tag == tag.toNat && !d.started && !d.ended) = some c ∧ (s.macUp = false ∨ s.dramWiped = false ∨
    s.sendBehind c = true) :=
  ⟨{ power := { phase := .run, d0run := true }, regs := [(R.GLB_STAT, 8), (R.MAC_CTL, 1)], hri := { queues := [(33, { exists' := true, sqsize := 8, cqsize := 8, inflight := [{ entry := 0xff00000400000000000010000080000500090101 }] })] }, mac := {  } }, 9, { entry := 0xff00000400000000000010000080000500090101 }, by decide⟩

theorem witness_SendsAreCheckedTriedAndCompleted_11 : ∃ s : State, ∃ tag : Half, ∃ fits : Bool, (fits = false ∨
    s.sendOp tag = none) :=
  ⟨{}, 0, false, by decide⟩

theorem witness_SendsAreCheckedTriedAndCompleted_12 : ∃ s : State, ∃ tag : Half, ∃ x : SendOp, s.sendOp tag = some x
    ∧ s.macUp = true ∧ s.sendWaits x = true ∧ x.measuring = false ∧ x.ready = false ∧ (x.timing = 0 ∨ x.chain =
    0x80) ∧ s.contends x = true ∧ s.rxUp x.chan = true :=
  ⟨{ power := { phase := .run, d0run := true }, regs := [(R.GLB_STAT, 8), (R.RF2_CTL, 3)], mac := { sends := [{ tag := 9, node := 5, chain := 0x80, timing := 0, frame := ⟨0, .data, .absent, .absent, 7, false, false, 0, 0, [], [], none⟩, mcs := 0, power := 0xFF, sec := false }] } }, 9, { tag := 9, node := 5, chain := 0x80, timing := 0, frame := ⟨0, .data, .absent, .absent, 7, false, false, 0, 0, [], [], none⟩, mcs := 0, power := 0xFF, sec := false }, by decide⟩

theorem witness_SendsAreCheckedTriedAndCompleted_13 : ∃ s : State, ∃ ch : RxChan, tget (fun _ => false) (s.chain
    (chanOf ch)).ed (keyOf ch) = true :=
  ⟨{ power := { phase := .run, d0run := true }, regs := [(R.GLB_STAT, 8)], radio := { ghz := { ed := [(0, true)] } } }, .ghz24, by decide⟩

theorem witness_SendsAreCheckedTriedAndCompleted_14 : ∃ s : State, ∃ ch : RxChan, ∃ rssi : BitVec 16, ∃ x : SendOp,
    tget (fun _ => false) (s.chain (chanOf ch)).ed (keyOf ch) = true ∧ s.mac.sends.find? (fun y => y.measuring &&
    y.chan == ch) = some x ∧ s.sendOp x.tag = some x ∧ s.edClear (satRssi rssi) = true :=
  ⟨{ power := { phase := .run, d0run := true }, regs := [(R.GLB_STAT, 8)], radio := { ghz := { ed := [(0, true)] } }, mac := { sends := [{ tag := 9, node := 5, chain := 0x80, timing := 0, frame := ⟨0, .data, .absent, .absent, 7, false, false, 0, 0, [], [], none⟩, mcs := 0, power := 0xFF, sec := false, measuring := true }] } }, .ghz24, 0xFC00, { tag := 9, node := 5, chain := 0x80, timing := 0, frame := ⟨0, .data, .absent, .absent, 7, false, false, 0, 0, [], [], none⟩, mcs := 0, power := 0xFF, sec := false, measuring := true }, by decide⟩

theorem witness_SendsAreCheckedTriedAndCompleted_15 : ∃ s : State, ∃ ch : RxChan, ∃ rssi : BitVec 16, ∃ x : SendOp,
    tget (fun _ => false) (s.chain (chanOf ch)).ed (keyOf ch) = true ∧ s.mac.sends.find? (fun y => y.measuring &&
    y.chan == ch) = some x ∧ s.edClear (satRssi rssi) = false ∧ s.rf R.MAC_LBT 18 16 ≤ x.attempts + 1 :=
  ⟨{ power := { phase := .run, d0run := true }, regs := [(R.GLB_STAT, 8)], radio := { ghz := { ed := [(0, true)] } }, mac := { sends := [{ tag := 9, node := 5, chain := 0x80, timing := 0, frame := ⟨0, .data, .absent, .absent, 7, false, false, 0, 0, [], [], none⟩, mcs := 0, power := 0xFF, sec := false, measuring := true, attempts := 8 }] } }, .ghz24, 0, { tag := 9, node := 5, chain := 0x80, timing := 0, frame := ⟨0, .data, .absent, .absent, 7, false, false, 0, 0, [], [], none⟩, mcs := 0, power := 0xFF, sec := false, measuring := true, attempts := 8 }, by decide⟩

theorem witness_SendsAreCheckedTriedAndCompleted_16 : ∃ s : State, ∃ ch : RxChan, ∃ rssi : BitVec 16, ∃ x : SendOp,
    tget (fun _ => false) (s.chain (chanOf ch)).ed (keyOf ch) = true ∧ s.mac.sends.find? (fun y => y.measuring &&
    y.chan == ch) = some x ∧ s.sendOp x.tag = some x ∧ s.edClear (satRssi rssi) = false ∧ x.attempts + 1 < s.rf
    R.MAC_LBT 18 16 :=
  ⟨{ power := { phase := .run, d0run := true }, regs := [(R.GLB_STAT, 8)], radio := { ghz := { ed := [(0, true)] } }, mac := { sends := [{ tag := 9, node := 5, chain := 0x80, timing := 0, frame := ⟨0, .data, .absent, .absent, 7, false, false, 0, 0, [], [], none⟩, mcs := 0, power := 0xFF, sec := false, measuring := true }] } }, .ghz24, 0, { tag := 9, node := 5, chain := 0x80, timing := 0, frame := ⟨0, .data, .absent, .absent, 7, false, false, 0, 0, [], [], none⟩, mcs := 0, power := 0xFF, sec := false, measuring := true }, by decide⟩

theorem witness_SendsAreCheckedTriedAndCompleted_17 : ∃ s : State, ∃ tag : Half, ∃ x : SendOp, s.sendOp tag = some x
    ∧ x.waitAck = true ∧ s.rf R.MAC_LBT 21 19 < x.transmissions :=
  ⟨{ power := { phase := .run, d0run := true }, regs := [(R.GLB_STAT, 8)], mac := { sends := [{ tag := 9, node := 5, chain := 0x80, timing := 0, frame := ⟨0, .data, .absent, .absent, 7, false, false, 0, 0, [], [], none⟩, mcs := 0, power := 0xFF, sec := false, waitAck := true, transmissions := 9 }] } }, 9, { tag := 9, node := 5, chain := 0x80, timing := 0, frame := ⟨0, .data, .absent, .absent, 7, false, false, 0, 0, [], [], none⟩, mcs := 0, power := 0xFF, sec := false, waitAck := true, transmissions := 9 }, by decide⟩

theorem witness_SendsAreCheckedTriedAndCompleted_18 : ∃ s : State, ∃ tag : Half, ∃ x : SendOp, s.sendOp tag = some x
    ∧ x.waitAck = true ∧ x.transmissions ≤ s.rf R.MAC_LBT 21 19 :=
  ⟨{ power := { phase := .run, d0run := true }, regs := [(R.GLB_STAT, 8)], mac := { sends := [{ tag := 9, node := 5, chain := 0x80, timing := 0, frame := ⟨0, .data, .absent, .absent, 7, false, false, 0, 0, [], [], none⟩, mcs := 0, power := 0xFF, sec := false, waitAck := true }] } }, 9, { tag := 9, node := 5, chain := 0x80, timing := 0, frame := ⟨0, .data, .absent, .absent, 7, false, false, 0, 0, [], [], none⟩, mcs := 0, power := 0xFF, sec := false, waitAck := true }, by decide⟩

theorem witness_NodeTableCommands_1 : ∃ s : State, s.dramWiped = false :=
  ⟨{}, by decide⟩

theorem witness_NodeTableCommands_2 : ∃ s : State, s.dramWiped = false :=
  ⟨{}, by decide⟩

theorem witness_NodeTableCommands_3 : ∃ s : State, s.dramWiped = false :=
  ⟨{}, by decide⟩

theorem witness_NodeTableCommands_4 : ∃ s : State, s.dramWiped = false :=
  ⟨{}, by decide⟩

theorem witness_NodeTableCommands_5 : ∃ s : State, ∃ c : Cmd, ∃ b : BitVec 1024, s.nodeCmd 0x10 = some c ∧ c.node ≤
    4095 ∧ s.nodeBad c.node b = none ∧ nbit 0 (c.f 50 1) = false :=
  ⟨{ power := { phase := .run, d0run := true }, regs := [(R.RST_STAT, 0x10)], hri := { queues := [(0, { exists' := true, sqsize := 8, cqsize := 8, inflight := [{ entry := 0x3000000000000000000000000000000000000000000000000000000000000000000000000000010000000000000050110 }] })] }, mac := {  } }, { entry := 0x3000000000000000000000000000000000000000000000000000000000000000000000000000010000000000000050110 }, 0xff00000000000000000000000000000000000000, by decide⟩

theorem witness_NodeTableCommands_6 : ∃ s : State, ∃ c : Cmd, ∃ b : BitVec 1024, s.nodeCmd 0x10 = some c ∧ c.node ≤
    4095 ∧ s.nodeBad c.node b = none ∧ nbit 0 (c.f 50 1) = true :=
  ⟨{ power := { phase := .run, d0run := true }, regs := [(R.RST_STAT, 0x10)], hri := { queues := [(0, { exists' := true, sqsize := 8, cqsize := 8, inflight := [{ entry := 0x10003000000000000000000000000000000000000000000000000000000000000000000000000000010000000000000050110 }] })] }, mac := {  } }, { entry := 0x10003000000000000000000000000000000000000000000000000000000000000000000000000000010000000000000050110 }, 0xff00000000000000000000000000000000000000, by decide⟩

theorem witness_NodeTableCommands_7 : ∃ s : State, ∃ c : Cmd, ∃ b : BitVec 1024, ∃ off : Nat, s.nodeCmd 0x10 = some
    c ∧ c.node ≤ 4095 ∧ s.nodeBad c.node b = some off :=
  ⟨{ power := { phase := .run, d0run := true }, regs := [(R.RST_STAT, 0x10)], hri := { queues := [(0, { exists' := true, sqsize := 8, cqsize := 8, inflight := [{ entry := 0x3000000000000000000000000000000000000000000000000000000000000000000000000000010000000000000050110 }] })] }, mac := {  } }, { entry := 0x3000000000000000000000000000000000000000000000000000000000000000000000000000010000000000000050110 }, 0x9000000000000000000000000, 12, by decide⟩

theorem witness_NodeTableCommands_8 : ∃ s : State, ∃ c : Cmd, ∃ b : Option (BitVec 1024), ∃ typ : Nat, ∃ code : Nat,
    s.nodeCmd 0x10 = some c ∧ (4095 < c.node ∧ typ = 1 ∧ code = 0x10 ∨ c.node ≤ 4095 ∧ b = none ∧ typ = 0 ∧ code =
    4) :=
  ⟨{ power := { phase := .run, d0run := true }, regs := [(R.RST_STAT, 0x10)], hri := { queues := [(0, { exists' := true, sqsize := 8, cqsize := 8, inflight := [{ entry := 0x3000000000000000000000000000000000000000000000000000000000000000000000000000010000000000000050110 }] })] }, mac := {  } }, { entry := 0x3000000000000000000000000000000000000000000000000000000000000000000000000000010000000000000050110 }, none, 0, 4, by decide⟩

theorem witness_NodeTableCommands_9 : ∃ s : State, ∃ c : Cmd, s.nodeCmd 0x11 = some c ∧ c.node ≤ 4095 :=
  ⟨{ power := { phase := .run, d0run := true }, regs := [(R.RST_STAT, 0x10)], hri := { queues := [(0, { exists' := true, sqsize := 8, cqsize := 8, inflight := [{ entry := 0x3000000000000000000000000000000000000000000000000000000000000000000000000000010000000000000050111 }] })] }, mac := { cached := [3] } }, { entry := 0x3000000000000000000000000000000000000000000000000000000000000000000000000000010000000000000050111 }, by decide⟩

theorem witness_NodeTableCommands_10 : ∃ s : State, ∃ c : Cmd, s.nodeCmd 0x11 = some c ∧ c.node = 0xFFFF :=
  ⟨{ power := { phase := .run, d0run := true }, regs := [(R.RST_STAT, 0x10)], hri := { queues := [(0, { exists' := true, sqsize := 8, cqsize := 8, inflight := [{ entry := 0xffff000000000000000000000000000000000000000000000000000000000000000000000000000010000000000000050111 }] })] }, mac := { cached := [3] } }, { entry := 0xffff000000000000000000000000000000000000000000000000000000000000000000000000000010000000000000050111 }, by decide⟩

theorem witness_NodeTableCommands_11 : ∃ s : State, ∃ c : Cmd, s.nodeCmd 0x11 = some c ∧ c.node ≠ 0xFFFF ∧ 4095 <
    c.node :=
  ⟨{ power := { phase := .run, d0run := true }, regs := [(R.RST_STAT, 0x10)], hri := { queues := [(0, { exists' := true, sqsize := 8, cqsize := 8, inflight := [{ entry := 0x1000000000000000000000000000000000000000000000000000000000000000000000000000000010000000000000050111 }] })] }, mac := {  } }, { entry := 0x1000000000000000000000000000000000000000000000000000000000000000000000000000000010000000000000050111 }, by decide⟩

theorem witness_NodeTableCommands_12 : ∃ s : State, ∃ c : Cmd, s.nodeCmd 0x12 = some c ∧ c.node ≤ 4095 :=
  ⟨{ power := { phase := .run, d0run := true }, regs := [(R.RST_STAT, 0x10)], hri := { queues := [(0, { exists' := true, sqsize := 8, cqsize := 8, inflight := [{ entry := 0x3000000000000000000000000000000000000000000000000000000000000000000000000000010000000000000050112 }] })] }, mac := {  } }, { entry := 0x3000000000000000000000000000000000000000000000000000000000000000000000000000010000000000000050112 }, by decide⟩

theorem witness_NodeTableCommands_13 : ∃ s : State, ∃ c : Cmd, ∃ ok : Bool, ∃ typ : Nat, ∃ code : Nat, s.nodeCmd
    0x12 = some c ∧ (4095 < c.node ∧ typ = 1 ∧ code = 0x10 ∨ c.node ≤ 4095 ∧ ok = false ∧ typ = 0 ∧ code = 4) :=
  ⟨{ power := { phase := .run, d0run := true }, regs := [(R.RST_STAT, 0x10)], hri := { queues := [(0, { exists' := true, sqsize := 8, cqsize := 8, inflight := [{ entry := 0x3000000000000000000000000000000000000000000000000000000000000000000000000000010000000000000050112 }] })] }, mac := {  } }, { entry := 0x3000000000000000000000000000000000000000000000000000000000000000000000000000010000000000000050112 }, false, 0, 4, by decide⟩

theorem witness_NodeTableCommands_14 : ∃ s : State, ∃ c : Cmd, ∃ segs : Segs, ∃ l : List Word, s.nodeCmd 0x13 = some
    c ∧ 10 ≤ c.f 48 2 ∧ c.f 48 2 ≤ 6000 ∧ checkSegs c segs (4 * c.f 48 2) = .good ∧ s.planCheck (c.f 48 2) (padTo
    (c.f 48 2) 0 l) = none :=
  ⟨{ power := { phase := .run, d0run := true }, regs := [(R.RST_STAT, 0x10)], hri := { queues := [(0, { exists' := true, sqsize := 8, cqsize := 8, inflight := [{ entry := 0xa000000000000000000000000000000000000000000000000000000000000000000000000000010000000000000050113 }] })] }, radio := { inForce := [(R.RFS_TYMCFG 0, 1)] } }, { entry := 0xa000000000000000000000000000000000000000000000000000000000000000000000000000010000000000000050113 }, none, [0x301], by decide⟩

theorem witness_NodeTableCommands_15 : ∃ s : State, ∃ c : Cmd, ∃ segs : Segs, ∃ l : List Word, ∃ k : Nat, ∃ i : Nat,
    s.nodeCmd 0x13 = some c ∧ 10 ≤ c.f 48 2 ∧ c.f 48 2 ≤ 6000 ∧ checkSegs c segs (4 * c.f 48 2) = .good ∧
    s.planCheck (c.f 48 2) (padTo (c.f 48 2) 0 l) = some (k, i) :=
  ⟨{ power := { phase := .run, d0run := true }, regs := [(R.RST_STAT, 0x10)], hri := { queues := [(0, { exists' := true, sqsize := 8, cqsize := 8, inflight := [{ entry := 0xa000000000000000000000000000000000000000000000000000000000000000000000000000010000000000000050113 }] })] }, mac := {  } }, { entry := 0xa000000000000000000000000000000000000000000000000000000000000000000000000000010000000000000050113 }, none, [], 3, 0, by decide⟩

theorem witness_NodeTableCommands_16 : ∃ s : State, ∃ c : Cmd, s.nodeCmd 0x13 = some c ∧ (c.f 48 2 < 10 ∨ 6000 < c.f
    48 2) :=
  ⟨{ power := { phase := .run, d0run := true }, regs := [(R.RST_STAT, 0x10)], hri := { queues := [(0, { exists' := true, sqsize := 8, cqsize := 8, inflight := [{ entry := 0x1000000000000000000000000000000000000000000000000000000000000000000000000000010000000000000050113 }] })] }, mac := {  } }, { entry := 0x1000000000000000000000000000000000000000000000000000000000000000000000000000010000000000000050113 }, by decide⟩

theorem witness_TheJournalIsWrittenAndRead_1 : ∃ s : State, s.keys.jctr.toNat + 8 < 0xFFFFFFFFFFFF0000 :=
  ⟨{}, by decide⟩

theorem witness_TheJournalIsWrittenAndRead_2 : ∃ s : State, s.rb R.JNL_CTL 0 = false :=
  ⟨{ regs := [(R.JNL_CTL, 0)] }, by decide⟩

theorem witness_TheJournalIsWrittenAndRead_3 : ∃ s : State, ∃ r : Record, s.rb R.JNL_CTL 0 = true ∧ 2097152 <
    s.stagingUsed + r.size :=
  by
  have ⟨l, h⟩ : ∃ l : List Byte, l.length = 2097152 := ⟨List.replicate 2097152 0, List.length_replicate⟩
  exact ⟨State.reset, { nodef := 0, length := 0, tick := 0, fc := 0, payload := l }, by decide,
    by rw [State.stagingUsed, Record.size, pad8, h]; omega⟩

theorem witness_TheJournalIsWrittenAndRead_4 : ∃ s : State, ∃ sram : SramRead, s.jnl.groupStart.isSome = true ∧
    s.d0up = true ∧ s.openClutch.isSome = true ∧ ctrSpent s.keys.jctr = false ∧ (∀ i n, sram.lost ≠ some (.staging i
    n)) :=
  ⟨{ power := { phase := .run, d0run := true }, regs := [(R.STO_STAT, 2)], jnl := { clutches := [{ clseq := 4, slot := 0, firstCseq := 1, base := 0, untimed := false, restart := false, keygen := 1 }], groupStart := some 64 } }, ⟨0, none⟩, ⟨by decide, by decide, by decide, by decide, fun i n h => nomatch h⟩⟩

theorem witness_TheJournalIsWrittenAndRead_5 : ∃ s : State, ∃ c : Clutch, s.jnl.groupStart.isSome = true ∧ s.d0up =
    true ∧ s.openClutch = some c :=
  ⟨{ power := { phase := .run, d0run := true }, regs := [(R.STO_STAT, 2)], jnl := { clutches := [{ clseq := 4, slot := 0, firstCseq := 1, base := 0, untimed := false, restart := false, keygen := 1 }], groupStart := some 64 } }, { clseq := 4, slot := 0, firstCseq := 1, base := 0, untimed := false, restart := false, keygen := 1 }, by decide⟩

theorem witness_TheJournalIsWrittenAndRead_6 : ∃ s : State, ∃ g : Word, ∃ rest : List Word, s.jnl.committed = g ::
    rest ∧ s.power.pfailn = true ∧ s.rb R.STO_STAT 1 = true ∧ s.keys.jwait = false :=
  ⟨{ power := { phase := .run, d0run := true }, regs := [(R.STO_STAT, 2)], jnl := { committed := [3] } }, 3, [], by decide⟩

theorem witness_TheJournalIsWrittenAndRead_7 : ∃ s : State, ∃ g : Word, ∃ rest : List Word, ∃ c : Clutch, ∃ r :
    Record, s.jnl.committed = g :: rest ∧ s.power.pfailn = true ∧ s.rb R.STO_STAT 1 = true ∧ s.keys.jwait = false ∧
    s.jnl.clutches.find? (fun d => d.records.any fun x => x.group == g) = some c ∧ r ∈ c.records ∧ r.group = g :=
  ⟨{ power := { phase := .run, d0run := true }, regs := [(R.STO_STAT, 2)], jnl := { committed := [3], clutches := [{ clseq := 4, slot := 0, firstCseq := 1, base := 0, untimed := false, restart := false, keygen := 1, records := [{ nodef := 0, length := 0, tick := 0, fc := 0, group := 3 }] }] } }, 3, [], { clseq := 4, slot := 0, firstCseq := 1, base := 0, untimed := false, restart := false, keygen := 1, records := [{ nodef := 0, length := 0, tick := 0, fc := 0, group := 3 }] }, { nodef := 0, length := 0, tick := 0, fc := 0, group := 3 }, by decide⟩

theorem witness_TheJournalIsWrittenAndRead_8 : ∃ s : State, (s.power.pfailn = false ∨ s.rb R.STO_STAT 1 = false ∨
    s.keys.jwait = true) :=
  ⟨{}, by decide⟩

theorem witness_TheJournalIsWrittenAndRead_9 : ∃ s : State, ∃ m : Master, ∃ w : Word, ∃ c : Clutch, s.reaches m
    R.JNL_CTL = true ∧ bit 0 w = false ∧ s.openClutch = some c ∧ s.keys.jctr.toNat + 8 < 0xFFFFFFFFFFFF0000 :=
  ⟨{ power := { phase := .run, d0run := true }, regs := [(R.STO_STAT, 2)], jnl := { clutches := [{ clseq := 4, slot := 0, firstCseq := 1, base := 0, untimed := false, restart := false, keygen := 1 }] } }, .host, 0, { clseq := 4, slot := 0, firstCseq := 1, base := 0, untimed := false, restart := false, keygen := 1 }, by decide⟩

theorem witness_TheJournalIsWrittenAndRead_10 : ∃ s : State, ∃ c : Cmd, ∃ d : Clutch, s.admin 0x22 = some c ∧
    s.openClutch = some d ∧ s.keys.jctr.toNat + 8 < 0xFFFFFFFFFFFF0000 :=
  ⟨{ power := { phase := .run, d0run := true }, hri := { queues := [(0, { exists' := true, sqsize := 8, cqsize := 8, inflight := [{ entry := 0x50222 }] })] }, jnl := { clutches := [{ clseq := 4, slot := 0, firstCseq := 1, base := 0, untimed := false, restart := false, keygen := 1 }] } }, { entry := 0x50222 }, { clseq := 4, slot := 0, firstCseq := 1, base := 0, untimed := false, restart := false, keygen := 1 }, by decide⟩

theorem witness_TheJournalIsWrittenAndRead_11 : ∃ s : State, ∃ c : Cmd, s.admin 0x22 = some c ∧ s.openClutch = none
    :=
  ⟨{ power := { phase := .run, d0run := true }, hri := { queues := [(0, { exists' := true, sqsize := 8, cqsize := 8, inflight := [{ entry := 0x50222 }] })] }, jnl := {  } }, { entry := 0x50222 }, by decide⟩

theorem witness_TheJournalIsWrittenAndRead_12 : ∃ s : State, s.rb R.STO_STAT 1 = true ∧ s.roleState 3 ≠ 0 ∧ s.dataUp
    = true ∧ s.rb R.JNL_STAT 1 = false :=
  ⟨{ power := { phase := .run, d0run := true }, regs := [(R.STO_STAT, 2), (R.NWT_ROLE 3, 0x10)] }, by decide⟩

theorem witness_TheJournalIsWrittenAndRead_13 : ∃ s : State, ∃ q : Fin 37, ∃ tag : Half, ∃ segs : Segs, ∃ ns :
    Option (BitVec 4096), ∃ sram : SramRead, ∃ c : Cmd, s.stoCmd q.val tag.toNat 0x20 = some c ∧ s.dataUp = true ∧
    s.keys.scrapped = false ∧ s.rb R.JNL_STAT 1 = true ∧ s.roleState 3 ≠ 0 ∧ checkSegs c segs (4096 * c.nblk) =
    .good ∧ (c.allNodes = true ∨ ns ≠ none) ∧ sramBank sram = none :=
  ⟨{ power := { phase := .run, d0run := true }, regs := [(R.STO_STAT, 2), (R.JNL_STAT, 2), (R.NWT_ROLE 3, 0x10)], hri := { queues := [(1, { exists' := true, sqsize := 8, cqsize := 8, inflight := [{ entry := 0x90000000000000000000000000000000000000000000000000000000000000001000000000000000000000000000010000000000200090520 }] })] } }, 1, 9, none, none, ⟨0, none⟩, { entry := 0x90000000000000000000000000000000000000000000000000000000000000001000000000000000000000000000010000000000200090520 }, by decide⟩

theorem witness_TheJournalIsWrittenAndRead_14 : ∃ s : State, ∃ q : Fin 37, ∃ tag : Half, ∃ segs : Segs, ∃ ns :
    Option (BitVec 4096), ∃ sram : SramRead, ∃ c : Cmd, ∃ ok : Bool, s.stoCmd q.val tag.toNat 0x20 = some c ∧
    s.dataUp = true ∧ s.keys.scrapped = false ∧ s.rb R.JNL_STAT 1 = true ∧ s.roleState 3 ≠ 0 ∧ checkSegs c segs
    (4096 * c.nblk) = .good ∧ (c.allNodes = true ∨ ns ≠ none) ∧ (sramBank sram ≠ none ∨ ok = false) :=
  ⟨{ power := { phase := .run, d0run := true }, regs := [(R.STO_STAT, 2), (R.JNL_STAT, 2), (R.NWT_ROLE 3, 0x10)], hri := { queues := [(1, { exists' := true, sqsize := 8, cqsize := 8, inflight := [{ entry := 0x90000000000000000000000000000000000000000000000000000000000000001000000000000000000000000000010000000000200090520 }] })] } }, 1, 9, none, none, ⟨0, none⟩, { entry := 0x90000000000000000000000000000000000000000000000000000000000000001000000000000000000000000000010000000000200090520 }, false, by decide⟩

theorem witness_TheJournalIsWrittenAndRead_15 : ∃ s : State, ∃ q : Fin 37, ∃ tag : Half, ∃ c : Cmd, s.stoCmd q.val
    tag.toNat 0x20 = some c ∧ s.dataUp = true ∧ s.keys.scrapped = true :=
  ⟨{ power := { phase := .run, d0run := true }, regs := [(R.STO_STAT, 2), (R.JNL_STAT, 2), (R.NWT_ROLE 3, 0x10)], hri := { queues := [(1, { exists' := true, sqsize := 8, cqsize := 8, inflight := [{ entry := 0x90000000000000000000000000000000000000000000000000000000000000001000000000000000000000000000010000000000200090520 }] })] }, keys := { scrapped := true } }, 1, 9, { entry := 0x90000000000000000000000000000000000000000000000000000000000000001000000000000000000000000000010000000000200090520 }, by decide⟩

theorem witness_TheJournalIsWrittenAndRead_16 : ∃ s : State, ∃ q : Fin 37, ∃ tag : Half, ∃ c : Cmd, s.stoCmd q.val
    tag.toNat 0x20 = some c ∧ s.dataUp = true ∧ s.keys.scrapped = false ∧ (s.rb R.JNL_STAT 1 = false ∨ s.roleState 3
    = 0) :=
  ⟨{ power := { phase := .run, d0run := true }, regs := [(R.STO_STAT, 2)], hri := { queues := [(1, { exists' := true, sqsize := 8, cqsize := 8, inflight := [{ entry := 0x90000000000000000000000000000000000000000000000000000000000000001000000000000000000000000000010000000000200090520 }] })] } }, 1, 9, { entry := 0x90000000000000000000000000000000000000000000000000000000000000001000000000000000000000000000010000000000200090520 }, by decide⟩

theorem witness_TheJournalIsWrittenAndRead_17 : ∃ s : State, ∃ q : Fin 37, ∃ tag : Half, ∃ segs : Segs, ∃ ns :
    Option (BitVec 4096), ∃ c : Cmd, ∃ code : Nat, ∃ detail : Nat, s.stoCmd q.val tag.toNat 0x20 = some c ∧ s.dataUp
    = true ∧ s.keys.scrapped = false ∧ s.rb R.JNL_STAT 1 = true ∧ s.roleState 3 ≠ 0 ∧ (checkSegs c segs (4096 *
    c.nblk) = .mismatch ∧ code = 7 ∧ detail = 0 ∨ checkSegs c segs (4096 * c.nblk) = .unreadable ∧ code = 4 ∧ detail
    = 1 ∨ checkSegs c segs (4096 * c.nblk) = .good ∧ c.allNodes = false ∧ ns = none ∧ code = 4 ∧ detail = 0) :=
  ⟨{ power := { phase := .run, d0run := true }, regs := [(R.STO_STAT, 2), (R.JNL_STAT, 2), (R.NWT_ROLE 3, 0x10)], hri := { queues := [(1, { exists' := true, sqsize := 8, cqsize := 8, inflight := [{ entry := 0x90000000000000000000000000000000000000000000000000000000000000001000000000000000800000000000010000000000200090120 }] })] } }, 1, 9, none, none, { entry := 0x90000000000000000000000000000000000000000000000000000000000000001000000000000000800000000000010000000000200090120 }, 4, 0, by decide⟩

theorem witness_PinnedClutchesStay_1 : ∃ s : State, ∃ c : Cmd, s.admin 0x20 = some c ∧ (s.jnl.clutches.filter
    (·.pinned)).length + (s.jnl.clutches.filter (fun d => pinRange c d && !d.pinned)).length ≤ 7629 :=
  ⟨{ power := { phase := .run, d0run := true }, hri := { queues := [(0, { exists' := true, sqsize := 8, cqsize := 8, inflight := [{ entry := 0x400000004000000000000000000000000000000000000000000000000000000000000000000000000000000000000000000050220 }] })] }, jnl := { clutches := [{ clseq := 4, slot := 0, firstCseq := 1, base := 0, untimed := false, restart := false, keygen := 1 }] } }, { entry := 0x400000004000000000000000000000000000000000000000000000000000000000000000000000000000000000000000000050220 }, by decide⟩

theorem witness_PinnedClutchesStay_3 : ∃ s : State, ∃ c : Cmd, s.admin 0x21 = some c :=
  ⟨{ power := { phase := .run, d0run := true }, hri := { queues := [(0, { exists' := true, sqsize := 8, cqsize := 8, inflight := [{ entry := 0x400000004000000000000000000000000000000000000000000000000000000000000000000000000000000000000000000050221 }] })] }, jnl := { clutches := [{ clseq := 4, slot := 0, firstCseq := 1, base := 0, untimed := false, restart := false, keygen := 1 }] } }, { entry := 0x400000004000000000000000000000000000000000000000000000000000000000000000000000000000000000000000000050221 }, by decide⟩

theorem witness_PinnedClutchesStay_4 : ∃ s : State, (s.jnl.clutches.filter (·.pinned)).length ≤ 7629 :=
  ⟨{}, by decide⟩

theorem witness_KeysSessionsAndIdentity_1 : ∃ s : State, ∃ k : Nat, ∃ c : Cmd, s.admin 0x30 = some c ∧ s.svcKeyFirst
    = false ∧ s.wipeOrphan = false ∧ c.f 48 2 = k ∧ k ≤ 251 ∧ c.f 50 1 = 0 ∧ s.keys.lc ≠ 4 ∧ s.rb R.KEY_CTL 0 =
    false :=
  ⟨{ power := { phase := .run, d0run := true }, hri := { queues := [(0, { exists' := true, sqsize := 8, cqsize := 8, inflight := [{ entry := 0x7000000000000000000000000000000000000000000000000000000000000000000000000000010000000000000050130 }] })] } }, 7, { entry := 0x7000000000000000000000000000000000000000000000000000000000000000000000000000010000000000000050130 }, by decide⟩

theorem witness_KeysSessionsAndIdentity_2 : ∃ s : State, ∃ k : Nat, ∃ c : Cmd, s.admin 0x30 = some c ∧ s.svcKeyFirst
    = false ∧ s.wipeOrphan = false ∧ c.f 48 2 = k ∧ 272 ≤ k ∧ k ≤ 319 ∧ c.f 50 1 = 0 ∧ (s.keys.lc = 1 ∨ s.keys.lc =
    3) ∧ s.wrapReady = true :=
  ⟨{ power := { phase := .run, d0run := true }, hri := { queues := [(0, { exists' := true, sqsize := 8, cqsize := 8, inflight := [{ entry := 0x12c000000000000000000000000000000000000000000000000000000000000000000000000000010000000000000050130 }] })] }, keys := { steps := 1, wctr := 1 } }, 300, { entry := 0x12c000000000000000000000000000000000000000000000000000000000000000000000000000010000000000000050130 }, by decide⟩

theorem witness_KeysSessionsAndIdentity_3 : ∃ s : State, ∃ k : Nat, ∃ c : Cmd, s.admin 0x30 = some c ∧ s.svcKeyFirst
    = false ∧ s.wipeOrphan = false ∧ c.f 48 2 = k ∧ k ≤ 251 ∧ c.f 50 1 = 1 ∧ s.keys.lc ≠ 4 ∧ (sessSlot (c.f 52 2) =
    true ∨ custSlot (c.f 52 2) = true) ∧ (s.slot (c.f 52 2)).state ≠ 0 :=
  ⟨{ power := { phase := .run, d0run := true }, hri := { queues := [(0, { exists' := true, sqsize := 8, cqsize := 8, inflight := [{ entry := 0xfc00010007000000000000000000000000000000000000000000000000000000000000000000000000000010000000000000050130 }] })] }, keys := { slots := [(252, { state := 1 })] } }, 7, { entry := 0xfc00010007000000000000000000000000000000000000000000000000000000000000000000000000000010000000000000050130 }, by decide⟩

theorem witness_KeysSessionsAndIdentity_4 : ∃ s : State, ∃ c : Cmd, ∃ code : Nat, s.admin 0x30 = some c ∧
    s.svcKeyFirst = false ∧ s.wipeOrphan = false ∧ ((netSlot (c.f 48 2) = false ∧ custSlot (c.f 48 2) = false) ∧
    code = 0x30 ∨ (netSlot (c.f 48 2) = true ∧ c.f 50 1 = 0 ∧ (s.keys.lc = 4 ∨ s.rb R.KEY_CTL 0 = true)) ∧ code =
    0x31 ∨ (netSlot (c.f 48 2) = true ∧ c.f 50 1 = 1 ∧ s.keys.lc ≠ 4 ∧ sessSlot (c.f 52 2) = true ∧ (s.slot (c.f 52
    2)).state = 0) ∧ code = 0x38) :=
  ⟨{ power := { phase := .run, d0run := true }, hri := { queues := [(0, { exists' := true, sqsize := 8, cqsize := 8, inflight := [{ entry := 0x104000000000000000000000000000000000000000000000000000000000000000000000000000010000000000000050130 }] })] } }, { entry := 0x104000000000000000000000000000000000000000000000000000000000000000000000000000010000000000000050130 }, 0x30, by decide⟩

theorem witness_KeysSessionsAndIdentity_5 : ∃ s : State, ∃ c : Cmd, s.admin 0x31 = some c ∧ s.svcKeyFirst = false ∧
    s.wipeOrphan = false ∧ (c.f 50 2 ≤ 255 ∨ (272 ≤ c.f 48 2 ∧ c.f 48 2 ≤ 319 ∧ 272 ≤ c.f 50 2 ∧ c.f 50 2 ≤ 319)) :=
  ⟨{ power := { phase := .run, d0run := true }, hri := { queues := [(0, { exists' := true, sqsize := 8, cqsize := 8, inflight := [{ entry := 0x90003000000000000000000000000000000000000000000000000000000000000000000000000000010000000000000050131 }] })] } }, { entry := 0x90003000000000000000000000000000000000000000000000000000000000000000000000000000010000000000000050131 }, by decide⟩

theorem witness_KeysSessionsAndIdentity_6 : ∃ s : State, ∃ c : Cmd, s.admin 0x31 = some c ∧ s.svcKeyFirst = false ∧
    s.wipeOrphan = false ∧ 272 ≤ c.f 48 2 ∧ c.f 48 2 ≤ 319 ∧ 272 ≤ c.f 50 2 ∧ c.f 50 2 ≤ 319 :=
  ⟨{ power := { phase := .run, d0run := true }, hri := { queues := [(0, { exists' := true, sqsize := 8, cqsize := 8, inflight := [{ entry := 0x1220118000000000000000000000000000000000000000000000000000000000000000000000000000010000000000000050131 }] })] } }, { entry := 0x1220118000000000000000000000000000000000000000000000000000000000000000000000000000010000000000000050131 }, by decide⟩

theorem witness_KeysSessionsAndIdentity_7 : ∃ s : State, ∃ c : Cmd, s.admin 0x31 = some c ∧ s.svcKeyFirst = false ∧
    s.wipeOrphan = false ∧ 255 < c.f 50 2 ∧ (custSlot (c.f 48 2) = false ∨ custSlot (c.f 50 2) = false) :=
  ⟨{ power := { phase := .run, d0run := true }, hri := { queues := [(0, { exists' := true, sqsize := 8, cqsize := 8, inflight := [{ entry := 0x1860118000000000000000000000000000000000000000000000000000000000000000000000000000010000000000000050131 }] })] } }, { entry := 0x1860118000000000000000000000000000000000000000000000000000000000000000000000000000010000000000000050131 }, by decide⟩

theorem witness_KeysSessionsAndIdentity_8 : ∃ s : State, ∃ c : Cmd, s.admin 0x32 = some c ∧ s.svcKeyFirst = false ∧
    s.wipeOrphan = false :=
  ⟨{ power := { phase := .run, d0run := true }, hri := { queues := [(0, { exists' := true, sqsize := 8, cqsize := 8, inflight := [{ entry := 0x10000000000000050132 }] })] } }, { entry := 0x10000000000000050132 }, by decide⟩

theorem witness_KeysSessionsAndIdentity_9 : ∃ s : State, ∃ c : Cmd, s.admin 0x32 = some c ∧ s.svcKeyFirst = false ∧
    s.wipeOrphan = false :=
  ⟨{ power := { phase := .run, d0run := true }, hri := { queues := [(0, { exists' := true, sqsize := 8, cqsize := 8, inflight := [{ entry := 0x10000000000000050132 }] })] } }, { entry := 0x10000000000000050132 }, by decide⟩

theorem witness_KeysSessionsAndIdentity_10 : ∃ s : State, ∃ c : Cmd, s.admin 0x30 = some c ∧ s.svcKeyFirst = false ∧
    s.wipeOrphan = false ∧ c.f 48 2 ≤ 251 ∧ c.f 50 1 = 0 ∧ s.keys.lc ≠ 4 ∧ s.rb R.KEY_CTL 0 = false :=
  ⟨{ power := { phase := .run, d0run := true }, hri := { queues := [(0, { exists' := true, sqsize := 8, cqsize := 8, inflight := [{ entry := 0x7000000000000000000000000000000000000000000000000000000000000000000000000000010000000000000050130 }] })] } }, { entry := 0x7000000000000000000000000000000000000000000000000000000000000000000000000000010000000000000050130 }, by decide⟩

theorem witness_KeysSessionsAndIdentity_11 : ∃ s : State, ∃ c : Cmd, ∃ i : Nat, s.admin 0x34 = some c ∧
    s.svcKeyFirst = false ∧ s.wipeOrphan = false ∧ c.f 48 1 = i ∧ i ≤ 3 ∧ s.keys.lc ≠ 2 ∧ s.keys.lc ≠ 4 ∧
    s.keys.enrolled.getLsbD i = false :=
  ⟨{ power := { phase := .run, d0run := true }, hri := { queues := [(0, { exists' := true, sqsize := 8, cqsize := 8, inflight := [{ entry := 0x2000000000000000000000000000000000000000000000000000000000000000000000000000010000000000000050134 }] })] } }, { entry := 0x2000000000000000000000000000000000000000000000000000000000000000000000000000010000000000000050134 }, 2, by decide⟩

theorem witness_KeysSessionsAndIdentity_12 : ∃ s : State, ∃ c : Cmd, ∃ i : Nat, s.admin 0x34 = some c ∧
    s.svcKeyFirst = false ∧ s.wipeOrphan = false ∧ c.f 48 1 = i ∧ s.keys.lc ≠ 2 ∧ s.keys.lc ≠ 4 ∧
    s.keys.enrolled.getLsbD i = false :=
  ⟨{ power := { phase := .run, d0run := true }, hri := { queues := [(0, { exists' := true, sqsize := 8, cqsize := 8, inflight := [{ entry := 0x2000000000000000000000000000000000000000000000000000000000000000000000000000010000000000000050134 }] })] } }, { entry := 0x2000000000000000000000000000000000000000000000000000000000000000000000000000010000000000000050134 }, 2, by decide⟩

theorem witness_KeysSessionsAndIdentity_13 : ∃ s : State, ∃ c : Cmd, ∃ code : Nat, s.admin 0x34 = some c ∧
    s.svcKeyFirst = false ∧ s.wipeOrphan = false ∧ ((s.keys.lc = 2 ∨ s.keys.lc = 4) ∧ code = 0x31 ∨ (s.keys.lc ≠ 2 ∧
    s.keys.lc ≠ 4 ∧ s.keys.enrolled.getLsbD (c.f 48 1) = true) ∧ code = 0x34) :=
  ⟨{ power := { phase := .run, d0run := true }, hri := { queues := [(0, { exists' := true, sqsize := 8, cqsize := 8, inflight := [{ entry := 0x2000000000000000000000000000000000000000000000000000000000000000000000000000010000000000000050134 }] })] }, keys := { enrolled := 4 } }, { entry := 0x2000000000000000000000000000000000000000000000000000000000000000000000000000010000000000000050134 }, 0x34, by decide⟩

theorem witness_KeysSessionsAndIdentity_14 : ∃ s : State, ∃ c : Cmd, ∃ i : Nat, s.admin 0x35 = some c ∧
    s.svcKeyFirst = false ∧ s.wipeOrphan = false ∧ c.f 48 1 = i ∧ c.dptrKind = 2 ∧ c.f 49 1 = 0 ∧ s.keys.lc ≠ 2 ∧
    s.keys.lc ≠ 4 :=
  ⟨{ power := { phase := .run, d0run := true }, hri := { queues := [(0, { exists' := true, sqsize := 8, cqsize := 8, inflight := [{ entry := 0x2000000000000000000000000000000000000000000000000000000000000000000000000000010000000000000050235 }] })] } }, { entry := 0x2000000000000000000000000000000000000000000000000000000000000000000000000000010000000000000050235 }, 2, by decide⟩

theorem witness_KeysSessionsAndIdentity_15 : ∃ s : State, ∃ c : Cmd, ∃ i : Nat, ∃ ch : BitVec 128, s.admin 0x35 =
    some c ∧ s.svcKeyFirst = false ∧ s.wipeOrphan = false ∧ c.f 48 1 = i ∧ c.dptrKind = 1 ∧ s.keys.lc = 2 ∧
    s.keys.challenge = some ch ∧ c.f 49 1 ≠ 0x80 :=
  ⟨{ power := { phase := .run, d0run := true }, hri := { queues := [(0, { exists' := true, sqsize := 8, cqsize := 8, inflight := [{ entry := 0x102000000000000000000000000000000000000000000000000000000000000000000000000000010000000000000050135 }] })] }, keys := { steps := 2, challenge := some 9 } }, { entry := 0x102000000000000000000000000000000000000000000000000000000000000000000000000000010000000000000050135 }, 2, 9, by decide⟩

theorem witness_KeysSessionsAndIdentity_16 : ∃ s : State, ∃ c : Cmd, ∃ k : Nat, s.admin 0x36 = some c ∧
    s.svcKeyFirst = false ∧ s.wipeOrphan = false ∧ s.freeSession = some k ∧ s.rngFail = false :=
  ⟨{ power := { phase := .run, d0run := true }, hri := { queues := [(0, { exists' := true, sqsize := 8, cqsize := 8, inflight := [{ entry := 0x10000000000000050136 }] })] } }, { entry := 0x10000000000000050136 }, 252, by decide⟩

theorem witness_KeysSessionsAndIdentity_17 : ∃ s : State, ∃ c : Cmd, ∃ code : Nat, s.admin 0x36 = some c ∧
    s.svcKeyFirst = false ∧ s.wipeOrphan = false ∧ (s.freeSession = none ∧ code = 0x33 ∨ (s.freeSession.isSome =
    true ∧ s.rngFail = true) ∧ code = 0x36) :=
  ⟨{ power := { phase := .run, d0run := true }, regs := [(R.CIP_STAT, 2)], hri := { queues := [(0, { exists' := true, sqsize := 8, cqsize := 8, inflight := [{ entry := 0x10000000000000050136 }] })] } }, { entry := 0x10000000000000050136 }, 0x36, by decide⟩

theorem witness_KeysSessionsAndIdentity_18 : ∃ s : State, ∃ c : Cmd, ∃ k : Nat, s.admin 0x37 = some c ∧
    s.svcKeyFirst = false ∧ s.wipeOrphan = false ∧ c.f 48 2 = k ∧ 252 ≤ k ∧ k ≤ 255 :=
  ⟨{ power := { phase := .run, d0run := true }, hri := { queues := [(0, { exists' := true, sqsize := 8, cqsize := 8, inflight := [{ entry := 0xfd000000000000000000000000000000000000000000000000000000000000000000000000000010000000000000050137 }] })] } }, { entry := 0xfd000000000000000000000000000000000000000000000000000000000000000000000000000010000000000000050137 }, 253, by decide⟩

theorem witness_KeysSessionsAndIdentity_19 : ∃ s : State, ∃ c : Cmd, s.admin 0x37 = some c ∧ s.svcKeyFirst = false ∧
    s.wipeOrphan = false ∧ sessSlot (c.f 48 2) = false :=
  ⟨{ power := { phase := .run, d0run := true }, hri := { queues := [(0, { exists' := true, sqsize := 8, cqsize := 8, inflight := [{ entry := 0x9000000000000000000000000000000000000000000000000000000000000000000000000000010000000000000050137 }] })] } }, { entry := 0x9000000000000000000000000000000000000000000000000000000000000000000000000000010000000000000050137 }, by decide⟩

theorem witness_KeysSessionsAndIdentity_20 : ∃ s : State, ∃ c : Cmd, s.admin 0x38 = some c ∧ s.svcKeyFirst = false ∧
    s.wipeOrphan = false :=
  ⟨{ power := { phase := .run, d0run := true }, hri := { queues := [(0, { exists' := true, sqsize := 8, cqsize := 8, inflight := [{ entry := 0x10000000000000050138 }] })] } }, { entry := 0x10000000000000050138 }, by decide⟩

theorem witness_KeysSessionsAndIdentity_21 : ∃ s : State, ∃ c : Cmd, s.admin 0x39 = some c ∧ s.svcKeyFirst = false ∧
    s.wipeOrphan = false ∧ s.rngFail = false :=
  ⟨{ power := { phase := .run, d0run := true }, hri := { queues := [(0, { exists' := true, sqsize := 8, cqsize := 8, inflight := [{ entry := 0x10000000000000050139 }] })] } }, { entry := 0x10000000000000050139 }, by decide⟩

theorem witness_KeysSessionsAndIdentity_22 : ∃ s : State, ∃ c : Cmd, s.admin 0x3A = some c ∧ s.svcKeyFirst = false ∧
    s.wipeOrphan = false ∧ s.rngFail = false :=
  ⟨{ power := { phase := .run, d0run := true }, hri := { queues := [(0, { exists' := true, sqsize := 8, cqsize := 8, inflight := [{ entry := 0x1000000000000005013a }] })] } }, { entry := 0x1000000000000005013a }, by decide⟩

theorem witness_KeysSessionsAndIdentity_23 : ∃ s : State, ∃ c : Cmd, s.admin 0x3A = some c ∧ s.svcKeyFirst = false ∧
    s.wipeOrphan = false ∧ s.rngFail = true :=
  ⟨{ power := { phase := .run, d0run := true }, regs := [(R.CIP_STAT, 2)], hri := { queues := [(0, { exists' := true, sqsize := 8, cqsize := 8, inflight := [{ entry := 0x1000000000000005013a }] })] } }, { entry := 0x1000000000000005013a }, by decide⟩

theorem witness_KeysSessionsAndIdentity_24 : ∃ s : State, ∃ c : Cmd, s.admin 0x38 = some c ∧ s.svcKeyFirst = false ∧
    s.wipeOrphan = false :=
  ⟨{ power := { phase := .run, d0run := true }, hri := { queues := [(0, { exists' := true, sqsize := 8, cqsize := 8, inflight := [{ entry := 0x10000000000000050138 }] })] } }, { entry := 0x10000000000000050138 }, by decide⟩

theorem witness_KeysSessionsAndIdentity_25 : ∃ s : State, ∃ c : Cmd, s.admin 0x39 = some c ∧ s.svcKeyFirst = false ∧
    s.wipeOrphan = false ∧ s.rngFail = false :=
  ⟨{ power := { phase := .run, d0run := true }, hri := { queues := [(0, { exists' := true, sqsize := 8, cqsize := 8, inflight := [{ entry := 0x10000000000000050139 }] })] } }, { entry := 0x10000000000000050139 }, by decide⟩

theorem witness_KeysSessionsAndIdentity_26 : ∃ s : State, ∃ c : Cmd, s.admin 0x39 = some c ∧ s.svcKeyFirst = false ∧
    s.wipeOrphan = false ∧ s.rngFail = true :=
  ⟨{ power := { phase := .run, d0run := true }, regs := [(R.CIP_STAT, 2)], hri := { queues := [(0, { exists' := true, sqsize := 8, cqsize := 8, inflight := [{ entry := 0x10000000000000050139 }] })] } }, { entry := 0x10000000000000050139 }, by decide⟩

theorem witness_KeysSessionsAndIdentity_27 : ∃ s : State, ∃ c : Cmd, s.admin 0x3A = some c ∧ s.svcKeyFirst = false ∧
    s.wipeOrphan = false ∧ s.rngFail = false :=
  ⟨{ power := { phase := .run, d0run := true }, hri := { queues := [(0, { exists' := true, sqsize := 8, cqsize := 8, inflight := [{ entry := 0x1000000000000005013a }] })] } }, { entry := 0x1000000000000005013a }, by decide⟩

theorem witness_KeysSessionsAndIdentity_28 : ∃ s : State, ∃ c : Cmd, s.admin 0x36 = some c ∧ s.svcKeyFirst = false ∧
    s.wipeOrphan = false ∧ s.freeSession.isSome = true ∧ s.rngFail = false :=
  ⟨{ power := { phase := .run, d0run := true }, hri := { queues := [(0, { exists' := true, sqsize := 8, cqsize := 8, inflight := [{ entry := 0x10000000000000050136 }] })] } }, { entry := 0x10000000000000050136 }, by decide⟩

theorem witness_KeysSessionsAndIdentity_29 : ∃ s : State, ∃ c : Cmd, s.admin 0x34 = some c ∧ s.svcKeyFirst = false ∧
    s.wipeOrphan = false ∧ s.keys.lc ≠ 2 ∧ s.keys.lc ≠ 4 ∧ s.keys.enrolled.getLsbD (c.f 48 1) = false :=
  ⟨{ power := { phase := .run, d0run := true }, hri := { queues := [(0, { exists' := true, sqsize := 8, cqsize := 8, inflight := [{ entry := 0x2000000000000000000000000000000000000000000000000000000000000000000000000000010000000000000050134 }] })] } }, { entry := 0x2000000000000000000000000000000000000000000000000000000000000000000000000000010000000000000050134 }, by decide⟩

theorem witness_KeysSessionsAndIdentity_30 : ∃ s : State, ∃ c : Cmd, s.admin 0x35 = some c ∧ s.svcKeyFirst = false ∧
    s.wipeOrphan = false ∧ s.keys.lc = 2 ∧ c.dptrKind = 1 :=
  ⟨{ power := { phase := .run, d0run := true }, hri := { queues := [(0, { exists' := true, sqsize := 8, cqsize := 8, inflight := [{ entry := 0x102000000000000000000000000000000000000000000000000000000000000000000000000000010000000000000050135 }] })] }, keys := { steps := 2 } }, { entry := 0x102000000000000000000000000000000000000000000000000000000000000000000000000000010000000000000050135 }, by decide⟩

theorem witness_KeysSessionsAndIdentity_31 : ∃ s : State, ∃ c : Cmd, s.admin 0x35 = some c ∧ s.svcKeyFirst = false ∧
    s.wipeOrphan = false ∧ ((s.keys.lc = 2 ∧ c.dptrKind ≠ 1) ∨ (s.keys.lc ≠ 2 ∧ c.dptrKind ≠ 2)) :=
  ⟨{ power := { phase := .run, d0run := true }, hri := { queues := [(0, { exists' := true, sqsize := 8, cqsize := 8, inflight := [{ entry := 0x2000000000000000000000000000000000000000000000000000000000000000000000000000010000000000000050135 }] })] } }, { entry := 0x2000000000000000000000000000000000000000000000000000000000000000000000000000010000000000000050135 }, by decide⟩

theorem witness_KeysSessionsAndIdentity_32 : ∃ s : State, ∃ c : Cmd, s.admin 0x35 = some c ∧ s.svcKeyFirst = false ∧
    s.wipeOrphan = false ∧ c.dptrKind = 2 ∧ c.f 49 1 ≠ 0 ∧ s.keys.lc ≠ 2 :=
  ⟨{ power := { phase := .run, d0run := true }, hri := { queues := [(0, { exists' := true, sqsize := 8, cqsize := 8, inflight := [{ entry := 0x102000000000000000000000000000000000000000000000000000000000000000000000000000010000000000000050235 }] })] } }, { entry := 0x102000000000000000000000000000000000000000000000000000000000000000000000000000010000000000000050235 }, by decide⟩

theorem witness_KeysSessionsAndIdentity_33 : ∃ s : State, ∃ c : Cmd, s.admin 0x35 = some c ∧ s.svcKeyFirst = false ∧
    s.wipeOrphan = false ∧ c.dptrKind = 2 ∧ c.f 49 1 = 0 ∧ s.keys.lc ≠ 2 ∧ s.keys.lc ≠ 4 :=
  ⟨{ power := { phase := .run, d0run := true }, hri := { queues := [(0, { exists' := true, sqsize := 8, cqsize := 8, inflight := [{ entry := 0x2000000000000000000000000000000000000000000000000000000000000000000000000000010000000000000050235 }] })] } }, { entry := 0x2000000000000000000000000000000000000000000000000000000000000000000000000000010000000000000050235 }, by decide⟩

theorem witness_LifeCycleAdvancesByItsTable_1 : ∃ s : State, ∃ c : Cmd, s.admin 0x3B = some c ∧ s.svcKeyFirst =
    false ∧ s.wipeOrphan = false ∧ (c.stalled = false ∨ s.keys.wipePend = false) ∧ c.dptrKind = 2 ∧ ((s.keys.lc = 0
    ∧ c.f 48 1 = 1 ∧ s.keys.enrolled ≠ 0) ∨ (s.keys.lc = 1 ∧ c.f 48 1 = 2 ∧ s.keys.enrolled &&& ~~~s.keys.revoked ≠
    0) ∨ (s.keys.lc = 3 ∧ c.f 48 1 = 1)) ∧ s.keys.steps < 47 :=
  ⟨{ power := { phase := .run, d0run := true }, hri := { queues := [(0, { exists' := true, sqsize := 8, cqsize := 8, inflight := [{ entry := 0x100000000000000000000000000000000000000000000000000000000000000000000000000001000000000000005023b }] })] }, keys := { enrolled := 1 } }, { entry := 0x100000000000000000000000000000000000000000000000000000000000000000000000000001000000000000005023b }, by decide⟩

theorem witness_LifeCycleAdvancesByItsTable_2 : ∃ s : State, ∃ c : Cmd, ∃ ch : BitVec 128, s.admin 0x3B = some c ∧
    s.svcKeyFirst = false ∧ s.wipeOrphan = false ∧ (c.stalled = false ∨ s.keys.wipePend = false) ∧ c.dptrKind = 1 ∧
    s.keys.lc = 2 ∧ c.f 48 1 = 3 ∧ s.keys.steps < 47 ∧ s.queuesActive = false ∧ s.wrapReady = true ∧
    s.keys.challenge = some ch ∧ c.f 49 1 ≠ 0x80 ∧ s.rngFail = false :=
  ⟨{ power := { phase := .run, d0run := true }, hri := { queues := [(0, { exists' := true, sqsize := 8, cqsize := 8, inflight := [{ entry := 0x10300000000000000000000000000000000000000000000000000000000000000000000000000001000000000000005013b }] })] }, keys := { steps := 2, challenge := some 9, wctr := 1 } }, { entry := 0x10300000000000000000000000000000000000000000000000000000000000000000000000000001000000000000005013b }, 9, by decide⟩

theorem witness_LifeCycleAdvancesByItsTable_3 : ∃ s : State, ∃ c : Cmd, s.admin 0x3B = some c ∧ s.svcKeyFirst =
    false ∧ s.wipeOrphan = false ∧ c.stalled = true ∧ s.keys.wipePend = true ∧ (s.keys.scrapped = true ∨
    (s.epochKeys = true ∧ s.power.pfailn = true)) :=
  ⟨{ power := { phase := .run, d0run := true }, hri := { queues := [(0, { exists' := true, sqsize := 8, cqsize := 8, inflight := [{ entry := 0x300000000000000000000000000000000000000000000000000000000000000000000000000001000000000000005013b, stalled := true }] })] }, keys := { wipePend := true, blobs := [(258, { epoch := 0, origin := 2, nonce := 0, cipher := [], tag := 0 }), (259, { epoch := 0, origin := 2, nonce := 0, cipher := [], tag := 0 }), (260, { epoch := 0, origin := 2, nonce := 0, cipher := [], tag := 0 })] } }, { entry := 0x300000000000000000000000000000000000000000000000000000000000000000000000000001000000000000005013b, stalled := true }, by decide⟩

theorem witness_LifeCycleAdvancesByItsTable_4 : ∃ s : State, ∃ c : Cmd, s.admin 0x3B = some c ∧ s.svcKeyFirst =
    false ∧ s.wipeOrphan = false ∧ c.stalled = true ∧ s.keys.wipePend = true ∧ s.keys.scrapped = false ∧ s.epochKeys
    = false ∧ s.rngFail = true :=
  ⟨{ power := { phase := .run, d0run := true }, regs := [(R.CIP_STAT, 2)], hri := { queues := [(0, { exists' := true, sqsize := 8, cqsize := 8, inflight := [{ entry := 0x300000000000000000000000000000000000000000000000000000000000000000000000000001000000000000005013b, stalled := true }] })] }, keys := { wipePend := true } }, { entry := 0x300000000000000000000000000000000000000000000000000000000000000000000000000001000000000000005013b, stalled := true }, by decide⟩

theorem witness_LifeCycleAdvancesByItsTable_5 : ∃ s : State, (s.svcKeyFirst = true ∨ s.wipeGoOn.admin 0x3B = none)
    :=
  ⟨{ }, by decide⟩

theorem witness_LifeCycleAdvancesByItsTable_6 : ∃ s : State, (s.svcKeyFirst = true ∨ s.wipeGoOn.admin 0x31 = none)
    :=
  ⟨{ }, by decide⟩

theorem witness_LifeCycleAdvancesByItsTable_7 : ∃ s : State, ∃ c : Cmd, s.admin 0x3B = some c ∧ s.svcKeyFirst =
    false ∧ s.wipeOrphan = false ∧ (c.stalled = false ∨ s.keys.wipePend = false) ∧ c.dptrKind = 2 ∧ s.keys.lc = 0 ∧
    c.f 48 1 = 4 ∧ s.queuesActive = false :=
  ⟨{ power := { phase := .run, d0run := true }, hri := { queues := [(0, { exists' := true, sqsize := 8, cqsize := 8, inflight := [{ entry := 0x400000000000000000000000000000000000000000000000000000000000000000000000000001000000000000005023b }] })] } }, { entry := 0x400000000000000000000000000000000000000000000000000000000000000000000000000001000000000000005023b }, by decide⟩

theorem witness_LifeCycleAdvancesByItsTable_8 : ∃ s : State, ∃ c : Cmd, s.admin 0x3B = some c ∧ s.svcKeyFirst =
    false ∧ s.wipeOrphan = false ∧ (c.stalled = false ∨ s.keys.wipePend = false) ∧ lcTransition s.keys.lc (c.f 48 1)
    = none :=
  ⟨{ power := { phase := .run, d0run := true }, hri := { queues := [(0, { exists' := true, sqsize := 8, cqsize := 8, inflight := [{ entry := 0x1000000000000005023b }] })] } }, { entry := 0x1000000000000005023b }, by decide⟩

theorem witness_LifeCycleAdvancesByItsTable_9 : ∃ l : Nat, l ≤ 4 :=
  ⟨2, by decide⟩

theorem witness_LifeCycleAdvancesByItsTable_10 : ∃ s : State, ∃ c : Cmd, s.admin 0x3B = some c ∧ s.svcKeyFirst =
    false ∧ s.wipeOrphan = false ∧ (c.stalled = false ∨ s.keys.wipePend = false) ∧ c.dptrKind = 2 ∧ ((s.keys.lc = 0
    ∧ c.f 48 1 = 1 ∧ s.keys.enrolled ≠ 0) ∨ (s.keys.lc = 1 ∧ c.f 48 1 = 2 ∧ s.keys.enrolled &&& ~~~s.keys.revoked ≠
    0) ∨ (s.keys.lc = 3 ∧ c.f 48 1 = 1)) ∧ s.keys.steps < 47 :=
  ⟨{ power := { phase := .run, d0run := true }, hri := { queues := [(0, { exists' := true, sqsize := 8, cqsize := 8, inflight := [{ entry := 0x100000000000000000000000000000000000000000000000000000000000000000000000000001000000000000005023b }] })] }, keys := { enrolled := 1 } }, { entry := 0x100000000000000000000000000000000000000000000000000000000000000000000000000001000000000000005023b }, by decide⟩

theorem witness_LifeCycleAdvancesByItsTable_11 : ∃ s : State, ∃ c : Cmd, s.admin 0x3B = some c ∧ s.svcKeyFirst =
    false ∧ s.wipeOrphan = false ∧ (c.stalled = false ∨ s.keys.wipePend = false) ∧ c.dptrKind = 1 ∧ s.keys.lc = 2 ∧
    c.f 48 1 = 3 ∧ s.keys.steps < 47 ∧ s.queuesActive = true :=
  ⟨{ power := { phase := .run, d0run := true }, hri := { queues := [(1, { exists' := true }), (0, { exists' := true, sqsize := 8, cqsize := 8, inflight := [{ entry := 0x10300000000000000000000000000000000000000000000000000000000000000000000000000001000000000000005013b }] })] }, keys := { steps := 2 } }, { entry := 0x10300000000000000000000000000000000000000000000000000000000000000000000000000001000000000000005013b }, by decide⟩

theorem witness_LifeCycleAdvancesByItsTable_12 : ∃ s : State, BitVec.ofNat 64 (s.keys.jctr.toNat / 65536 * 65536) ≠
    s.keys.jledger :=
  ⟨{ keys := { jctr := 0x10000, jwait := true } }, by decide⟩

theorem witness_LifeCycleAdvancesByItsTable_13 : ∃ s : State, ∃ j : Bool, ((if j then s.keys.jctr else
    s.keys.wctr).toNat / 65536 * 65536 = (if j then s.keys.jledger else s.keys.wledger).toNat) :=
  ⟨{ keys := { jctr := 3 } }, true, by decide⟩

theorem witness_LifeCycleAdvancesByItsTable_14 : ∃ s : State, ∃ j : Bool, ((if j then s.keys.jctr else
    s.keys.wctr).toNat / 65536 * 65536 ≠ (if j then s.keys.jledger else s.keys.wledger).toNat) :=
  ⟨{ keys := { jctr := 0x10000, jwait := true } }, true, by decide⟩

theorem witness_LifeCycleAdvancesByItsTable_15 : ∃ s : State, s.d0up = true :=
  ⟨{ power := { phase := .run, d0run := true } }, by decide⟩

theorem witness_WordsMoveComputeAndAccess_1 : ∃ s : State, ∃ n : Fin 16, ∃ w : BitVec 128, ∃ m : Move', s.atWord
    n.val w none ∧ wordLegal w = true ∧ movesOf w = [m] ∧ m.dst < 64 :=
  ⟨{ power := { phase := .run, d0run := true }, regs := [(R.NWT_CST 3, 0)], newts := [(3, { imem := [(0, 0xFFE00000FFE00000FFE0000001600009)] })] }, 3, 0xFFE00000FFE00000FFE0000001600009, { slot := 0, dst := 5, src := .val 9 }, by decide⟩

theorem witness_WordsMoveComputeAndAccess_2 : ∃ s : State, ∃ n : Fin 16, ∃ w : BitVec 128, ∃ m : Move', s.atWord
    n.val w none ∧ wordLegal w = true ∧ movesOf w = [m] ∧ (0x50 ≤ m.dst ∧ m.dst < 0x60 ∨ 0x70 ≤ m.dst ∧ m.dst <
    0x80) :=
  ⟨{ power := { phase := .run, d0run := true }, regs := [(R.NWT_CST 3, 0)], newts := [(3, { imem := [(0, 0xFFE00000FFE00000FFE0000014600009)] })] }, 3, 0xFFE00000FFE00000FFE0000014600009, { slot := 0, dst := 0x51, src := .val 9 }, by decide⟩

theorem witness_WordsMoveComputeAndAccess_3 : ∃ s : State, ∃ n : Fin 16, ∃ p : Nat, ∃ w : BitVec 128, ∃ v : Word,
    s.run n.val = 0 ∧ s.d0up = true ∧ s.newtGated n.val = false ∧ (s.newt n.val).gath = [] ∧ (s.newt n.val).landing
    = [⟨1, p, v, 0⟩] ∧ (s.newt n.val).pend0 = none ∧ (s.newt n.val).pc < 0x10000 ∧ tget (fun _ => 0) (s.newt
    n.val).imem ((s.newt n.val).pc / 16) = w ∧ wordLegal w = true ∧ movesOf w = [] ∧ p ≠ 0x184 :=
  ⟨{ power := { phase := .run, d0run := true }, regs := [(R.NWT_CST 3, 0)], newts := [(3, { imem := [(0, 0xFFE00000FFE00000FFE00000FFE00000)], landing := [⟨1, 0x41, 7, 0⟩] })] }, 3, 0x41, 0xFFE00000FFE00000FFE00000FFE00000, 7, by decide⟩

theorem witness_WordsMoveComputeAndAccess_4 : ∃ s : State, ∃ n : Fin 16, ∃ w : BitVec 128, ∃ m : Move', s.atWord
    n.val w none ∧ wordLegal w = true ∧ movesOf w = [m] ∧ 0xC0 ≤ m.dst ∧ m.dst < 0x100 ∧ m.dst % 8 ≠ 4 :=
  ⟨{ power := { phase := .run, d0run := true }, regs := [(R.NWT_CST 3, 0)], newts := [(3, { imem := [(0, 0xFFE00000FFE00000FFE0000032200009)] })] }, 3, 0xFFE00000FFE00000FFE0000032200009, { slot := 0, dst := 0xC8, src := .val 9 }, by decide⟩

theorem witness_WordsMoveComputeAndAccess_5 : ∃ s : State, ∃ n : Fin 16, ∃ w : BitVec 128, ∃ m : Move', ∃ a : Nat, ∃
    z : Nat, ∃ g : Bool, s.atWord n.val w none ∧ wordLegal w = true ∧ movesOf w = [m] ∧ 0x110 ≤ m.dst ∧ m.dst <
    0x11B ∧ portKind m.dst = .t ∧ lsuForm m.dst = (z, g, true) ∧ lsuAddr ((s.newt n.val).port 0x100) (s.moveVal
    n.val m) = 0x10000000 + a ∧ a < 0x10000 ∧ a % z = 0 :=
  ⟨{ power := { phase := .run, d0run := true }, regs := [(R.NWT_CST 3, 0)], newts := [(3, { imem := [(0, 0xFFE00000FFE00000FFE0000046A00009)], ports := [(0x100, 0x10000000)] })] }, 3, 0xFFE00000FFE00000FFE0000046A00009, { slot := 0, dst := 0x11A, src := .val 9 }, 9, 1, false, by decide⟩

theorem witness_WordsMoveComputeAndAccess_6 : ∃ s : State, ∃ n : Fin 16, ∃ w : BitVec 128, ∃ m : Move', ∃ a : Nat, ∃
    z : Nat, ∃ g : Bool, s.atWord n.val w none ∧ wordLegal w = true ∧ movesOf w = [m] ∧ 0x110 ≤ m.dst ∧ m.dst <
    0x11B ∧ portKind m.dst = .t ∧ lsuForm m.dst = (z, g, false) ∧ lsuAddr ((s.newt n.val).port 0x100) (s.moveVal
    n.val m) = 0x10000000 + a ∧ a < 0x10000 ∧ a % z = 0 :=
  ⟨{ power := { phase := .run, d0run := true }, regs := [(R.NWT_CST 3, 0)], newts := [(3, { imem := [(0, 0xFFE00000FFE00000FFE0000045200009)], ports := [(0x100, 0x10000000)] })] }, 3, 0xFFE00000FFE00000FFE0000045200009, { slot := 0, dst := 0x114, src := .val 9 }, 9, 1, false, by decide⟩

theorem witness_WordsMoveComputeAndAccess_7 : ∃ s : State, ∃ n : Fin 16, ∃ w : BitVec 128, ∃ m : Move', ∃ a : Nat, ∃
    z : Nat, ∃ g : Bool, ∃ st : Bool, s.atWord n.val w none ∧ wordLegal w = true ∧ movesOf w = [m] ∧ 0x110 ≤ m.dst ∧
    m.dst < 0x11B ∧ portKind m.dst = .t ∧ lsuForm m.dst = (z, g, st) ∧ lsuAddr ((s.newt n.val).port 0x100)
    (s.moveVal n.val m) = 0x20000000 + a ∧ a < 0x800000 ∧ a % z = 0 ∧ (s.newt n.val).lastGath = false ∧
    s.gathRefused a = false :=
  ⟨{ power := { phase := .run, d0run := true }, regs := [(R.NWT_CST 3, 0)], newts := [(3, { imem := [(0, 0xFFE00000FFE00000FFE0000045200009)], ports := [(0x100, 0x20000000)] })] }, 3, 0xFFE00000FFE00000FFE0000045200009, { slot := 0, dst := 0x114, src := .val 9 }, 9, 1, false, false, by decide⟩

theorem witness_WordsMoveComputeAndAccess_8 : ∃ s : State, ∃ n : Fin 16, ∃ w : BitVec 128, ∃ m : Move', ∃ a : Nat, ∃
    z : Nat, ∃ g : Bool, ∃ st : Bool, s.atWord n.val w none ∧ wordLegal w = true ∧ movesOf w = [m] ∧ 0x110 ≤ m.dst ∧
    m.dst < 0x11B ∧ portKind m.dst = .t ∧ lsuForm m.dst = (z, g, st) ∧ lsuAddr ((s.newt n.val).port 0x100)
    (s.moveVal n.val m) = 0x20000000 + a ∧ a < 0x800000 ∧ a % z = 0 ∧ (s.newt n.val).lastGath = false ∧
    s.gathRefused a = true :=
  ⟨{ power := { phase := .run, d0run := true }, regs := [(R.NWT_CST 13, 0), (R.PWR_STAT, 2)], newts := [(13, { imem := [(0, 0xFFE00000FFE00000FFE0000045200009)], ports := [(0x100, 0x20100000)] })] }, 13, 0xFFE00000FFE00000FFE0000045200009, { slot := 0, dst := 0x114, src := .val 9 }, 0x100009, 1, false, false, by decide⟩

theorem witness_WordsMoveComputeAndAccess_9 : ∃ s : State, ∃ n : Fin 16, ∃ w : BitVec 128, ∃ m : Move', ∃ a : Nat,
    s.atWord n.val w none ∧ wordLegal w = true ∧ movesOf w = [m] ∧ (m.dst = 0x110 ∨ m.dst = 0x118) ∧ lsuAddr
    ((s.newt n.val).port 0x100) (s.moveVal n.val m) = 0x40000000 + a ∧ a < 0x150000 ∧ a % 4 = 0 ∧ (s.newt
    n.val).regq.length < 4 :=
  ⟨{ power := { phase := .run, d0run := true }, regs := [(R.NWT_CST 3, 0)], newts := [(3, { imem := [(0, 0xFFE00000FFE00000FFE0000046200008)], ports := [(0x100, 0x40000000)] })] }, 3, 0xFFE00000FFE00000FFE0000046200008, { slot := 0, dst := 0x118, src := .val 8 }, 8, by decide⟩

theorem witness_WordsMoveComputeAndAccess_10 : ∃ s : State, ∃ n : Fin 16, (s.run n.val ≠ 0 ∨ s.d0up = false ∨
    s.newtGated n.val = true) :=
  ⟨{}, 3, by decide⟩

theorem witness_WordsFaultBranchWaitAndStop_1 : ∃ s : State, ∃ n : Fin 16, ∃ w : BitVec 128, ∃ p : Option Redirect,
    s.atWord n.val w p ∧ (decodeSlots 0 (slots w)).head? = some (0, none) :=
  ⟨{ power := { phase := .run, d0run := true }, regs := [(R.NWT_CST 3, 0)], newts := [(3, { imem := [(0, 0xFFE00000FFE00000FFE00000FFA00000)] })] }, 3, 0xFFE00000FFE00000FFE00000FFA00000, none, by decide⟩

theorem witness_WordsFaultBranchWaitAndStop_2 : ∃ s : State, ∃ n : Fin 16, s.run n.val = 0 ∧ s.d0up = true ∧
    s.newtGated n.val = false ∧ (s.newt n.val).gath = [] ∧ (s.newt n.val).landing = [] ∧ (s.newt n.val).pc < 0x10000
    :=
  ⟨{ power := { phase := .run, d0run := true }, regs := [(R.NWT_CST 3, 0)], newts := [(3, { imem := [(0, 0)] })] }, 3, by decide⟩

theorem witness_WordsFaultBranchWaitAndStop_3 : ∃ s : State, ∃ n : Fin 16, ∃ w : BitVec 128, ∃ m : Move', ∃ a : Nat,
    ∃ z : Nat, ∃ g : Bool, s.atWord n.val w none ∧ wordLegal w = true ∧ movesOf w = [m] ∧ 0x110 ≤ m.dst ∧ m.dst <
    0x11B ∧ portKind m.dst = .t ∧ lsuForm m.dst = (z, g, false) ∧ lsuAddr ((s.newt n.val).port 0x100) (s.moveVal
    n.val m) = 0x10000000 + a ∧ a < 0x10000 ∧ a % z = 0 :=
  ⟨{ power := { phase := .run, d0run := true }, regs := [(R.NWT_CST 3, 0)], newts := [(3, { imem := [(0, 0xFFE00000FFE00000FFE0000045200009)], ports := [(0x100, 0x10000000)] })] }, 3, 0xFFE00000FFE00000FFE0000045200009, { slot := 0, dst := 0x114, src := .val 9 }, 9, 1, false, by decide⟩

theorem witness_WordsFaultBranchWaitAndStop_4 : ∃ s : State, ∃ n : Fin 16, ∃ w : BitVec 128, ∃ m : Move', ∃ p :
    Option Redirect, ∃ c : Nat, s.atWord n.val w p ∧ wordLegal w = true ∧ movesOf w = [m] ∧ portKind m.dst = .t ∧
    trigFault (s.newt n.val) false (s.source n.val m) = some c :=
  ⟨{ power := { phase := .run, d0run := true }, regs := [(R.NWT_CST 3, 0)], newts := [(3, { imem := [(0, 0xFFE00000FFE00000FFE0000044200009)] })] }, 3, 0xFFE00000FFE00000FFE0000044200009, { slot := 0, dst := 0x110, src := .val 9 }, none, 3, by decide⟩

theorem witness_WordsFaultBranchWaitAndStop_5 : ∃ s : State, ∃ n : Fin 16, ∃ w : BitVec 128, ∃ m : Move', s.atWord
    n.val w none ∧ wordLegal w = true ∧ movesOf w = [m] ∧ 0x130 ≤ m.dst ∧ m.dst < 0x138 ∧ trigFault (s.newt n.val)
    false (s.source n.val m) = none :=
  ⟨{ power := { phase := .run, d0run := true }, regs := [(R.NWT_CST 3, 0)], newts := [(3, { imem := [(0, 0xFFE00000FFE00000FFE000004C200020)] })] }, 3, 0xFFE00000FFE00000FFE000004C200020, { slot := 0, dst := 0x130, src := .val 32 }, by decide⟩

theorem witness_WordsFaultBranchWaitAndStop_6 : ∃ s : State, ∃ n : Fin 16, ∃ a : Nat, ∃ w : BitVec 128, s.atWord
    n.val w (some (.jump a)) ∧ wordLegal w = true ∧ movesOf w = [] :=
  ⟨{ power := { phase := .run, d0run := true }, regs := [(R.NWT_CST 3, 0)], newts := [(3, { imem := [(0, 0xFFE00000FFE00000FFE00000FFE00000)], pend0 := some (.jump 32) })] }, 3, 32, 0xFFE00000FFE00000FFE00000FFE00000, by decide⟩

theorem witness_WordsFaultBranchWaitAndStop_7 : ∃ s : State, ∃ n : Fin 16, ∃ k : Nat, ∃ mask : Nat, ∃ w : BitVec
    128, s.atWord n.val w (some (.wait mask)) ∧ wordLegal w = true ∧ movesOf w = [] ∧ ((s.newt n.val).tmr = 0 ∨ 1 +
    k < (s.newt n.val).tmr) :=
  ⟨{ power := { phase := .run, d0run := true }, regs := [(R.NWT_CST 3, 0)], newts := [(3, { imem := [(0, 0xFFE00000FFE00000FFE00000FFE00000)], pend0 := some (.wait 1) })] }, 3, 0, 1, 0xFFE00000FFE00000FFE00000FFE00000, by decide⟩

theorem witness_WordsFaultBranchWaitAndStop_8 : ∃ s : State, ∃ n : Fin 16, ∃ w : BitVec 128, s.atWord n.val w (some
    .stop) ∧ wordLegal w = true ∧ movesOf w = [] :=
  ⟨{ power := { phase := .run, d0run := true }, regs := [(R.NWT_CST 3, 0)], newts := [(3, { imem := [(0, 0xFFE00000FFE00000FFE00000FFE00000)], pend0 := some .stop })] }, 3, 0xFFE00000FFE00000FFE00000FFE00000, by decide⟩

theorem witness_WordsFaultBranchWaitAndStop_9 : ∃ s : State, ∃ n : Fin 16, s.run n.val = 1 ∧ s.d0up = true ∧
    s.newtGated n.val = false ∧ (s.newt n.val).gath = [] ∧ (s.newt n.val).waitHolds (s.newt n.val).waitMask = true
    :=
  ⟨{ power := { phase := .run, d0run := true }, regs := [(R.NWT_CST 3, 1)], newts := [(3, { imem := [(0, 0)], waitMask := 8 })] }, 3, by decide⟩

theorem witness_WordsFaultBranchWaitAndStop_10 : ∃ s : State, ∃ n : Fin 16, ∃ k : Nat, (s.run n.val = 1 → (s.newt
    n.val).gath = [] ∧ (s.newt n.val).waitHolds (s.newt n.val).waitMask = false ∧ ((s.newt n.val).tmr = 0 ∨ k -
    (s.newt n.val).waited < (s.newt n.val).tmr)) :=
  ⟨{}, 3, 5, by decide⟩

theorem witness_WordsFaultBranchWaitAndStop_11 : ∃ s : State, ∃ n : Fin 16, s.run n.val ≤ 1 ∧ s.d0up = true ∧
    s.newtGated n.val = false ∧ (s.newt n.val).tmr ≠ 0 :=
  ⟨{ power := { phase := .run, d0run := true }, regs := [(R.NWT_CST 3, 0)], newts := [(3, { imem := [(0, 0)], tmr := 1 })] }, 3, by decide⟩

theorem witness_MessagesAndRegisterRequestsComplete_1 : ∃ s : State, ∃ n : Fin 16, ∃ r : RegReq, ∃ l : List RegReq,
    s.d0up = true ∧ s.newtGated n.val = false ∧ (s.newt n.val).regq = r :: l ∧ r.store = true ∧ s.refusedAt r.addr =
    false ∧ s.mustWait (.newt n) r.addr 4 = false :=
  ⟨{ power := { phase := .run, d0run := true }, regs := [(R.NWT_CST 3, 0)], newts := [(3, { imem := [(0, 0)], regq := [⟨true, R.EVM_CCTL 0, 7, 0⟩] })] }, 3, ⟨true, R.EVM_CCTL 0, 7, 0⟩, [], by decide⟩

theorem witness_MessagesAndRegisterRequestsComplete_2 : ∃ s : State, ∃ n : Fin 16, ∃ r : RegReq, ∃ l : List RegReq,
    s.d0up = true ∧ s.newtGated n.val = false ∧ (s.newt n.val).regq = r :: l ∧ r.store = false ∧ r.addr < 0x100000 ∧
    s.refusedAt r.addr = false ∧ s.lineBusy r.addr = false ∧ s.mustWait (.newt n) r.addr 4 = false :=
  ⟨{ power := { phase := .run, d0run := true }, regs := [(R.NWT_CST 3, 0)], newts := [(3, { imem := [(0, 0)], regq := [⟨false, R.EVM_CCTL 0, 7, 0⟩] })] }, 3, ⟨false, R.EVM_CCTL 0, 7, 0⟩, [], by decide⟩

theorem witness_MessagesAndRegisterRequestsComplete_3 : ∃ s : State, ∃ n : Fin 16, ∃ r : RegReq, ∃ l : List RegReq,
    (s.newt n.val).regq = r :: l ∧ (s.mustWait (.newt n) r.addr 4 = true ∨ (r.store = false ∧ s.lineBusy r.addr =
    true)) :=
  ⟨{ power := { phase := .run, d0run := true }, regs := [(R.NWT_CST 3, 0)], newts := [(3, { imem := [(0, 0)], regq := [⟨true, R.PIO_GPIOOUT, 7, 0⟩] })] }, 3, ⟨true, R.PIO_GPIOOUT, 7, 0⟩, [], by decide⟩

theorem witness_MessagesAndRegisterRequestsComplete_4 : ∃ s : State, ∃ n : Fin 16, ∃ err : Bool, ∃ r : RegReq, ∃ l :
    List RegReq, s.d0up = true ∧ s.newtGated n.val = false ∧ (s.newt n.val).regq = r :: l ∧ s.run n.val ≤ 1 ∧ (err =
    true ∨ (s.refusedAt r.addr = true ∧ s.mustWait (.newt n) r.addr 4 = false ∧ s.lineBusy r.addr = false)) :=
  ⟨{ power := { phase := .run, d0run := true }, regs := [(R.NWT_CST 3, 0)], newts := [(3, { imem := [(0, 0)], regq := [⟨true, R.PIO_GPIOOUT, 7, 0⟩] })] }, 3, true, ⟨true, R.PIO_GPIOOUT, 7, 0⟩, [], by decide⟩

theorem witness_MessagesAndRegisterRequestsComplete_5 : ∃ s : State, ∃ n : Fin 16, ∃ a : Nat, ∃ g : Msg, ∃ l : List
    Msg, (s.newt n.val).mbxOp = some (.recv a) ∧ (s.newt n.val).mbx = g :: l :=
  ⟨{ newts := [(3, { mbxOp := some (.recv 64), mbx := [0x5000000000000000000000000000000000000021] })] }, 3, 64, 0x5000000000000000000000000000000000000021, [], by decide⟩

theorem witness_MessagesAndRegisterRequestsComplete_6 : ∃ s : State, ∃ n : Fin 16, ∃ a : Nat, (s.newt n.val).mbxOp =
    some (.recv a) ∧ (s.newt n.val).mbx = [] :=
  ⟨{ newts := [(3, { mbxOp := some (.recv 64) })] }, 3, 64, by decide⟩

theorem witness_MessagesAndRegisterRequestsComplete_7 : ∃ s : State, ∃ n : Fin 16, ∃ d : Nat, ∃ code : Nat, ∃ g :
    Msg, (s.newt n.val).mbxOp = some (.send d g) ∧ d < 64 ∧ ((64 ≤ g.src ∨ s.holds n.val g.src = false) ∧ code = 3 ∨
    (g.src < 64 ∧ s.holds n.val g.src = true ∧ s.roleState d = 0) ∧ code = 2) :=
  ⟨{ newts := [(3, { mbxOp := some (.send 5 0x5000000000000000000000000000000000000021) })] }, 3, 5, 3, 0x5000000000000000000000000000000000000021, by decide⟩

theorem witness_MessagesAndRegisterRequestsComplete_8 : ∃ s : State, ∃ n : Fin 16, ∃ d : Nat, ∃ g : Msg, (s.newt
    n.val).mbxOp = some (.send d g) ∧ d < 64 ∧ g.src < 64 ∧ s.holds n.val g.src = true ∧ s.roleState d = 1 ∧
    s.newtGated (s.holder d) = false ∧ s.routerHolds (s.holder d) = false ∧ (s.newt (s.holder d)).mbx.length +
    (s.roles.wires.filter (fun w => w.1 == s.holder d)).length < 16 :=
  ⟨{ regs := [(R.NWT_ROLE 0, 0x13), (R.NWT_ROLE 5, 0x14)], newts := [(3, { mbxOp := some (.send 5 7) })] }, 3, 5, 7, by decide⟩

theorem witness_MessagesAndRegisterRequestsComplete_9 : ∃ s : State, ∃ n : Nat, ∃ g : Msg, ∃ l : List (Nat × Msg),
    s.roles.wires = (n, g) :: l ∧ s.roleState g.dst ≠ 0 ∧ g.epoch = s.epoch g.dst ∧ s.holds n g.dst = true ∧
    s.newtGated n = false ∧ s.mbxRoom n = true :=
  ⟨{ regs := [(R.NWT_ROLE 5, 0x14)], roles := { wires := [(4, 5)] } }, 4, 5, [], by decide⟩

theorem witness_MessagesAndRegisterRequestsComplete_10 : ∃ s : State, ∃ n : Nat, ∃ g : Msg, ∃ l : List (Nat × Msg),
    s.roles.wires = (n, g) :: l ∧ s.roleState g.dst ≠ 0 ∧ g.fwd = false ∧ (g.epoch ≠ s.epoch g.dst ∨ (s.holds n
    g.dst = false ∧ g.ho = false)) :=
  ⟨{ regs := [(R.NWT_ROLE 5, 0x14)], roles := { wires := [(4, 0x10005)] } }, 4, 0x10005, [], by decide⟩

theorem witness_MessagesAndRegisterRequestsComplete_11 : ∃ s : State, ∃ n : Nat, ∃ g : Msg, ∃ l : List (Nat × Msg),
    s.roles.wires = (n, g) :: l ∧ s.roleState g.dst = 0 :=
  ⟨{ roles := { wires := [(4, 5)] } }, 4, 5, [], by decide⟩

theorem witness_MessagesAndRegisterRequestsComplete_12 : ∃ s : State, ∃ n : Fin 16, ∃ h : Held, ∃ l : List Held,
    s.newtGated n.val = false ∧ (s.newt n.val).mbx.length < 16 ∧ placeHeld n.val s.roles.router = some (h, l) ∧
    (h.gated = false ∨ h.msg.src = 0xFF ∨ s.accepts n.val h.msg = true) :=
  ⟨{ roles := { router := [⟨3, 5, false⟩] } }, 3, ⟨3, 5, false⟩, [], by decide⟩

theorem witness_MessagesAndRegisterRequestsComplete_13 : ∃ s : State, ∃ n : Fin 16, ∃ h : Held, ∃ l : List Held,
    s.newtGated n.val = false ∧ (s.newt n.val).mbx.length < 16 ∧ placeHeld n.val s.roles.router = some (h, l) ∧
    h.gated = true ∧ h.msg.bounced = false ∧ h.msg.src ≠ 0xFF ∧ s.roleState h.msg.dst = 0 :=
  ⟨{ roles := { router := [⟨3, 5, true⟩] } }, 3, ⟨3, 5, true⟩, [], by decide⟩

theorem witness_RolesMoveAndNewtsAreShed_1 : ∃ s : State, ∃ m : Master, ∃ w : Word, ∃ k : Fin 16, s.reaches m
    R.NWT_MOVE = true ∧ m = .newt k ∧ (fld 14 12 w = 7 ∨ ((fld 14 12 w = 0 ∨ fld 14 12 w = 3 ∨ fld 14 12 w = 4 ∨ fld
    14 12 w = 5) ∧ s.basfort k.val = false) ∨   ((fld 14 12 w = 1 ∨ fld 14 12 w = 2) ∧ s.holds k.val (fld 5 0 w) =
    false)) :=
  ⟨{ power := { phase := .run, d0run := true }, regs := [(R.GLB_STAT, 8), (R.RST_STAT, 0x20)] }, .newt 3, 0, 3, by decide⟩

theorem witness_RolesMoveAndNewtsAreShed_2 : ∃ s : State, ∃ m : Master, ∃ w : Word, ∃ r : Nat, ∃ g : Nat, ∃ c : Nat,
    s.reaches m R.NWT_MOVE = true ∧ fld 14 12 w = 0 ∧ (∀ k, m = .newt k → s.basfort k.val = true) ∧ fld 5 0 w = r ∧
    fld 11 8 w = g ∧ s.moveCheck r g = some c :=
  ⟨{ power := { phase := .run, d0run := true }, regs := [(R.GLB_STAT, 8), (R.RST_STAT, 0x20)] }, .host, 0x405, 5, 4, 9, by decide⟩

theorem witness_RolesMoveAndNewtsAreShed_3 : ∃ s : State, ∃ m : Master, ∃ w : Word, ∃ r : Nat, ∃ g : Nat, s.reaches
    m R.NWT_MOVE = true ∧ fld 14 12 w = 0 ∧ (∀ k, m = .newt k → s.basfort k.val = true) ∧ fld 5 0 w = r ∧ fld 11 8 w
    = g ∧ s.moveCheck r g = none :=
  ⟨{ power := { phase := .run, d0run := true }, regs := [(R.GLB_STAT, 8), (R.RST_STAT, 0x20), (R.NWT_ROLE 5, 0x1F0013), (R.NWT_CST 3, 0)] }, .host, 0x405, 5, 4, by decide⟩

theorem witness_RolesMoveAndNewtsAreShed_4 : ∃ s : State, ∃ v : Move, s.roles.move = some v ∧ v.stage = .loading ∧
    v.takeover = false ∧ s.named v.target v.role = true ∧ v.target < 16 ∧ v.source ≠ v.target ∧ v.role < 64 ∧
    s.roleState v.role = 2 :=
  ⟨{ power := { phase := .run, d0run := true }, regs := [(R.GLB_STAT, 8), (R.RST_STAT, 0x20), (R.NWT_ROLE 5, 0x40023)], newts := [(4, { image := some { keyidx := 0xFF, process := false, roles := 0x20, timask := 0 } })], roles := { move := some { role := 5, source := 3, target := 4, persist := false, takeover := false, cause := 0, fresh := true, stage := .loading } } }, { role := 5, source := 3, target := 4, persist := false, takeover := false, cause := 0, fresh := true, stage := .loading }, by decide⟩

theorem witness_RolesMoveAndNewtsAreShed_5 : ∃ s : State, ∃ v : Move, s.roles.move = some v ∧ v.stage = .loading ∧
    v.takeover = true ∧ s.named v.target v.role = true ∧ v.source < 16 ∧ v.target < 16 ∧ v.source ≠ v.target ∧
    v.role < 64 ∧ s.roles.takeovers = [] ∧ s.roles.rotating = none :=
  ⟨{ power := { phase := .run, d0run := true }, regs := [(R.GLB_STAT, 8), (R.RST_STAT, 0x20), (R.NWT_ROLE 5, 0x40023)], newts := [(4, { image := some { keyidx := 0xFF, process := false, roles := 0x20, timask := 0 } })], roles := { move := some { role := 5, source := 3, target := 4, persist := false, takeover := true, cause := 0, fresh := true, stage := .loading } } }, { role := 5, source := 3, target := 4, persist := false, takeover := true, cause := 0, fresh := true, stage := .loading }, by decide⟩

theorem witness_RolesMoveAndNewtsAreShed_6 : ∃ s : State, ∃ v : Move, s.roles.move = some v ∧ v.stage = .loading ∧
    v.takeover = false ∧ s.named v.target v.role = false ∧ v.source < 16 ∧ v.role < 64 ∧ ((s.imageFault
    v.source).isSome = true ∨ nbit v.role (s.header (slotBase v.source)).roles = false) ∧ s.roles.takeovers = [] ∧
    s.roles.rotating = none :=
  ⟨{ power := { phase := .run, d0run := true }, regs := [(R.GLB_STAT, 8), (R.RST_STAT, 0x20), (R.NWT_ROLE 5, 0x40023)], roles := { move := some { role := 5, source := 3, target := 4, persist := false, takeover := false, cause := 0, fresh := true, stage := .loading } } }, { role := 5, source := 3, target := 4, persist := false, takeover := false, cause := 0, fresh := true, stage := .loading }, by decide⟩

theorem witness_RolesMoveAndNewtsAreShed_7 : ∃ s : State, ∃ m : Master, ∃ w : Word, ∃ k : Fin 16, ∃ v : Move,
    s.reaches m R.NWT_MOVE = true ∧ fld 14 12 w = 1 ∧ m = .newt k ∧ fld 5 0 w = v.role ∧ s.holds k.val v.role = true
    ∧ s.roles.move = some v ∧ v.target < 16 ∧ v.source ≠ v.target ∧ (v.stage ≠ .loading ∨ s.named v.target v.role =
    true) ∧ s.roles.takeovers = [] ∧ s.roles.rotating = none :=
  ⟨{ power := { phase := .run, d0run := true }, regs := [(R.GLB_STAT, 8), (R.RST_STAT, 0x20), (R.NWT_ROLE 5, 0x40023), (R.NWT_CST 3, 0)], roles := { move := some { role := 5, source := 3, target := 4, persist := false, takeover := false, cause := 0, fresh := true, stage := .handover } } }, .newt 3, 0x1005, 3, { role := 5, source := 3, target := 4, persist := false, takeover := false, cause := 0, fresh := true, stage := .handover }, by decide⟩

theorem witness_RolesMoveAndNewtsAreShed_8 : ∃ s : State, ∃ m : Master, ∃ w : Word, ∃ k : Fin 16, ∃ v : Move,
    s.reaches m R.NWT_MOVE = true ∧ fld 14 12 w = 1 ∧ m = .newt k ∧ fld 5 0 w = v.role ∧ s.holds k.val v.role = true
    ∧ s.roles.move = some v ∧ v.source < 16 ∧ v.stage = .loading ∧ s.named v.target v.role = false ∧ ((s.imageFault
    v.source).isSome = true ∨ nbit v.role (s.header (slotBase v.source)).roles = false) ∧ s.roles.takeovers = [] ∧
    s.roles.rotating = none :=
  ⟨{ power := { phase := .run, d0run := true }, regs := [(R.GLB_STAT, 8), (R.RST_STAT, 0x20), (R.NWT_ROLE 5, 0x40023), (R.NWT_CST 3, 0)], roles := { move := some { role := 5, source := 3, target := 4, persist := false, takeover := false, cause := 0, fresh := true, stage := .loading } } }, .newt 3, 0x1005, 3, { role := 5, source := 3, target := 4, persist := false, takeover := false, cause := 0, fresh := true, stage := .loading }, by decide⟩

theorem witness_RolesMoveAndNewtsAreShed_9 : ∃ s : State, ∃ v : Move, s.roles.move = some v ∧ v.stage = .handover ∧
    v.role < 64 ∧ v.target < 16 ∧ s.roles.takeovers = [] ∧ s.roles.rotating = none :=
  ⟨{ power := { phase := .run, d0run := true }, regs := [(R.GLB_STAT, 8), (R.RST_STAT, 0x20), (R.NWT_ROLE 5, 0x40023), (R.NWT_CST 3, 0)], roles := { move := some { role := 5, source := 3, target := 4, persist := false, takeover := false, cause := 0, fresh := true, stage := .handover } } }, { role := 5, source := 3, target := 4, persist := false, takeover := false, cause := 0, fresh := true, stage := .handover }, by decide⟩

theorem witness_RolesMoveAndNewtsAreShed_10 : ∃ s : State, ∃ a : Nat, ∃ b : Nat, ∃ l : List (Nat × Nat),
    s.roles.persists = (a, b) :: l ∧ a < 16 ∧ b < 16 ∧ (s.header (slotBase a)).codelen ≤ 65536 :=
  ⟨{ roles := { persists := [(3, 4)] }, flash := { bytes := (List.range 8).map fun i => (slotBase 3 + 8 + i, 0) } }, 3, 4, [], by decide⟩

theorem witness_RolesMoveAndNewtsAreShed_11 : ∃ s : State, ∃ m : Master, ∃ w : Word, ∃ k : Fin 16, s.reaches m
    R.NWT_MOVE = true ∧ fld 14 12 w = 2 ∧ m = .newt k ∧ s.holds k.val (fld 5 0 w) = true :=
  ⟨{ power := { phase := .run, d0run := true }, regs := [(R.GLB_STAT, 8), (R.RST_STAT, 0x20), (R.NWT_ROLE 5, 0x1F0013), (R.NWT_CST 3, 0)] }, .newt 3, 0x2005, 3, by decide⟩

theorem witness_RolesMoveAndNewtsAreShed_12 : ∃ s : State, ∃ m : Master, ∃ w : Word, s.reaches m R.NWT_MOVE = true ∧
    fld 14 12 w = 6 ∧ (∀ k, m = .newt k → s.holds k.val (fld 5 0 w) = true) :=
  ⟨{ power := { phase := .run, d0run := true }, regs := [(R.GLB_STAT, 8), (R.RST_STAT, 0x20), (R.NWT_ROLE 5, 0x1F0053)] }, .newt 3, 0x6005, by decide⟩

theorem witness_RolesMoveAndNewtsAreShed_13 : ∃ s : State, ∃ m : Master, ∃ w : Word, s.reaches m R.NWT_MOVE = true ∧
    fld 14 12 w = 3 ∧ (∀ k, m = .newt k → s.basfort k.val = true) :=
  ⟨{ power := { phase := .run, d0run := true }, regs := [(R.GLB_STAT, 8), (R.RST_STAT, 0x20), (R.NWT_ROLE 5, 0x1F0013), (R.NWT_CST 3, 0)] }, .host, 0x3005, by decide⟩

theorem witness_RolesMoveAndNewtsAreShed_14 : ∃ s : State, ∃ m : Master, ∃ w : Word, ∃ g : Nat, ∃ c : Nat, s.reaches
    m R.NWT_MOVE = true ∧ fld 14 12 w = 4 ∧ (∀ k, m = .newt k → s.basfort k.val = true) ∧ fld 11 8 w = g ∧
    s.bootCheck g false = some c :=
  ⟨{ power := { phase := .run, d0run := true }, regs := [(R.GLB_STAT, 8), (R.RST_STAT, 0x20), (R.NWT_ROLE 5, 0x1F0014)] }, .host, 0x4400, 4, 10, by decide⟩

theorem witness_RolesMoveAndNewtsAreShed_15 : ∃ s : State, ∃ m : Master, ∃ w : Word, ∃ g : Nat, s.reaches m
    R.NWT_MOVE = true ∧ fld 14 12 w = 4 ∧ (∀ k, m = .newt k → s.basfort k.val = true) ∧ fld 11 8 w = g ∧ s.bootCheck
    g false = none :=
  ⟨{ power := { phase := .run, d0run := true }, regs := [(R.GLB_STAT, 8), (R.RST_STAT, 0x20)] }, .host, 0x4400, 4, by decide⟩

theorem witness_RolesMoveAndNewtsAreShed_16 : ∃ s : State, ∃ m : Master, ∃ w : Word, ∃ g : Nat, ∃ c : Nat, s.reaches
    m R.NWT_MOVE = true ∧ fld 14 12 w = 5 ∧ (∀ k, m = .newt k → s.basfort k.val = true) ∧ fld 11 8 w = g ∧
    s.bootCheck g true = some c :=
  ⟨{ power := { phase := .run, d0run := true }, regs := [(R.GLB_STAT, 8), (R.RST_STAT, 0x20), (R.NWT_ROLE 5, 0x1F0014)] }, .host, 0x5400, 4, 10, by decide⟩

theorem witness_RolesMoveAndNewtsAreShed_17 : ∃ s : State, ∃ m : Master, ∃ w : Word, ∃ g : Nat, s.reaches m
    R.NWT_MOVE = true ∧ fld 14 12 w = 5 ∧ (∀ k, m = .newt k → s.basfort k.val = true) ∧ fld 11 8 w = g ∧ s.bootCheck
    g true = none :=
  ⟨{ power := { phase := .run, d0run := true }, regs := [(R.GLB_STAT, 8), (R.RST_STAT, 0x20)] }, .host, 0x5400, 4, by decide⟩

theorem witness_RolesMoveAndNewtsAreShed_18 : ∃ s : State, ∃ n : Nat, s.roles.boot = some n :=
  ⟨{ power := { phase := .run, d0run := true }, regs := [(R.GLB_STAT, 8), (R.RST_STAT, 0x20)], roles := { boot := some 4 } }, 4, by decide⟩

theorem witness_RolesMoveAndNewtsAreShed_19 : ∃ s : State, ∃ n : Nat, s.roles.test = some n ∧ n < 16 :=
  ⟨{ power := { phase := .run, d0run := true }, regs := [(R.GLB_STAT, 8), (R.RST_STAT, 0x20)], roles := { test := some 4 } }, 4, by decide⟩

theorem witness_RolesMoveAndNewtsAreShed_20 : ∃ s : State, ∃ n : Nat, s.roles.test = some n ∧ n < 16 :=
  ⟨{ power := { phase := .run, d0run := true }, regs := [(R.GLB_STAT, 8), (R.RST_STAT, 0x20)], roles := { test := some 4 } }, 4, by decide⟩

theorem witness_RolesMoveAndNewtsAreShed_21 : ∃ s : State, ∃ r : Fin 64, s.roles.fhold.contains r.val = true ∧
    s.hasDriven r.val = true :=
  ⟨{ regs := [(R.PIO_OUT 12, 0xC000), (R.PIO_GPIOCFG 0, 1)], roles := { fhold := [33] } }, 33, by decide⟩

theorem witness_RolesMoveAndNewtsAreShed_22 : ∃ s : State, ∃ r : Fin 64, s.roles.fhold.contains r.val = false :=
  ⟨{}, 33, by decide⟩

theorem witness_ConversionsAndComparators_1 : ∃ s : State, ∃ m : Master, ∃ w : Word, s.reaches m R.PIO_ADCSEQ = true
    ∧ bit 0 w = true ∧ s.pio.adc = none ∧ s.rb R.PIO_CTL 0 = true ∧ s.hushed = false ∧ s.power.phase = .run :=
  ⟨{ power := { phase := .run, d0run := true }, regs := [(R.GLB_STAT, 8), (R.PIO_CTL, 1)] }, .host, 1, by decide⟩

theorem witness_ConversionsAndComparators_2 : ∃ s : State, s.evmUp = true ∧ s.rf R.PIO_ADCSEQ 2 1 = 1 ∧ s.pio.adc =
    none ∧ s.rb R.PIO_CTL 0 = true ∧ s.hushed = false ∧ s.power.phase = .run :=
  ⟨{ power := { phase := .run, d0run := true }, regs := [(R.GLB_STAT, 8), (R.PIO_CTL, 1), (R.PIO_ADCSEQ, 2)] }, by decide⟩

theorem witness_ConversionsAndComparators_3 : ∃ s : State, s.rf R.PIO_ADCSEQ 2 1 = 2 ∧ s.pio.adc = none ∧ s.rb
    R.PIO_CTL 0 = true ∧ s.hushed = false ∧ s.power.phase = .run :=
  ⟨{ power := { phase := .run, d0run := true }, regs := [(R.GLB_STAT, 8), (R.PIO_CTL, 1), (R.PIO_ADCSEQ, 4)] }, by decide⟩

theorem witness_ConversionsAndComparators_4 : ∃ s : State, s.adcTimerRuns = true ∧ s.pio.adc = none :=
  ⟨{ power := { phase := .run, d0run := true }, regs := [(R.GLB_STAT, 8), (R.PIO_CTL, 1), (R.PIO_ADCSEQ, 0x10006)] }, by decide⟩

theorem witness_ConversionsAndComparators_5 : ∃ s : State, s.adcTimerRuns = true ∧ s.pio.adc ≠ none :=
  ⟨{ power := { phase := .run, d0run := true }, regs := [(R.GLB_STAT, 8), (R.PIO_CTL, 1), (R.PIO_ADCSEQ, 0x10006)], pio := { adc := some { slot := 0, len := 1, list0 := 0x21, list1 := 0, hop := 0 } } }, by decide⟩

theorem witness_ConversionsAndComparators_6 : ∃ s : State, ∃ m : Master, ∃ w : Word, s.reaches m R.PIO_ADCSEQ = true
    ∧ bit 0 w = true ∧ s.pio.adc ≠ none ∧ s.rb R.PIO_CTL 0 = true ∧ s.hushed = false ∧ s.power.phase = .run :=
  ⟨{ power := { phase := .run, d0run := true }, regs := [(R.GLB_STAT, 8), (R.PIO_CTL, 1)], pio := { adc := some { slot := 0, len := 1, list0 := 0x21, list1 := 0, hop := 0 } } }, .host, 1, by decide⟩

theorem witness_ConversionsAndComparators_7 : ∃ s : State, ∃ r : AdcRun, s.pioUp = true ∧ s.pio.adc = some r :=
  ⟨{ power := { phase := .run, d0run := true }, regs := [(R.GLB_STAT, 8)], pio := { adc := some { slot := 0, len := 1, list0 := 0x21, list1 := 0, hop := 0 } } }, { slot := 0, len := 1, list0 := 0x21, list1 := 0, hop := 0 }, by decide⟩

theorem witness_ConversionsAndComparators_8 : ∃ s : State, ∃ m : Master, ∃ i : Fin 16, ∃ b : Fin 4, ∃ k : Nat,
    s.reaches m (R.PIO_ADCRES i.val) = true ∧ 1 ≤ k ∧ b.val + k ≤ 4 ∧ (m = .host ∨ (b.val = 0 ∧ k = 4)) :=
  ⟨{ power := { phase := .run, d0run := true }, regs := [(R.GLB_STAT, 8)] }, .host, 3, 1, 2, by decide⟩

theorem witness_ConversionsAndComparators_9 : ∃ s : State, ∃ n : Fin 4, (s.power.phase = .run ∨ s.power.phase =
    .held) ∧ s.rb (R.PIO_CMP n.val) 0 = true ∧ s.rb (R.PIO_CMP n.val) 18 = false ∧ s.pio.arming.getLsbD n.val =
    false :=
  ⟨{ power := { phase := .run, d0run := true }, regs := [(R.GLB_STAT, 8), (R.PIO_CMP 2, 1)] }, 2, by decide⟩

theorem witness_ConversionsAndComparators_10 : ∃ s : State, ∃ n : Fin 4, s.power.phase = .backup ∧ s.rb (R.PIO_CMP
    n.val) 0 = true ∧ s.rb (R.PIO_CMP n.val) 18 = false ∧ s.pio.arming.getLsbD n.val = false :=
  ⟨{ power := { phase := .backup }, regs := [(R.PIO_CMP 2, 1)] }, 2, by decide⟩

theorem witness_ConversionsAndComparators_11 : ∃ s : State, ∃ n : Fin 4, (s.rb (R.PIO_CMP n.val) 0 = false ∨ s.rb
    (R.PIO_CMP n.val) 18 = true ∨ s.pio.arming.getLsbD n.val = true) :=
  ⟨{}, 2, by decide⟩

theorem witness_ConversionsAndComparators_12 : ∃ s : State, ∃ n : Fin 4, s.rb (R.PIO_CMP n.val) 0 = true ∧ s.rb
    (R.PIO_CMP n.val) 18 = true :=
  ⟨{ power := { phase := .run, d0run := true }, regs := [(R.GLB_STAT, 8), (R.PIO_CMP 2, 0x40001)] }, 2, by decide⟩

theorem witness_ConversionsAndComparators_13 : ∃ s : State, ∃ m : Master, ∃ n : Fin 4, ∃ w : Word, s.reaches m
    (R.PIO_CMP n.val) = true ∧ s.rb R.PIO_CTL 8 = false ∧ s.rb (R.PIO_CMP n.val) 0 = true ∧ bit 0 w = false ∧ (s.rb
    (R.PIO_CMP n.val) 21 = false ∨ s.rb (R.PIO_CMP n.val) 6 = false ∨ bit 6 w = true) :=
  ⟨{ power := { phase := .run, d0run := true }, regs := [(R.GLB_STAT, 8), (R.PIO_CMP 2, 0x40001)] }, .host, 2, 0, by decide⟩

theorem witness_ConversionsAndComparators_14 : ∃ s : State, ∃ m : Master, ∃ n : Fin 4, ∃ w : Word, s.reaches m
    (R.PIO_CMP n.val) = true ∧ s.rb R.PIO_CTL 8 = false ∧ s.rb (R.PIO_CMP n.val) 6 = true ∧ bit 6 w = false ∧ s.rb
    (R.PIO_CMP n.val) 21 = true :=
  ⟨{ power := { phase := .run, d0run := true }, regs := [(R.GLB_STAT, 8), (R.PIO_CMP 2, 0x200041)] }, .host, 2, 0, by decide⟩

theorem witness_ConversionsAndComparators_15 : ∃ s : State, ∃ m : Master, ∃ n : Fin 4, ∃ w : Word, s.reaches m
    (R.PIO_CMP n.val) = true ∧ s.rb R.PIO_CTL 8 = false ∧ bit 20 w = true ∧ bit 0 w = true ∧ bit 6 w = true :=
  ⟨{ power := { phase := .run, d0run := true }, regs := [(R.GLB_STAT, 8), (R.PIO_CMP 2, 0x200041)] }, .host, 2, 0x100041, by decide⟩

theorem witness_OutputsAndEncoders_1 : ∃ s : State, ∃ k : Fin 12, s.pioUp = true ∧ s.pio.running.getLsbD k.val =
    true ∧ s.rb (R.PIO_PWMCFG k.val) 0 = true ∧ 2 ≤ s.rf (R.PIO_PWMCFG k.val) 31 16 :=
  ⟨{ power := { phase := .run, d0run := true }, regs := [(R.GLB_STAT, 8), (R.PIO_PWMCFG 3, 0x20001)], pio := { running := 8 } }, 3, by decide⟩

theorem witness_OutputsAndEncoders_2 : ∃ s : State, ∃ m : Master, ∃ k : Fin 12, ∃ w : Word, s.reaches m
    (R.PIO_PWMCFG k.val) = true ∧ bit 0 w = false :=
  ⟨{ power := { phase := .run, d0run := true }, regs := [(R.GLB_STAT, 8)], pio := { running := 8 } }, .host, 3, 0, by decide⟩

theorem witness_OutputsAndEncoders_3 : ∃ s : State, ∃ m : Master, ∃ k : Fin 12, ∃ w : Word, s.reaches m
    (R.PIO_PWMCFG k.val) = true ∧ bit 0 w = true ∧ 2 ≤ fld 31 16 w ∧ s.pio.running.getLsbD k.val = false :=
  ⟨{ power := { phase := .run, d0run := true }, regs := [(R.GLB_STAT, 8)] }, .host, 3, 0x20001, by decide⟩

theorem witness_OutputsAndEncoders_4 : ∃ s : State, ∃ k : Fin 24, ∃ l : Bool, ∃ p : Nat, s.rb (R.PIO_GPIOCFG k.val)
    0 = false ∧ s.pad (12 + k.val) = .released p ∧ s.pio.gpioExt.getLsbD k.val ≠ l ∧ ((l = true ∧ s.rf
    (R.PIO_GPIOCFG k.val) 5 4 % 2 = 1) ∨ (l = false ∧ 2 ≤ s.rf (R.PIO_GPIOCFG k.val) 5 4)) :=
  ⟨{ power := { phase := .run, d0run := true, strapped := true }, regs := [(R.GLB_STAT, 8), (R.PIO_GPIOCFG 3, 0x10)], pio := { cfgWritten := 8 } }, 3, true, 0, by decide⟩

theorem witness_OutputsAndEncoders_5 : ∃ s : State, ∃ k : Fin 24, (s.rf (R.PIO_GPIOCFG k.val) 5 4 = 0 ∨ s.rb
    (R.PIO_GPIOCFG k.val) 0 = true) :=
  ⟨{ power := { phase := .run, d0run := true }, regs := [(R.GLB_STAT, 8)] }, 3, by decide⟩

theorem witness_OutputsAndEncoders_6 : ∃ s : State, ∃ m : Master, s.reaches m R.PIO_GPIOOUT = true :=
  ⟨{ power := { phase := .run, d0run := true }, regs := [(R.GLB_STAT, 8)] }, .host, by decide⟩

theorem witness_OutputsAndEncoders_7 : ∃ s : State, ∃ m : Master, ∃ k : Fin 24, s.reaches m (R.PIO_GPIOCFG k.val) =
    true :=
  ⟨{ power := { phase := .run, d0run := true }, regs := [(R.GLB_STAT, 8)] }, .host, 3, by decide⟩

theorem witness_OutputsAndEncoders_8 : ∃ s : State, ∃ e : Fin 4, ∃ a : Bool, ∃ b : Bool, s.pioUp = true ∧ s.rf
    (R.PIO_ENCCFG e.val) 1 0 = 3 ∧ (s.pio.encA.getLsbD e.val = a) ≠ (s.pio.encB.getLsbD e.val = b) :=
  ⟨{ power := { phase := .run, d0run := true }, regs := [(R.GLB_STAT, 8), (R.PIO_ENCCFG 2, 3)] }, 2, true, false, by decide⟩

theorem witness_OutputsAndEncoders_9 : ∃ s : State, ∃ e : Fin 4, ∃ a : Bool, ∃ b : Bool, s.pioUp = true ∧ s.rf
    (R.PIO_ENCCFG e.val) 1 0 ≠ 0 ∧ s.pio.encA.getLsbD e.val ≠ a ∧ s.pio.encB.getLsbD e.val ≠ b :=
  ⟨{ power := { phase := .run, d0run := true }, regs := [(R.GLB_STAT, 8), (R.PIO_ENCCFG 2, 3)] }, 2, true, true, by decide⟩

theorem witness_OutputsAndEncoders_10 : ∃ s : State, ∃ e : Fin 4, ∃ a : Bool, s.pioUp = true ∧ (s.rf (R.PIO_ENCCFG
    e.val) 1 0 = 0 ∨ (s.rf (R.PIO_ENCCFG e.val) 1 0 = 2 ∧ s.pio.encA.getLsbD e.val = a)) :=
  ⟨{ power := { phase := .run, d0run := true }, regs := [(R.GLB_STAT, 8)] }, 2, true, by decide⟩

theorem witness_OutputsAndEncoders_11 : ∃ s : State, ∃ e : Fin 4, s.pioUp = true ∧ s.rf (R.PIO_ENCCFG e.val) 1 0 ≠ 0
    :=
  ⟨{ power := { phase := .run, d0run := true }, regs := [(R.GLB_STAT, 8), (R.PIO_ENCCFG 2, 3)] }, 2, by decide⟩

theorem witness_SetpointsAndTheEventMatrix_1 : ∃ s : State, ∃ tag : Half, ∃ c : Cmd, (s.q 36).inflight.find? (fun c
    => c.tag == tag.toNat && !c.started && !c.ended) = some c ∧ s.spBound (c.f 4 1) (c.f 5 1) = true :=
  ⟨{ power := { phase := .run, d0run := true }, regs := [(R.GLB_STAT, 8), (R.PIO_OUT 3, 0x4002)], hri := { queues := [(36, { exists' := true, sqsize := 8, cqsize := 8, inflight := [{ entry := 0x500000000000000070000030100090230 }] })], setpoints := [] }, lehr := { sec := 5 } }, 9, { entry := 0x500000000000000070000030100090230 }, by decide⟩

theorem witness_SetpointsAndTheEventMatrix_2 : ∃ s : State, ∃ tag : Half, ∃ c : Cmd, (s.q 36).inflight.find? (fun c
    => c.tag == tag.toNat && !c.started && !c.ended) = some c ∧ s.spBound (c.f 4 1) (c.f 5 1) = false ∧ c.f 8 8 <
    s.count64.toNat ∧ nbit 2 (c.f 1 1) = false :=
  ⟨{ power := { phase := .run, d0run := true }, regs := [(R.GLB_STAT, 8)], hri := { queues := [(36, { exists' := true, sqsize := 8, cqsize := 8, inflight := [{ entry := 0x500000000000000070000030000090230 }] })], setpoints := [] }, lehr := { sec := 5 } }, 9, { entry := 0x500000000000000070000030000090230 }, by decide⟩

theorem witness_SetpointsAndTheEventMatrix_3 : ∃ s : State, ∃ tag : Half, ∃ c : Cmd, (s.q 36).inflight.find? (fun c
    => c.tag == tag.toNat && !c.started && !c.ended) = some c ∧ s.spBound (c.f 4 1) (c.f 5 1) = false ∧ c.f 8 8 <
    s.count64.toNat ∧ nbit 2 (c.f 1 1) = true :=
  ⟨{ power := { phase := .run, d0run := true }, regs := [(R.GLB_STAT, 8)], hri := { queues := [(36, { exists' := true, sqsize := 8, cqsize := 8, inflight := [{ entry := 0x500000000000000070000030000090630 }] })], setpoints := [] }, lehr := { sec := 5 } }, 9, { entry := 0x500000000000000070000030000090630 }, by decide⟩

theorem witness_SetpointsAndTheEventMatrix_4 : ∃ s : State, ∃ tag : Half, ∃ c : Cmd, (s.q 36).inflight.find? (fun c
    => c.tag == tag.toNat && !c.started && !c.ended) = some c ∧ s.spBound (c.f 4 1) (c.f 5 1) = false ∧
    s.count64.toNat ≤ c.f 8 8 :=
  ⟨{ power := { phase := .run, d0run := true }, regs := [(R.GLB_STAT, 8)], hri := { queues := [(36, { exists' := true, sqsize := 8, cqsize := 8, inflight := [{ entry := 0x5000000000098967f0000030000090230 }] })], setpoints := [] }, lehr := { sec := 5 } }, 9, { entry := 0x5000000000098967f0000030000090230 }, by decide⟩

theorem witness_SetpointsAndTheEventMatrix_5 : ∃ s : State, ∃ tag : Half, ∃ p : Setpoint, firstDue s.count64.toNat
    s.hri.setpoints = some p ∧ p.tag = tag ∧ s.spRuns = true :=
  ⟨{ power := { phase := .run, d0run := true }, regs := [(R.GLB_STAT, 8)], hri := { queues := [(36, { exists' := true, sqsize := 8, cqsize := 8, inflight := [{ entry := 0x500000000000000070000030000090230, started := true }] })], setpoints := [{ tag := 9, kind := 0, index := 3, at' := 7, value := 5 }] }, lehr := { sec := 5 } }, 9, { tag := 9, kind := 0, index := 3, at' := 7, value := 5 }, by decide⟩

theorem witness_SetpointsAndTheEventMatrix_6 : ∃ s : State, (∀ p ∈ s.hri.setpoints, s.count64.toNat < p.at'.toNat)
    :=
  ⟨{}, by decide⟩

theorem witness_SetpointsAndTheEventMatrix_7 : ∃ s : State, ∃ p : Setpoint, p.index < 24 ∧ s.spBound p.kind p.index
    = false ∧ (p.kind = 1 → p.index < 12) :=
  ⟨{}, { tag := 9, kind := 2, index := 3, at' := 7, value := 5 }, by decide⟩

theorem witness_SetpointsAndTheEventMatrix_8 : ∃ p : Setpoint, p.kind = 0 ∧ p.index < 16 :=
  ⟨{ tag := 9, kind := 0, index := 3, at' := 7, value := 5 }, by decide⟩

theorem witness_SetpointsAndTheEventMatrix_9 : ∃ s : State, ∃ hop : Nat, s.evmUp = true ∧ hop < 8 :=
  ⟨{ power := { phase := .run, d0run := true }, regs := [(R.GLB_STAT, 8)] }, 7, by decide⟩

theorem witness_SetpointsAndTheEventMatrix_10 : ∃ s : State, ∃ hop : Nat, s.evmUp = true ∧ 8 ≤ hop :=
  ⟨{ power := { phase := .run, d0run := true }, regs := [(R.GLB_STAT, 8)] }, 8, by decide⟩

theorem witness_SetpointsAndTheEventMatrix_11 : ∃ s : State, ∃ p : Fin 128, ∃ hop : Nat, (s.evmUp = false ∨ (hop < 8
    ∧ ∀ c < 48, s.rb (R.EVM_CCTL c) 0 = false ∨ s.rb (R.EVM_PMASK c (p.val / 32)) (p.val % 32) = false)) :=
  ⟨{}, 3, 0, by decide⟩

theorem witness_SetpointsAndTheEventMatrix_12 : ∃ s : State, ∃ n : Nat, ∃ k : Nat, n < 16 ∧ k < 4 ∧ (s.gated = false
    ∨ 12 ≤ n) :=
  ⟨{}, 3, 1, by decide⟩

theorem witness_SetpointsAndTheEventMatrix_13 : ∃ s : State, ∃ m : Master, s.reaches m R.EVM_SWEV = true :=
  ⟨{ power := { phase := .run, d0run := true }, regs := [(R.GLB_STAT, 8)] }, .host, by decide⟩

theorem witness_SetpointsAndTheEventMatrix_14 : ∃ k : Nat, 64 < k ∧ k < 90 :=
  ⟨83, by decide⟩

theorem witness_TheLehrKeepsTimeAndItsShadows_1 : ∃ s : State, s.counting = true ∧ s.lehr.trim = 0 :=
  ⟨{ power := { phase := .run, d0run := true }, regs := [(R.GLB_STAT, 8)], lehr := { alive := true } }, by decide⟩

theorem witness_TheLehrKeepsTimeAndItsShadows_2 : ∃ s : State, s.counting = false :=
  ⟨{ power := { phase := .backup }, lehr := { xtalOk := false, ckAo := false } }, by decide⟩

theorem witness_TheLehrKeepsTimeAndItsShadows_3 : ∃ s : State, s.counting = true :=
  ⟨{ power := { phase := .run, d0run := true }, regs := [(R.GLB_STAT, 8)], lehr := { alive := true } }, by decide⟩

theorem witness_TheLehrKeepsTimeAndItsShadows_4 : ∃ s : State, ∃ m : Master, ∃ which : TimeWord, ∃ b : Fin 4, ∃ k :
    Nat, s.reaches m (timeWordReg which) = true ∧ 1 ≤ k ∧ b.val + k ≤ 4 ∧ (m = .host ∨ (b.val = 0 ∧ k = 4)) :=
  ⟨{ power := { phase := .run, d0run := true }, regs := [(R.GLB_STAT, 8)], lehr := { alive := true } }, .host, .cnt0, 1, 2, by decide⟩

theorem witness_TheLehrKeepsTimeAndItsShadows_5 : ∃ s : State, s.rf R.LEHR_OFS 17 0 = 0 :=
  ⟨{}, by decide⟩

theorem witness_TheLehrKeepsTimeAndItsShadows_6 : ∃ s : State, s.lehr.alive = false :=
  ⟨{ lehr := { alive := false } }, by decide⟩

theorem witness_TheLehrKeepsTimeAndItsShadows_7 : ∃ s : State, s.lehr.alive = true :=
  ⟨{ lehr := { alive := true } }, by decide⟩

theorem witness_TheLehrIsSetAndFires_1 : ∃ s : State, ∃ m : Master, s.reaches m R.LEHR_CNT0 = true :=
  ⟨{ power := { phase := .run, d0run := true }, regs := [(R.GLB_STAT, 8)], lehr := { alive := true } }, .smbus, by decide⟩

theorem witness_TheLehrIsSetAndFires_2 : ∃ s : State, ∃ m : Master, s.reaches m R.LEHR_CAL0 = true :=
  ⟨{ power := { phase := .run, d0run := true }, regs := [(R.GLB_STAT, 8)], lehr := { alive := true } }, .smbus, by decide⟩

theorem witness_TheLehrIsSetAndFires_3 : ∃ s : State, ∃ m : Master, s.reaches m R.LEHR_CNT1 = true ∧ (s.stage m).cnt
    = none :=
  ⟨{ power := { phase := .run, d0run := true }, regs := [(R.GLB_STAT, 8)], lehr := { alive := true } }, .smbus, by decide⟩

theorem witness_TheLehrIsSetAndFires_4 : ∃ s : State, ∃ m : Master, ∃ l : Word, s.reaches m R.LEHR_CNT1 = true ∧
    (s.stage m).cnt = some l :=
  ⟨{ power := { phase := .run, d0run := true }, regs := [(R.GLB_STAT, 8)], lehr := { alive := true, staged := [(17, { cnt := some 0x8000 })] } }, .smbus, 0x8000, by decide⟩

theorem witness_TheLehrIsSetAndFires_5 : ∃ s : State, ∃ m : Master, s.reaches m R.LEHR_CAL1 = true ∧ (s.stage m).cal
    = none :=
  ⟨{ power := { phase := .run, d0run := true }, regs := [(R.GLB_STAT, 8)], lehr := { alive := true } }, .smbus, by decide⟩

theorem witness_TheLehrIsSetAndFires_6 : ∃ s : State, ∃ m : Master, ∃ w : Word, ∃ l : Word, s.reaches m R.LEHR_CAL1
    = true ∧ (s.stage m).cal = some l ∧ s.calCount l w = none :=
  ⟨{ power := { phase := .run, d0run := true }, regs := [(R.GLB_STAT, 8)], lehr := { alive := true, staged := [(17, { cal := some 0 })] } }, .smbus, 5, 0, by decide⟩

theorem witness_TheLehrIsSetAndFires_7 : ∃ s : State, ∃ m : Master, ∃ w : Word, ∃ l : Word, ∃ n : Nat, s.reaches m
    R.LEHR_CAL1 = true ∧ (s.stage m).cal = some l ∧ s.calCount l w = some n :=
  ⟨{ power := { phase := .run, d0run := true }, regs := [(R.GLB_STAT, 8)], lehr := { alive := true, staged := [(17, { cal := some 0x1D000000 })] } }, .smbus, 0x7D002, 0x1D000000, 5097600, by decide⟩

theorem witness_TheLehrIsSetAndFires_8 : ∃ s : State, ∃ m : Master, ∃ w : Word, s.reaches m R.LEHR_CTL = true ∧ bit
    0 w = true ∧ bit 1 w = false ∧ s.rb R.LEHR_OFS 31 = false ∧ -64800 ≤ s.offset ∧ s.offset + 3600 ≤ 64800 :=
  ⟨{ power := { phase := .run, d0run := true }, regs := [(R.GLB_STAT, 8)], lehr := { alive := true } }, .smbus, 1, by decide⟩

theorem witness_TheLehrIsSetAndFires_9 : ∃ s : State, ∃ m : Master, ∃ w : Word, s.reaches m R.LEHR_CTL = true ∧ bit
    0 w = true ∧ bit 1 w = false ∧ s.rb R.LEHR_OFS 31 = true :=
  ⟨{ power := { phase := .run, d0run := true }, regs := [(R.GLB_STAT, 8), (R.LEHR_OFS, 0x80000000)], lehr := { alive := true } }, .smbus, 1, by decide⟩

theorem witness_TheLehrIsSetAndFires_10 : ∃ s : State, ∃ m : Master, ∃ w : Word, s.reaches m R.LEHR_CTL = true ∧ bit
    0 w = true ∧ bit 1 w = false ∧ s.rb R.LEHR_OFS 31 = false ∧ 64800 < s.offset + 3600 :=
  ⟨{ power := { phase := .run, d0run := true }, regs := [(R.GLB_STAT, 8), (R.LEHR_OFS, 64000)], lehr := { alive := true } }, .smbus, 1, by decide⟩

theorem witness_TheLehrIsSetAndFires_11 : ∃ s : State, ∃ m : Master, ∃ w : Word, s.reaches m R.LEHR_CTL = true ∧ bit
    1 w = true ∧ bit 0 w = false ∧ s.rb R.LEHR_OFS 31 = true ∧ s.offset ≤ 64800 ∧ -64800 ≤ s.offset - 3600 :=
  ⟨{ power := { phase := .run, d0run := true }, regs := [(R.GLB_STAT, 8), (R.LEHR_OFS, 0x80000000)], lehr := { alive := true } }, .smbus, 2, by decide⟩

theorem witness_TheLehrIsSetAndFires_12 : ∃ s : State, ∃ m : Master, ∃ w : Word, s.reaches m R.LEHR_CTL = true ∧ bit
    1 w = true ∧ bit 0 w = false ∧ s.rb R.LEHR_OFS 31 = false :=
  ⟨{ power := { phase := .run, d0run := true }, regs := [(R.GLB_STAT, 8)], lehr := { alive := true } }, .smbus, 2, by decide⟩

theorem witness_TheLehrIsSetAndFires_13 : ∃ s : State, ∃ m : Master, ∃ w : Word, s.reaches m R.LEHR_CTL = true ∧ bit
    1 w = true ∧ bit 0 w = false ∧ s.rb R.LEHR_OFS 31 = true ∧ s.offset - 3600 < -64800 :=
  ⟨{ power := { phase := .run, d0run := true }, regs := [(R.GLB_STAT, 8), (R.LEHR_OFS, 0x80030601)], lehr := { alive := true } }, .smbus, 2, by decide⟩

theorem witness_TheLehrIsSetAndFires_14 : ∃ s : State, ∃ m : Master, s.reaches m R.LEHR_ALM1 = true :=
  ⟨{ power := { phase := .run, d0run := true }, regs := [(R.GLB_STAT, 8)], lehr := { alive := true } }, .smbus, by decide⟩

theorem witness_TheLehrIsSetAndFires_15 : ∃ s : State, s.lehr.alive = true ∧ s.rb R.LEHR_ALM1 31 = true ∧
    s.lehr.alarm.toNat ≤ s.count64.toNat :=
  ⟨{ power := { phase := .run, d0run := true }, regs := [(R.GLB_STAT, 8), (R.LEHR_ALM1, 0x80000000)], lehr := { alive := true } }, by decide⟩

theorem witness_TheLehrIsSetAndFires_16 : ∃ s : State, (s.rb R.LEHR_ALM1 31 = false ∨ s.count64.toNat <
    s.lehr.alarm.toNat) :=
  ⟨{}, by decide⟩

theorem witness_TheLehrIsSetAndFires_17 : ∃ s : State, ∃ m : Master, ∃ w : Word, s.reaches m R.LEHR_PER = true ∧
    (bit 25 w = false ∨ fld 23 0 w ≠ 0) :=
  ⟨{ power := { phase := .run, d0run := true }, regs := [(R.GLB_STAT, 8)], lehr := { alive := true } }, .smbus, 5, by decide⟩

theorem witness_TheLehrIsSetAndFires_18 : ∃ s : State, ∃ m : Master, ∃ w : Word, s.reaches m R.LEHR_PER = true ∧ bit
    25 w = true ∧ fld 23 0 w = 0 :=
  ⟨{ power := { phase := .run, d0run := true }, regs := [(R.GLB_STAT, 8)], lehr := { alive := true } }, .smbus, 0x2000000, by decide⟩

theorem witness_TheLehrIsSetAndFires_19 : ∃ s : State, s.counting = true ∧ s.rb R.LEHR_PER 25 = true :=
  ⟨{ power := { phase := .run, d0run := true }, regs := [(R.GLB_STAT, 8), (R.LEHR_PER, 0x2000001)], lehr := { alive := true } }, by decide⟩

theorem witness_TheLehrIsSetAndFires_20 : ∃ s : State, (s.counting = false ∨ s.rb R.LEHR_PER 25 = false) :=
  ⟨{}, by decide⟩

theorem witness_TheLehrIsSetAndFires_21 : ∃ s : State, ∃ m : Master, ∃ w : Word, s.reaches m R.LEHR_CTL = true ∧ bit
    2 w = true ∧ fld 31 16 w = 0x4C4B ∧ (bit 0 w = false ∨ bit 1 w = false) :=
  ⟨{ power := { phase := .run, d0run := true }, regs := [(R.GLB_STAT, 8), (R.LEHR_CHG, 1)], lehr := { alive := true } }, .smbus, 0x4C4B0004, by decide⟩

theorem witness_TheLehrIsSetAndFires_22 : ∃ s : State, ∃ m : Master, ∃ w : Word, s.reaches m R.LEHR_CTL = true ∧ bit
    2 w = true ∧ fld 31 16 w ≠ 0x4C4B :=
  ⟨{ power := { phase := .run, d0run := true }, regs := [(R.GLB_STAT, 8), (R.LEHR_CHG, 1)], lehr := { alive := true } }, .smbus, 4, by decide⟩

theorem witness_TheLehrIsSetAndFires_23 : ∃ s : State, s.power.phase ≠ .backup ∧ s.rb R.LEHR_CTL 3 = false ∧
    s.lehr.alive = true :=
  ⟨{ power := { phase := .run, d0run := true }, regs := [(R.GLB_STAT, 8)], lehr := { alive := true } }, by decide⟩

theorem witness_TheLehrIsSetAndFires_24 : ∃ s : State, (s.power.phase = .backup ∨ s.rb R.LEHR_CTL 3 = true) :=
  ⟨{ power := { phase := .backup } }, by decide⟩

theorem witness_CodeFlashFollowsItsSequence_1 : ∃ s : State, ∃ m : Master, ∃ w : Word, s.reaches m R.CFL_UNLOCK =
    true ∧ s.flash.owner = none ∧ fld 15 0 w = 0xAA55 :=
  ⟨{ power := { phase := .run, d0run := true }, regs := [(R.GLB_STAT, 8)], flash := {  } }, .smbus, 0xAA55, by decide⟩

theorem witness_CodeFlashFollowsItsSequence_2 : ∃ s : State, ∃ m : Master, ∃ w : Word, s.reaches m R.CFL_UNLOCK =
    true ∧ s.flash.owner = some m ∧ s.flash.step = .unlocked1 ∧ fld 15 0 w = 0x55AA :=
  ⟨{ power := { phase := .run, d0run := true }, regs := [(R.GLB_STAT, 8)], flash := { owner := some .smbus, step := .unlocked1 } }, .smbus, 0x55AA, by decide⟩

theorem witness_CodeFlashFollowsItsSequence_3 : ∃ s : State, ∃ m : Master, ∃ w : Word, s.reaches m R.CFL_UNLOCK =
    true ∧ ((s.flash.owner = none ∧ fld 15 0 w ≠ 0xAA55) ∨ (s.flash.owner = some m ∧ s.flash.step = .unlocked1 ∧ fld
    15 0 w ≠ 0x55AA)) :=
  ⟨{ power := { phase := .run, d0run := true }, regs := [(R.GLB_STAT, 8)], flash := {  } }, .smbus, 0, by decide⟩

theorem witness_CodeFlashFollowsItsSequence_4 : ∃ s : State, ∃ m : Master, ∃ o : Master, ∃ r : CflReg, s.reaches m
    (cflRegAt r) = true ∧ s.flash.owner = some o ∧ o ≠ m :=
  ⟨{ power := { phase := .run, d0run := true }, regs := [(R.GLB_STAT, 8)], flash := { owner := some .host } }, .smbus, .host, .cmd, by decide⟩

theorem witness_CodeFlashFollowsItsSequence_5 : ∃ s : State, ∃ m : Master, s.reaches m R.CFL_CMD = true ∧
    s.flash.owner = some m ∧ s.flash.step = .unlocked2 :=
  ⟨{ power := { phase := .run, d0run := true }, regs := [(R.GLB_STAT, 8)], flash := { owner := some .smbus, step := .unlocked2 } }, .smbus, by decide⟩

theorem witness_CodeFlashFollowsItsSequence_6 : ∃ s : State, ∃ m : Master, ∃ e : Bool, s.reaches m R.CFL_ADDR = true
    ∧ s.flash.owner = some m ∧ s.flash.step = .haveCmd e :=
  ⟨{ power := { phase := .run, d0run := true }, regs := [(R.GLB_STAT, 8)], flash := { owner := some .smbus, step := .haveCmd false } }, .smbus, false, by decide⟩

theorem witness_CodeFlashFollowsItsSequence_7 : ∃ s : State, ∃ m : Master, ∃ i : Fin 4, s.reaches m (R.CFL_DATA
    i.val) = true ∧ s.flash.owner = some m ∧ (if i.val = 0 then s.flash.step = .haveAddr else s.flash.step =
    .haveData i.val) :=
  ⟨{ power := { phase := .run, d0run := true }, regs := [(R.GLB_STAT, 8)], flash := { owner := some .smbus, step := .haveAddr } }, .smbus, 0, by decide⟩

theorem witness_CodeFlashFollowsItsSequence_8 : ∃ s : State, ∃ c : Nat, s.flash.step = .started false ∧ s.flashUp =
    true ∧ s.programCheck s.flash.addr = some c :=
  ⟨{ power := { phase := .run, d0run := true }, regs := [(R.GLB_STAT, 8)], flash := { owner := some .smbus, step := .started false } }, 3, by decide⟩

theorem witness_CodeFlashFollowsItsSequence_9 : ∃ s : State, s.flash.step = .started false ∧ s.flashUp = true ∧
    s.programCheck s.flash.addr = none :=
  ⟨{ power := { phase := .run, d0run := true }, regs := [(R.GLB_STAT, 8)], flash := { owner := some .smbus, step := .started false, addr := 0x10000 } }, by decide⟩

theorem witness_CodeFlashFollowsItsSequence_10 : ∃ s : State, ∃ c : Nat, s.flash.step = .started true ∧ s.flashUp =
    true ∧ s.eraseCheck s.flash.addr = some c :=
  ⟨{ power := { phase := .run, d0run := true }, regs := [(R.GLB_STAT, 8)], flash := { owner := some .smbus, step := .started true } }, 3, by decide⟩

theorem witness_CodeFlashFollowsItsSequence_11 : ∃ s : State, s.flash.step = .started true ∧ s.flashUp = true ∧
    s.eraseCheck s.flash.addr = none :=
  ⟨{ power := { phase := .run, d0run := true }, regs := [(R.GLB_STAT, 8)], flash := { owner := some .smbus, step := .started true, addr := 0x10000 } }, by decide⟩

theorem witness_CodeFlashFollowsItsSequence_12 : ∃ s : State, s.flash.programming.isSome = true :=
  ⟨{ power := { phase := .run, d0run := true }, regs := [(R.GLB_STAT, 8)], flash := { programming := some 5 } }, by decide⟩

theorem witness_CodeFlashFollowsItsSequence_13 : ∃ s : State, ∃ k : Nat, s.flash.programming = none ∧
    s.flash.erasing = some k ∧ s.flash.suspended = false :=
  ⟨{ power := { phase := .run, d0run := true }, regs := [(R.GLB_STAT, 8)], flash := { erasing := some 20 } }, 20, by decide⟩

theorem witness_CodeFlashFollowsItsSequence_14 : ∃ s : State, ∃ l : Nat, s.flash.programming = some l :=
  ⟨{ power := { phase := .run, d0run := true }, regs := [(R.GLB_STAT, 8)], flash := { programming := some 5 } }, 5, by decide⟩

theorem witness_CodeFlashFollowsItsSequence_15 : ∃ s : State, s.flash.programming = none ∧ s.flash.erasing = none :=
  ⟨{ power := { phase := .run, d0run := true }, regs := [(R.GLB_STAT, 8)], flash := {  } }, by decide⟩

theorem witness_CodeFlashFollowsItsSequence_16 : ∃ s : State, (∀ h ∈ s.link.held, s.blocked h = true) :=
  ⟨{ power := { phase := .run, d0run := true }, regs := [(R.GLB_STAT, 8)], flash := {  } }, fun _ h => absurd h (by simp)⟩

theorem witness_CodeFlashFollowsItsSequence_17 : ∃ s : State, ∃ h : HeldAccess, ∃ r : List HeldAccess, s.link.held =
    h :: r ∧ s.blocked h = false :=
  ⟨{ power := { phase := .run, d0run := true }, regs := [(R.GLB_STAT, 8)], flash := {  }, link := { held := [⟨.host, false, 0x108000, 4, 0⟩] } }, ⟨.host, false, 0x108000, 4, 0⟩, [], by decide⟩

theorem witness_CodeFlashFollowsItsSequence_18 : ∃ s : State, ∃ k : Nat, s.flash.erasing = some k ∧
    s.flash.suspended = false :=
  ⟨{ power := { phase := .run, d0run := true }, regs := [(R.GLB_STAT, 8)], flash := { erasing := some 20 } }, 20, by decide⟩

theorem witness_CodeFlashFollowsItsSequence_19 : ∃ s : State, ∃ m : Master, ∃ w : Word, s.reaches m R.CFL_CTL = true
    ∧ bit 0 w = true ∧ bit 1 w = false ∧ s.flash.erasing.isSome = true ∧ s.flash.suspended = false :=
  ⟨{ power := { phase := .run, d0run := true }, regs := [(R.GLB_STAT, 8)], flash := { erasing := some 20 } }, .smbus, 1, by decide⟩

theorem witness_CodeFlashFollowsItsSequence_20 : ∃ s : State, ∃ m : Master, ∃ w : Word, s.reaches m R.CFL_CTL = true
    ∧ bit 0 w = false ∧ bit 1 w = true ∧ s.flash.erasing.isSome = true ∧ s.flash.suspended = true ∧
    s.flash.programming = none :=
  ⟨{ power := { phase := .run, d0run := true }, regs := [(R.GLB_STAT, 8)], flash := { erasing := some 20, suspended := true } }, .smbus, 2, by decide⟩

theorem witness_CodeFlashFollowsItsSequence_21 : ∃ s : State, ∃ m : Master, ∃ w : Word, s.reaches m R.CFL_CTL = true
    ∧ bit 0 w = true ∧ bit 1 w = true :=
  ⟨{ power := { phase := .run, d0run := true }, regs := [(R.GLB_STAT, 8)], flash := { erasing := some 20 } }, .smbus, 3, by decide⟩

theorem witness_CodeFlashFollowsItsSequence_22 : ∃ s : State, ∃ m : Master, ∃ n : Nat, ∃ b : Fin 4, ∃ k : Nat, ∃ a :
    Nat, n < 8192 ∧ s.reaches m (0x108000 + (4 * n + b.val)) = true ∧ s.rf R.CFL_APBASE 7 0 * 32768 + 4 * n = a ∧
    s.lineBusy (0x108000 + 4 * n) = false ∧ 1 ≤ k ∧ b.val + k ≤ 4 ∧ (m = .host ∨ (b.val = 0 ∧ k = 4)) ∧
    s.flash.erasing ≠ some (sectorOf a) :=
  ⟨{ power := { phase := .run, d0run := true }, regs := [(R.GLB_STAT, 8)], flash := {  } }, .host, 1, 1, 2, 4, by decide⟩

theorem witness_CodeFlashFollowsItsSequence_23 : ∃ s : State, ∃ m : Master, ∃ n : Nat, ∃ b : Fin 4, ∃ k : Nat, ∃ a :
    Nat, n < 8192 ∧ s.reaches m (0x108000 + (4 * n + b.val)) = true ∧ s.rf R.CFL_APBASE 7 0 * 32768 + 4 * n = a ∧
    s.lineBusy (0x108000 + 4 * n) = false ∧ 1 ≤ k ∧ b.val + k ≤ 4 ∧ (m = .host ∨ (b.val = 0 ∧ k = 4)) ∧
    s.flash.erasing = some (sectorOf a) :=
  ⟨{ power := { phase := .run, d0run := true }, regs := [(R.GLB_STAT, 8)], flash := { erasing := some 0 } }, .host, 1, 1, 2, 4, by decide⟩

theorem witness_CodeFlashFollowsItsSequence_24 : ∃ s : State, ∃ m : Master, ∃ n : Nat, ∃ b : Fin 4, ∃ k : Nat, ∃ a :
    Nat, n < 8192 ∧ s.reaches m (0x108000 + (4 * n + b.val)) = true ∧ s.rf R.CFL_APBASE 7 0 * 32768 + 4 * n = a ∧
    s.lineBusy (0x108000 + 4 * n) = false ∧ 1 ≤ k ∧ b.val + k ≤ 4 ∧ (m = .host ∨ (b.val = 0 ∧ k = 4)) ∧
    s.flash.erasing ≠ some (sectorOf a) ∧ s.lineErased a = false :=
  ⟨{ power := { phase := .run, d0run := true }, regs := [(R.GLB_STAT, 8)], flash := {  } }, .host, 1, 1, 2, 4, by decide⟩

theorem witness_CodeFlashFollowsItsSequence_25 : ∃ s : State, ∃ m : Master, ∃ n : Nat, ∃ b : Fin 4, ∃ k : Nat, ∃ a :
    Nat, n < 8192 ∧ s.reaches m (0x108000 + (4 * n + b.val)) = true ∧ s.rf R.CFL_APBASE 7 0 * 32768 + 4 * n = a ∧
    s.lineBusy (0x108000 + 4 * n) = false ∧ 1 ≤ k ∧ b.val + k ≤ 4 ∧ (m = .host ∨ (b.val = 0 ∧ k = 4)) ∧
    s.flash.erasing ≠ some (sectorOf a) ∧ s.lineErased a = true ∧ a % 4 = 0 :=
  ⟨{ power := { phase := .run, d0run := true }, regs := [(R.GLB_STAT, 8), (R.CFL_APBASE, 2)], flash := {  } }, .host, 1, 1, 2, 65540, by decide⟩

theorem witness_CodeFlashFollowsItsSequence_26 : ∃ s : State, ∃ m : Master, ∃ n : Nat, ∃ b : Fin 4, ∃ k : Nat, n <
    8192 ∧ s.masterUp m = true ∧ s.lineBusy (0x108000 + 4 * n) = true ∧ 1 ≤ k ∧ b.val + k ≤ 4 ∧ (m = .host ∨ (b.val
    = 0 ∧ k = 4)) :=
  ⟨{ power := { phase := .run, d0run := true }, regs := [(R.GLB_STAT, 8)], flash := { programming := some 0 } }, .host, 1, 1, 2, by decide⟩

theorem witness_ServiceFramesAreCheckedAndRepeated_1 : ∃ s : State, ∃ b : List Byte, (s.portUp = false ∨ b.head? ≠
    some 0x4B) :=
  ⟨{}, [], by decide⟩

theorem witness_ServiceFramesAreCheckedAndRepeated_2 : ∃ s : State, ∃ l : List Byte, s.portUp = true ∧ (l.length <
    12 + arg l 6 2 ∨ l.take 3 ≠ [0x4B, 0x53, 1]) :=
  ⟨{ power := { phase := .run, d0run := true, ckref := true }, regs := [(R.GLB_STAT, 8)], svc := {  } }, [], by decide⟩

theorem witness_ServiceFramesAreCheckedAndRepeated_3 : ∃ s : State, ∃ h : List Byte, ∃ p : List Byte, s.portUp =
    true ∧ h.length = 8 ∧ h.take 3 = [0x4B, 0x53, 1] ∧ arg h 6 2 = p.length ∧ s.svc.exec.isSome = true :=
  ⟨{ power := { phase := .run, d0run := true, ckref := true }, regs := [(R.GLB_STAT, 8)], svc := { exec := some [] } }, [0x4b, 0x53, 1, 0, 1, 0, 0, 0], [], by decide⟩

theorem witness_ServiceFramesAreCheckedAndRepeated_4 : ∃ s : State, ∃ h : List Byte, ∃ p : List Byte, s.portUp =
    true ∧ h.length = 8 ∧ h.take 3 = [0x4B, 0x53, 1] ∧ arg h 6 2 = p.length ∧ s.svc.exec = none ∧ 4160 < p.length :=
  ⟨{ power := { phase := .run, d0run := true, ckref := true }, regs := [(R.GLB_STAT, 8)], svc := {  } }, [0x4b, 0x53, 1, 0, 1, 0, 0x41, 0x10], List.replicate 4161 0, by decide⟩

theorem witness_ServiceFramesAreCheckedAndRepeated_5 : ∃ s : State, ∃ h : List Byte, ∃ p : List Byte, ∃ c : Nat,
    s.portUp = true ∧ h.length = 8 ∧ h.take 3 = [0x4B, 0x53, 1] ∧ arg h 6 2 = p.length ∧ s.svc.exec = none ∧
    p.length ≤ 4160 ∧ c < 2 ^ 32 ∧ c ≠ (crc32 (h ++ p)).toNat :=
  ⟨{ power := { phase := .run, d0run := true, ckref := true }, regs := [(R.GLB_STAT, 8)], svc := {  } }, [0x4b, 0x53, 1, 0, 1, 0, 0, 0], [], 0, by decide⟩

theorem witness_ServiceFramesAreCheckedAndRepeated_6 : ∃ s : State, ∃ h : List Byte, ∃ p : List Byte, s.portUp =
    true ∧ h.length = 8 ∧ h.take 3 = [0x4B, 0x53, 1] ∧ arg h 6 2 = p.length ∧ s.svc.exec = none ∧ p.length ≤ 4160 ∧
    arg h 3 1 % 2 = 0 ∧ ((arg p 0 1 = 1 ∧ p ≠ []) ∨ (s.svc.heldSeq.isSome = true ∧ s.svc.heldSeq.map (· + 1) = some
    (BitVec.ofNat 16 (arg h 4 2)) ∧ s.rb R.SVC_CTL 0 = false)) ∧ svcCodes.contains (arg p 0 1) = true ∧ argsOk p =
    true ∧ s.keys.scrapped = false :=
  ⟨{ power := { phase := .run, d0run := true, ckref := true }, regs := [(R.GLB_STAT, 8)], svc := {  } }, [0x4b, 0x53, 1, 0, 1, 0, 1, 0], [1], by decide⟩

theorem witness_ServiceFramesAreCheckedAndRepeated_7 : ∃ s : State, ∃ h : List Byte, ∃ p : List Byte, ∃ st : Nat,
    s.portUp = true ∧ h.length = 8 ∧ h.take 3 = [0x4B, 0x53, 1] ∧ arg h 6 2 = p.length ∧ s.svc.exec = none ∧
    p.length ≤ 4160 ∧ arg h 3 1 % 2 = 0 ∧ ((arg p 0 1 = 1 ∧ p ≠ []) ∨ (s.svc.heldSeq.isSome = true ∧
    s.svc.heldSeq.map (· + 1) = some (BitVec.ofNat 16 (arg h 4 2)) ∧ s.rb R.SVC_CTL 0 = false)) ∧ (svcCodes.contains
    (arg p 0 1) = false ∧ st = 1 ∨ (svcCodes.contains (arg p 0 1) = true ∧ argsOk p = false) ∧ st = 2 ∨
    (svcCodes.contains (arg p 0 1) = true ∧ argsOk p = true ∧ s.keys.scrapped = true ∧ scrapServes p = false) ∧ st =
    3) :=
  ⟨{ power := { phase := .run, d0run := true, ckref := true }, regs := [(R.GLB_STAT, 8)], svc := { heldSeq := some 0 } }, [0x4b, 0x53, 1, 0, 1, 0, 1, 0], [9], 1, by decide⟩

theorem witness_ServiceFramesAreCheckedAndRepeated_8 : ∃ s : State, ∃ h : List Byte, ∃ p : List Byte, s.portUp =
    true ∧ h.length = 8 ∧ h.take 3 = [0x4B, 0x53, 1] ∧ arg h 6 2 = p.length ∧ s.svc.exec = none ∧ p.length ≤ 4160 ∧
    arg h 3 1 % 2 = 0 ∧ arg p 0 1 ≠ 1 ∧ s.svc.heldSeq = some (BitVec.ofNat 16 (arg h 4 2)) :=
  ⟨{ power := { phase := .run, d0run := true, ckref := true }, regs := [(R.GLB_STAT, 8)], svc := { heldSeq := some 1 } }, [0x4b, 0x53, 1, 0, 1, 0, 1, 0], [2], by decide⟩

theorem witness_ServiceFramesAreCheckedAndRepeated_9 : ∃ s : State, ∃ h : List Byte, ∃ p : List Byte, s.portUp =
    true ∧ h.length = 8 ∧ h.take 3 = [0x4B, 0x53, 1] ∧ arg h 6 2 = p.length ∧ s.svc.exec = none ∧ p.length ≤ 4160 ∧
    arg h 3 1 % 2 = 0 ∧ arg p 0 1 ≠ 1 ∧ s.svc.heldSeq ≠ some (BitVec.ofNat 16 (arg h 4 2)) ∧ s.svc.heldSeq.map (· +
    1) ≠ some (BitVec.ofNat 16 (arg h 4 2)) :=
  ⟨{ power := { phase := .run, d0run := true, ckref := true }, regs := [(R.GLB_STAT, 8)], svc := { heldSeq := some 1 } }, [0x4b, 0x53, 1, 0, 7, 0, 1, 0], [2], by decide⟩

theorem witness_ServiceFramesAreCheckedAndRepeated_10 : ∃ s : State, ∃ h : List Byte, ∃ p : List Byte, s.portUp =
    true ∧ h.length = 8 ∧ h.take 3 = [0x4B, 0x53, 1] ∧ arg h 6 2 = p.length ∧ s.svc.exec = none ∧ p.length ≤ 4160 ∧
    arg h 3 1 % 2 = 0 ∧ arg p 0 1 ≠ 1 ∧ arg p 0 1 ≠ 2 ∧ arg p 0 1 ≠ 0x30 ∧ s.svc.heldSeq.map (· + 1) = some
    (BitVec.ofNat 16 (arg h 4 2)) ∧ s.rb R.SVC_CTL 0 = true :=
  ⟨{ power := { phase := .run, d0run := true, ckref := true }, regs := [(R.GLB_STAT, 8), (R.SVC_CTL, 1)], svc := { heldSeq := some 0 } }, [0x4b, 0x53, 1, 0, 1, 0, 1, 0], [3], by decide⟩

theorem witness_ServiceFramesAreCheckedAndRepeated_11 : ∃ s : State, ∃ p : List Byte, ∃ q : Half, s.svc.exec = some
    p ∧ s.svc.session = none ∧ s.svc.heldSeq = some q :=
  ⟨{ power := { phase := .run, d0run := true, ckref := true }, regs := [(R.GLB_STAT, 8)], svc := { exec := some [2], heldSeq := some 7 } }, [2], 7, by decide⟩

theorem witness_ServiceFramesAreCheckedAndRepeated_12 : ∃ s : State, ∃ q : Half, s.svc.heldSeq = some q :=
  ⟨{ power := { phase := .run, d0run := true, ckref := true }, regs := [(R.GLB_STAT, 8)], svc := { heldSeq := some 7 } }, 7, by decide⟩

theorem witness_ServiceFramesAreCheckedAndRepeated_13 : ∃ s : State, s.portUp = true :=
  ⟨{ power := { phase := .run, d0run := true, ckref := true }, regs := [(R.GLB_STAT, 8)], svc := { stored := true, response := [7] } }, by decide⟩

theorem witness_ServiceFramesAreCheckedAndRepeated_14 : ∃ s : State, s.portUp = false :=
  ⟨{}, by decide⟩

theorem witness_TheLoaderAnswersItsCommands_1 : ∃ s : State, ∃ p : List Byte, s.masterUp .svc = true ∧ s.svc.exec =
    some p ∧ arg p 0 1 = 1 :=
  ⟨{ power := { phase := .run, d0run := true, ckref := true }, regs := [(R.GLB_STAT, 8)], svc := { exec := some [1], heldSeq := some 1 } }, [1], by decide⟩

theorem witness_TheLoaderAnswersItsCommands_2 : ∃ s : State, ∃ p : List Byte, s.masterUp .svc = true ∧ s.svc.exec =
    some p ∧ arg p 0 1 = 2 :=
  ⟨{ power := { phase := .run, d0run := true, ckref := true }, regs := [(R.GLB_STAT, 8)], svc := { exec := some [2], heldSeq := some 1 } }, [2], by decide⟩

theorem witness_TheLoaderAnswersItsCommands_3 : ∃ s : State, ∃ p : List Byte, ∃ v : Word, s.masterUp .svc = true ∧
    s.svc.exec = some p ∧ arg p 0 1 = 3 ∧ (touched (arg p 4 4) (4 * arg p 8 4)).any s.lineBusy = false ∧ arg p 8 4 =
    1 ∧ s.svcError (arg p 4 4) = false ∧ (s.busRead .svc (arg p 4 4) .clean).1 = some v :=
  ⟨{ power := { phase := .run, d0run := true, ckref := true }, regs := [(R.GLB_STAT, 8)], svc := { exec := some [3, 0, 0, 0, 8, 0, 7, 0, 1, 0, 0, 0], heldSeq := some 1 } }, [3, 0, 0, 0, 8, 0, 7, 0, 1, 0, 0, 0], 0xD3EA0, by decide⟩

theorem witness_TheLoaderAnswersItsCommands_4 : ∃ s : State, ∃ p : List Byte, s.masterUp .svc = true ∧ s.svc.exec =
    some p ∧ arg p 0 1 = 3 ∧ (touched (arg p 4 4) (4 * arg p 8 4)).any s.lineBusy = false ∧ arg p 8 4 = 1 ∧
    s.svcError (arg p 4 4) = false ∧ (s.busRead .svc (arg p 4 4) .clean).1 = none :=
  ⟨{ power := { phase := .run, d0run := true, ckref := true }, regs := [(R.GLB_STAT, 8), (R.PWR_STAT, 2)], svc := { exec := some [3, 0, 0, 0, 0, 0x13, 0x12, 0, 1, 0, 0, 0], heldSeq := some 1 } }, [3, 0, 0, 0, 0, 0x13, 0x12, 0, 1, 0, 0, 0], by decide⟩

theorem witness_TheLoaderAnswersItsCommands_5 : ∃ s : State, ∃ p : List Byte, s.masterUp .svc = true ∧ s.svc.exec =
    some p ∧ arg p 0 1 = 3 ∧ (touched (arg p 4 4) (4 * arg p 8 4)).any s.lineBusy = false ∧ arg p 8 4 = 1 ∧
    s.svcError (arg p 4 4) = true :=
  ⟨{ power := { phase := .run, d0run := true, ckref := true }, regs := [(R.GLB_STAT, 8)], svc := { exec := some [3, 0, 0, 0, 0, 0, 0x15, 0, 1, 0, 0, 0], heldSeq := some 1 } }, [3, 0, 0, 0, 0, 0, 0x15, 0, 1, 0, 0, 0], by decide⟩

theorem witness_TheLoaderAnswersItsCommands_6 : ∃ s : State, ∃ p : List Byte, s.masterUp .svc = true ∧ s.svc.exec =
    some p ∧ arg p 0 1 = 3 ∧ (touched (arg p 4 4) (4 * arg p 8 4)).any s.lineBusy = true :=
  ⟨{ power := { phase := .run, d0run := true, ckref := true }, regs := [(R.GLB_STAT, 8)], svc := { exec := some [3, 0, 0, 0, 0, 0x80, 0x10, 0, 1, 0, 0, 0], heldSeq := some 1 }, flash := { programming := some 0 } }, [3, 0, 0, 0, 0, 0x80, 0x10, 0, 1, 0, 0, 0], by decide⟩

theorem witness_TheLoaderAnswersItsCommands_7 : ∃ s : State, ∃ p : List Byte, s.masterUp .svc = true ∧ s.svc.exec =
    some p ∧ arg p 0 1 = 4 ∧ arg p 8 4 = 1 ∧ s.svcError (arg p 4 4) = false ∧ s.refusedAt (arg p 4 4) = false :=
  ⟨{ power := { phase := .run, d0run := true, ckref := true }, regs := [(R.GLB_STAT, 8)], svc := { exec := some [4, 0, 0, 0, 8, 0, 7, 0, 1, 0, 0, 0, 5, 0, 0, 0], heldSeq := some 1 } }, [4, 0, 0, 0, 8, 0, 7, 0, 1, 0, 0, 0, 5, 0, 0, 0], by decide⟩

theorem witness_TheLoaderAnswersItsCommands_8 : ∃ s : State, ∃ p : List Byte, s.masterUp .svc = true ∧ s.svc.exec =
    some p ∧ arg p 0 1 = 4 ∧ arg p 8 4 = 1 ∧ (s.svcError (arg p 4 4) = true ∨ s.refusedAt (arg p 4 4) = true) :=
  ⟨{ power := { phase := .run, d0run := true, ckref := true }, regs := [(R.GLB_STAT, 8)], svc := { exec := some [4, 0, 0, 0, 0, 0, 0x15, 0, 1, 0, 0, 0, 5, 0, 0, 0], heldSeq := some 1 } }, [4, 0, 0, 0, 0, 0, 0x15, 0, 1, 0, 0, 0, 5, 0, 0, 0], by decide⟩

theorem witness_TheLoaderAnswersItsCommands_9 : ∃ s : State, ∃ p : List Byte, s.masterUp .svc = true ∧ s.svc.exec =
    some p ∧ arg p 0 1 = 0x10 ∧ s.programmingIn (arg p 4 4) (arg p 8 4) = false ∧ s.flash.erasing = none :=
  ⟨{ power := { phase := .run, d0run := true, ckref := true }, regs := [(R.GLB_STAT, 8)], svc := { exec := some [0x10, 0, 0, 0, 0, 0, 1, 0, 0x10, 0, 0, 0], heldSeq := some 1 } }, [0x10, 0, 0, 0, 0, 0, 1, 0, 0x10, 0, 0, 0], by decide⟩

theorem witness_TheLoaderAnswersItsCommands_10 : ∃ s : State, ∃ p : List Byte, s.masterUp .svc = true ∧ s.svc.exec =
    some p ∧ arg p 0 1 = 0x10 ∧ s.programmingIn (arg p 4 4) (arg p 8 4) = false ∧ 4 ≤ arg p 8 4 ∧ s.flash.erasing =
    some (sectorOf (arg p 4 4)) :=
  ⟨{ power := { phase := .run, d0run := true, ckref := true }, regs := [(R.GLB_STAT, 8)], svc := { exec := some [0x10, 0, 0, 0, 0, 0, 1, 0, 0x10, 0, 0, 0], heldSeq := some 1 }, flash := { erasing := some 8 } }, [0x10, 0, 0, 0, 0, 0, 1, 0, 0x10, 0, 0, 0], by decide⟩

theorem witness_TheLoaderAnswersItsCommands_11 : ∃ s : State, ∃ p : List Byte, s.masterUp .svc = true ∧ s.svc.exec =
    some p ∧ arg p 0 1 = 0x10 ∧ s.programmingIn (arg p 4 4) (arg p 8 4) = true :=
  ⟨{ power := { phase := .run, d0run := true, ckref := true }, regs := [(R.GLB_STAT, 8)], svc := { exec := some [0x10, 0, 0, 0, 0, 0, 1, 0, 0x10, 0, 0, 0], heldSeq := some 1 }, flash := { programming := some 0x1000 } }, [0x10, 0, 0, 0, 0, 0, 1, 0, 0x10, 0, 0, 0], by decide⟩

theorem witness_TheLoaderAnswersItsCommands_12 : ∃ s : State, ∃ p : List Byte, s.masterUp .svc = true ∧ s.svc.exec =
    some p ∧ arg p 0 1 = 0x11 ∧ s.slotBusy (sectorOf (arg p 4 4)) = true :=
  ⟨{ power := { phase := .run, d0run := true, ckref := true }, regs := [(R.GLB_STAT, 8), (R.NWT_ROLE 0, 0x10), (R.NWT_ROLE 1, 0x10)], svc := { exec := some [0x11, 0, 0, 0, 0, 0, 4, 0], heldSeq := some 1 } }, [0x11, 0, 0, 0, 0, 0, 4, 0], by decide⟩

theorem witness_TheLoaderAnswersItsCommands_13 : ∃ s : State, ∃ p : List Byte, s.masterUp .svc = true ∧ s.svc.exec =
    some p ∧ arg p 0 1 = 0x11 ∧ s.slotBusy (sectorOf (arg p 4 4)) = false ∧ s.slotBusy (sectorOf (arg p 4 4 +
    (p.length - 8) - 1)) = false ∧ s.svcFlashWait = true :=
  ⟨{ power := { phase := .run, d0run := true, ckref := true }, regs := [(R.GLB_STAT, 8)], svc := { exec := some ([0x11, 0, 0, 0, 0, 0, 1, 0] ++ List.replicate 16 7), heldSeq := some 1 }, flash := { owner := some .host } }, ([0x11, 0, 0, 0, 0, 0, 1, 0] ++ List.replicate 16 7), by decide⟩

theorem witness_TheLoaderAnswersItsCommands_14 : ∃ s : State, ∃ p : List Byte, s.masterUp .svc = true ∧ s.svc.exec =
    some p ∧ arg p 0 1 = 0x11 ∧ p.length = 24 ∧ s.slotBusy (sectorOf (arg p 4 4)) = false ∧ s.slotBusy (sectorOf
    (arg p 4 4 + 15)) = false ∧ s.svcFlashWait = false :=
  ⟨{ power := { phase := .run, d0run := true, ckref := true }, regs := [(R.GLB_STAT, 8)], svc := { exec := some ([0x11, 0, 0, 0, 0, 0, 1, 0] ++ List.replicate 16 7), heldSeq := some 1 } }, ([0x11, 0, 0, 0, 0, 0, 1, 0] ++ List.replicate 16 7), by decide⟩

theorem witness_TheLoaderAnswersItsCommands_15 : ∃ s : State, ∃ p : List Byte, s.masterUp .svc = true ∧ s.svc.exec =
    some p ∧ arg p 0 1 = 0x12 ∧ s.slotBusy (arg p 4 2) = true :=
  ⟨{ power := { phase := .run, d0run := true, ckref := true }, regs := [(R.GLB_STAT, 8), (R.NWT_ROLE 0, 0x10)], svc := { exec := some [0x12, 0, 0, 0, 18], heldSeq := some 1 } }, [0x12, 0, 0, 0, 18], by decide⟩

theorem witness_TheLoaderAnswersItsCommands_16 : ∃ s : State, ∃ p : List Byte, s.masterUp .svc = true ∧ s.svc.exec =
    some p ∧ arg p 0 1 = 0x12 ∧ s.slotBusy (arg p 4 2) = false ∧ s.svcFlashWait = true :=
  ⟨{ power := { phase := .run, d0run := true, ckref := true }, regs := [(R.GLB_STAT, 8)], svc := { exec := some [0x12, 0, 0, 0, 9, 0], heldSeq := some 1 }, flash := { owner := some .host } }, [0x12, 0, 0, 0, 9, 0], by decide⟩

theorem witness_TheLoaderAnswersItsCommands_17 : ∃ s : State, ∃ p : List Byte, s.masterUp .svc = true ∧ s.svc.exec =
    some p ∧ arg p 0 1 = 0x12 ∧ s.slotBusy (arg p 4 2) = false ∧ s.svcFlashWait = false :=
  ⟨{ power := { phase := .run, d0run := true, ckref := true }, regs := [(R.GLB_STAT, 8)], svc := { exec := some [0x12, 0, 0, 0, 9, 0], heldSeq := some 1 } }, [0x12, 0, 0, 0, 9, 0], by decide⟩

theorem witness_TheLoaderAnswersItsCommands_18 : ∃ s : State, ∃ p : List Byte, s.masterUp .svc = true ∧ s.svc.exec =
    some p ∧ arg p 0 1 = 0x20 :=
  ⟨{ power := { phase := .run, d0run := true, ckref := true }, regs := [(R.GLB_STAT, 8)], svc := { exec := some [0x20, 0, 0, 0, 5, 0x30, 0, 0], heldSeq := some 1 } }, [0x20, 0, 0, 0, 5, 0x30, 0, 0], by decide⟩

theorem witness_TheLoaderAnswersItsCommands_19 : ∃ s : State, ∃ p : List Byte, s.masterUp .svc = true ∧ s.svc.exec =
    some p ∧ arg p 0 1 = 0x30 ∧ adminOps.contains (arg p 4 1) = false :=
  ⟨{ power := { phase := .run, d0run := true, ckref := true }, regs := [(R.GLB_STAT, 8)], svc := { exec := some ([0x30, 0, 0, 0, 0x3F] ++ List.replicate 19 0), heldSeq := some 1 } }, ([0x30, 0, 0, 0, 0x3F] ++ List.replicate 19 0), by decide⟩

theorem witness_TheLoaderAnswersItsCommands_20 : ∃ s : State, ∃ p : List Byte, ∃ off : Nat, s.masterUp .svc = true ∧
    s.svc.exec = some p ∧ arg p 0 1 = 0x30 ∧ adminOps.contains (arg p 4 1) = true ∧ firstBad (keyFields (arg p 4 1)
    (arg p 8 16)) = some off :=
  ⟨{ power := { phase := .run, d0run := true, ckref := true }, regs := [(R.GLB_STAT, 8)], svc := { exec := some [0x30, 0, 0, 0, 0x38, 0, 0, 0, 1], heldSeq := some 1 } }, [0x30, 0, 0, 0, 0x38, 0, 0, 0, 1], 48, by decide⟩

theorem witness_TheLoaderAnswersItsCommands_21 : ∃ s : State, ∃ p : List Byte, s.masterUp .svc = true ∧ s.svc.exec =
    some p ∧ arg p 0 1 = 0x30 ∧ adminOps.contains (arg p 4 1) = true ∧ firstBad (keyFields (arg p 4 1) (arg p 8 16))
    = none ∧ (s.svc.ahead = 0 ∨ s.adminKeys = 0) :=
  ⟨{ power := { phase := .run, d0run := true, ckref := true }, regs := [(R.GLB_STAT, 8)], svc := { exec := some ([0x30, 0, 0, 0, 0x37] ++ List.replicate 19 0), heldSeq := some 1 } }, ([0x30, 0, 0, 0, 0x37] ++ List.replicate 19 0), by decide⟩

theorem witness_TheLoaderAnswersItsCommands_23 : ∃ s : State, ∃ p : List Byte, s.masterUp .svc = true ∧ s.svc.exec =
    some p ∧ arg p 0 1 = 0x40 ∧ s.power.bootHeld = true :=
  ⟨{ power := { phase := .run, d0run := true, ckref := true, bootHeld := true }, regs := [(R.GLB_STAT, 8)], svc := { exec := some [0x40], heldSeq := some 1 } }, [0x40], by decide⟩

theorem witness_TheLoaderAnswersItsCommands_24 : ∃ s : State, ∃ p : List Byte, s.masterUp .svc = true ∧ s.svc.exec =
    some p ∧ arg p 0 1 = 0x40 ∧ s.power.bootHeld = false :=
  ⟨{ power := { phase := .run, d0run := true, ckref := true }, regs := [(R.GLB_STAT, 8)], svc := { exec := some [0x40], heldSeq := some 1 } }, [0x40], by decide⟩

theorem witness_CountersHealthAndSmbus_1 : ∃ s : State, ∃ m : Master, ∃ n : Fin 16, ∃ b : Fin 4, ∃ k : Nat,
    s.reaches m (R.PMC_CYCL n.val + b.val) = true ∧ (∀ j, m = .newt j → s.pmcMayRead j.val = true) ∧ s.newtGated
    n.val = false ∧ 1 ≤ k ∧ b.val + k ≤ 4 ∧ (m = .host ∨ (b.val = 0 ∧ k = 4)) :=
  ⟨{ power := { phase := .run, d0run := true }, regs := [(R.GLB_STAT, 8), (R.RST_STAT, 0x20), (R.STO_STAT, 2)], health := {  } }, .host, 3, 1, 2, by decide⟩

theorem witness_CountersHealthAndSmbus_2 : ∃ s : State, ∃ j : Fin 16, ∃ n : Fin 16, s.reaches (.newt j) (R.PMC_CYCL
    n.val) = true ∧ s.pmcMayRead j.val = false :=
  ⟨{ power := { phase := .run, d0run := true }, regs := [(R.GLB_STAT, 8), (R.RST_STAT, 0x20), (R.STO_STAT, 2)], health := {  } }, 4, 3, by decide⟩

theorem witness_CountersHealthAndSmbus_3 : ∃ s : State, ∃ m : Master, ∃ n : Fin 16, ∃ b : Fin 4, ∃ k : Nat,
    s.reaches m (R.PMC_CYCL n.val + b.val) = true ∧ (∀ j, m = .newt j → s.pmcMayRead j.val = true) ∧ s.newtGated
    n.val = true ∧ 1 ≤ k ∧ b.val + k ≤ 4 ∧ (m = .host ∨ (b.val = 0 ∧ k = 4)) :=
  ⟨{ power := { phase := .run, d0run := true }, regs := [(R.GLB_STAT, 8), (R.RST_STAT, 0x20), (R.STO_STAT, 2), (R.PWR_STAT, 2)], health := {  } }, .host, 3, 1, 2, by decide⟩

theorem witness_CountersHealthAndSmbus_4 : ∃ s : State, ∃ m : Master, ∃ n : Fin 16, ∃ w : Word, s.reaches m
    (R.PMC_SCTL n.val) = true ∧ s.pmcMayWrite m = true ∧ bit 28 w = true :=
  ⟨{ power := { phase := .run, d0run := true }, regs := [(R.GLB_STAT, 8), (R.RST_STAT, 0x20), (R.STO_STAT, 2)], health := {  } }, .host, 3, 0x10000000, by decide⟩

theorem witness_CountersHealthAndSmbus_5 : ∃ s : State, ∃ m : Master, ∃ n : Fin 16, s.reaches m (R.PMC_SCTL n.val) =
    true ∧ s.pmcMayWrite m = false :=
  ⟨{ power := { phase := .run, d0run := true }, regs := [(R.GLB_STAT, 8), (R.RST_STAT, 0x20), (R.STO_STAT, 2)], health := {  } }, .newt 3, 3, by decide⟩

theorem witness_CountersHealthAndSmbus_6 : ∃ s : State, ∃ b : Fin 7, s.d0up = true ∧ s.causeKnown b.val = true ∧
    ((if s.health.known.getLsbD b.val then s.rb R.HLT_CAUSE b.val else s.health.logged.getLsbD b.val) = false) ∧
    (s.causeNow b.val).1 = true :=
  ⟨{ power := { phase := .run, d0run := true }, regs := [(R.GLB_STAT, 8), (R.RST_STAT, 0x20), (R.STO_STAT, 2), (R.HLT_THR, 0x10)], health := { tlrun := 7 } }, 5, by decide⟩

theorem witness_CountersHealthAndSmbus_7 : ∃ s : State, ∃ b : Fin 7, s.d0up = true ∧ s.causeKnown b.val = true ∧
    ((if s.health.known.getLsbD b.val then s.rb R.HLT_CAUSE b.val else s.health.logged.getLsbD b.val) = true) ∧
    (s.causeNow b.val).1 = false :=
  ⟨{ power := { phase := .run, d0run := true }, regs := [(R.GLB_STAT, 8), (R.RST_STAT, 0x20), (R.STO_STAT, 2), (R.HLT_CAUSE, 0x20), (R.HLT_THR, 0x10)], health := { known := 0x20 } }, 5, by decide⟩

theorem witness_CountersHealthAndSmbus_8 : ∃ s : State, ∃ b : Fin 7, s.d0up = true ∧ s.causeKnown b.val = true ∧
    ((if s.health.known.getLsbD b.val then s.rb R.HLT_CAUSE b.val else s.health.logged.getLsbD b.val) = (s.causeNow
    b.val).1) ∧ (s.health.known.getLsbD b.val = true ∨ (s.causeNow b.val).1 = true) :=
  ⟨{ power := { phase := .run, d0run := true }, regs := [(R.GLB_STAT, 8), (R.RST_STAT, 0x20), (R.STO_STAT, 2), (R.HLT_CAUSE, 0x20), (R.HLT_THR, 0x10)], health := { known := 0x20, tlrun := 7 } }, 5, by decide⟩

theorem witness_CountersHealthAndSmbus_9 : ∃ s : State, s.d0up = true ∧ s.health.known = 0x7F :=
  ⟨{ power := { phase := .run, d0run := true }, regs := [(R.GLB_STAT, 8), (R.RST_STAT, 0x20), (R.STO_STAT, 2)], health := { known := 0x7F } }, by decide⟩

theorem witness_CountersHealthAndSmbus_10 : ∃ s : State, (s.d0up = false ∨ s.health.known ≠ 0x7F) :=
  ⟨{}, by decide⟩

theorem witness_CountersHealthAndSmbus_11 : ∃ s : State, ∃ e : HealthEntry, ∃ l : List HealthEntry,
    s.health.toProgram = e :: l ∧ s.d0up = true ∧ s.rb R.STO_STAT 1 = true ∧ s.power.pfailn = true :=
  ⟨{ power := { phase := .run, d0run := true }, regs := [(R.GLB_STAT, 8), (R.RST_STAT, 0x20), (R.STO_STAT, 2)], health := { toProgram := [{ time := 5, cause := 5, raised := true, untimed := false, detail := 0 }] } }, { time := 5, cause := 5, raised := true, untimed := false, detail := 0 }, [], by decide⟩

theorem witness_CountersHealthAndSmbus_12 : ∃ s : State, (s.health.toProgram = [] ∨ s.power.pfailn = false) :=
  ⟨{}, by decide⟩

theorem witness_CountersHealthAndSmbus_13 : ∃ s : State, ∃ p : Bool, ∃ n : Nat, s.dataUp = true ∧ s.roleState 7 ≠ 0
    ∧ s.rf R.HLT_CTL 15 8 ≠ 0 ∧ (s.rb R.HLT_CTL (if p then 2 else 1) = true) ∧ s.oldest p = some n ∧ s.basking n =
    true ∧ s.roles.rotating = none ∧ s.roles.move = none ∧ s.bootCheck n true = none :=
  ⟨{ power := { phase := .run, d0run := true }, regs := [(R.GLB_STAT, 8), (R.RST_STAT, 0x20), (R.STO_STAT, 2), (R.NWT_ROLE 7, 0x10), (R.HLT_CTL, 0x106)], health := {  } }, true, 12, by decide⟩

theorem witness_CountersHealthAndSmbus_14 : ∃ s : State, ∃ p : Bool, ∃ n : Nat, s.dataUp = true ∧ s.roleState 7 ≠ 0
    ∧ s.rf R.HLT_CTL 15 8 ≠ 0 ∧ (s.rb R.HLT_CTL (if p then 2 else 1) = true) ∧ s.oldest p = some n ∧
    (s.roles.rotating.isSome = true ∨ s.incoming n = true) :=
  ⟨{ power := { phase := .run, d0run := true }, regs := [(R.GLB_STAT, 8), (R.RST_STAT, 0x20), (R.STO_STAT, 2), (R.NWT_ROLE 7, 0x10), (R.HLT_CTL, 0x106)], health := {  }, roles := { rotating := some 3 } }, true, 12, by decide⟩

theorem witness_CountersHealthAndSmbus_15 : ∃ s : State, ∃ p : Bool, (s.roleState 7 = 0 ∨ s.rf R.HLT_CTL 15 8 = 0 ∨
    s.rb R.HLT_CTL (if p then 2 else 1) = false) :=
  ⟨{}, true, by decide⟩

theorem witness_CountersHealthAndSmbus_16 : ∃ s : State, ∃ n : Fin 16, s.dataUp = true ∧ s.roleState 7 ≠ 0 ∧ s.run
    n.val = 4 ∧ s.holdsAny n.val = false ∧ s.incoming n.val = false ∧ s.roles.rotating = none ∧ s.roles.move = none
    ∧ s.bootCheck n.val true = none :=
  ⟨{ power := { phase := .run, d0run := true }, regs := [(R.GLB_STAT, 8), (R.RST_STAT, 0x20), (R.STO_STAT, 2), (R.NWT_ROLE 7, 0x10), (R.NWT_CST 3, 4)], health := {  } }, 3, by decide⟩

theorem witness_CountersHealthAndSmbus_17 : ∃ s : State, ∃ n : Fin 16, (s.run n.val ≠ 4 ∨ s.holdsAny n.val = true ∨
    s.roleState 7 = 0) :=
  ⟨{}, 3, by decide⟩

theorem witness_CountersHealthAndSmbus_18 : ∃ s : State, ∃ m : Master, ∃ w : Word, s.reaches m R.SMB_STAT = true ∧
    bit 1 w = true :=
  ⟨{ power := { phase := .run, d0run := true }, regs := [(R.GLB_STAT, 8), (R.RST_STAT, 0x20), (R.STO_STAT, 2), (R.SMB_STAT, 2)], health := {  } }, .host, 2, by decide⟩

theorem witness_CountersHealthAndSmbus_19 : ∃ s : State, s.masterUp .smbus = true ∧ s.rb R.SMB_STAT 1 = true :=
  ⟨{ power := { phase := .run, d0run := true }, regs := [(R.GLB_STAT, 8), (R.RST_STAT, 0x20), (R.STO_STAT, 2), (R.SMB_STAT, 2)], health := {  } }, by decide⟩

theorem witness_CountersHealthAndSmbus_20 : ∃ s : State, s.rb R.SMB_STAT 1 = false :=
  ⟨{}, by decide⟩

theorem witness_CountersHealthAndSmbus_21 : ∃ l : List Byte, l.length = 7 ∧ leNat (l.take 3) % 4 = 0 :=
  ⟨[4, 0, 7, 5, 0, 0, 0], by decide⟩

theorem witness_CountersHealthAndSmbus_22 : ∃ l : List Byte, l.length = 7 ∧ leNat (l.take 3) % 4 = 0 :=
  ⟨[4, 0, 7, 5, 0, 0, 0], by decide⟩

theorem witness_CountersHealthAndSmbus_23 : ∃ s : State, ∃ c : Byte, ∃ l : List Byte, ∃ x : Option Byte, (c ≠ 7 ∨
    l.length ≠ 7 ∨ leNat (l.take 3) % 4 ≠ 0 ∨ x.any (fun y => y != crc8 ([BitVec.ofNat 8 (2 * s.smbAddr), 1, c] ++
    l)) = true) :=
  ⟨{}, 3, [], none, by decide⟩

theorem witness_CountersHealthAndSmbus_24 : ∃ s : State, ∃ l : List Byte, ∃ v : Word, s.masterUp .smbus = true ∧
    l.length = 3 ∧ leNat l % 4 = 0 ∧ leNat l < 0x150000 ∧ s.readWaits .smbus (leNat l) 4 = false ∧ (s.busRead .smbus
    (leNat l) .clean).1 = some v :=
  ⟨{ power := { phase := .run, d0run := true }, regs := [(R.GLB_STAT, 8), (R.RST_STAT, 0x20), (R.STO_STAT, 2)], health := {  } }, [8, 0, 7], 0xD3EA0, by decide⟩

theorem witness_CountersHealthAndSmbus_25 : ∃ s : State, ∃ l : List Byte, s.masterUp .smbus = true ∧ l.length = 3 ∧
    leNat l % 4 = 0 ∧ leNat l < 0x150000 ∧ s.readWaits .smbus (leNat l) 4 = false ∧ (s.busRead .smbus (leNat l)
    .clean).1 = none :=
  ⟨{ power := { phase := .run, d0run := true }, regs := [(R.GLB_STAT, 8), (R.RST_STAT, 0x20), (R.STO_STAT, 2), (R.PWR_STAT, 2)], health := {  } }, [0, 0x13, 0x12], by decide⟩

theorem witness_CountersHealthAndSmbus_26 : ∃ s : State, ∃ l : List Byte, s.masterUp .smbus = true ∧ l.length = 3 ∧
    leNat l % 4 ≠ 0 :=
  ⟨{ power := { phase := .run, d0run := true }, regs := [(R.GLB_STAT, 8), (R.RST_STAT, 0x20), (R.STO_STAT, 2)], health := {  } }, [5, 0, 7], by decide⟩

theorem witness_CountersHealthAndSmbus_27 : ∃ s : State, ∃ l : List Byte, s.masterUp .smbus = true ∧ l.length = 3 ∧
    leNat l % 4 = 0 ∧ (0x150000 ≤ leNat l ∨ s.readWaits .smbus (leNat l) 4 = true) :=
  ⟨{ power := { phase := .run, d0run := true }, regs := [(R.GLB_STAT, 8), (R.RST_STAT, 0x20), (R.STO_STAT, 2)], health := {  } }, [0, 0, 0x15], by decide⟩

theorem witness_CountersHealthAndSmbus_28 : ∃ c : Byte, ∃ l : List Byte, (c ≠ 3 ∨ l.length ≠ 3) :=
  ⟨7, [], by decide⟩

theorem witness_ReservedEncodingsAreIgnored_1 : ∃ s : State, ∃ m : Master, ∃ a : Nat, ∃ d : Dword, ∃ r : RegDef, ∃ l
    : Legal, regDef a = some r ∧ a % 4 = 0 ∧ specialRegs.contains a = false ∧ s.reaches m a = true ∧ s.takesWrite m
    a = true ∧ l ∈ r.legal ∧ l.ok (d.setWidth 32) = false :=
  ⟨{ power := { phase := .run, d0run := true }, regs := [(R.GLB_STAT, 8)] }, .host, R.RST_WDT_CTL, 0, { reset := 0x7d01, rwl := 0xffff1, legal := [⟨19, 4, [(1, 65535)]⟩] }, ⟨19, 4, [(1, 65535)]⟩, by decide⟩

theorem witness_ReservedEncodingsAreIgnored_2 : ∃ a : Nat, ∃ w : Word, ∃ r : RegDef, ∃ l : Legal, regDef a = some r
    ∧ l ∈ r.legal ∧ l.ok w = false :=
  ⟨R.RST_WDT_CTL, 0, { reset := 0x7d01, rwl := 0xffff1, legal := [⟨19, 4, [(1, 65535)]⟩] }, ⟨19, 4, [(1, 65535)]⟩, by decide⟩

theorem witness_UndefinedOffsetsReadZeroAndIgnoreWrites_1 : ∃ s : State, ∃ m : Master, ∃ a : Nat, s.reaches m a =
    true ∧ a % 4 = 0 ∧ regDef a = none ∧ (a < 0x108000 ∨ 0x110000 ≤ a) ∧ a / 65536 ≠ 18 ∧ s.takesWrite m a = true :=
  ⟨{ power := { phase := .run, d0run := true }, regs := [(R.GLB_STAT, 8)] }, .host, 0x010100, by decide⟩

theorem witness_UndefinedOffsetsReadZeroAndIgnoreWrites_2 : ∃ a : Nat, regDef a = none ∧ a % 4 = 0 ∧ (a < 0x108000 ∨
    0x110000 ≤ a) ∧ (a < 0x128000 ∨ 0x12C000 ≤ a) :=
  ⟨0x010100, by decide⟩

theorem witness_StrayAndRepeatedDoorbells_1 : ∃ s : State, ∃ off : Nat, ∃ size : Nat, ∃ d : Dword, ∃ q : Fin 37, ∃ v
    : Nat, doorbellAt off size d = some (16 * q.val, v) ∧ s.bar2Up = true ∧ (q.val = 34 ∨ q.val = 35 ∨ (s.q
    q.val).exists' = false ∨ (s.q q.val).sqsize ≤ v % 65536) ∧ s.rb R.HRI_STAT 4 = false :=
  ⟨{ power := { phase := .run, d0run := true }, regs := [], hri := { queues := [(1, { exists' := true, sqsize := 8, cqsize := 8 })] } }, 16, 4, 8, 1, 8, by decide⟩

theorem witness_StrayAndRepeatedDoorbells_2 : ∃ s : State, ∃ off : Nat, ∃ size : Nat, ∃ d : Dword, ∃ q : Fin 37, ∃ v
    : Nat, doorbellAt off size d = some (16 * q.val, v) ∧ (q.val = 34 ∨ q.val = 35 ∨ (s.q q.val).exists' = false ∨
    (s.q q.val).sqsize ≤ v % 65536) ∧ s.rb R.HRI_STAT 4 = true :=
  ⟨{ regs := [(R.HRI_STAT, 16)] }, 16, 4, 8, 1, 8, by decide⟩

theorem witness_StrayAndRepeatedDoorbells_3 : ∃ s : State, ∃ off : Nat, ∃ size : Nat, ∃ d : Dword, ∃ q : Fin 37, ∃ v
    : Nat, doorbellAt off size d = some (16 * q.val + 8, v) ∧ s.bar2Up = true ∧ ((s.q q.val).exists' = false ∨ (s.q
    q.val).cqsize ≤ v % 65536 ∨ (s.q q.val).used < (v % 65536 + (s.q q.val).cqsize - (s.q q.val).cqhead) % (s.q
    q.val).cqsize) ∧ s.rb R.HRI_STAT 4 = false :=
  ⟨{ power := { phase := .run, d0run := true }, regs := [], hri := { queues := [(1, { exists' := true, sqsize := 8, cqsize := 8, cqtail := 3 })] } }, 24, 4, 4, 1, 4, by decide⟩

theorem witness_StrayAndRepeatedDoorbells_4 : ∃ s : State, ∃ off : Nat, ∃ size : Nat, ∃ d : Dword, ∃ q : Fin 37, ∃ v
    : Nat, doorbellAt off size d = some (16 * q.val + 8, v) ∧ ((s.q q.val).exists' = false ∨ (s.q q.val).cqsize ≤ v
    % 65536 ∨ (s.q q.val).used < (v % 65536 + (s.q q.val).cqsize - (s.q q.val).cqhead) % (s.q q.val).cqsize) ∧ s.rb
    R.HRI_STAT 4 = true :=
  ⟨{ regs := [(R.HRI_STAT, 16)] }, 24, 4, 8, 1, 8, by decide⟩

theorem witness_StrayAndRepeatedDoorbells_5 : ∃ s : State, ∃ off : Nat, ∃ size : Nat, ∃ d : Dword, ∃ q : Fin 37, ∃ v
    : Nat, doorbellAt off size d = some (16 * q.val, v) ∧ (s.q q.val).exists' = true ∧ q.val ≠ 34 ∧ q.val ≠ 35 ∧ v %
    65536 < (s.q q.val).sqsize ∧ v % 65536 = (s.q q.val).sqtail ∧ (q.val ≠ 0 ∨ (s.q q.val).stuck = false) :=
  ⟨{ power := { phase := .run, d0run := true }, regs := [], hri := { queues := [(1, { exists' := true, sqsize := 8, cqsize := 8, sqtail := 3 })] } }, 16, 4, 3, 1, 3, by decide⟩

theorem witness_StrayAndRepeatedDoorbells_6 : ∃ s : State, ∃ off : Nat, ∃ size : Nat, ∃ d : Dword, ∃ q : Fin 37, ∃ v
    : Nat, doorbellAt off size d = some (16 * q.val + 8, v) ∧ (s.q q.val).exists' = true ∧ v % 65536 < (s.q
    q.val).cqsize ∧ v % 65536 = (s.q q.val).cqhead :=
  ⟨{ power := { phase := .run, d0run := true }, regs := [], hri := { queues := [(1, { exists' := true, sqsize := 8, cqsize := 8, cqtail := 3 })] } }, 24, 4, 0, 1, 0, by decide⟩

theorem witness_BranchTargetsAreChecked_1 : ∃ s : State, ∃ n : Fin 16, ∃ w : BitVec 128, ∃ m : Move', ∃ p : Option
    Redirect, s.atWord n.val w p ∧ wordLegal w = true ∧ movesOf w = [m] ∧ 0x130 ≤ m.dst ∧ m.dst < 0x138 ∧ ctlTaken
    m.dst ((s.newt n.val).port 0x120) ((s.newt n.val).port 0x121) = true ∧ ((s.moveVal n.val m).toNat % 16 ≠ 0 ∨
    0x10000 ≤ (s.moveVal n.val m).toNat) :=
  ⟨{ power := { phase := .run, d0run := true }, regs := [(R.NWT_CST 3, 0)], newts := [(3, { imem := [(0, 0xFFE00000FFE00000FFE000004C200021)] })] }, 3, 0xFFE00000FFE00000FFE000004C200021, { slot := 0, dst := 0x130, src := .val 33 }, none, by decide⟩

theorem witness_BranchTargetsAreChecked_2 : ∃ s : State, ∃ n : Fin 16, ∃ w : BitVec 128, ∃ m : Move', s.atWord n.val
    w none ∧ wordLegal w = true ∧ movesOf w = [m] ∧ 0x130 ≤ m.dst ∧ m.dst < 0x138 ∧ (ctlTaken m.dst ((s.newt
    n.val).port 0x120) ((s.newt n.val).port 0x121) = false ∨ ((s.moveVal n.val m).toNat % 16 = 0 ∧ (s.moveVal n.val
    m).toNat < 0x10000)) :=
  ⟨{ power := { phase := .run, d0run := true }, regs := [(R.NWT_CST 3, 0)], newts := [(3, { imem := [(0, 0xFFE00000FFE00000FFE000004C600021)] })] }, 3, 0xFFE00000FFE00000FFE000004C600021, { slot := 0, dst := 0x131, src := .val 33 }, by decide⟩

theorem witness_BranchTargetsAreChecked_3 : ∃ s : State, ∃ n : Fin 16, s.run n.val = 0 ∧ s.d0up = true ∧ s.newtGated
    n.val = false ∧ (s.newt n.val).gath = [] ∧ 0x10000 ≤ (s.newt n.val).pc :=
  ⟨{ power := { phase := .run, d0run := true }, regs := [(R.NWT_CST 3, 0)], newts := [(3, { imem := [(0, 0)], pc := 0x10000 })] }, 3, by decide⟩

theorem witness_OffsetsOutsideEveryBlock_1 : ∃ s : State, ∃ a : Nat, ∃ k : Nat, 0x150000 ≤ a ∧ 1 ≤ k ∧ a % 4 + k ≤ 4
    ∧ s.masterUp .host = true ∧ s.mustWait .host a k = false :=
  ⟨{ power := { phase := .run, d0run := true } }, 0x150001, 2, by decide⟩

theorem witness_OffsetsOutsideEveryBlock_2 : ∃ a : Nat, 0x150000 ≤ a :=
  ⟨0x150000, by decide⟩

theorem witness_OffsetsOutsideEveryBlock_3 : ∃ s : State, ∃ n : Fin 16, ∃ w : BitVec 128, ∃ m : Move', ∃ p : Option
    Redirect, s.atWord n.val w p ∧ wordLegal w = true ∧ movesOf w = [m] ∧ portKind m.dst = .t ∧ 0x110 ≤ m.dst ∧
    m.dst < 0x11B ∧ 0x40150000 ≤ lsuAddr ((s.newt n.val).port 0x100) (s.moveVal n.val m) :=
  ⟨{ power := { phase := .run, d0run := true }, regs := [(R.NWT_CST 3, 0)], newts := [(3, { imem := [(0, 0xFFE00000FFE00000FFE0000044200009)], ports := [(0x100, 0x40150000)] })] }, 3, 0xFFE00000FFE00000FFE0000044200009, { slot := 0, dst := 0x110, src := .val 9 }, none, by decide⟩

theorem witness_OffsetsOutsideEveryBlock_4 : ∃ s : State, ∃ l : List Byte, s.masterUp .smbus = true ∧ l.length = 3 ∧
    leNat l % 4 = 0 ∧ 0x150000 ≤ leNat l :=
  ⟨{ power := { phase := .run, d0run := true }, regs := [(R.GLB_STAT, 8), (R.RST_STAT, 0x20), (R.STO_STAT, 2)], health := {  } }, [0, 0, 0x15], by decide⟩

theorem witness_OffsetsOutsideEveryBlock_5 : ∃ l : List Byte, 0x150000 ≤ leNat (l.take 3) :=
  ⟨[0, 0, 0x15, 0, 0, 0, 0], by decide⟩

theorem witness_OffsetsOutsideEveryBlock_6 : ∃ s : State, ∃ p : List Byte, s.masterUp .svc = true ∧ s.svc.exec =
    some p ∧ arg p 0 1 = 3 ∧ 1 ≤ arg p 8 4 ∧ 0x150000 ≤ arg p 4 4 :=
  ⟨{ power := { phase := .run, d0run := true, ckref := true }, regs := [(R.GLB_STAT, 8)], svc := { exec := some [3, 0, 0, 0, 0, 0, 0x15, 0, 1, 0, 0, 0], heldSeq := some 1 } }, [3, 0, 0, 0, 0, 0, 0x15, 0, 1, 0, 0, 0], by decide⟩

theorem witness_OffsetsOutsideEveryBlock_7 : ∃ s : State, ∃ p : List Byte, s.masterUp .svc = true ∧ s.svc.exec =
    some p ∧ arg p 0 1 = 4 ∧ 1 ≤ arg p 8 4 ∧ 0x150000 ≤ arg p 4 4 :=
  ⟨{ power := { phase := .run, d0run := true, ckref := true }, regs := [(R.GLB_STAT, 8)], svc := { exec := some [4, 0, 0, 0, 0, 0, 0x15, 0, 1, 0, 0, 0, 5, 0, 0, 0], heldSeq := some 1 } }, [4, 0, 0, 0, 0, 0, 0x15, 0, 1, 0, 0, 0, 5, 0, 0, 0], by decide⟩

/-! ### Those whose states hold codewords or long lists: one after another, so that their evaluations do not wait for the
kernel side by side -/

section kernelEvaluated

set_option Elab.async false

theorem witness_LogicReleaseBootAndTheDieLink_4 : ∃ s : State, s.d0up = true ∧ s.rb R.GLB_STAT 3 = true ∧ s.rb
    R.RST_STAT 3 = true ∧ s.power.dramOn = true ∧ s.rb R.RST_STAT 5 = false ∧ s.power.bootHeld = false ∧
    s.markerScan.keysBoot.keysMissing = false :=
  ⟨{ power := { phase := .run, d0run := true, dramOn := true }, regs := [(R.GLB_STAT, 8), (R.RST_STAT, 8)], keys := { scrapped := true } }, by decide +kernel⟩

theorem witness_ReadsReturnTheContent_6 : ∃ s : State, ∃ q : Fin 37, ∃ tag : Half, ∃ segs : Segs, ∃ c : Cmd,
    s.stoCmd q.val tag.toNat 1 = some c ∧ s.dataUp = true ∧ c.nsid = 1 ∧ c.nblk = 1 ∧ checkSegs c segs 4096 = .good
    ∧ s.staged c.slba = none ∧ (s.store.cell (s.mapAt c.slba).toNat).isSome = true ∧ s.evReady = false :=
  ⟨{ power := { phase := .run, d0run := true }, regs := [(R.STO_STAT, 2)], hri := { queues := [(1, { exists' := true, sqsize := 8, cqsize := 8, inflight := [{ entry := 0x1000000000000000500000000000010000000000100090101 }] })] }, store := { map := [(5, 77)], cells := [(77, some {})] } }, 1, 9, none, { entry := 0x1000000000000000500000000000010000000000100090101 }, by decide +kernel⟩

theorem witness_ReadsReturnTheContent_7 : ∃ s : State, ∃ q : Fin 37, ∃ tag : Half, ∃ segs : Segs, ∃ o : UnitOut, ∃ c
    : Cmd, s.stoCmd q.val tag.toNat 1 = some c ∧ s.dataUp = true ∧ c.nsid = 1 ∧ c.nblk = 1 ∧ checkSegs c segs 4096 =
    .good ∧ s.staged c.slba = none ∧ (s.store.cell (s.mapAt c.slba).toNat).isSome = true ∧ s.store.badLocs.contains
    (s.mapAt c.slba).toNat = true ∧ o ≠ .sramUe ∧ s.evReady = false :=
  ⟨{ power := { phase := .run, d0run := true }, regs := [(R.STO_STAT, 2)], hri := { queues := [(1, { exists' := true, sqsize := 8, cqsize := 8, inflight := [{ entry := 0x1000000000000000500000000000010000000000100090101 }] })] }, store := { map := [(5, 77)], cells := [(77, some {})], badLocs := [77] } }, 1, 9, none, .tier1, { entry := 0x1000000000000000500000000000010000000000100090101 }, by decide +kernel⟩

theorem witness_ReadsReturnTheContent_8 : ∃ s : State, ∃ q : Fin 37, ∃ tag : Half, ∃ segs : Segs, ∃ c : Cmd,
    s.stoCmd q.val tag.toNat 1 = some c ∧ s.dataUp = true ∧ c.nsid = 2 ∧ c.nblk = 1 ∧ checkSegs c segs 4096 = .good
    ∧ s.ns2Written c.slba = true ∧ s.evReady = false :=
  ⟨{ power := { phase := .run, d0run := true }, regs := [(R.STO_STAT, 2)], hri := { queues := [(1, { exists' := true, sqsize := 8, cqsize := 8, inflight := [{ entry := 0x1000000000000000500000000000010000000000200090101 }] })] }, jnl := { clutches := [{ clseq := 1, slot := 0, firstCseq := 0, base := 0, untimed := false, restart := false, keygen := 1, records := [{ nodef := 0, length := 0, tick := 0, fc := 0, pos := 20480 }] }] } }, 1, 9, none, { entry := 0x1000000000000000500000000000010000000000200090101 }, by decide +kernel⟩

theorem witness_ReadsReturnTheContent_9 : ∃ s : State, ∃ q : Fin 37, ∃ tag : Half, ∃ segs : Segs, ∃ c : Cmd,
    s.stoCmd q.val tag.toNat 1 = some c ∧ s.dataUp = true ∧ c.nsid = 1 ∧ c.nblk = 1 ∧ checkSegs c segs 4096 = .good
    ∧ s.staged c.slba = none ∧ (s.store.cell (s.mapAt c.slba).toNat).isSome = true :=
  ⟨{ power := { phase := .run, d0run := true }, regs := [(R.STO_STAT, 2)], hri := { queues := [(1, { exists' := true, sqsize := 8, cqsize := 8, inflight := [{ entry := 0x1000000000000000500000000000010000000000100090101 }] })] }, store := { map := [(5, 77)], cells := [(77, some {})] } }, 1, 9, none, { entry := 0x1000000000000000500000000000010000000000100090101 }, by decide +kernel⟩

theorem witness_WritesAndTrimsChangeTheirBlocksOnly_1 : ∃ s : State, ∃ q : Fin 37, ∃ tag : Half, ∃ segs : Segs, ∃ d
    : Option (List Blk), ∃ l : List Blk, ∃ c : Cmd, s.stoCmd q.val tag.toNat 2 = some c ∧ s.dataUp = true ∧
    checkSegs c segs (4096 * c.nblk) = .good ∧ s.store.die2 = none ∧ c.data.or d = some l ∧ s.noSpace = false ∧
    s.stagedBlocks + c.nblk ≤ 8192 ∧ s.logFull false (unitsOf c.slba c.nblk) = false ∧ l.length = c.nblk :=
  ⟨{ power := { phase := .run, d0run := true }, regs := [(R.STO_STAT, 2)], hri := { queues := [(1, { exists' := true, sqsize := 8, cqsize := 8, inflight := [{ entry := 0x1000000000000000500000000000010000000000100090102 }] })] } }, 1, 9, none, some [7], [7], { entry := 0x1000000000000000500000000000010000000000100090102 }, by decide +kernel⟩

theorem witness_WritesAndTrimsChangeTheirBlocksOnly_2 : ∃ s : State, ∃ q : Fin 37, ∃ tag : Half, ∃ segs : Segs, ∃ d
    : Option (List Blk), ∃ l : List Blk, ∃ c : Cmd, s.stoCmd q.val tag.toNat 2 = some c ∧ s.dataUp = true ∧
    checkSegs c segs (4096 * c.nblk) = .good ∧ s.store.die2 = none ∧ c.data.or d = some l ∧ s.noSpace = false ∧
    s.stagedBlocks + c.nblk ≤ 8192 ∧ s.logFull false (unitsOf c.slba c.nblk) = false ∧ l.length = c.nblk :=
  ⟨{ power := { phase := .run, d0run := true }, regs := [(R.STO_STAT, 2)], hri := { queues := [(1, { exists' := true, sqsize := 8, cqsize := 8, inflight := [{ entry := 0x1000000000000000500000000000010000000000100090102 }] })] } }, 1, 9, none, some [7], [7], { entry := 0x1000000000000000500000000000010000000000100090102 }, by decide +kernel⟩

theorem witness_WritesAndTrimsChangeTheirBlocksOnly_3 : ∃ s : State, ∃ q : Fin 37, ∃ tag : Half, ∃ segs : Segs, ∃ d
    : Option (List Blk), ∃ l : List Blk, ∃ c : Cmd, s.stoCmd q.val tag.toNat 2 = some c ∧ s.dataUp = true ∧
    checkSegs c segs (4096 * c.nblk) = .good ∧ s.store.die2 = none ∧ c.data.or d = some l ∧ s.noSpace = false ∧
    s.stagedBlocks + c.nblk ≤ 8192 ∧ s.logFull false (unitsOf c.slba c.nblk) = false :=
  ⟨{ power := { phase := .run, d0run := true }, regs := [(R.STO_STAT, 2)], hri := { queues := [(1, { exists' := true, sqsize := 8, cqsize := 8, inflight := [{ entry := 0x1000000000000000500000000000010000000000100090102 }] })] } }, 1, 9, none, some [7], [7], { entry := 0x1000000000000000500000000000010000000000100090102 }, by decide +kernel⟩

theorem witness_WritesAndTrimsChangeTheirBlocksOnly_4 : ∃ s : State, ∃ q : Fin 37, ∃ tag : Half, ∃ segs : Segs, ∃ d
    : Option (List Blk), ∃ l : List Blk, ∃ c : Cmd, ∃ k : Nat, ∃ r : Nat, s.stoCmd q.val tag.toNat 2 = some c ∧
    s.dataUp = true ∧ checkSegs c segs (4096 * c.nblk) = .good ∧ s.store.die2 = none ∧ c.data.or d = some l ∧
    s.noSpace = false ∧ s.stagedBlocks + c.nblk ≤ 8192 ∧ s.logFull false (unitsOf c.slba c.nblk) = false ∧ 1 ≤
    c.nblk ∧ r = ((unitsOf c.slba c.nblk).getD (min k ((unitsOf c.slba c.nblk).length - 1)) (c.slba, 0)).1 - c.slba
    :=
  ⟨{ power := { phase := .run, d0run := true }, regs := [(R.STO_STAT, 2)], hri := { queues := [(1, { exists' := true, sqsize := 8, cqsize := 8, inflight := [{ entry := 0x1000000000000000500000000000010000000000100090102 }] })] } }, 1, 9, none, some [7], [7], { entry := 0x1000000000000000500000000000010000000000100090102 }, 0, 0, by decide +kernel⟩

theorem witness_WritesAndTrimsChangeTheirBlocksOnly_5 : ∃ s : State, ∃ q : Fin 37, ∃ tag : Half, ∃ segs : Segs, ∃ d
    : Option (List Blk), ∃ l : List Blk, ∃ c : Cmd, s.stoCmd q.val tag.toNat 2 = some c ∧ s.dataUp = true ∧
    checkSegs c segs (4096 * c.nblk) = .good ∧ s.store.die2 = none ∧ c.data.or d = some l ∧ s.noSpace = false ∧
    s.stagedBlocks + c.nblk ≤ 8192 ∧ s.logFull false (unitsOf c.slba c.nblk) = false :=
  ⟨{ power := { phase := .run, d0run := true }, regs := [(R.STO_STAT, 2)], hri := { queues := [(1, { exists' := true, sqsize := 8, cqsize := 8, inflight := [{ entry := 0x1000000000000000500000000000010000000000100090102 }] })] } }, 1, 9, none, some [7], [7], { entry := 0x1000000000000000500000000000010000000000100090102 }, by decide +kernel⟩

theorem witness_WritesAndTrimsChangeTheirBlocksOnly_6 : ∃ s : State, ∃ q : Fin 37, ∃ tag : Half, ∃ c : Cmd, s.stoCmd
    q.val tag.toNat 4 = some c ∧ s.dataUp = true ∧ s.store.die2 = none ∧ s.logFull true (unitsOf c.slba c.nblk) =
    false ∧ s.store.mapSound = true :=
  ⟨{ power := { phase := .run, d0run := true }, regs := [(R.STO_STAT, 2)], hri := { queues := [(1, { exists' := true, sqsize := 8, cqsize := 8, inflight := [{ entry := 0x1000000000000000500000000000000000000000100090204 }] })] } }, 1, 9, { entry := 0x1000000000000000500000000000000000000000100090204 }, by decide +kernel⟩

theorem witness_WritesAndTrimsChangeTheirBlocksOnly_8 : ∃ s : State, ∃ q : Fin 37, ∃ tag : Half, ∃ segs : Segs, ∃ d
    : Option (List Blk), ∃ l : List Blk, ∃ c : Cmd, s.stoCmd q.val tag.toNat 2 = some c ∧ s.dataUp = true ∧
    checkSegs c segs (4096 * c.nblk) = .good ∧ s.store.die2 = none ∧ c.data.or d = some l ∧ s.noSpace = true :=
  ⟨{ power := { phase := .run, d0run := true }, regs := [(R.STO_STAT, 2)], hri := { queues := [(1, { exists' := true, sqsize := 8, cqsize := 8, inflight := [{ entry := 0x1000000000000000500000000000010000000000100090102 }] })] }, store := { lostBlocks := 30000 } }, 1, 9, none, some [7], [7], { entry := 0x1000000000000000500000000000010000000000100090102 }, by decide +kernel⟩

theorem witness_WritesAndTrimsChangeTheirBlocksOnly_11 : ∃ s : State, ∃ q : Fin 37, ∃ tag : Half, ∃ segs : Segs, ∃ d
    : Option (List Blk), ∃ l : List Blk, ∃ c : Cmd, s.stoCmd q.val tag.toNat 2 = some c ∧ s.dataUp = true ∧
    checkSegs c segs (4096 * c.nblk) = .good ∧ s.store.die2 = none ∧ c.data.or d = some l ∧ s.noSpace = false ∧ 8192
    < s.stagedBlocks + c.nblk :=
  ⟨{ power := { phase := .run, d0run := true }, regs := [(R.STO_STAT, 2)], hri := { queues := [(1, { exists' := true, sqsize := 8, cqsize := 8, inflight := [{ entry := 0x2001000000000000000500000000000010000000000100090102 }] })] } }, 1, 9, none, some [7], [7], { entry := 0x2001000000000000000500000000000010000000000100090102 }, by decide +kernel⟩

theorem witness_WritesAndTrimsChangeTheirBlocksOnly_12 : ∃ s : State, ∃ q : Fin 37, ∃ tag : Half, ∃ segs : Segs, ∃ d
    : Option (List Blk), ∃ l : List Blk, ∃ c : Cmd, s.stoCmd q.val tag.toNat 2 = some c ∧ s.dataUp = true ∧
    checkSegs c segs (4096 * c.nblk) = .good ∧ s.store.die2 = none ∧ c.data.or d = some l ∧ s.noSpace = false ∧
    s.stagedBlocks + c.nblk ≤ 8192 ∧ s.logFull false (unitsOf c.slba c.nblk) = true :=
  ⟨{ power := { phase := .run, d0run := true }, regs := [(R.STO_STAT, 2)], hri := { queues := [(1, { exists' := true, sqsize := 8, cqsize := 8, inflight := [{ entry := 0x1000000000000000500000000000010000000000100090102 }] })] }, store := { log := List.replicate 5 ⟨0x8000000, 0xFFFFFFFF⟩ } }, 1, 9, none, some [7], [7], { entry := 0x1000000000000000500000000000010000000000100090102 }, by decide +kernel⟩

theorem witness_BackgroundWorkChangesNoContent_1 : ∃ s : State, ∃ u : Unit', ∃ locs : List Nat, s.nandOk = true ∧
    s.store.mapSound = true ∧ u ∈ s.store.units ∧ (s.store.units.map (·.id)).Pairwise (· < ·) ∧ ((∀ v ∈
    s.store.units, v.id < u.id → v.first + v.data.length ≤ u.first ∨ u.first + u.data.length ≤ v.first)) ∧
    locs.length = u.live.length ∧ locs.Nodup ∧ ((∀ l ∈ locs, s.store.canProgram 0 cacheEnd l = true)) :=
  ⟨{ power := { phase := .run, d0run := true }, regs := [(R.STO_STAT, 2)], store := { units := [⟨3, 0, 40, [some 7], false⟩], map := [(5, 0)], cells := [(0, some {})], panes := [(0, { opened := true })] } }, ⟨3, 0, 40, [some 7], false⟩, [1], by decide +kernel⟩

theorem witness_BackgroundWorkChangesNoContent_2 : ∃ s : State, ∃ lba : Nat, ∃ target : Nat, ∃ m : Moving, s.nandOk
    = true ∧ s.store.mapSound = true ∧ s.store.moves.find? (fun m => m.lba == lba && m.target == target) = some m ∧
    lba < 2 ^ 27 ∧ target < 2 ^ 32 ∧ (s.mapAt lba).toNat = m.source ∧ s.store.gone.contains (locDie target) = false
    ∧ (s.store.paneOf target < cacheEnd ∨ (pslcEnd ≤ s.store.paneOf target ∧ s.store.nextLine target = true)) ∧
    ((s.store.pane (s.store.paneOf target)).noParity = true ∨ ((s.store.pane (s.store.paneOf target)).stripe
    (locPage target)).closed = true) ∧ s.store.dataAt target = s.store.dataAt m.source ∧ s.store.parityAt target =
    false :=
  ⟨{ power := { phase := .run, d0run := true }, regs := [(R.STO_STAT, 2)], store := { map := [(5, 0)], cells := [(0, some {}), (4, some {})], panes := [(0, { opened := true, stripes := [(1, { closed := true })] })], moves := [⟨5, 72, 0, 4⟩] } }, 5, 4, ⟨5, 72, 0, 4⟩, by decide +kernel⟩

theorem witness_BackgroundWorkChangesNoContent_4 : ∃ s : State, s.store.mapSound = true :=
  ⟨{ power := { phase := .run, d0run := true }, regs := [(R.STO_STAT, 2)], store := { map := [(5, 0)], cells := [(0, some {})], panes := [(0, { opened := true })] } }, by decide +kernel⟩

theorem witness_BackgroundWorkChangesNoContent_5 : ∃ s : State, ∃ lba : Nat, ∃ target : Nat, ∃ why : Nat, s.nandOk =
    true ∧ s.store.mapSound = true ∧ s.store.dieTable = none ∧ lba < 2 ^ 27 ∧ s.movesOk false [(lba, target)] = true
    ∧ s.moveDue lba = some why :=
  ⟨{ power := { phase := .run, d0run := true }, regs := [(R.STO_STAT, 2), (R.NWT_ROLE 1, 0x10)], store := { map := [(5, 0)], cells := [(0, some {})], panes := [(0, { opened := true, closed := true, evac := true })] } }, 5, locAt 0 1309 0 0, 72, by decide +kernel⟩

theorem witness_BackgroundWorkChangesNoContent_6 : ∃ s : State, s.store.mapSound = true :=
  ⟨{ power := { phase := .run, d0run := true }, regs := [(R.STO_STAT, 2)], store := { map := [(5, 0)], cells := [(0, some {})], panes := [(0, { opened := true })] } }, by decide +kernel⟩

theorem witness_BackgroundWorkChangesNoContent_7 : ∃ s : State, ∃ moves : List (Nat × Nat), s.nandOk = true ∧
    s.roleState 1 ≠ 0 ∧ (s.store.folding = true ∨ s.foldDue = true) ∧ s.movesOk true moves = true ∧ s.foldLine moves
    = true ∧ s.leavesPane moves = true :=
  ⟨{ power := { phase := .run, d0run := true }, regs := [(R.STO_STAT, 2), (R.NWT_ROLE 1, 0x10)], store := { map := [(5, 0)], cells := [(0, some {})], panes := [(0, { opened := true })] } }, [(5, locAt 0 1309 0 0)], by decide +kernel⟩

theorem witness_BackgroundWorkChangesNoContent_11 : ∃ s : State, ∃ d : Fin 5, ∃ b : Nat, s.store.mapSound = true ∧ b
    < 5504 ∧ (s.die d.val).retiredBlocks.contains b = false :=
  ⟨{}, 1, 6, by decide +kernel⟩

theorem witness_ReceptionGoesFromSearchToDecode_7 : ∃ s : State, ∃ ch : RxChan, ∃ f : RxFrame, s.rxState ch =
    .decoding ∧ s.frameOk ch f = true :=
  ⟨{ power := { phase := .run, d0run := true }, regs := [(R.GLB_STAT, 8)], radio := { ghz := { rx := [(0, .decoding)] } } }, .ghz24, ⟨.ghz24, 900, 30, 0x50, 0, 5000, 0, ⟨0, .data, .absent, .absent, 7, false, false, 0, 0, [1, 2], [], none⟩⟩, by decide +kernel⟩

theorem witness_TransmissionsStartEndAndFail_1 : ∃ s : State, ∃ c : Chain, ∃ lock : Bool, ∃ r : TxReq, s.macUp =
    true ∧ s.macEn = true ∧ s.strobeReq .chorus c lock = some r ∧ s.strobeRefused r = none :=
  ⟨{ power := { phase := .run, d0run := true }, regs := [(R.GLB_STAT, 8), (R.MAC_CTL, 1), (R.RFS_CTL, 3)], radio := { inForce := [(R.RFS_TYMCFG 0, 7)] }, mac := { running := true, inSlot := true, plan := [1], chorusDue := some ⟨2, .ack, .absent, .absent, 7, false, false, 0, 0, [], [], none⟩ } }, .subGhz, true, ⟨.subGhz, .chorus, 868000, 3, 0, some 0, true⟩, by decide +kernel⟩

theorem witness_TransmissionsStartEndAndFail_3 : ∃ s : State, ∃ who : TxWho, ∃ c : Chain, ∃ lock : Bool, ∃ r :
    TxReq, ∃ tag : Half, ∃ x : SendOp, ∃ f : MacFrame, s.macUp = true ∧ s.macEn = true ∧ (who = .send tag ∨ who =
    .croak tag) ∧ s.strobeReq who c lock = some r ∧ s.strobeRefused r = none ∧ s.sendOp tag = some x ∧ (s.sendSeal
    x).1 = some f :=
  ⟨{ power := { phase := .run, d0run := true }, regs := [(R.GLB_STAT, 8), (R.MAC_CTL, 1), (R.RF2_CTL, 3)], mac := { sends := [{ tag := 9, node := 5, chain := 0x80, timing := 0, frame := ⟨0, .data, .absent, .absent, 7, false, false, 0, 0, [], [], none⟩, mcs := 0, power := 0xFF, sec := false, ready := true }] } }, .send 9, .ghz24, true, ⟨.ghz24, .send 9, 2405000, 0, 0, none, true⟩, 9, { tag := 9, node := 5, chain := 0x80, timing := 0, frame := ⟨0, .data, .absent, .absent, 7, false, false, 0, 0, [], [], none⟩, mcs := 0, power := 0xFF, sec := false, ready := true }, ⟨0, .data, .absent, .absent, 7, false, false, 0, 0, [], [], none⟩, by decide +kernel⟩

theorem witness_TransmissionsStartEndAndFail_4 : ∃ s : State, ∃ who : TxWho, ∃ c : Chain, ∃ lock : Bool, ∃ r :
    TxReq, ∃ tag : Half, ∃ x : SendOp, s.macUp = true ∧ s.macEn = true ∧ (who = .send tag ∨ who = .croak tag) ∧
    s.strobeReq who c lock = some r ∧ s.strobeRefused r = none ∧ s.sendOp tag = some x ∧ (s.sendSeal x).1 = none :=
  ⟨{ power := { phase := .run, d0run := true }, regs := [(R.GLB_STAT, 8), (R.MAC_CTL, 1), (R.RF2_CTL, 3)], mac := { sends := [{ tag := 9, node := 5, chain := 0x80, timing := 0, frame := ⟨0, .data, .absent, .absent, 7, false, false, 0, 0, [], [], none⟩, mcs := 0, power := 0xFF, sec := true, ready := true }] } }, .send 9, .ghz24, true, ⟨.ghz24, .send 9, 2405000, 0, 0, none, true⟩, 9, { tag := 9, node := 5, chain := 0x80, timing := 0, frame := ⟨0, .data, .absent, .absent, 7, false, false, 0, 0, [], [], none⟩, mcs := 0, power := 0xFF, sec := true, ready := true }, by decide +kernel⟩

theorem witness_TransmissionsStartEndAndFail_5 : ∃ s : State, ∃ who : TxWho, ∃ c : Chain, ∃ lock : Bool, ∃ r :
    TxReq, ∃ tag : Half, ∃ why : Nat, s.macUp = true ∧ s.macEn = true ∧ s.strobeReq who c lock = some r ∧ (who =
    .send tag ∨ who = .croak tag) ∧ s.strobeRefused r = some why :=
  ⟨{ power := { phase := .run, d0run := true }, regs := [(R.GLB_STAT, 8), (R.MAC_CTL, 1)], mac := { sends := [{ tag := 9, node := 5, chain := 0x80, timing := 0, frame := ⟨0, .data, .absent, .absent, 7, false, false, 0, 0, [], [], none⟩, mcs := 0, power := 0xFF, sec := false, ready := true }] } }, .send 9, .ghz24, true, ⟨.ghz24, .send 9, 2405000, 0, 0, none, true⟩, 9, 1, by decide +kernel⟩

theorem witness_TransmissionsStartEndAndFail_7 : ∃ s : State, ∃ c : Chain, ∃ lock : Bool, ∃ r : TxReq, s.macUp =
    true ∧ s.macEn = true ∧ s.strobeReq .chorus c lock = some r ∧ s.strobeRefused r ≠ none :=
  ⟨{ power := { phase := .run, d0run := true }, regs := [(R.GLB_STAT, 8), (R.MAC_CTL, 1)], radio := { inForce := [(R.RFS_TYMCFG 0, 7)] }, mac := { running := true, inSlot := true, plan := [1], chorusDue := some ⟨2, .ack, .absent, .absent, 7, false, false, 0, 0, [], [], none⟩ } }, .subGhz, true, ⟨.subGhz, .chorus, 868000, 3, 0, some 0, true⟩, by decide +kernel⟩

theorem witness_TransmissionsStartEndAndFail_12 : ∃ s : State, ∃ m : Master, ∃ w : Word, s.reaches m R.RFS_TXCFG =
    true ∧ bit 12 w = true ∧ s.tableCrc = s.rd R.RFS_TXCRC :=
  ⟨{ power := { phase := .run, d0run := true }, regs := [(R.GLB_STAT, 8), (R.RFS_TXCRC, 0x7E9945ED)] }, .host, 0x1000, by decide +kernel⟩

theorem witness_TransmissionsStartEndAndFail_13 : ∃ s : State, ∃ m : Master, ∃ w : Word, s.reaches m R.RFS_TXCFG =
    true ∧ bit 12 w = true ∧ s.tableCrc ≠ s.rd R.RFS_TXCRC :=
  ⟨{ power := { phase := .run, d0run := true }, regs := [(R.GLB_STAT, 8)] }, .host, 0x1000, by decide +kernel⟩

theorem witness_PinnedClutchesStay_2 : ∃ s : State, ∃ c : Cmd, s.admin 0x20 = some c ∧ 7629 < (s.jnl.clutches.filter
    (·.pinned)).length + (s.jnl.clutches.filter (fun d => pinRange c d && !d.pinned)).length :=
  ⟨{ power := { phase := .run, d0run := true }, hri := { queues := [(0, { exists' := true, sqsize := 8, cqsize := 8, inflight := [{ entry := 0x400000004000000000000000000000000000000000000000000000000000000000000000000000000000000000000000000050220 }] })] }, jnl := { clutches := List.replicate 7630 { clseq := 4, slot := 0, firstCseq := 1, base := 0, untimed := false, restart := false, keygen := 1 } } }, { entry := 0x400000004000000000000000000000000000000000000000000000000000000000000000000000000000000000000000000050220 }, by decide +kernel⟩

theorem witness_TheLoaderAnswersItsCommands_22 : ∃ s : State, ∃ p : List Byte, s.masterUp .svc = true ∧ s.svc.exec =
    some p ∧ arg p 0 1 = 0x30 ∧ adminOps.contains (arg p 4 1) = true ∧ firstBad (keyFields (arg p 4 1) (arg p 8 16))
    = none ∧ 0 < s.svc.ahead ∧ 0 < s.adminKeys :=
  ⟨{ power := { phase := .run, d0run := true, ckref := true }, regs := [(R.GLB_STAT, 8)], svc := { exec := some ([0x30, 0, 0, 0, 0x37] ++ List.replicate 19 0), heldSeq := some 1, ahead := 1 }, hri := { queues := [(0, { exists' := true, inflight := [{ entry := 0x3b }] })] } }, ([0x30, 0, 0, 0, 0x37] ++ List.replicate 19 0), by decide +kernel⟩

end kernelEvaluated

end Sys2Proof.Tests
end

/-! Writes and reads of whole words by the field types alone: what an undefined offset (R5) and a reserved encoding (R8)
come to, whichever master makes the access. -/

namespace Sys2Proof.Machine

/-! ### Fields of words, bit by bit -/

/-- A field is the bits it spans. -/
theorem fld_eq_iff {hi lo : Nat} {v w : Word} :
    fld hi lo v = fld hi lo w ↔ ∀ j, lo ≤ j → j ≤ hi → bit j v = bit j w := by
  constructor
  · intro h j hl hh
    have e := congrArg (fun n => n.testBit (j - lo)) h
    simpa [testBit_fld, show j - lo < hi + 1 - lo by omega, show lo + (j - lo) = j by omega, ← bit_eq] using e
  · intro h
    refine Nat.eq_of_testBit_eq fun j => ?_
    rw [testBit_fld, testBit_fld]
    by_cases hj : j < hi + 1 - lo
    · have e := h (lo + j) (by omega) (by omega)
      rw [bit_eq, bit_eq] at e
      rw [e]
    · simp [hj]

theorem bit_mixBits (m old new : Word) (j : Nat) :
    bit j (mixBits m old new) = if bit j m then bit j new else bit j old := by
  unfold bit mixBits
  rw [BitVec.getLsbD_or, BitVec.getLsbD_and, BitVec.getLsbD_and, BitVec.getLsbD_not]
  by_cases hj : j < 32
  · cases m.getLsbD j <;> simp [hj]
  · simp [BitVec.getLsbD_of_ge _ _ (Nat.le_of_not_lt hj)]

theorem fld_zero_bit {hi lo : Nat} {w : Word} (h : fld hi lo w = 0) {j : Nat} (hl : lo ≤ j) (hh : j ≤ hi) :
    bit j w = false := by
  have h0 : fld hi lo w = fld hi lo 0 := by rw [h]; simp [fld, nfld]
  rw [fld_eq_iff.1 h0 j hl hh]
  simp [bit]

/-- A field that reads alike in both words reads so in any mix of them. -/
theorem fld_mixBits {hi lo : Nat} {old new : Word} (m : Word) (h : fld hi lo new = fld hi lo old) :
    fld hi lo (mixBits m old new) = fld hi lo old := by
  refine fld_eq_iff.2 fun j hl hh => ?_
  rw [bit_mixBits, fld_eq_iff.1 h j hl hh, ite_self]

/-- Clearing bits outside a field leaves it. -/
theorem fld_and_not {hi lo : Nat} {c : Word} (hc : fld hi lo c = 0) (v w : Word) (hh : hi < 32) :
    fld hi lo (v &&& ~~~(c &&& w)) = fld hi lo v := by
  refine fld_eq_iff.2 fun j hl hj => ?_
  have h0 : c.getLsbD j = false := fld_zero_bit hc hl hj
  unfold bit
  rw [BitVec.getLsbD_and, BitVec.getLsbD_not, BitVec.getLsbD_and, h0]
  simp [show j < 32 by omega]

/-! ### Reserved encodings (R8) -/

/-- Two fields share no bit. -/
def Legal.apart (l k : Legal) : Bool := decide (l.hi < k.lo ∨ k.hi < l.lo)

/-- The fields with reserved encodings lie within the word, apart from one another and from the W1C bits. -/
def RegDef.fieldsSound (r : RegDef) : Bool :=
  r.legal.all (fun l => decide (l.lo ≤ l.hi) && decide (l.hi < 32) && decide (fld l.hi l.lo r.w1c = 0)) &&
    decide (r.legal.Pairwise fun l k => l.apart k = true)

theorem Legal.ok_congr {l : Legal} {v w : Word} (h : fld l.hi l.lo v = fld l.hi l.lo w) : l.ok v = l.ok w := by
  unfold Legal.ok; rw [h]

theorem Legal.fld_putFld_apart {l k : Legal} (h : l.apart k = true) (hk : k.lo ≤ k.hi) (hk' : k.hi < 32) (v : Nat)
    (w : Word) : fld l.hi l.lo (putFld k.hi k.lo v w) = fld l.hi l.lo w :=
  fld_putFld_ne v w hk hk' (of_decide_eq_true h)

theorem Legal.apart_comm (l k : Legal) : l.apart k = k.apart l := by
  unfold Legal.apart; exact decide_eq_decide.2 or_comm

/-- Keeping some fields leaves a field apart from them as it was written. -/
theorem fld_keepLegal_apart {l : Legal} (old : Word) {ls : List Legal} (hb : ∀ k ∈ ls, k.lo ≤ k.hi ∧ k.hi < 32)
    (ha : ∀ k ∈ ls, l.apart k = true) (new : Word) : fld l.hi l.lo (keepLegal old ls new).1 = fld l.hi l.lo new := by
  induction ls generalizing new with
  | nil => rfl
  | cons k r ih =>
    have ih := ih (fun k h => hb k (.tail _ h)) (fun k h => ha k (.tail _ h))
    obtain ⟨hk, hk'⟩ := hb k (.head _)
    unfold keepLegal
    split
    · exact ih new
    · exact (ih _).trans (Legal.fld_putFld_apart (ha k (.head _)) hk hk' _ _)

/-- A field given a reserved encoding keeps its old value, and that is noted. -/
theorem keepLegal_reserved {l : Legal} (old : Word) {ls : List Legal} (hb : ∀ k ∈ ls, k.lo ≤ k.hi ∧ k.hi < 32)
    (hp : ls.Pairwise fun l k => l.apart k = true) (hl : l ∈ ls) {new : Word} (hok : l.ok new = false) :
    fld l.hi l.lo (keepLegal old ls new).1 = fld l.hi l.lo old ∧ (keepLegal old ls new).2 = true := by
  induction ls generalizing new with
  | nil => cases hl
  | cons k r ih =>
    obtain ⟨hkr, hpr⟩ := List.pairwise_cons.1 hp
    obtain ⟨hk, hk'⟩ := hb k (.head _)
    have hbr : ∀ k ∈ r, k.lo ≤ k.hi ∧ k.hi < 32 := fun k h => hb k (.tail _ h)
    unfold keepLegal
    rcases List.mem_cons.1 hl with rfl | hlr
    · rw [if_neg (by simp [hok])]
      refine ⟨?_, rfl⟩
      rw [fld_keepLegal_apart old hbr hkr, fld_putFld_same _ _ hk hk']
      exact Nat.mod_mod _ _
    · split
      · exact ih hbr hpr hlr hok
      · have hlk : l.apart k = true := by rw [Legal.apart_comm]; exact hkr l hlr
        have e := Legal.fld_putFld_apart hlk hk hk' (fld k.hi k.lo old) new
        exact ⟨(ih hbr hpr hlr ((Legal.ok_congr e).trans hok)).1, rfl⟩

/-- A write by the field types, locked or not, keeps a field it gives a reserved encoding and asks for BADVAL. -/
theorem writeFields_reserved {r : RegDef} (hr : r.fieldsSound = true) {l : Legal} (hl : l ∈ r.legal) (locked : Bool)
    (old : Word) {data : Word} (hok : l.ok data = false) :
    fld l.hi l.lo (writeFields r locked old data).1 = fld l.hi l.lo old ∧ (writeFields r locked old data).2 = true := by
  simp only [RegDef.fieldsSound, Bool.and_eq_true, List.all_eq_true, decide_eq_true_eq] at hr
  obtain ⟨hb, hp⟩ := hr
  obtain ⟨⟨-, hhi⟩, hw1c⟩ := hb l hl
  obtain ⟨hkeep, hbad⟩ := keepLegal_reserved old (fun k h => (hb k h).1) hp hl hok
  unfold writeFields
  exact ⟨(fld_and_not hw1c _ _ hhi).trans (fld_mixBits _ hkeep), by simp [hbad]⟩

/-! ### The register map -/

theorem findRow_mem {o : Nat} {rows : List (Place × RegDef)} {r : RegDef} (h : findRow o rows = some r) :
    ∃ p, (p, r) ∈ rows ∧ p.has o = true := by
  induction rows with
  | nil => cases h
  | cons e rest ih =>
    obtain ⟨p, d⟩ := e
    unfold findRow at h
    split at h
    · next hp => cases h; exact ⟨p, .head _, hp⟩
    · obtain ⟨q, hq, ho⟩ := ih h
      exact ⟨q, .tail _ hq, ho⟩

theorem blockRows_of_ge {b : Nat} (h : 21 ≤ b) : blockRows b = [] := by
  obtain ⟨k, rfl⟩ := Nat.exists_eq_add_of_le' h
  rfl

/-- A register lies in one of the 21 blocks, in a row of its block. -/
theorem regDef_mem {a : Nat} {r : RegDef} (h : regDef a = some r) :
    a / 65536 < 21 ∧ ∃ p, (p, r) ∈ blockRows (a / 65536) ∧ p.has (a % 65536) = true := by
  obtain ⟨p, hp, ho⟩ := findRow_mem h
  refine ⟨Nat.lt_of_not_le fun hb => ?_, p, hp, ho⟩
  rw [blockRows_of_ge hb] at hp
  cases hp

/-- Of every register of the map: a fact about its 21 tables. -/
theorem blockRows_fieldsSound : ∀ b < 21, ∀ e ∈ blockRows b, e.2.fieldsSound = true := by decide

theorem regDef_fieldsSound {a : Nat} {r : RegDef} (h : regDef a = some r) : r.fieldsSound = true := by
  obtain ⟨hb, p, hp, -⟩ := regDef_mem h
  exact blockRows_fieldsSound _ hb _ hp

/-- A block without BADVAL has no reserved encodings. -/
theorem blockRows_legal_of_no_badval : ∀ b < 21, badvalOf b = none → ∀ e ∈ blockRows b, e.2.legal = [] := by decide

/-- BADVAL is a bit of a register without reserved encodings. -/
theorem badvalOf_statusReg : ∀ b < 21, ∀ p ∈ badvalOf b, p.2 < 32 ∧ ∀ r ∈ regDef p.1, r.legal = [] := by decide

/-- A register with reserved encodings has its BADVAL, in another register. -/
theorem badvalOf_of_legal {a : Nat} {r : RegDef} (h : regDef a = some r) {l : Legal} (hl : l ∈ r.legal) :
    ∃ p, badvalOf (a / 65536) = some p ∧ p.1 ≠ a ∧ p.2 < 32 := by
  obtain ⟨hb, q, hq, -⟩ := regDef_mem h
  cases hp : badvalOf (a / 65536) with
  | none =>
    have e : r.legal = [] := blockRows_legal_of_no_badval _ hb hp _ hq
    rw [e] at hl
    cases hl
  | some p =>
    obtain ⟨hi, hstat⟩ := badvalOf_statusReg _ hb p hp
    refine ⟨p, rfl, fun e => ?_, hi⟩
    rw [hstat r (by rw [e]; exact h)] at hl
    cases hl

/-! ### The generic write -/

theorem State.writeReg_of_undefined (s : State) {a : Nat} (h : regDef a = none) (w : Word) : s.writeReg a w = s := by
  unfold State.writeReg; rw [h]

theorem State.writeReg_of_bad (s : State) {a : Nat} {r : RegDef} (h : regDef a = some r) {w : Word}
    (hbad : (writeFields r (s.lockedAt a) (s.rd a) w).2 = true) :
    s.writeReg a w = (s.wr a (writeFields r (s.lockedAt a) (s.rd a) w).1).badval a := by
  unfold State.writeReg
  rw [h]
  exact if_pos hbad

theorem State.badval_eq_flag (s : State) {a : Nat} {p : Nat × Nat} (h : badvalOf (a / 65536) = some p) :
    s.badval a = s.flag p.1 p.2 := by
  unfold State.badval; rw [h]

theorem State.badvalSet_flag (s : State) {a : Nat} {p : Nat × Nat} (h : badvalOf (a / 65536) = some p) (hp : p.2 < 32) :
    (s.flag p.1 p.2).badvalSet a = true := by
  simp [State.badvalSet, h, State.rb, bit_putBit _ _ hp]

/-- R8, of the generic write: the field keeps its value and BADVAL is set. -/
theorem State.writeReg_reserved (s : State) {a : Nat} {r : RegDef} (h : regDef a = some r) {l : Legal} (hl : l ∈ r.legal)
    {w : Word} (hok : l.ok w = false) :
    fld l.hi l.lo ((s.writeReg a w).rd a) = fld l.hi l.lo (s.rd a) ∧ (s.writeReg a w).badvalSet a = true := by
  obtain ⟨hfld, hbad⟩ := writeFields_reserved (regDef_fieldsSound h) hl (s.lockedAt a) (s.rd a) hok
  obtain ⟨p, hp, hne, hi⟩ := badvalOf_of_legal h hl
  rw [s.writeReg_of_bad h hbad, State.badval_eq_flag _ hp]
  refine ⟨?_, State.badvalSet_flag _ hp hi⟩
  rw [State.rd_flag, if_neg hne.symm, State.rd_wr, if_pos rfl]
  exact hfld

/-- No register lies past the blocks. -/
theorem regDef_of_ge {a : Nat} (h : 0x150000 ≤ a) : regDef a = none := by
  cases hr : regDef a with
  | none => rfl
  | some r => have := (regDef_mem hr).1; omega

/-- CFL's registers lie before its window. -/
theorem rowsCFL_before_window :
    ∀ e ∈ rowsCFL, e.1.stride = 4 ∧ e.1.stride2 = 65536 ∧ e.1.off + 4 * e.1.n ≤ 0x8000 := by decide

/-- No register lies in the window of code flash. -/
theorem regDef_outside_window {a : Nat} {r : RegDef} (h : regDef a = some r) : a < 0x108000 ∨ 0x110000 ≤ a := by
  refine Decidable.byContradiction fun hw => ?_
  have hb : a / 65536 = 16 := by omega
  obtain ⟨-, p, hp, ho⟩ := regDef_mem h
  rw [hb] at hp
  obtain ⟨hstride, hstride2, hend⟩ : p.stride = 4 ∧ p.stride2 = 65536 ∧ p.off + 4 * p.n ≤ 0x8000 :=
    rowsCFL_before_window _ hp
  simp only [Place.has, hstride, hstride2, Bool.and_eq_true, decide_eq_true_eq] at ho
  omega

/-! ### Writes of a word on their way -/

theorem State.refusedAt_of_takesWrite {s : State} {m : Master} {a : Nat} (h : s.takesWrite m a = true) :
    s.refusedAt a = false := by
  simp only [State.takesWrite, Bool.and_eq_true, Bool.not_eq_true'] at h
  obtain ⟨⟨⟨hn, -⟩, -⟩, -⟩ := h
  exact hn

/-- A write of a word that reaches its block arrives there, if the offset is in one. -/
theorem exec_registerStore_word {s : State} {m : Master} {a : Nat} (d : Dword) (h4 : a % 4 = 0)
    (hr : s.reaches m a = true) (hn : s.refusedAt a = false) :
    exec (.registerStore m .bar0 a 4 d) s = .next (if a < 0x150000 then s.busWrite m a (d.setWidth 32) else s) := by
  simp only [State.reaches, Bool.and_eq_true, Bool.not_eq_true'] at hr
  obtain ⟨hup, hwait⟩ := hr
  have hlo : d.extractLsb' 0 32 = d.setWidth 32 := by ext i hi; simp
  have e : s.bar0Write m a 4 d = s.writeAccess m a 4 (d.setWidth 32) := by
    unfold State.bar0Write
    rw [if_pos ⟨h4, rfl⟩, hlo]
    rfl
  show Host.Outcome.next (s.bar0Write m a 4 d) = _
  rw [e]
  unfold State.writeAccess State.writeNow
  by_cases ha : a < 0x150000
  · rw [if_pos ha, if_neg (by simp [hup, ha]), if_neg (by simp [hwait]), if_neg (by simp [hn]), if_pos ⟨rfl, h4⟩]
  · rw [if_neg ha, if_pos (by simp [Nat.le_of_not_lt ha])]

/-! ### Writes that do no more than their field types say -/

theorem ne_of_not_special {a x : Nat} (h : specialRegs.contains a = false) (hx : x ∈ specialRegs) : a ≠ x := by
  rintro rfl
  rw [List.contains_iff_mem.2 hx] at h
  cases h

/-- A register that more is said about is a register. -/
theorem regDef_of_special : ∀ x ∈ specialRegs, (regDef x).isSome = true :=
  List.all_eq_true.1 (by decide)

theorem not_special_of_undefined {a : Nat} (h : regDef a = none) : specialRegs.contains a = false := by
  refine Bool.eq_false_iff.2 fun hc => ?_
  have e := regDef_of_special a (List.contains_iff_mem.1 hc)
  rw [h] at e
  cases e

/-! The arrays of such registers, as the blocks' writes find them. -/

theorem tymcfg_special : ∀ k < 16, 0x070100 + 8 * k ∈ specialRegs := by decide
theorem txTable_special : ∀ k < 48, 0x070400 + 4 * k ∈ specialRegs := by decide
theorem cmp_special : ∀ k < 4, 0x0D0100 + 16 * k ∈ specialRegs := by decide
theorem pwmCfg_special : ∀ k < 12, 0x0D0200 + 16 * k ∈ specialRegs := by decide
theorem pwmDuty_special : ∀ k < 12, 0x0D0204 + 16 * k ∈ specialRegs := by decide
theorem pioOut_special : ∀ k < 36, 0x0D0300 + 4 * k ∈ specialRegs := by decide
theorem gpioCfg_special : ∀ k < 24, 0x0D0400 + 4 * k ∈ specialRegs := by decide
theorem cflSequence_special : ∀ k < 7, 0x100008 + 4 * k ∈ specialRegs := by decide
theorem sctl_special : ∀ k < 16, 0x12100C + 256 * k ∈ specialRegs := by decide

section Ordinary

variable (s : State) (m : Master) (w : Word) {a : Nat} (hs : specialRegs.contains a = false)
include hs

/-- An offset outside an array of special registers: `k` is the index it would have there. -/
theorem not_in_special_array {base stride n : Nat} (harr : ∀ k < n, base + stride * k ∈ specialRegs) (k : Nat)
    (hk : k < n) : a ≠ base + stride * k :=
  ne_of_not_special hs (harr k hk)

/-- The branch of a block's write for a special register is not taken. -/
theorem ite_special {α : Type} {x : Nat} (hx : x ∈ specialRegs) (p q : α) : (if a = x then p else q) = q :=
  if_neg (ne_of_not_special hs hx)

theorem rstWrite_ordinary : s.rstWrite m a w = s.writeReg a w := by
  unfold State.rstWrite
  iterate 2 rw [ite_special hs (by decide)]

theorem macWrite_ordinary : s.macWrite a w = s.writeReg a w := by
  unfold State.macWrite
  iterate 2 rw [ite_special hs (by decide)]

theorem hriWrite_ordinary (hq : a ≠ R.HRI_QCTL ∧ a ≠ R.HRI_QCTH ∨ s.rb R.HRI_CTL 0 = false) :
    s.hriWrite a w = s.writeReg a w := by
  unfold State.hriWrite
  rw [ite_special hs (by decide)]
  refine if_neg ?_
  rintro ⟨ha, he⟩
  rcases hq with ⟨h1, h2⟩ | h
  · exact ha.elim h1 h2
  · rw [h] at he; cases he

theorem rfsWrite_ordinary (h4 : a % 4 = 0) : s.rfsWrite a w = s.writeReg a w := by
  have htym := not_in_special_array hs tymcfg_special ((a - 0x070100) / 8)
  have htab := not_in_special_array hs txTable_special ((a - 0x070400) / 4)
  have hwin : a ≠ R.RFS_WIN := ne_of_not_special hs (by decide)
  unfold State.rfsWrite
  dsimp only
  iterate 4 rw [ite_special hs (by decide)]
  rw [if_neg (by omega), if_neg (by omega)]

theorem pioWrite_ordinary (h4 : a % 4 = 0) : s.pioWrite m a w = s.writeReg a w := by
  have hcmp := not_in_special_array hs cmp_special ((a - 0x0D0100) / 16)
  have hcfg := not_in_special_array hs pwmCfg_special ((a - 0x0D0200) / 16)
  have hduty := not_in_special_array hs pwmDuty_special ((a - 0x0D0204) / 16)
  have hout := not_in_special_array hs pioOut_special ((a - 0x0D0300) / 4)
  have hgpio := not_in_special_array hs gpioCfg_special ((a - 0x0D0400) / 4)
  unfold State.pioWrite
  dsimp only
  rw [ite_special hs (by decide), if_neg (by omega), if_neg (by omega), if_neg (by omega),
    if_neg (by omega), if_neg (by omega), ite_special hs (by decide)]

theorem lehrWrite_ordinary : s.lehrWrite m a w = s.writeReg a w := by
  unfold State.lehrWrite
  iterate 8 rw [ite_special hs (by decide)]

theorem cflBlockWrite_ordinary (hw : a < 0x108000) : s.cflBlockWrite m a w = s.writeReg a w := by
  have hseq := not_in_special_array hs cflSequence_special ((a - 0x100008) / 4)
  unfold State.cflBlockWrite R.CFL_UNLOCK R.CFL_APBASE
  rw [if_neg (by omega), if_neg (by omega), ite_special hs (by decide),
    ite_special hs (by decide)]

theorem pmcBlockWrite_ordinary (hm : s.pmcMayWrite m = true) : s.pmcBlockWrite m a w = s.writeReg a w := by
  have hsctl := not_in_special_array hs sctl_special ((a - 0x12100C) / 256)
  unfold State.pmcBlockWrite
  dsimp only
  rw [if_neg (by simp [hm]), if_neg (by omega)]

/-- CLK holds one register, a special one. -/
theorem regDef_CLK_of_not_special (hb : a / 65536 = 2) : regDef a = none := by
  have hne : a ≠ 0x020040 := ne_of_not_special hs (by decide)
  cases h : regDef a with
  | none => rfl
  | some r =>
    obtain ⟨-, p, hp, ho⟩ := regDef_mem h
    rw [hb] at hp
    cases List.mem_singleton.1 hp
    simp only [Place.has, Bool.and_eq_true, decide_eq_true_eq] at ho
    omega

/-- A write that its block takes, of an offset outside the flash window that is no special register, goes by the field
types alone. -/
theorem busWrite_ordinary (h4 : a % 4 = 0) (hw : a < 0x108000 ∨ 0x110000 ≤ a) (ht : s.takesWrite m a = true) :
    s.busWrite m a w = s.writeReg a w := by
  simp only [State.takesWrite, Bool.and_eq_true, Bool.or_eq_true, Bool.not_eq_true', bne_iff_ne] at ht
  obtain ⟨⟨⟨-, hpmc⟩, hhlt⟩, hhri⟩ := ht
  unfold State.busWrite
  rw [ite_special hs (by decide)]
  unfold State.blockWrite
  split
  next => exact ite_special hs (by decide) ..
  next hb =>
    rw [ite_special hs (by decide), s.writeReg_of_undefined (regDef_CLK_of_not_special hs hb)]
  next => exact rstWrite_ordinary s m w hs
  next => exact hriWrite_ordinary s w hs hhri
  next => exact ite_special hs (by decide) ..
  next => exact ite_special hs (by decide) ..
  next => exact rfsWrite_ordinary s w hs h4
  next => exact ite_special hs (by decide) ..
  next => exact macWrite_ordinary s w hs
  next => exact ite_special hs (by decide) ..
  next => exact pioWrite_ordinary s m w hs h4
  next => exact ite_special hs (by decide) ..
  next => exact lehrWrite_ordinary s m w hs
  next hb => exact cflBlockWrite_ordinary s m w hs (by omega)
  next hb => exact pmcBlockWrite_ordinary s m w hs (hpmc.resolve_left (absurd hb))
  next hb => exact if_pos (hhlt.resolve_left (absurd hb))
  next => exact ite_special hs (by decide) ..
  next => rfl

/-- A write of a word that reaches such an offset and that its block takes. -/
theorem exec_registerStore_ordinary (d : Dword) (h4 : a % 4 = 0) (hw : a < 0x108000 ∨ 0x110000 ≤ a)
    (hr : s.reaches m a = true) (ht : s.takesWrite m a = true) :
    exec (.registerStore m .bar0 a 4 d) s = .next (s.writeReg a (d.setWidth 32)) := by
  rw [exec_registerStore_word d h4 hr (State.refusedAt_of_takesWrite ht)]
  split
  next h => rw [busWrite_ordinary s m _ hs h4 hw ht]
  next h => rw [s.writeReg_of_undefined (regDef_of_ge (Nat.le_of_not_lt h))]

end Ordinary

/-! ### Reads where no register is defined (R5) -/

theorem ne_of_undefined {a x : Nat} (h : regDef a = none) (hx : (regDef x).isSome = true) : a ≠ x := by
  rintro rfl
  rw [h] at hx
  cases hx

/-! The registers of PMC whose reads are more than a register's. -/

theorem regDef_PMC_CYCL : ∀ n < 16, (regDef (0x121000 + 256 * n)).isSome = true := by decide
theorem regDef_PMC_CYCH : ∀ n < 16, (regDef (0x121004 + 256 * n)).isSome = true := by decide
theorem regDef_PMC_CNT : ∀ n < 16, ∀ k < 8, (regDef (0x121030 + 256 * n + 4 * k)).isSome = true := by decide

theorem busRead_PMC (s : State) (m : Master) {a : Nat} (hp : a / 65536 = 18) (ecc : Ecc) :
    s.busRead m a ecc = s.pmcRead m a := by
  unfold State.busRead State.blockRead
  rw [if_neg (by simp [hp])]
  simp only [hp]

section UndefinedRead

variable (s : State) (m : Master) {a : Nat} (h : regDef a = none)
include h

/-- No newt's island keeps anything at an undefined offset outside the sampling buffers. -/
theorem pmcOfIsland_undefined (hw : a < 0x128000 ∨ 0x12C000 ≤ a) (h4 : a % 4 = 0) : pmcOfIsland a = none := by
  have hcycl := fun hn => ne_of_undefined h (regDef_PMC_CYCL ((a - 0x121000) / 256) hn)
  have hcnt := fun hn hk =>
    ne_of_undefined h (regDef_PMC_CNT ((a - 0x121000) / 256) hn ((a - 0x121000) % 256 / 4 - 12) hk)
  unfold pmcOfIsland
  dsimp only
  rw [if_neg (by omega), if_neg (by omega)]

theorem pmcView_undefined (hw : a < 0x128000 ∨ 0x12C000 ≤ a) : s.pmcView m a = none := by
  have hcycl := fun hn => ne_of_undefined h (regDef_PMC_CYCL ((a - 0x121000) / 256) hn)
  have hcych := fun hn => ne_of_undefined h (regDef_PMC_CYCH ((a - 0x121004) / 256) hn)
  unfold State.pmcView
  dsimp only
  rw [if_neg (by omega), if_neg (by omega), if_neg (by omega)]

/-- A read in the PMC window answers 0, and sets UDENY at most (R541). -/
theorem pmcRead_undefined (hw : a < 0x128000 ∨ 0x12C000 ≤ a) (h4 : a % 4 = 0) :
    s.pmcRead m a = (some 0, s) ∨ s.pmcRead m a = (some 0, s.flag R.PMC_STAT 1) := by
  have hcycl := fun hn => ne_of_undefined h (regDef_PMC_CYCL ((a - 0x121000) / 256) hn)
  have hlatch : ¬(0x1000 ≤ a - 0x120000 ∧ a - 0x120000 < 0x2000 ∧ (a - 0x120000) % 256 = 0) := by omega
  have hisland : s.refusedAt a = false := by unfold State.refusedAt; rw [pmcOfIsland_undefined h hw h4]; rfl
  unfold State.pmcRead
  simp only [hisland, pmcView_undefined s m h hw, h, if_neg hlatch, Bool.false_eq_true, if_false, Option.isNone_none,
    if_true, Option.getD_none]
  exact (Classical.em _).elim (fun hdenied => .inr (if_pos hdenied)) fun hmay => .inl (if_neg hmay)

theorem busRead_undefined (hc : a < 0x108000 ∨ 0x110000 ≤ a) (hp : a / 65536 ≠ 18) (ecc : Ecc) :
    s.busRead m a ecc = (some 0, s) := by
  unfold State.busRead
  exact if_pos (by simp [h, hp, hc])

end UndefinedRead

/-! ### The statements -/

/-- Settles O56: a field that would take a reserved encoding is put back by the generic write, whose BADVAL bit stands in
another register; a write of a register that is not special is the generic one. -/
theorem reservedEncodingsAreIgnored : Obligations.ReservedEncodingsAreIgnored := by
  intro s
  refine ⟨fun m a d r l hdef h4 hs hr ht hl hok => ?_, fun a w r l hdef hl hok => s.writeReg_reserved hdef hl hok⟩
  obtain ⟨hkept, hbad⟩ := s.writeReg_reserved hdef hl hok
  exact ⟨_, exec_registerStore_ordinary s m hs d h4 (regDef_outside_window hdef) hr ht, hbad, hkept⟩

/-- Settles O57: no special register lies at an undefined offset, so a write there is the generic one, which ignores it;
a read is answered 0 before its block is asked, and in the PMC window no newt's island keeps the offset. -/
theorem undefinedOffsetsReadZeroAndIgnoreWrites : Obligations.UndefinedOffsetsReadZeroAndIgnoreWrites := by
  intro s
  refine ⟨fun m a d hr h4 hdef hw _ ht => ?_, fun m a ecc hdef h4 hc hp => ?_⟩
  · refine ⟨_, exec_registerStore_ordinary s m (not_special_of_undefined hdef) d h4 hw hr ht, ?_⟩
    exact s.writeReg_of_undefined hdef _
  · by_cases hb : a / 65536 = 18
    · rw [busRead_PMC s m hb ecc]
      rcases pmcRead_undefined s m hdef hp h4 with e | e <;> rw [e]
      · exact ⟨rfl, fun hn => absurd hb hn, rfl⟩
      · exact ⟨rfl, fun hn => absurd hb hn, State.flag_link ..⟩
    · rw [busRead_undefined s m hdef hc hb]
      exact ⟨rfl, fun _ => rfl, rfl⟩

end Sys2Proof.Machine

/-! Doorbell writes in BAR2 (R104, R108): which operation of its ring one is, and when that operation leaves the ring
as it was. -/

namespace Sys2Proof.Machine

/-! ### A doorbell write on its way to its ring (R104) -/

section Bar2

variable (s : State) {off size : Nat} {d : Dword}

/-- A doorbell of a ring is below the context-invalidate doorbell, so no context entries are read. -/
theorem State.doorbell_of_ring {o v : Nat} (h : doorbellAt off size d = some (o, v)) (ho : o < 592) :
    s.doorbell off size (some d) =
      if s.bar2Up then (if o / 8 % 2 = 0 then s.submit (o / 8 / 2) v else s.consume (o / 8 / 2) v) else s := by
  have hctx : o ≠ 0x1000 := by omega
  have hring : ¬74 ≤ o / 8 := by omega
  cases hb : s.bar2Up <;> simp [State.doorbell, State.bar2Access, h, hb, hctx, hring]

variable {q : Fin 37} {v : Nat}

/-- Ring 2q is the submission ring of queue q. -/
theorem exec_submissionBell (h : doorbellAt off size d = some (16 * q.val, v)) :
    exec (.submissionBell off size (some d)) s = .next (if s.bar2Up then s.submit q.val v else s) := by
  have hring : 16 * q.val / 8 % 2 = 0 := by omega
  have hqueue : 16 * q.val / 8 / 2 = q.val := by omega
  have hbell := s.doorbell_of_ring h (by omega)
  rw [if_pos hring, hqueue] at hbell
  exact congrArg Host.Outcome.next hbell

/-- Ring 2q + 1 is the device-written ring of queue q. -/
theorem exec_completionBell (h : doorbellAt off size d = some (16 * q.val + 8, v)) :
    exec (.completionBell off size (some d)) s = .next (if s.bar2Up then s.consume q.val v else s) := by
  have hring : (16 * q.val + 8) / 8 % 2 ≠ 0 := by omega
  have hqueue : (16 * q.val + 8) / 8 / 2 = q.val := by omega
  have hbell := s.doorbell_of_ring h (by omega)
  rw [if_neg hring, hqueue] at hbell
  exact congrArg Host.Outcome.next hbell

end Bar2

/-! ### Stray doorbells (R108) -/

section Stray

variable {s : State}

theorem State.strayDoorbell_first (h : s.rb R.HRI_STAT 4 = false) (ring value : Nat) :
    s.strayDoorbell ring value = (s.flag R.HRI_STAT 4).post 6 1 ring (value % 2 ^ 32) :=
  if_neg (ne_true_of_eq_false h)

theorem State.strayDoorbell_again (h : s.rb R.HRI_STAT 4 = true) (ring value : Nat) : s.strayDoorbell ring value = s :=
  if_pos h

/-- A submission doorbell with an index of N or more, or of a queue that does not exist or has no such ring (R104). -/
theorem State.submit_stray {n value : Nat}
    (h : n = 34 ∨ n = 35 ∨ (s.q n).exists' = false ∨ (s.q n).sqsize ≤ value % 65536) :
    s.submit n value = s.strayDoorbell (2 * n) value :=
  if_pos (by simpa using h)

/-- A head of N or more, of a queue that does not exist, or past what the device has written. -/
theorem State.consume_stray {n value : Nat}
    (h : (s.q n).exists' = false ∨ (s.q n).cqsize ≤ value % 65536 ∨
      (s.q n).used < (value % 65536 + (s.q n).cqsize - (s.q n).cqhead) % (s.q n).cqsize) :
    s.consume n value = s.strayDoorbell (2 * n + 1) value :=
  if_pos (by simpa using h)

end Stray

/-! ### Doorbells that repeat the index (R108, R130) -/

section Repeated

variable {s : State} {n value : Nat}

theorem State.submit_repeated (hex : (s.q n).exists' = true) (h34 : n ≠ 34) (h35 : n ≠ 35)
    (hlt : value % 65536 < (s.q n).sqsize) (hrep : value % 65536 = (s.q n).sqtail)
    (hst : n ≠ 0 ∨ (s.q n).stuck = false) : s.submit n value = s := by
  have hgood : ¬(n = 34 ∨ n = 35 ∨ (!(s.q n).exists') = true ∨ (s.q n).sqsize ≤ value % 65536) := by
    simp [hex, h34, h35, hlt]
  have hsame : value % 65536 = (s.q n).sqtail ∧ (!(n == 0 && (s.q n).stuck)) = true := by
    rcases hst with h | h <;> simp [hrep, h]
  exact (if_neg hgood).trans (if_pos hsame)

/-- A repeated head releases no entry: it is never past what the device has written. -/
theorem State.consume_repeated (hex : (s.q n).exists' = true) (hlt : value % 65536 < (s.q n).cqsize)
    (hrep : value % 65536 = (s.q n).cqhead) : s.consume n value = s := by
  have hnone : (value % 65536 + (s.q n).cqsize - (s.q n).cqhead) % (s.q n).cqsize = 0 := by
    rw [← hrep, Nat.add_sub_cancel_left, Nat.mod_self]
  have hgood : ¬((!(s.q n).exists') = true ∨ (s.q n).cqsize ≤ value % 65536 ∨
      (s.q n).used < (value % 65536 + (s.q n).cqsize - (s.q n).cqhead) % (s.q n).cqsize) := by
    simp [hex, hlt, hnone]
  exact (if_neg hgood).trans (if_pos hrep)

end Repeated

/-! ### The statement -/

/-- Settles O58: each doorbell write is the operation of its ring, which is the stray one under R108's conditions and
leaves the state where the index repeats; while BAR2 is out of the host's reach the write changes nothing. -/
theorem strayAndRepeatedDoorbells : Obligations.StrayAndRepeatedDoorbells := by
  intro s
  refine ⟨fun off size d q v hat hup hstray hbad => ?_, fun off size d q v hat hstray hbad => ?_,
    fun off size d q v hat hup hstray hbad => ?_, fun off size d q v hat hstray hbad => ?_,
    fun off size d q v hat hex h34 h35 hlt hrep hst => ?_, fun off size d q v hat hex hlt hrep => ?_⟩
  · exact ⟨_, exec_submissionBell s hat, by rw [if_pos hup, State.submit_stray hstray, State.strayDoorbell_first hbad]⟩
  · exact ⟨_, exec_submissionBell s hat, by rw [State.submit_stray hstray, State.strayDoorbell_again hbad, ite_self]⟩
  · exact ⟨_, exec_completionBell s hat, by rw [if_pos hup, State.consume_stray hstray, State.strayDoorbell_first hbad]⟩
  · exact ⟨_, exec_completionBell s hat, by rw [State.consume_stray hstray, State.strayDoorbell_again hbad, ite_self]⟩
  · exact ⟨_, exec_submissionBell s hat, by rw [State.submit_repeated hex h34 h35 hlt hrep hst, ite_self]⟩
  · exact ⟨_, exec_completionBell s hat, by rw [State.consume_repeated hex hlt hrep, ite_self]⟩

end Sys2Proof.Machine

/-! Words past the end of instruction memory (R388), in a state that keeps a move to a newt the device does not have. -/

namespace Sys2Proof.Machine

section RunningNewt

variable {s : State} {n : Fin 16} (hrun : s.run n.val = 0) (hup : s.d0up = true) (hgate : s.newtGated n.val = false)
include hrun hup hgate

/-- A running newt of a powered island executes its word. -/
theorem exec_newtWordExecute_running (stall : Nat) (sram : SramRead) :
    exec (.newtWordExecute n stall sram) s = .next (s.word n.val stall sram) :=
  congrArg Host.Outcome.next (if_pos ⟨hrun, hup, by simp [hgate]⟩)

/-- Whatever is claimed of its completion is claimed of the state the word leaves. -/
theorem of_answers_newtWordExecute {stall : Nat} {sram : SramRead} {p : State → Prop}
    (h : Answers (.newtWordExecute n stall sram) s p) : p (s.word n.val stall sram) := by
  obtain ⟨t, hexec, hp⟩ := h
  rw [exec_newtWordExecute_running hrun hup hgate] at hexec
  cases hexec
  exact hp

end RunningNewt

/-- Refutes O59, by its last clause. `Move.target` is any number, and NWT_CSTn and NWT_FPCn take n modulo 16. In the
state below newt 3, due past 0xFFF0, is the source of a move to "newt 19": its fault commits the move (R412), which
starts newt 19 (R410) and so gives NWT_CST3 and NWT_FPC3 back the values of a newt just started, 0, over cause and
address. Such a target is not in the part (its newts are 0 to 15, and the checks of R408 leave no other), but the
statement is about every state and does not shut it out. -/
theorem not_branchTargetsAreChecked : ¬ Obligations.BranchTargetsAreChecked := by
  intro hclaim
  obtain ⟨-, -, hpast⟩ := hclaim
    { power := { phase := .run, d0run := true }
      regs := [(R.NWT_CST 3, 0)]
      newts := [(3, { pc := 0x10000 }),
        (19, { image := some { keyidx := 0, process := false, roles := 1, timask := 0 } })]
      roles := { move := some {
        role := 0, source := 3, target := 19, persist := false, takeover := false, cause := 0, fresh := true } } }
  have hfault := of_answers_newtWordExecute (by decide) (by decide) (by decide)
    (hpast 3 0 0 (by decide) (by decide) (by decide) (by decide) (by decide))
  have hlost : (0, 0, 0, 0) = (4, 4, 0, 0xFFF0) := Eq.trans (show (0, 0, 0, 0) = _ by decide +kernel) hfault
  exact absurd hlost (by decide)

end Sys2Proof.Machine

/-! A load past every block (R383, R563), in a state that keeps a move to a newt the device does not have. -/

namespace Sys2Proof.Machine

/-- Refutes O60, by its newt clause. In the state below newt 3 loads from 0x4015_0009 while it is the source of a move to
"newt 19" (`Move.target` is any number): its fault commits the move (R412), which starts newt 19 (R410). NWT_CSTn takes n
modulo 16, so that start puts NWT_CST3 back to 0, and RUN does not read FAULT, nor CAUSE BUSERR. Such a target is not in
the part (its newts are 0 to 15, and the checks of R408 leave no other), but the statement is about every state and does
not shut it out. -/
theorem not_offsetsOutsideEveryBlock : ¬ Obligations.OffsetsOutsideEveryBlock := by
  intro hclaim
  obtain ⟨-, -, hnewt, -⟩ := hclaim
    { power := { phase := .run, d0run := true }
      regs := [(R.NWT_CST 3, 0)]
      newts := [
        (3, { imem := [(0, 0xFFE00000FFE00000FFE0000044200009)], ports := [(0x100, 0x40150000)] }),
        (19, { image := some { keyidx := 0, process := false, roles := 1, timask := 0 } })]
      roles := { move := some {
        role := 0, source := 3, target := 19, persist := false, takeover := false, cause := 0, fresh := true } } }
  have hfault := of_answers_newtWordExecute (by decide) (by decide) (by decide)
    (hnewt 3 0 0 0xFFE00000FFE00000FFE0000044200009 { slot := 0, dst := 0x110, src := .val 9 } none
      (by decide) (by decide) (by decide) (by decide) (by decide) (by decide) (by decide))
  obtain ⟨hcause, -⟩ := hfault
  have hlost : (0, 0, 0, 0) = (4, 3, 0, 0) := Eq.trans (show (0, 0, 0, 0) = _ by decide +kernel) hcause
  exact absurd hlost (by decide)

end Sys2Proof.Machine
